-- ==== Sys2Proof/Word.lean ====
section
/-! DEFINITION. The words the cube computes on, and the plain list types that hold its sparse tables. -/

namespace Sys2Proof

/-- One byte (R2). -/
abbrev Byte := BitVec 8

/-- A general register, a control register, a PC (R139, R142). -/
abbrev Word := BitVec 64

/-- A vector register, 512 bits (R191). -/
abbrev Vec := BitVec 512

/-- One 128-byte line of global memory (R84, R92). -/
abbrev Line := BitVec 1024

/-- A sparse table: what is not listed holds the default named where the table is read. -/
abbrev Map (α : Type) := List (Nat × α)

/-- One Zhevzen packet with its header fields taken apart (R374). -/
structure Packet where
  dcube   : BitVec 8
  scube   : BitVec 8
  cls     : BitVec 2
  kind    : BitVec 4
  flits   : BitVec 4
  grp     : BitVec 6
  e2e     : BitVec 16
  pa      : BitVec 52
  pois    : Bool
  chk     : Bool
  payload : List Byte
  deriving DecidableEq, Repr

/-- Where a soft error strikes (R350). -/
inductive SoftSite where
  /-- a word of a vault: core and byte offset -/
  | vaultWord (core offset : Nat)
  /-- an instruction-cache block of a core -/
  | icache (core : Nat) (block : Nat)
  /-- a backing line or register-cache line of a context -/
  | backing (tid : Nat)
  /-- a message slot of a core: queue and slot -/
  | message (core queue slot : Nat)
  /-- a clean line of a field's slice: line number -/
  | l2clean (field line : Nat)
  /-- a dirty line of a field's slice -/
  | l2dirty (field line : Nat)
  /-- a line of DRAM past its own ECC, named by its storage location divided by 128 -/
  | dram (line : Nat)
  /-- the array state of a context -/
  | array (tid : Nat)
  deriving DecidableEq, Repr

/-- A register of a context as the scan path names it (R352). -/
inductive ScanReg where
  /-- `xN` of the present window, and slot n of the window stack -/
  | x (n : Nat) | xSlot (n : Nat) | v (n : Nat) | a (n : Nat) | d (n : Nat) | e (n : Nat) | k (n : Nat)
  | fpst | pred | bfmt (n : Nat) | mhnd | wbase | pc | level
  | tcause | tval | tepc | tstat | tscr
  | loopStart (n : Nat) | loopEnd (n : Nat) | loopRem (n : Nat) | loopLevel (n : Nat) | loopDepth
  | acc (row : Nat) | kcount (row : Nat)
  /-- the B buffer: the mantissas of a column, the exponents; then its width, its valid bit and the drain marks -/
  | bCol (n : Nat) | bExp | arrayStatus
  /-- entry n of the array queue: word 0 its kind and fields, word 1 its address and who receives its flags, word
  i + 2 its element i; kind 0 is no entry -/
  | arrQueue (n word : Nat)
  deriving DecidableEq, Repr

/-- What one scan access names (R352). -/
inductive ScanSel where
  | ctx (tid : Nat) (r : ScanReg)
  | vault (core offset : Nat)
  | lpmap (tid page : Nat)
  /-- words 0 to 15 of a message; 16 is its state, length and sender, 17 its order, 18 the request and 19 the
  producer that the slot is held for -/
  | message (core queue slot word : Nat)
  /-- word 0 names the copy or the query of an entry and counts its ranges, its bit 7 says that it is in use; word
  n + 1 is range n -/
  | scoreboard (core entry word : Nat)
  /-- word 0 is the data of an entry, 1 and 2 its physical address and the one named, 3 its mask, 4 the rest;
  bit 7 of word 4 says that it is in use -/
  | storeLog (core entry word : Nat)
  | trapQueue (field slot word : Nat)
  /-- TQVALID of a field -/
  | trapValid (field : Nat)
  | record (stack slot word : Nat)
  | physicalRow (core : Nat)
  deriving DecidableEq, Repr

/-- A task as the hubs keep it: the 64-byte record of R24 as eight words, and what the
launch adds to it. -/
structure Task where
  words    : List Word
  lid      : Nat
  stage    : Nat
  /-- {stage core count, stage index} and the channel words, for a stage task (R26, R35) -/
  stageX4  : Word
  stageX5  : Word
  stageX6  : Word
  staged   : Bool
  /-- restartable: RST AND the launch's RST (R269) -/
  rst      : Bool
  /-- effective priority, min(PRI, launch priority) (R25) -/
  pri      : Nat
  /-- retries taken so far (R347) -/
  retries  : Nat
  /-- the queue whose message this activation handles (R30) -/
  handler  : Option Nat
  /-- names a fixed activation, so that retained tenures can be rebound (R108) -/
  retained : List (BitVec 64 × Bool × Nat)
  deriving DecidableEq, Repr

end Sys2Proof
end

