-- ==== Sys2Proof/Config.lean ====
section
/-! DEFINITION. What the manual leaves open: constants without a body, applied to a counter of
the state (State.free) or to what they depend on. Nothing in Lean can evaluate them. -/

namespace Sys2Proof.Config

open Sys2Proof

/-- Which of the offered events the schedule takes next (R17 to R19, R124: no order is promised
beyond the rules). -/
opaque pick : Nat → Nat

/-- How many cycles of the fixed 2.0 GHz clock pass before the next event (R19). -/
opaque elapse : Nat → Nat

/-- How much a thread's bank-conflict, cycle and lookahead-wait counters rise (R79, R182). -/
opaque count : Nat → Nat

/-- A free choice among equally allowed ones: frames (R75), replacement (R84, R330). -/
opaque choice : Nat → Nat

/-- A value the manual states no number for. -/
opaque freeWord : Nat → Word

/-- Fuses (R9, R394): for a physical column, the row of the 33 left unused; the key hash;
the 48-byte identity seed; whether a field's spare map passes its check. -/
opaque spareRow : Nat → Nat
opaque keyHash : Nat → Byte
opaque seed : Nat → Byte
opaque spareMapOk : Nat → Bool
opaque fusedRollback : Nat

/-- The boot flash (R396): bytes of image slot 0 and 1. -/
opaque flash : Nat → Nat → Byte
/-- Where the fields that R396 names stand in a header: byte offsets of the rollback index (0), the
length (1), the entry offset (2), the SHA-256 of the body (3) and the public key (4), the size of the
header (5), and the physical address to which the ROM copies the body (6). -/
opaque headerLayout : Nat → Nat

/-- SLH-DSA-SHA2-128s (FIPS 205): verification under a public key, the key pair of a seed,
and signing (R396, R397). -/
opaque slhVerify : List Byte → List Byte → List Byte → Bool
opaque slhPublicKey : List Byte → BitVec 256
opaque slhSign : List Byte → List Byte → BitVec 62848

/-- Whether the harts set the A and D bits of a page-table entry themselves, or raise a page fault
(RISC-V privileged architecture, R365). -/
opaque hartSetsAD : Bool

/-- The interrupt file at a physical address, 16 × hart + file, if one stands there (R366, R373). -/
opaque imsicAt : Nat → Option Nat

/-- Whether a Zhevzen link's training ends now (R375): a counter, the link; whether it comes up, and the neighbour's
CUBEID. -/
opaque linkTrains : Nat → Nat → Option (Bool × BitVec 8)

/-- Translation of an inbound PCIe address by the IOMMU (R373): a counter, address, 0 read 1 write. -/
opaque iommu : Nat → Word → Nat → Option Word

/-- Whether a copy of a line or a frame is replaced now (R84, R71). -/
opaque evict : Nat → Bool

end Sys2Proof.Config
end

