-- ==== Sys2Proof/Syntax.lean ====
section
/-! DEFINITION. The steps of the part: one constructor of Instr for each row of the table of
operations (spec/opcode_table.json). A thread instruction carries the fields of its 96-bit
word, a capability instruction of the Zenith complex its three register numbers, and a
hardware step the names of what it acts on. -/

namespace Sys2Proof

/-- The fields of a 96-bit instruction word other than OP (R137). -/
structure Fields where
  guard : BitVec 4
  la    : BitVec 4
  dst   : BitVec 8
  sa    : BitVec 8
  sb    : BitVec 8
  ty    : BitVec 4
  mod   : BitVec 8
  hint  : BitVec 4
  sub   : BitVec 8
  imm   : BitVec 32
  deriving DecidableEq, Repr

/-- The three register numbers of a capability instruction (R368). -/
structure ZFields where
  rd  : BitVec 5
  rs1 : BitVec 5
  rs2 : BitVec 5
  deriving DecidableEq, Repr

/-- The steps of the part, one constructor per row of the table of operations: thread
instructions, capability instructions, hardware steps. -/
inductive Instr where
  /-- ADD (R164). Adds two values of TYPE, wrapping or saturating for integers and rounding for floating point. -/
  | add (f : Fields)
  /-- SUB (R164). Subtracts operand B from operand A under TYPE. -/
  | sub (f : Fields)
  /-- MUL (R164). Multiplies two values under TYPE. -/
  | mul (f : Fields)
  /-- MULH (R164). Writes the high half of the exact 2N-bit integer product. -/
  | mulh (f : Fields)
  /-- DIV (R164). Long-latency division, with an all-ones result on integer division by zero. -/
  | div (f : Fields)
  /-- REM (R164). Long-latency remainder; IEEE remainder for floating-point TYPE. -/
  | rem (f : Fields)
  /-- MIN (R164). Writes the lesser operand, with −0 ordered below +0. -/
  | min (f : Fields)
  /-- MAX (R164). Writes the greater operand. -/
  | max (f : Fields)
  /-- AND (R164). Bitwise AND of two integers. -/
  | and (f : Fields)
  /-- OR (R164). Bitwise OR of two integers. -/
  | or (f : Fields)
  /-- XOR (R164). Bitwise XOR of two integers. -/
  | xor (f : Fields)
  /-- ANDN (R164). Writes A AND NOT B. -/
  | andn (f : Fields)
  /-- ORN (R164). Writes A OR NOT B. -/
  | orn (f : Fields)
  /-- SHL (R164). Shifts left, optionally saturating. -/
  | shl (f : Fields)
  /-- SHR (R164). Logical shift right. -/
  | shr (f : Fields)
  /-- SHA (R164). Arithmetic shift right. -/
  | sha (f : Fields)
  /-- ROL (R164). Rotates left within N bits. -/
  | rol (f : Fields)
  /-- NEG (R166). Negates an integer, or inverts the sign bit of a floating-point value. -/
  | neg (f : Fields)
  /-- ABS (R166). Absolute value, or clears the sign bit of a floating-point value. -/
  | abs (f : Fields)
  /-- NOT (R166). Bitwise NOT of N bits. -/
  | not (f : Fields)
  /-- CLZ (R166). Counts leading zero bits. -/
  | clz (f : Fields)
  /-- CTZ (R166). Counts trailing zero bits. -/
  | ctz (f : Fields)
  /-- POPC (R166). Counts one bits. -/
  | popc (f : Fields)
  /-- BREV (R166). Reverses the N bits of the operand. -/
  | brev (f : Fields)
  /-- BFX (R167). Extracts a bit field selected by pos and len. -/
  | bfx (f : Fields)
  /-- BFI (R167). Inserts a bit field into the destination, which it also reads. -/
  | bfi (f : Fields)
  /-- SEXT (R168). Sign-extends from bit m − 1. -/
  | sext (f : Fields)
  /-- ZEXT (R168). Zero-extends from bit m − 1. -/
  | zext (f : Fields)
  /-- MOV (R169). Copies N bits without reading them as a number. -/
  | mov (f : Fields)
  /-- MOVI (R170). Writes IMM into bits [31:0] of the destination and keeps bits [63:32]. -/
  | movi (f : Fields)
  /-- MOVH (R170). Writes IMM into bits [63:32] of the destination and keeps bits [31:0]. -/
  | movh (f : Fields)
  /-- SEL (R171). Writes A when C is non-zero, and B otherwise. -/
  | sel (f : Fields)
  /-- CMP (R172). Compares under condition cc and writes a truth value. -/
  | cmp (f : Fields)
  /-- TEST (R172). Tests the bitwise AND of two operands for zero or non-zero. -/
  | test (f : Fields)
  /-- FMA (R173). Fused multiply-add with a single rounding. -/
  | fma (f : Fields)
  /-- SQRT (R174). Long-latency rounded square root. -/
  | sqrt (f : Fields)
  /-- CVT (R175). Converts a value from source type S to TYPE. -/
  | cvt (f : Fields)
  /-- CLASS (R176). Writes a one-hot word that classifies a floating-point value. -/
  | fclass (f : Fields)
  /-- RNDI (R177). Rounds to an integral value in the same format. -/
  | rndi (f : Fields)
  /-- MOVS_READ (R178). Reads a whole thread state register. -/
  | movsRead (f : Fields)
  /-- MOVS_WRITE (R178). Writes a whole thread state register, faulting on refused values. -/
  | movsWrite (f : Fields)
  /-- AMOV (R181). Sets address register aK and its stride dK. -/
  | amov (f : Fields)
  /-- ASTR (R181). Sets stride dK to a value scaled by the TYPE size. -/
  | astr (f : Fields)
  /-- AADV (R181). Advances aK by a value times its stride. -/
  | aadv (f : Fields)
  /-- LEA (R181). Computes a + b × TYPE size. -/
  | lea (f : Fields)
  /-- PAND (R182). Writes the AND of two predicates. -/
  | pand (f : Fields)
  /-- POR (R182). Writes the OR of two predicates. -/
  | por (f : Fields)
  /-- PXOR (R182). Writes the XOR of two predicates. -/
  | pxor (f : Fields)
  /-- PNOT (R182). Writes the negation of a predicate. -/
  | pnot (f : Fields)
  /-- PMOV (R182). Sets a predicate from whether a value is non-zero. -/
  | pmov (f : Fields)
  /-- BR (R183). Branches by a signed instruction offset. -/
  | br (f : Fields)
  /-- BRX (R183). Branches to a register target. -/
  | brx (f : Fields)
  /-- CALL (R184). Moves the register window by F − 8, writes the link and branches by an offset. -/
  | call (f : Fields)
  /-- CALLX (R184). Moves the register window, writes the link and branches to a register target. -/
  | callx (f : Fields)
  /-- RET (R185). Moves the window back by F − 8 and jumps to the link. -/
  | ret (f : Fields)
  /-- LOOP (R186). Pushes a hardware loop with an immediate count, or skips the body when the count is 0. -/
  | loop (f : Fields)
  /-- LOOPX (R186). Pushes a hardware loop whose count comes from a register. -/
  | loopx (f : Fields)
  /-- NOP (R190). Issues with no effect. -/
  | nop (f : Fields)
  /-- YIELD (R190). Waits as WAITL does, then gives the issue slot to an eligible ready context. -/
  | yield (f : Fields)
  /-- WAITL (R190). Waits until every long-latency instruction of the thread has landed. -/
  | waitl (f : Fields)
  /-- VADD (R195). Lane-wise add. -/
  | vadd (f : Fields)
  /-- VSUB (R195). Lane-wise subtract. -/
  | vsub (f : Fields)
  /-- VMUL (R195). Lane-wise multiply. -/
  | vmul (f : Fields)
  /-- VFMA (R195). Lane-wise fused multiply-add. -/
  | vfma (f : Fields)
  /-- VMIN (R195). Lane-wise minimum. -/
  | vmin (f : Fields)
  /-- VMAX (R195). Lane-wise maximum. -/
  | vmax (f : Fields)
  /-- VDIV (R195). Long-latency lane-wise floating-point division. -/
  | vdiv (f : Fields)
  /-- VAND (R195). Lane-wise AND. -/
  | vand (f : Fields)
  /-- VOR (R195). Lane-wise OR. -/
  | vor (f : Fields)
  /-- VXOR (R195). Lane-wise XOR. -/
  | vxor (f : Fields)
  /-- VSHL (R195). Lane-wise shift left. -/
  | vshl (f : Fields)
  /-- VSHR (R195). Lane-wise logical shift right. -/
  | vshr (f : Fields)
  /-- VSHA (R195). Lane-wise arithmetic shift right. -/
  | vsha (f : Fields)
  /-- VDOT (R196). Accumulates short dot products into 32-bit lanes. -/
  | vdot (f : Fields)
  /-- VABS (R195). Lane-wise absolute value. -/
  | vabs (f : Fields)
  /-- VNEG (R195). Lane-wise negation. -/
  | vneg (f : Fields)
  /-- VSQRT (R195). Long-latency lane-wise square root. -/
  | vsqrt (f : Fields)
  /-- VRCP (R197). Long-latency bit-exact reciprocal approximation. -/
  | vrcp (f : Fields)
  /-- VRSQ (R197). Long-latency bit-exact reciprocal square-root approximation. -/
  | vrsq (f : Fields)
  /-- VEXP2 (R197). Long-latency bit-exact power-of-two approximation. -/
  | vexp2 (f : Fields)
  /-- VCMP (R199). Compares lanes and writes a lane-enable register. -/
  | vcmp (f : Fields)
  /-- VSEL (R200). Selects lanes from A or B under a mask. -/
  | vsel (f : Fields)
  /-- VMASK_AND (R201). Writes eA AND eB. -/
  | vmaskAnd (f : Fields)
  /-- VMASK_OR (R201). Writes eA OR eB. -/
  | vmaskOr (f : Fields)
  /-- VMASK_XOR (R201). Writes eA XOR eB. -/
  | vmaskXor (f : Fields)
  /-- VMASK_ANDN (R201). Writes eA AND NOT eB. -/
  | vmaskAndn (f : Fields)
  /-- VMASK_NOT (R201). Writes NOT eA. -/
  | vmaskNot (f : Fields)
  /-- VMASK_SET (R201). Sets a lane-enable register from a 64-bit value. -/
  | vmaskSet (f : Fields)
  /-- VMASK_GET (R201). Reads a lane-enable register as n64. -/
  | vmaskGet (f : Fields)
  /-- VIOTA (R202). Writes a plus the rank of each enabled lane among the enabled lanes. -/
  | viota (f : Fields)
  /-- VMOV (R203). Copies lanes. -/
  | vmov (f : Fields)
  /-- VBCAST (R203). Broadcasts a scalar to every lane. -/
  | vbcast (f : Fields)
  /-- VEXT (R203). Extracts one lane to a scalar. -/
  | vext (f : Fields)
  /-- VINS (R203). Inserts a scalar into one lane. -/
  | vins (f : Fields)
  /-- VSHUF (R203). Shuffles lanes of two sources by an index vector. -/
  | vshuf (f : Fields)
  /-- VROT (R203). Rotates lanes. -/
  | vrot (f : Fields)
  /-- VREDS (R204). Sums the lanes in the fixed pairwise tree. -/
  | vreds (f : Fields)
  /-- VREDM_MIN (R204). Reduces the lanes by MIN in the tree. -/
  | vredmMin (f : Fields)
  /-- VREDM_MAX (R204). Reduces the lanes by MAX in the tree. -/
  | vredmMax (f : Fields)
  /-- VSCAN (R205). Writes inclusive running sums in ascending lane order. -/
  | vscan (f : Fields)
  /-- VCVT (R206). Converts lanes between two types of equal width. -/
  | vcvt (f : Fields)
  /-- VWIDN (R207). Widens one half of the source lanes. -/
  | vwidn (f : Fields)
  /-- VNARR (R208). Narrows lanes with a rounding shift into one half of the destination. -/
  | vnarr (f : Fields)
  /-- VQNT (R209). Quantises 32 elements into a block in the local vault. -/
  | vqnt (f : Fields)
  /-- VDQT (R210). Dequantises a local block into vector lanes. -/
  | vdqt (f : Fields)
  /-- VSPRS (R211). Keeps the two top-ranked elements of each group of four, with their indices. -/
  | vsprs (f : Fields)
  /-- VXPND (R212). Expands sparse-compressed elements back to their lanes. -/
  | vxpnd (f : Fields)
  /-- LD (R217). Loads a value of TYPE width; long-latency under .g or .m. -/
  | ld (f : Fields)
  /-- ST (R217). Stores the low N bits of a value. -/
  | st (f : Fields)
  /-- LDV (R219). Loads 64 bytes into a vector, or decodes a block under .k. -/
  | ldv (f : Fields)
  /-- STV (R219). Stores 64 bytes from a vector, or encodes a block under .k. -/
  | stv (f : Fields)
  /-- VLDS (R220). Strided vector load. -/
  | vlds (f : Fields)
  /-- VSTS (R220). Strided vector store. -/
  | vsts (f : Fields)
  /-- VGATH (R221). Gathers elements by per-lane index. -/
  | vgath (f : Fields)
  /-- VSCAT (R221). Scatters elements by per-lane index in ascending lane order. -/
  | vscat (f : Fields)
  /-- PREF (R222). Asks the slice to prefetch a line; never faults. -/
  | pref (f : Fields)
  /-- WBK (R223). Writes dirty lines of a range in the own slice to DRAM. -/
  | wbk (f : Fields)
  /-- INVL (R223). Writes back dirty lines of a range in the own slice and invalidates them. -/
  | invl (f : Fields)
  /-- FENCE (R129). Orders earlier and later accesses at a scope and invalidates stream copies on acquire. -/
  | fence (f : Fields)
  /-- ATADD (R226). Atomic add at home, returning the old value. -/
  | atadd (f : Fields)
  /-- ATSUB (R226). Atomic subtract. -/
  | atsub (f : Fields)
  /-- ATMIN (R226). Atomic minimum. -/
  | atmin (f : Fields)
  /-- ATMAX (R226). Atomic maximum. -/
  | atmax (f : Fields)
  /-- ATAND (R226). Atomic AND. -/
  | atand (f : Fields)
  /-- ATOR (R226). Atomic OR. -/
  | ator (f : Fields)
  /-- ATXOR (R226). Atomic XOR. -/
  | atxor (f : Fields)
  /-- ATSWP (R226). Atomic swap. -/
  | atswp (f : Fields)
  /-- ATCAS (R227). Atomic bitwise compare-and-swap. -/
  | atcas (f : Fields)
  /-- ATFADD (R227). Atomic floating-point add in RNE. -/
  | atfadd (f : Fields)
  /-- ATINC (R226). Atomic increment that wraps to 0 at bound b. -/
  | atinc (f : Fields)
  /-- CPY_IN (R230). Starts a copy of n bytes from global memory into the vault. -/
  | cpyIn (f : Fields)
  /-- CPY_OUT (R230). Starts a copy of n bytes from the vault to global memory. -/
  | cpyOut (f : Fields)
  /-- CPY_GLOBAL (R230). Starts a copy of n bytes from global memory to global memory. -/
  | cpyGlobal (f : Fields)
  /-- CPY2D_IN (R231). Starts a two-dimensional copy of rows into the vault. -/
  | cpy2dIn (f : Fields)
  /-- CPY2D_OUT (R231). Starts a two-dimensional copy of rows out of the vault. -/
  | cpy2dOut (f : Fields)
  /-- CPYL (R232). Starts a converting copy between two local ranges. -/
  | cpyl (f : Fields)
  /-- CWAIT (R234). Waits for the copies up to a tag to retire and acquires their results. -/
  | cwait (f : Fields)
  /-- TOBJ (R236). Translates and checks a tensor object descriptor. -/
  | tobj (f : Fields)
  /-- TDEF_BOX (R237). Creates a box record and writes its handle. -/
  | tdefBox (f : Fields)
  /-- TDEF_SPAN (R237). Creates a span record and writes its handle. -/
  | tdefSpan (f : Fields)
  /-- TACQ (R238). Requests read or write tenure and waits for the grant. -/
  | tacq (f : Fields)
  /-- TTRY (R238). Requests tenure only if it is grantable at once. -/
  | ttry (f : Fields)
  /-- TREL (R239). Performs the release actions and records the release of tenure. -/
  | trel (f : Fields)
  /-- TDROP (R240). Ends a record. -/
  | tdrop (f : Fields)
  /-- TQRY (R241). Reads one word of a record. -/
  | tqry (f : Fields)
  /-- TSPLT (R242). Splits held write tenure into two handles. -/
  | tsplt (f : Fields)
  /-- MLDB_LOCAL (R249). Queues a load of the B buffer from eight local blocks. -/
  | mldbLocal (f : Fields)
  /-- MLDB_TILE (R252). Queues a load of the B buffer through the tile fetch unit. -/
  | mldbTile (f : Fields)
  /-- MMA_LOCAL (R250). Queues c accumulations from local plane-layout blocks. -/
  | mmaLocal (f : Fields)
  /-- MMA_TILE (R252). Queues c accumulations fed by the tile fetch unit. -/
  | mmaTile (f : Fields)
  /-- MCLR (R253). Queues a clear of accumulator rows and their counters. -/
  | mclr (f : Fields)
  /-- MDRN (R254). Drains rows one at a time into drain handler activations. -/
  | mdrn (f : Fields)
  /-- MHND (R248). Sets the drain handler entry. -/
  | mhnd (f : Fields)
  /-- MWAIT (R256). Waits for the array queue, tile pins and dispatched handlers, then acquires. -/
  | mwait (f : Fields)
  /-- MCMD (R259). Sends an array command to another core's context and writes its status. -/
  | mcmd (f : Fields)
  /-- MSTAT (R257). Long-latency snapshot of array state. -/
  | mstat (f : Fields)
  /-- SEND (R262). Sends up to 16 x-register words to a queue of a core. -/
  | send (f : Fields)
  /-- SENDV (R262). Sends up to 16 words from vector registers to a queue. -/
  | sendv (f : Fields)
  /-- SENDT (R265). Sends a task record as a task packet to the home cube of an address. -/
  | sendt (f : Fields)
  /-- RLS (R264). Frees the held message slot and returns any channel allowance. -/
  | rls (f : Fields)
  /-- POLL (R263). Claims the oldest queued message, or writes 0. -/
  | poll (f : Fields)
  /-- WAITQ (R263). Claims the oldest queued message, parking until one arrives. -/
  | waitq (f : Fields)
  /-- SPAWN (R269). Queues a task or binds a queue handler. -/
  | spawn (f : Fields)
  /-- SPAWNR (R269). Queues a range task. -/
  | spawnr (f : Fields)
  /-- RNEXT (R270). Hands the range thread its next chunk. -/
  | rnext (f : Fields)
  /-- DONE (R271). Ends the activation after the waits and releases of R28. -/
  | done (f : Fields)
  /-- LNCH (R272). Submits a launch block from a core and writes its status. -/
  | lnch (f : Fields)
  /-- WCFG (R273). Sets the extents and order of a work distributor. -/
  | wcfg (f : Fields)
  /-- WQRY (R275). Queries a work distributor for one item. -/
  | wqry (f : Fields)
  /-- BAR (R277). Arrives at a barrier and parks until its phase completes. -/
  | bar (f : Fields)
  /-- BARA (R277). Arrives at a barrier and writes a token. -/
  | bara (f : Fields)
  /-- BARW (R277). Waits for a token's phase to complete. -/
  | barw (f : Fields)
  /-- WAKE (R278). Posts a value to a target context's notify word. -/
  | wake (f : Fields)
  /-- SLEEP (R279). Reads and clears the notify word, parking until it is non-zero or a timeout. -/
  | sleep (f : Fields)
  /-- EVQ (R280). Takes the oldest event record, optionally parking until one arrives. -/
  | evq (f : Fields)
  /-- RATQ (R281). Returns the field's ratio vector in force and its GEN. -/
  | ratq (f : Fields)
  /-- RATR (R282). Replaces the launch's standing ratio request. -/
  | ratr (f : Fields)
  /-- TRAP (R284). Raises the software TRAP fault. -/
  | trap (f : Fields)
  /-- SYSC (R285). Reserves a reply slot and posts a service request to the partition's service queue. -/
  | sysc (f : Fields)
  /-- SRET (R341). Returns from a trap handler, optionally re-executing one instruction alone. -/
  | sret (f : Fields)
  /-- CSRR (R287). Reads a control register. -/
  | csrr (f : Fields)
  /-- CSRW (R287). Writes a control register. -/
  | csrw (f : Fields)
  /-- CSRX (R287). Writes a control register and returns its old value indivisibly. -/
  | csrx (f : Fields)
  /-- TLBI_VA (R288). Invalidates translations of one virtual address, optionally by shootdown. -/
  | tlbiVa (f : Fields)
  /-- TLBI_AS (R288). Invalidates translations of an address space. -/
  | tlbiAs (f : Fields)
  /-- TLBI_ALL (R288). Invalidates every translation of the partition. -/
  | tlbiAll (f : Fields)
  /-- IRQ (R286). Raises an interrupt identity at the Zenith complex after a domain release. -/
  | irq (f : Fields)
  /-- BKPT (R284). Asserts Eclipse or raises the breakpoint fault. -/
  | bkpt (f : Fields)
  /-- HALT (R286). Parks the context until the supervisor resumes it. -/
  | halt (f : Fields)
  /-- CGRANT (R368). Mints a tagged capability from checked bytes at M-mode. -/
  | cgrant (z : ZFields)
  /-- CDERIVE (R369). Derives a narrower capability under a derivation record. -/
  | cderive (z : ZFields)
  /-- CMOVE (R368). Moves a granule with its tag indivisibly. -/
  | cmove (z : ZFields)
  /-- CREVOKE (R368). Clears the tags of a range of granules. -/
  | crevoke (z : ZFields)
  /-- CREAD (R368). Reads a field of a capability. -/
  | cread (z : ZFields)
  /-- CCHECK (R368). Reports which check of R307 a capability fails for a use. -/
  | ccheck (z : ZFields)
  /-- CLDADV (R368). Loads 8 bytes at the cursor and advances it. -/
  | cldadv (z : ZFields)
  /-- CSTADV (R368). Stores 8 bytes at the cursor and advances it. -/
  | cstadv (z : ZFields)
  /-- CCOUNT (R368). Counts tagged granules in a range. -/
  | ccount (z : ZFields)
  /-- CHAND (R370). Hands a tagged capability to LQCAP or an SQCAP. -/
  | chand (z : ZFields)
  /-- COPY_RETIRE (R233). A copy's reads and writes are all performed; its tag and scoreboard entries retire. -/
  | copyRetire (tid seq : Nat)
  /-- TENURE_GRANT (R104). The home grants a waiting request after a release and performs the grant actions. -/
  | tenureGrant (stack : Nat)
  /-- TENURE_STALL_RESUME (R113). A stalled access is performed once the record's tenure no longer excludes it. -/
  | tenureStallResume (tid : Nat)
  /-- TENURE_WAIT_TRAP (R113). An access still stalled after 2^16 vclk cycles raises the replayable trap. -/
  | tenureWaitTrap (tid : Nat)
  /-- READ_FILL (R96). The home directory serves a read fill, recalling owners and adding sharers. -/
  | readFill (field line : Nat)
  /-- E2E_TIMEOUT (R376). After 20 µs unacknowledged a packet is resent, or after 8 resends reported unreachable. -/
  | e2eTimeout (cube : BitVec 8) (seq : BitVec 16)
  /-- FILL_ARRIVAL (R120). A fill arrives at the slice and is installed or only serves the load. -/
  | fillArrival (field line : Nat)
  /-- MCMD_ACCEPT (R259). The target checks the command and enters it into the context's array queue once an entry is free. -/
  | mcmdAccept (sender : Nat)
  /-- ARRAY_ENTRY_COMPLETE (R246). The array completes a queue entry and begins the next. -/
  | arrayEntryComplete (tid : Nat)
  /-- HANDLER_ACTIVATION (R30). A message reaching the head of a queue with a bound handler activates a handler task. -/
  | handlerActivation (core queue : Nat)
  /-- WQRY_ANSWER (R275). The hub writes a query's answer into the vault and retires its scoreboard entry. -/
  | wqryAnswer (field : Nat)
  /-- WAKE_ARRIVAL (R278). A WAKE arrives, ORs into the notify word and readies a sleeping context. -/
  | wakeArrival (tid : Nat) (value : Word)
  /-- NOTIFY_LATCH_DELIVERY (R362). The always-on latch passes its bits to the context's notify word. -/
  | notifyLatchDelivery (tid : Nat)
  /-- SLEEP_TIMEOUT (R279). n sidereal ticks pass and the SLEEP returns 0. -/
  | sleepTimeout (tid : Nat)
  /-- LEASE_EXPIRY (R116). A leased line becomes state I when the sidereal clock reaches EXP − 8. -/
  | leaseExpiry (field line : Nat)
  /-- DEDUP_TIMEOUT (R385). After 1 ms waiting for WRITTEN the engine writes its own copy. -/
  | dedupTimeout (stack : Nat)
  /-- POSTED_STORE_ACK (R343). The home acknowledges a posted store and its log entry frees. -/
  | postedStoreAck (core entry : Nat)
  /-- POSTED_STORE_REFUSAL (R343). A posted store is refused; the store is discarded and its context marked refusal-pending. -/
  | postedStoreRefusal (core entry : Nat)
  /-- OWNERSHIP_REQUEST (R96). The home invalidates other sharers and grants ownership. -/
  | ownershipRequest (field line : Nat)
  /-- FLAGOR_SET (R49). A flag event sets the field's FLAGOR bit within 64 nclk cycles. -/
  | flagorSet (field : Nat) (flags : BitVec 5)
  /-- ACTIVATION (R26). A task is bound to the lowest FREE context and its visible state set. -/
  | activation (core : Nat) (task : Task)
  /-- ISSUE_SLOT_FILL (R23). The dispatcher fills a free issue slot from the ready contexts. -/
  | issueSlotFill (core : Nat)
  /-- TAKE (R317). The hub takes a queued task by residency order and activates it on a core. -/
  | take (field : Nat)
  /-- AGING (R316). A task queued 2^20 vclk cycles moves up one level. -/
  | aging (field stamp : Nat)
  /-- SLOT_PRIORITY_RISE (R319). A ready context's slot priority rises after 2^20 vclk cycles. -/
  | slotPriorityRise (tid : Nat)
  /-- QUIESCE_START (R320). The core picks a victim context and starts its quiesce. -/
  | quiesceStart (core : Nat)
  /-- QUIESCE_COMPLETE (R321). The quiesce ends and the victim becomes DORMANT (ready). -/
  | quiesceComplete (core : Nat)
  /-- RANGE_SPLIT (R32). The hub splits a donor's range for an idle core. -/
  | rangeSplit (core : Nat)
  /-- SPLIT_PUBLISH (R318). Each hub publishes its largest remaining range every 256 nclk cycles. -/
  | splitPublish (field : Nat)
  /-- STAGE_RELEASE (R39). A stage is released once every consuming stage is active. -/
  | stageRelease (lid stage : Nat)
  /-- LAUNCH_COMPLETION (R40). With no work left, after actions run, the completion store is written and any interrupt raised. -/
  | launchCompletion (lid : Nat)
  /-- FIELD_SWITCH_COMPLETE (R360). A field's switch completes; RATQ and GEN update and ratio-change records are posted. -/
  | fieldSwitchComplete (field : Nat)
  /-- FIELD_TIMER_COMPARE (R367). SIDCNT reaches TICK, IID is raised and ARM cleared. -/
  | fieldTimerCompare (field : Nat)
  /-- ECLIPSE_ALIGN_TICK (R351). Tick ETICK of period EEPOCH arrives and Eclipse is asserted. -/
  | eclipseAlignTick (part : Nat)
  /-- ECLIPSE_FREEZE (R351). 24 ac cycles after assertion every unit of the partition stops and FROZEN is set. -/
  | eclipseFreeze (part : Nat)
  /-- ECLIPSE_RESTART (R351). 24 ac cycles after the release all clocks restart together. -/
  | eclipseRestart (part : Nat)
  /-- SURRENDER_DONE (R85). Dirty lines are written back and counted, ways invalidated and scratch zeroed. -/
  | surrenderDone (field : Nat)
  /-- WAY_RESTORE_DONE (R85). Ways 8–15 return empty to the cache. -/
  | wayRestoreDone (field : Nat)
  /-- FLUSH_COMPLETE (R301). The flush ends and BUSY clears. -/
  | flushComplete (core : Nat)
  /-- SHOOTDOWN_ACK (R333). A hub acknowledges a shootdown once its conditions hold. -/
  | shootdownAck (field : Nat)
  /-- TLB_MISS_WALK (R331). A walker takes the oldest miss request and walks the tables. -/
  | tlbMissWalk (field : Nat)
  /-- WALK_COMPLETE (R331). A walk returns a leaf or fault and answers the waiting requests. -/
  | walkComplete (field : Nat)
  /-- PAGE_FILL (R75). A non-resident page is written back if needed and filled into a frame. -/
  | pageFill (core : Nat)
  /-- REGION_RECORD_MERGE (R112). Buddy region records merge after 2^20 directory cycles without conflict. -/
  | regionRecordMerge (stack slot : Nat)
  /-- COLLECTIVE_CONTRIBUTION (R379). A member's store to a reduction window is folded at the home. -/
  | collectiveContribution (group cube word : Nat) (value : BitVec 32)
  /-- PIECE_REJOIN (R110). Pieces rejoin after 2^20 directory cycles without a split. -/
  | pieceRejoin (stack slot : Nat)
  /-- PACKET_RECEIVE (R374). A packet arrives at a router; reserved values and duplicates are dropped. -/
  | packetReceive (link : Nat) (packet : Packet)
  /-- POSTED_STORE_TRAP (R343). A pending refusal is delivered at the context's next instruction boundary. -/
  | postedStoreTrap (tid : Nat)
  /-- WRITE_BACK (R96). The home writes an owned line to DRAM. -/
  | writeBack (field line : Nat)
  /-- LANDING (R150). A long-latency instruction's results and flags land at its landing point. -/
  | landing (tid : Nat)
  /-- TQFREE (R345). Frees trap-queue slots; parked replayable threads re-execute. -/
  | tqfree (field : Nat) (slots : Word)
  /-- FETCH_POISON_REFETCH (R346). A poisoned instruction coming to issue refetches its block once. -/
  | fetchPoisonRefetch (tid : Nat)
  /-- SOFT_ERROR (R350). A soft error is corrected or contained by poisoning. -/
  | softError (site : SoftSite) (corrected : Bool)
  /-- BINDC (R312). Binds a pending launch to the fields in BINDF. -/
  | bindc (value : Word)
  /-- CAP_WRITE (R354). Writes the power cap, ignored outside 1,200–3,600 W. -/
  | capWrite (value : Word)
  /-- COEF_WRITE (R355). Writes a coefficient, ignored if it breaks monotonicity or the full-activity bound. -/
  | coefWrite (d n : Nat) (value : Word)
  /-- LEAK_WRITE (R355). Writes the leakage term, ignored if it breaks the full-activity bound. -/
  | leakWrite (value : Word)
  /-- THOT_TOK_WRITE (R354). Writes the thermal limits, judged as a whole. -/
  | thotTokWrite (value : Word)
  /-- BEACON (R117). A beacon arrives and aligns the counter and WRAPN. -/
  | beacon (count : BitVec 40) (wrapn : BitVec 8)
  /-- FTCMP_WRITE (R367). Arms a field timer, firing at once if TICK has passed. -/
  | ftcmpWrite (field : Nat) (value : Word)
  /-- ECLIPSE_ASSERT (R351). Asserts Eclipse for a partition, at once or at ETICK. -/
  | eclipseAssert (part : Nat)
  /-- ECLIPSE_RELEASE (R351). A write of ASSERT = 0 releases Eclipse. -/
  | eclipseRelease (part : Nat)
  /-- SCAN_READ (R352). Reads frozen state over the test access port. -/
  | scanRead (sel : ScanSel)
  /-- SCAN_WRITE (R352). Writes frozen state from the debug path. -/
  | scanWrite (sel : ScanSel) (value : Vec)
  /-- SURRENDER (R85). SURR written 1 begins surrendering ways 8–15. -/
  | surrender (field : Nat)
  /-- WAY_RESTORE (R85). SURR written 0 discards the scratch and begins restoring. -/
  | wayRestore (field : Nat)
  /-- FPART_WRITE (R303). Moves an unbound field to another partition after scrubbing it. -/
  | fpartWrite (field : Nat) (value : Word)
  /-- FLUSH (R301). Writes back every line of the selected context. -/
  | flush (core : Nat)
  /-- RESUME (R301). A halted context becomes DORMANT (ready). -/
  | resume (core : Nat)
  /-- PSHARE_WRITE (R304). Writes a partition's shares, ignored whole if the floors exceed 1,000. -/
  | pshareWrite (part : Nat) (value : Word)
  /-- PCTL_WRITE (R304). Writes partition control, ignored whole if enabling breaks the share bound. -/
  | pctlWrite (part : Nat) (value : Word)
  /-- SDCMD_VA (R333). Starts a shootdown of one virtual page. -/
  | sdcmdVa (asid : BitVec 16)
  /-- SDCMD_AS (R333). Starts a shootdown of one address space. -/
  | sdcmdAs (asid : BitVec 16)
  /-- SDCMD_ALL (R333). Starts a shootdown of a partition's address spaces. -/
  | sdcmdAll (part : BitVec 6)
  /-- RSCTL_GO (R335). Starts re-striping a home-map entry. -/
  | rsctlGo (entry : BitVec 6)
  /-- LINE_DROWSY (R71). A line untouched for 64 vclk cycles goes drowsy. -/
  | lineDrowsy (tid line : Nat)
  /-- SNAPSHOT (R384). The engine takes a snapshot of the partition's ranges into slot S. -/
  | snapshot (stack part : Nat)
  /-- LATE_FAULT_DELIVERY (R151). A fault found after issue is delivered at the instruction's landing point. -/
  | lateFaultDelivery (tid : Nat)
  /-- SNAPSHOT_RESTORE (R386). The engine restores the latest step valid in every shard. -/
  | snapshotRestore (stack part : Nat)
  /-- RPLCTL (R372). Delivers a reply to the slot reserved by a SYSC request. -/
  | rplctl (part : Nat) (value : Word)
  /-- FLIT_RECEIVE (R375). A flit arrives; a CRC failure or gap causes replay, retraining or link down. -/
  | flitReceive (link : Nat) (flit : Vec)
  /-- INVALIDATION_ARRIVAL (R120). A slice acknowledges an invalidation, recording its sequence against a pending miss. -/
  | invalidationArrival (field line seq : Nat)
  /-- PCIE_INBOUND_WRITE (R373). An inbound write computes line checks and clears tags. -/
  | pcieInboundWrite (addr : Word) (data : List Byte)
  /-- PCIE_INBOUND_READ (R373). An inbound read completes, poisoned if its line is poisoned. -/
  | pcieInboundRead (addr : Word) (length : Nat)
  /-- PCIE_HOT_PLUG (R373). A native hot-plug event at a slot. -/
  | pcieHotPlug (slot : Nat) (present attention power : Bool)
  /-- RBADV (R393). Burns the rollback counter forward. -/
  | rbadv (value : BitVec 8)
  /-- MEXT (R393). Extends MEAS1 with 32 written bytes. -/
  | mext (value : BitVec 256)
  /-- REGISTER_WRITE (R5). Writes a register that has no row of its own, by its Access column. -/
  | registerWrite (addr : BitVec 52) (value : Word)
  /-- LINK_TRAINING (R375). A Zhevzen link trains with its neighbour, sets LSTAT.UP and records the neighbour's CUBEID, or loses its partner and goes down. -/
  | linkTraining (link : Nat) (up : Bool) (neighbour : BitVec 8)
  /-- TEMPERATURE_CHANGE (R364). The logic-die sensor reading changes: HOT is set or cleared, IID is raised, and once TEMP is at or below TOK after CRIT a grant run restores the grant. -/
  | temperatureChange (sensors : List (BitVec 8))
  /-- LAUNCH_QUEUE_ENTRY (R309). The cube reads a launch queue entry, judges it, writes STAT and advances LQHEAD. -/
  | launchQueueEntry
  /-- GRANT_RUN (R358). The Meridian arbiter computes a new grant under the effective cap. -/
  | grantRun
  /-- RAISED_SWITCH_START (R360). Fields with a raised domain begin to switch after the lowering switches complete. -/
  | raisedSwitchStart
  /-- TCAP_STEP (R363). Every 1 ms TCAP falls or rises by 100 W with temperature. -/
  | tcapStep
  /-- CRITICAL_TEMPERATURE (R364). At 105 °C CRIT is set and every bound field drops to 4/4/4/4. -/
  | criticalTemperature
  /-- THERMTRIP (R399). At 115 °C THERMTRIP_N removes CORE, SRAM and SERDES and reset follows. -/
  | thermtrip
  /-- WRAP_ANNOUNCE (R117). The master's counter reaches 0xFF_FFFF_F000 and hubs stop issuing global accesses. -/
  | wrapAnnounce
  /-- WRAP_COMPLETE (R117). At one beacon counters become 0, WRAPN rises and state-L lines become I. -/
  | wrapComplete
  /-- FWRAP (R117). Begins a forced wrap at once. -/
  | fwrap
  /-- BEACON_LOSS (R119). After 64 µs without a beacon, BLOST is set and BIID raised. -/
  | beaconLoss
  /-- RESTRIPE_GRANULE (R335). The engine moves one granule and places its switch token. -/
  | restripeGranule
  /-- RSRET (R335). Retires forwarding records. -/
  | rsret
  /-- POWER_ON_RESET (R394). Reset runs its steps in order and starts the boot ROM. -/
  | powerOnReset
  /-- RESET_N (R394). The RESET_N pin resets the cube with RCAUSE 4. -/
  | resetN
  /-- RSTCTL_WARM (R395). Warm reset of the whole cube 10 µs after the write. -/
  | rstctlWarm
  /-- RSTCTL_COLD (R395). Cold reset of the whole cube 10 µs after the write. -/
  | rstctlCold
  /-- ATBUSY (R397). Starts signing an attestation report. -/
  | atbusy
  /-- REPORT_SIGNED (R397). The report's key and signature are written and ATBUSY clears. -/
  | reportSigned
  /-- POWER_LOSS (R398). Supply is removed and the rails fall in reverse order, leaving any snapshot in progress with an invalid slot. -/
  | powerLoss
  deriving DecidableEq, Repr

/-- The thread instructions, by mnemonic alone: what the encoding tables of R161, R194, R214,
R225, R228, R235, R243, R244, R267 and R268 are keyed by. -/
inductive Op where
  | add | sub | mul | mulh | div | rem | min | max
  | and | or | xor | andn | orn | shl | shr | sha
  | rol | neg | abs | not | clz | ctz | popc | brev
  | bfx | bfi | sext | zext | mov | movi | movh | sel
  | cmp | test | fma | sqrt | cvt | fclass | rndi | movsRead
  | movsWrite | amov | astr | aadv | lea | pand | por | pxor
  | pnot | pmov | br | brx | call | callx | ret | loop
  | loopx | nop | yield | waitl | vadd | vsub | vmul | vfma
  | vmin | vmax | vdiv | vand | vor | vxor | vshl | vshr
  | vsha | vdot | vabs | vneg | vsqrt | vrcp | vrsq | vexp2
  | vcmp | vsel | vmaskAnd | vmaskOr | vmaskXor | vmaskAndn | vmaskNot | vmaskSet
  | vmaskGet | viota | vmov | vbcast | vext | vins | vshuf | vrot
  | vreds | vredmMin | vredmMax | vscan | vcvt | vwidn | vnarr | vqnt
  | vdqt | vsprs | vxpnd | ld | st | ldv | stv | vlds
  | vsts | vgath | vscat | pref | wbk | invl | fence | atadd
  | atsub | atmin | atmax | atand | ator | atxor | atswp | atcas
  | atfadd | atinc | cpyIn | cpyOut | cpyGlobal | cpy2dIn | cpy2dOut | cpyl
  | cwait | tobj | tdefBox | tdefSpan | tacq | ttry | trel | tdrop
  | tqry | tsplt | mldbLocal | mldbTile | mmaLocal | mmaTile | mclr | mdrn
  | mhnd | mwait | mcmd | mstat | send | sendv | sendt | rls
  | poll | waitq | spawn | spawnr | rnext | done | lnch | wcfg
  | wqry | bar | bara | barw | wake | sleep | evq | ratq
  | ratr | trap | sysc | sret | csrr | csrw | csrx | tlbiVa
  | tlbiAs | tlbiAll | irq | bkpt | halt
  deriving DecidableEq, Repr

/-- The capability instructions, by mnemonic alone (R368). -/
inductive ZOp where
  | cgrant | cderive | cmove | crevoke | cread | ccheck | cldadv | cstadv | ccount | chand
  deriving DecidableEq, Repr

/-- The thread instruction of a mnemonic and its fields. -/
def Op.instr : Op → Fields → Instr
  | .add, f => .add f
  | .sub, f => .sub f
  | .mul, f => .mul f
  | .mulh, f => .mulh f
  | .div, f => .div f
  | .rem, f => .rem f
  | .min, f => .min f
  | .max, f => .max f
  | .and, f => .and f
  | .or, f => .or f
  | .xor, f => .xor f
  | .andn, f => .andn f
  | .orn, f => .orn f
  | .shl, f => .shl f
  | .shr, f => .shr f
  | .sha, f => .sha f
  | .rol, f => .rol f
  | .neg, f => .neg f
  | .abs, f => .abs f
  | .not, f => .not f
  | .clz, f => .clz f
  | .ctz, f => .ctz f
  | .popc, f => .popc f
  | .brev, f => .brev f
  | .bfx, f => .bfx f
  | .bfi, f => .bfi f
  | .sext, f => .sext f
  | .zext, f => .zext f
  | .mov, f => .mov f
  | .movi, f => .movi f
  | .movh, f => .movh f
  | .sel, f => .sel f
  | .cmp, f => .cmp f
  | .test, f => .test f
  | .fma, f => .fma f
  | .sqrt, f => .sqrt f
  | .cvt, f => .cvt f
  | .fclass, f => .fclass f
  | .rndi, f => .rndi f
  | .movsRead, f => .movsRead f
  | .movsWrite, f => .movsWrite f
  | .amov, f => .amov f
  | .astr, f => .astr f
  | .aadv, f => .aadv f
  | .lea, f => .lea f
  | .pand, f => .pand f
  | .por, f => .por f
  | .pxor, f => .pxor f
  | .pnot, f => .pnot f
  | .pmov, f => .pmov f
  | .br, f => .br f
  | .brx, f => .brx f
  | .call, f => .call f
  | .callx, f => .callx f
  | .ret, f => .ret f
  | .loop, f => .loop f
  | .loopx, f => .loopx f
  | .nop, f => .nop f
  | .yield, f => .yield f
  | .waitl, f => .waitl f
  | .vadd, f => .vadd f
  | .vsub, f => .vsub f
  | .vmul, f => .vmul f
  | .vfma, f => .vfma f
  | .vmin, f => .vmin f
  | .vmax, f => .vmax f
  | .vdiv, f => .vdiv f
  | .vand, f => .vand f
  | .vor, f => .vor f
  | .vxor, f => .vxor f
  | .vshl, f => .vshl f
  | .vshr, f => .vshr f
  | .vsha, f => .vsha f
  | .vdot, f => .vdot f
  | .vabs, f => .vabs f
  | .vneg, f => .vneg f
  | .vsqrt, f => .vsqrt f
  | .vrcp, f => .vrcp f
  | .vrsq, f => .vrsq f
  | .vexp2, f => .vexp2 f
  | .vcmp, f => .vcmp f
  | .vsel, f => .vsel f
  | .vmaskAnd, f => .vmaskAnd f
  | .vmaskOr, f => .vmaskOr f
  | .vmaskXor, f => .vmaskXor f
  | .vmaskAndn, f => .vmaskAndn f
  | .vmaskNot, f => .vmaskNot f
  | .vmaskSet, f => .vmaskSet f
  | .vmaskGet, f => .vmaskGet f
  | .viota, f => .viota f
  | .vmov, f => .vmov f
  | .vbcast, f => .vbcast f
  | .vext, f => .vext f
  | .vins, f => .vins f
  | .vshuf, f => .vshuf f
  | .vrot, f => .vrot f
  | .vreds, f => .vreds f
  | .vredmMin, f => .vredmMin f
  | .vredmMax, f => .vredmMax f
  | .vscan, f => .vscan f
  | .vcvt, f => .vcvt f
  | .vwidn, f => .vwidn f
  | .vnarr, f => .vnarr f
  | .vqnt, f => .vqnt f
  | .vdqt, f => .vdqt f
  | .vsprs, f => .vsprs f
  | .vxpnd, f => .vxpnd f
  | .ld, f => .ld f
  | .st, f => .st f
  | .ldv, f => .ldv f
  | .stv, f => .stv f
  | .vlds, f => .vlds f
  | .vsts, f => .vsts f
  | .vgath, f => .vgath f
  | .vscat, f => .vscat f
  | .pref, f => .pref f
  | .wbk, f => .wbk f
  | .invl, f => .invl f
  | .fence, f => .fence f
  | .atadd, f => .atadd f
  | .atsub, f => .atsub f
  | .atmin, f => .atmin f
  | .atmax, f => .atmax f
  | .atand, f => .atand f
  | .ator, f => .ator f
  | .atxor, f => .atxor f
  | .atswp, f => .atswp f
  | .atcas, f => .atcas f
  | .atfadd, f => .atfadd f
  | .atinc, f => .atinc f
  | .cpyIn, f => .cpyIn f
  | .cpyOut, f => .cpyOut f
  | .cpyGlobal, f => .cpyGlobal f
  | .cpy2dIn, f => .cpy2dIn f
  | .cpy2dOut, f => .cpy2dOut f
  | .cpyl, f => .cpyl f
  | .cwait, f => .cwait f
  | .tobj, f => .tobj f
  | .tdefBox, f => .tdefBox f
  | .tdefSpan, f => .tdefSpan f
  | .tacq, f => .tacq f
  | .ttry, f => .ttry f
  | .trel, f => .trel f
  | .tdrop, f => .tdrop f
  | .tqry, f => .tqry f
  | .tsplt, f => .tsplt f
  | .mldbLocal, f => .mldbLocal f
  | .mldbTile, f => .mldbTile f
  | .mmaLocal, f => .mmaLocal f
  | .mmaTile, f => .mmaTile f
  | .mclr, f => .mclr f
  | .mdrn, f => .mdrn f
  | .mhnd, f => .mhnd f
  | .mwait, f => .mwait f
  | .mcmd, f => .mcmd f
  | .mstat, f => .mstat f
  | .send, f => .send f
  | .sendv, f => .sendv f
  | .sendt, f => .sendt f
  | .rls, f => .rls f
  | .poll, f => .poll f
  | .waitq, f => .waitq f
  | .spawn, f => .spawn f
  | .spawnr, f => .spawnr f
  | .rnext, f => .rnext f
  | .done, f => .done f
  | .lnch, f => .lnch f
  | .wcfg, f => .wcfg f
  | .wqry, f => .wqry f
  | .bar, f => .bar f
  | .bara, f => .bara f
  | .barw, f => .barw f
  | .wake, f => .wake f
  | .sleep, f => .sleep f
  | .evq, f => .evq f
  | .ratq, f => .ratq f
  | .ratr, f => .ratr f
  | .trap, f => .trap f
  | .sysc, f => .sysc f
  | .sret, f => .sret f
  | .csrr, f => .csrr f
  | .csrw, f => .csrw f
  | .csrx, f => .csrx f
  | .tlbiVa, f => .tlbiVa f
  | .tlbiAs, f => .tlbiAs f
  | .tlbiAll, f => .tlbiAll f
  | .irq, f => .irq f
  | .bkpt, f => .bkpt f
  | .halt, f => .halt f

/-- The capability instruction of a mnemonic and its register numbers. -/
def ZOp.instr : ZOp → ZFields → Instr
  | .cgrant, z => .cgrant z
  | .cderive, z => .cderive z
  | .cmove, z => .cmove z
  | .crevoke, z => .crevoke z
  | .cread, z => .cread z
  | .ccheck, z => .ccheck z
  | .cldadv, z => .cldadv z
  | .cstadv, z => .cstadv z
  | .ccount, z => .ccount z
  | .chand, z => .chand z

/-- The mnemonic and fields of a thread instruction; none for any other step. -/
def Instr.thread? : Instr → Option (Op × Fields)
  | .add f => some (.add, f)
  | .sub f => some (.sub, f)
  | .mul f => some (.mul, f)
  | .mulh f => some (.mulh, f)
  | .div f => some (.div, f)
  | .rem f => some (.rem, f)
  | .min f => some (.min, f)
  | .max f => some (.max, f)
  | .and f => some (.and, f)
  | .or f => some (.or, f)
  | .xor f => some (.xor, f)
  | .andn f => some (.andn, f)
  | .orn f => some (.orn, f)
  | .shl f => some (.shl, f)
  | .shr f => some (.shr, f)
  | .sha f => some (.sha, f)
  | .rol f => some (.rol, f)
  | .neg f => some (.neg, f)
  | .abs f => some (.abs, f)
  | .not f => some (.not, f)
  | .clz f => some (.clz, f)
  | .ctz f => some (.ctz, f)
  | .popc f => some (.popc, f)
  | .brev f => some (.brev, f)
  | .bfx f => some (.bfx, f)
  | .bfi f => some (.bfi, f)
  | .sext f => some (.sext, f)
  | .zext f => some (.zext, f)
  | .mov f => some (.mov, f)
  | .movi f => some (.movi, f)
  | .movh f => some (.movh, f)
  | .sel f => some (.sel, f)
  | .cmp f => some (.cmp, f)
  | .test f => some (.test, f)
  | .fma f => some (.fma, f)
  | .sqrt f => some (.sqrt, f)
  | .cvt f => some (.cvt, f)
  | .fclass f => some (.fclass, f)
  | .rndi f => some (.rndi, f)
  | .movsRead f => some (.movsRead, f)
  | .movsWrite f => some (.movsWrite, f)
  | .amov f => some (.amov, f)
  | .astr f => some (.astr, f)
  | .aadv f => some (.aadv, f)
  | .lea f => some (.lea, f)
  | .pand f => some (.pand, f)
  | .por f => some (.por, f)
  | .pxor f => some (.pxor, f)
  | .pnot f => some (.pnot, f)
  | .pmov f => some (.pmov, f)
  | .br f => some (.br, f)
  | .brx f => some (.brx, f)
  | .call f => some (.call, f)
  | .callx f => some (.callx, f)
  | .ret f => some (.ret, f)
  | .loop f => some (.loop, f)
  | .loopx f => some (.loopx, f)
  | .nop f => some (.nop, f)
  | .yield f => some (.yield, f)
  | .waitl f => some (.waitl, f)
  | .vadd f => some (.vadd, f)
  | .vsub f => some (.vsub, f)
  | .vmul f => some (.vmul, f)
  | .vfma f => some (.vfma, f)
  | .vmin f => some (.vmin, f)
  | .vmax f => some (.vmax, f)
  | .vdiv f => some (.vdiv, f)
  | .vand f => some (.vand, f)
  | .vor f => some (.vor, f)
  | .vxor f => some (.vxor, f)
  | .vshl f => some (.vshl, f)
  | .vshr f => some (.vshr, f)
  | .vsha f => some (.vsha, f)
  | .vdot f => some (.vdot, f)
  | .vabs f => some (.vabs, f)
  | .vneg f => some (.vneg, f)
  | .vsqrt f => some (.vsqrt, f)
  | .vrcp f => some (.vrcp, f)
  | .vrsq f => some (.vrsq, f)
  | .vexp2 f => some (.vexp2, f)
  | .vcmp f => some (.vcmp, f)
  | .vsel f => some (.vsel, f)
  | .vmaskAnd f => some (.vmaskAnd, f)
  | .vmaskOr f => some (.vmaskOr, f)
  | .vmaskXor f => some (.vmaskXor, f)
  | .vmaskAndn f => some (.vmaskAndn, f)
  | .vmaskNot f => some (.vmaskNot, f)
  | .vmaskSet f => some (.vmaskSet, f)
  | .vmaskGet f => some (.vmaskGet, f)
  | .viota f => some (.viota, f)
  | .vmov f => some (.vmov, f)
  | .vbcast f => some (.vbcast, f)
  | .vext f => some (.vext, f)
  | .vins f => some (.vins, f)
  | .vshuf f => some (.vshuf, f)
  | .vrot f => some (.vrot, f)
  | .vreds f => some (.vreds, f)
  | .vredmMin f => some (.vredmMin, f)
  | .vredmMax f => some (.vredmMax, f)
  | .vscan f => some (.vscan, f)
  | .vcvt f => some (.vcvt, f)
  | .vwidn f => some (.vwidn, f)
  | .vnarr f => some (.vnarr, f)
  | .vqnt f => some (.vqnt, f)
  | .vdqt f => some (.vdqt, f)
  | .vsprs f => some (.vsprs, f)
  | .vxpnd f => some (.vxpnd, f)
  | .ld f => some (.ld, f)
  | .st f => some (.st, f)
  | .ldv f => some (.ldv, f)
  | .stv f => some (.stv, f)
  | .vlds f => some (.vlds, f)
  | .vsts f => some (.vsts, f)
  | .vgath f => some (.vgath, f)
  | .vscat f => some (.vscat, f)
  | .pref f => some (.pref, f)
  | .wbk f => some (.wbk, f)
  | .invl f => some (.invl, f)
  | .fence f => some (.fence, f)
  | .atadd f => some (.atadd, f)
  | .atsub f => some (.atsub, f)
  | .atmin f => some (.atmin, f)
  | .atmax f => some (.atmax, f)
  | .atand f => some (.atand, f)
  | .ator f => some (.ator, f)
  | .atxor f => some (.atxor, f)
  | .atswp f => some (.atswp, f)
  | .atcas f => some (.atcas, f)
  | .atfadd f => some (.atfadd, f)
  | .atinc f => some (.atinc, f)
  | .cpyIn f => some (.cpyIn, f)
  | .cpyOut f => some (.cpyOut, f)
  | .cpyGlobal f => some (.cpyGlobal, f)
  | .cpy2dIn f => some (.cpy2dIn, f)
  | .cpy2dOut f => some (.cpy2dOut, f)
  | .cpyl f => some (.cpyl, f)
  | .cwait f => some (.cwait, f)
  | .tobj f => some (.tobj, f)
  | .tdefBox f => some (.tdefBox, f)
  | .tdefSpan f => some (.tdefSpan, f)
  | .tacq f => some (.tacq, f)
  | .ttry f => some (.ttry, f)
  | .trel f => some (.trel, f)
  | .tdrop f => some (.tdrop, f)
  | .tqry f => some (.tqry, f)
  | .tsplt f => some (.tsplt, f)
  | .mldbLocal f => some (.mldbLocal, f)
  | .mldbTile f => some (.mldbTile, f)
  | .mmaLocal f => some (.mmaLocal, f)
  | .mmaTile f => some (.mmaTile, f)
  | .mclr f => some (.mclr, f)
  | .mdrn f => some (.mdrn, f)
  | .mhnd f => some (.mhnd, f)
  | .mwait f => some (.mwait, f)
  | .mcmd f => some (.mcmd, f)
  | .mstat f => some (.mstat, f)
  | .send f => some (.send, f)
  | .sendv f => some (.sendv, f)
  | .sendt f => some (.sendt, f)
  | .rls f => some (.rls, f)
  | .poll f => some (.poll, f)
  | .waitq f => some (.waitq, f)
  | .spawn f => some (.spawn, f)
  | .spawnr f => some (.spawnr, f)
  | .rnext f => some (.rnext, f)
  | .done f => some (.done, f)
  | .lnch f => some (.lnch, f)
  | .wcfg f => some (.wcfg, f)
  | .wqry f => some (.wqry, f)
  | .bar f => some (.bar, f)
  | .bara f => some (.bara, f)
  | .barw f => some (.barw, f)
  | .wake f => some (.wake, f)
  | .sleep f => some (.sleep, f)
  | .evq f => some (.evq, f)
  | .ratq f => some (.ratq, f)
  | .ratr f => some (.ratr, f)
  | .trap f => some (.trap, f)
  | .sysc f => some (.sysc, f)
  | .sret f => some (.sret, f)
  | .csrr f => some (.csrr, f)
  | .csrw f => some (.csrw, f)
  | .csrx f => some (.csrx, f)
  | .tlbiVa f => some (.tlbiVa, f)
  | .tlbiAs f => some (.tlbiAs, f)
  | .tlbiAll f => some (.tlbiAll, f)
  | .irq f => some (.irq, f)
  | .bkpt f => some (.bkpt, f)
  | .halt f => some (.halt, f)
  | .copyRetire _ _ => none
  | .tenureGrant _ => none
  | .tenureStallResume _ => none
  | .tenureWaitTrap _ => none
  | .pieceRejoin _ _ => none
  | .regionRecordMerge _ _ => none
  | .readFill _ _ => none
  | .ownershipRequest _ _ => none
  | .writeBack _ _ => none
  | .invalidationArrival _ _ _ => none
  | .fillArrival _ _ => none
  | .leaseExpiry _ _ => none
  | .mcmdAccept _ => none
  | .arrayEntryComplete _ => none
  | .handlerActivation _ _ => none
  | .wqryAnswer _ => none
  | .wakeArrival _ _ => none
  | .notifyLatchDelivery _ => none
  | .sleepTimeout _ => none
  | .landing _ => none
  | .lateFaultDelivery _ => none
  | .tqfree _ _ => none
  | .postedStoreAck _ _ => none
  | .postedStoreRefusal _ _ => none
  | .postedStoreTrap _ => none
  | .fetchPoisonRefetch _ => none
  | .softError _ _ => none
  | .flagorSet _ _ => none
  | .activation _ _ => none
  | .issueSlotFill _ => none
  | .take _ => none
  | .aging _ _ => none
  | .slotPriorityRise _ => none
  | .quiesceStart _ => none
  | .quiesceComplete _ => none
  | .rangeSplit _ => none
  | .splitPublish _ => none
  | .launchQueueEntry => none
  | .bindc _ => none
  | .stageRelease _ _ => none
  | .launchCompletion _ => none
  | .grantRun => none
  | .raisedSwitchStart => none
  | .fieldSwitchComplete _ => none
  | .tcapStep => none
  | .criticalTemperature => none
  | .thermtrip => none
  | .capWrite _ => none
  | .coefWrite _ _ _ => none
  | .leakWrite _ => none
  | .thotTokWrite _ => none
  | .wrapAnnounce => none
  | .wrapComplete => none
  | .fwrap => none
  | .beacon _ _ => none
  | .beaconLoss => none
  | .ftcmpWrite _ _ => none
  | .fieldTimerCompare _ => none
  | .eclipseAssert _ => none
  | .eclipseAlignTick _ => none
  | .eclipseFreeze _ => none
  | .eclipseRelease _ => none
  | .eclipseRestart _ => none
  | .scanRead _ => none
  | .scanWrite _ _ => none
  | .surrender _ => none
  | .surrenderDone _ => none
  | .wayRestore _ => none
  | .wayRestoreDone _ => none
  | .fpartWrite _ _ => none
  | .flush _ => none
  | .flushComplete _ => none
  | .resume _ => none
  | .pshareWrite _ _ => none
  | .pctlWrite _ _ => none
  | .sdcmdVa _ => none
  | .sdcmdAs _ => none
  | .sdcmdAll _ => none
  | .shootdownAck _ => none
  | .tlbMissWalk _ => none
  | .walkComplete _ => none
  | .rsctlGo _ => none
  | .restripeGranule => none
  | .rsret => none
  | .pageFill _ => none
  | .lineDrowsy _ _ => none
  | .snapshot _ _ => none
  | .dedupTimeout _ => none
  | .snapshotRestore _ _ => none
  | .rplctl _ _ => none
  | .cgrant _ => none
  | .cderive _ => none
  | .cmove _ => none
  | .crevoke _ => none
  | .cread _ => none
  | .ccheck _ => none
  | .cldadv _ => none
  | .cstadv _ => none
  | .ccount _ => none
  | .chand _ => none
  | .flitReceive _ _ => none
  | .packetReceive _ _ => none
  | .e2eTimeout _ _ => none
  | .collectiveContribution _ _ _ _ => none
  | .pcieInboundWrite _ _ => none
  | .pcieInboundRead _ _ => none
  | .pcieHotPlug _ _ _ _ => none
  | .powerOnReset => none
  | .resetN => none
  | .rstctlWarm => none
  | .rstctlCold => none
  | .rbadv _ => none
  | .mext _ => none
  | .atbusy => none
  | .reportSigned => none
  | .registerWrite _ _ => none
  | .powerLoss => none
  | .linkTraining _ _ _ => none
  | .temperatureChange _ => none

end Sys2Proof
end

