-- ==== Sys2Proof/Machine/Encoding.lean ====
section
/-! DEFINITION. The encoding tables of the thread instructions: what makes a word legal
(R153, check 2) and which operand codes each position accepts (R153, check 3). -/

namespace Sys2Proof

/-! ## Fields of MOD, by layout (R147) -/

/-- Layout A: rounding override. -/
def Fields.rnd (f : Fields) : Nat := (f.mod.extractLsb' 5 3).toNat
/-- Layout A: saturate. -/
def Fields.sat (f : Fields) : Bool := f.mod.getLsbD 4
/-- Layouts A and M: IMM[7:0] names operand C. -/
def Fields.csrc (f : Fields) : Bool := f.mod.getLsbD 3
/-- Layouts A and M: number of the lane-enable register. -/
def Fields.mask (f : Fields) : Nat := (f.mod.extractLsb' 0 3).toNat
/-- Layouts M and T: 0 `.l`, 1 `.g`, 2 `.m`. -/
def Fields.space (f : Fields) : Nat := (f.mod.extractLsb' 6 2).toNat
/-- Layout M: 0 plain, 1 stream, 2 direct. -/
def Fields.clsM (f : Fields) : Nat := (f.mod.extractLsb' 4 2).toNat
/-- Layout T: class. -/
def Fields.clsT (f : Fields) : Nat := (f.mod.extractLsb' 0 2).toNat
/-- Layouts T and S: 0 rlx, 1 acq, 2 rel, 3 acqrel. -/
def Fields.ord (f : Fields) : Nat := (f.mod.extractLsb' 4 2).toNat
/-- Layouts T and S: 0 core, 1 field, 2 stack, 3 domain. -/
def Fields.scope (f : Fields) : Nat := (f.mod.extractLsb' 2 2).toNat
/-- Layout S: bits the instruction defines. -/
def Fields.xbits (f : Fields) : Nat := (f.mod.extractLsb' 0 2).toNat
/-- The code of operand C. -/
def Fields.sc (f : Fields) : BitVec 8 := f.imm.extractLsb' 0 8
/-- TYPE as a number. -/
def Fields.tyN (f : Fields) : Nat := f.ty.toNat

/-! ## Types (R145) -/

/-- Width in bits of a TYPE code. -/
def tyWidth : Nat → Nat
  | 0 | 4 => 8
  | 1 | 5 | 8 | 9 => 16
  | 2 | 6 | 10 => 32
  | 3 | 7 | 11 => 64
  | _ => 0

/-- Codes 0 to 7 are the integer types. -/
def tyInt (t : Nat) : Bool := t ≤ 7
/-- Codes 8 to 11 are the floating-point types. -/
def tyFlt (t : Nat) : Bool := 8 ≤ t && t ≤ 11
/-- Codes 0 to 3 are the signed integer types. -/
def tySigned (t : Nat) : Bool := t ≤ 3

/-- INT of R191. -/
def vInt (t : Nat) : Bool := t ≤ 6 && t != 3
/-- FLT of R191. -/
def vFlt (t : Nat) : Bool := 8 ≤ t && t ≤ 10
/-- ALL of R191. -/
def vAll (t : Nat) : Bool := vInt t || vFlt t

/-! ## Operand codes (R142) -/

/-- Whether a code lies in a range, both ends included. -/
def inR (lo hi : Nat) (c : BitVec 8) : Bool := lo ≤ c.toNat && c.toNat ≤ hi

/-- `x0` to `x63`. -/
def isX (c : BitVec 8) : Bool := inR 0x00 0x3F c
/-- `v0` to `v31`. -/
def isV (c : BitVec 8) : Bool := inR 0x40 0x5F c
/-- `m0` to `m15`. -/
def isM (c : BitVec 8) : Bool := inR 0x60 0x6F c
/-- The mesh ports. -/
def isPort (c : BitVec 8) : Bool := inR 0x70 0x74 c
/-- The two immediates, IMM << 32 and IMM. -/
def isImm (c : BitVec 8) : Bool := inR 0x7E 0x7F c
/-- Local operands. -/
def isLocal (c : BitVec 8) : Bool := inR 0x80 0x97 c
/-- Local operands without an offset. -/
def isLocalNoOff (c : BitVec 8) : Bool := inR 0x80 0x8F c
/-- Local operands with an offset in IMM. -/
def isLocalOff (c : BitVec 8) : Bool := inR 0x90 0x97 c
/-- Scale registers. -/
def isK (c : BitVec 8) : Bool := inR 0x98 0x9F c
/-- Address registers. -/
def isA (c : BitVec 8) : Bool := inR 0xA0 0xA7 c
/-- Address and stride registers. -/
def isAD (c : BitVec 8) : Bool := inR 0xA0 0xAF c
/-- Predicates as values. -/
def isP (c : BitVec 8) : Bool := inR 0xB0 0xB7 c
/-- Predicates that can be written. -/
def isPW (c : BitVec 8) : Bool := inR 0xB1 0xB7 c
/-- A field that is not used. -/
def isZ (c : BitVec 8) : Bool := c == 0#8

/-- Value sources (R162). -/
def vs (t : Nat) (c : BitVec 8) : Bool :=
  isX c || isM c || isPort c || isImm c || isLocal c || isAD c || isP c || (isK c && t == 10)
/-- Value destinations (R162). -/
def vd (t : Nat) (c : BitVec 8) : Bool :=
  isX c || isPort c || isLocal c || isAD c || isPW c || (isK c && t == 10)
/-- Register destinations of long-latency scalars (R162) and of LD (R217). -/
def vdReg (t : Nat) (c : BitVec 8) : Bool := isX c || isAD c || isPW c || (isK c && t == 10)
/-- Vector sources and destinations (R192). -/
def vv (c : BitVec 8) : Bool := isV c || isPort c || isLocal c
/-- Scalar broadcasts (R192). -/
def vb (t : Nat) (c : BitVec 8) : Bool :=
  isX c || isM c || isImm c || isAD c || isP c || (isK c && t == 10)
/-- Branch targets (R183). -/
def btgt (c : BitVec 8) : Bool := isX c || isA c || isM c

/-! ## One row of the encoding tables -/

/-- The layouts of MOD (R147). -/
inductive Lay where
  | a | m | t | s | z
  deriving DecidableEq, Repr

/-- The hints an instruction takes (R148). -/
inductive HintSet where
  | mem | branch | none
  deriving DecidableEq, Repr

/-- What the tables of the instruction chapters say of one mnemonic. -/
structure Row where
  /-- major opcode (R152) -/
  opc   : Nat
  /-- minor opcodes -/
  subs  : List Nat
  /-- legal TYPE -/
  tys   : Fields → Bool := fun f => f.ty == 0
  lay   : Lay := .z
  /-- SAT = 1 legal -/
  sat   : Fields → Bool := fun _ => false
  /-- RND other than 0b111 legal -/
  rnd   : Fields → Bool := fun _ => false
  /-- the value CSRC must have -/
  csrc  : Fields → Bool := fun _ => false
  /-- MASK other than 0 legal -/
  mask  : Bool := false
  /-- what else MOD must satisfy (layouts M, T and S) -/
  modOk : Fields → Bool := fun _ => true
  /-- long-latency (R149) -/
  long  : Fields → Bool := fun _ => false
  hint  : HintSet := .none
  /-- unused fields are zero and encoded fields hold defined values (R137) -/
  flds  : Fields → Bool := fun _ => true
  /-- which positions are operand codes that may use IMM: DST, SA, SB -/
  immD  : Bool := false
  immA  : Bool := false
  immB  : Bool := false
  /-- IMM is checked by flds alone -/
  immFree : Bool := false
  /-- value operands are read as 64 bits whatever TYPE is (R181) -/
  wide    : Bool := false
  /-- the operand codes each position accepts (check 3) -/
  codes : Fields → Bool := fun _ => true

/-- Whether a code takes its value or offset from IMM. -/
def usesImm (c : BitVec 8) : Bool := isImm c || isLocalOff c

/-- The use of IMM by the operand codes of a row: with CSRC = 1, IMM[31:8] is zero; with no
code that uses it, IMM is zero; under a 16-bit floating-point TYPE an immediate has
IMM[31:16] zero (R137, R146). -/
def Row.immOk (r : Row) (f : Fields) : Bool :=
  if r.immFree then true
  else if r.csrc f then f.imm.extractLsb' 8 24 == 0#24
  else
    let used := (r.immD && usesImm f.dst) || (r.immA && usesImm f.sa) || (r.immB && usesImm f.sb)
    let value := (r.immA && f.sa == 0x7F#8) || (r.immB && f.sb == 0x7F#8)
    if used then !(value && !r.wide && (f.tyN == 8 || f.tyN == 9)) || f.imm.extractLsb' 16 16 == 0#16
    else f.imm == 0#32

/-- MOD under its layout (R147). -/
def Row.modLegal (r : Row) (f : Fields) : Bool :=
  match r.lay with
  | .a => f.rnd != 5 && f.rnd != 6 && (f.rnd == 7 || r.rnd f) && (!f.sat || r.sat f) &&
          f.csrc == r.csrc f && (f.mask == 0 || r.mask) && r.modOk f
  | .m => f.space != 3 && f.clsM != 3 && !(f.space == 0 && f.clsM != 0) &&
          f.csrc == r.csrc f && (f.mask == 0 || r.mask) && r.modOk f
  | .t => f.space != 3 && f.space != 0 && f.clsT != 3 && r.modOk f
  | .s => f.mod.extractLsb' 6 2 == 0#2 && r.modOk f
  | .z => f.mod == 0#8

/-- HINT (R148). -/
def Row.hintLegal (r : Row) (f : Fields) : Bool :=
  match r.hint with
  | .mem => f.hint.toNat ≤ 3
  | .branch => f.hint.toNat ≤ 2
  | .none => f.hint == 0#4

/-- Check 2 of R153 for a word whose OP and SUB are those of the row. -/
def Row.legal (r : Row) (f : Fields) : Bool :=
  f.guard != 8#4 && r.tys f && r.modLegal f && r.hintLegal f && (f.la == 0#4 || r.long f) &&
  r.flds f && r.immOk f

/-- With CSRC = 1 the codes that use IMM are excluded from every position (R142). -/
def Row.codesOk (r : Row) (f : Fields) : Bool :=
  r.codes f &&
  (!r.csrc f || !((r.immD && usesImm f.dst) || (r.immA && usesImm f.sa) ||
    (r.immB && usesImm f.sb) || usesImm f.sc))

/-! ## The rows -/

/-- `op.T d, a, b` (R161, R164). -/
def row2 (sub : Nat) (tys : Nat → Bool) (sat rnd : Nat → Bool) : Row :=
  {
    opc := 0x01, subs := [sub], tys := fun f => tys f.tyN, lay := .a,
    sat := fun f => sat f.tyN, rnd := fun f => rnd f.tyN, immD := true, immA := true, immB := true,
    codes := fun f => vd f.tyN f.dst && vs f.tyN f.sa && vs f.tyN f.sb }

/-- `op.T d, a` (R161, R166). -/
def row1 (sub : Nat) (tys : Nat → Bool) (sat : Nat → Bool) : Row :=
  {
    opc := 0x02, subs := [sub], tys := fun f => tys f.tyN, lay := .a,
    sat := fun f => sat f.tyN, flds := fun f => isZ f.sb, immD := true, immA := true,
    codes := fun f => vd f.tyN f.dst && vs f.tyN f.sa }

/-- All TYPE codes of scalar arithmetic. -/
def t011 (t : Nat) : Bool := t ≤ 11
/-- No TYPE. -/
def never (_ : Nat) : Bool := false

/-- `vop.T vd, va, vb` (R194, R195). -/
def rowV2 (sub : Nat) (tys sat rnd : Nat → Bool) (long : Bool) : Row :=
  {
    opc := 0x10, subs := [sub], tys := fun f => tys f.tyN, lay := .a, mask := true,
    sat := fun f => sat f.tyN, rnd := fun f => rnd f.tyN, long := fun _ => long,
    immD := true, immA := true, immB := true,
    codes := fun f => (if long then isV f.dst else vv f.dst) && vv f.sa && (vv f.sb || vb f.tyN f.sb) }

/-- `vop.T vd, va` (R194). -/
def rowV1 (sub : Nat) (tys sat rnd : Nat → Bool) (long : Bool) (src : Nat → BitVec 8 → Bool) : Row :=
  {
    opc := 0x11, subs := [sub], tys := fun f => tys f.tyN, lay := .a, mask := true,
    sat := fun f => sat f.tyN, rnd := fun f => rnd f.tyN, long := fun _ => long,
    flds := fun f => isZ f.sb, immD := true, immA := true,
    codes := fun f => (if long then isV f.dst else vv f.dst) && src f.tyN f.sa }

/-- An e-field (R194). -/
def eField (c : BitVec 8) : Bool := c.extractLsb' 3 5 == 0#5
/-- A destination e-field (R194). -/
def eDst (c : BitVec 8) : Bool := eField c && c != 0#8
/-- The type field S of CVT (R175). -/
def sField (c : BitVec 8) : Bool := c.toNat ≤ 11
/-- The type field S of a vector conversion (R194). -/
def sFieldV (c : BitVec 8) : Bool := vAll c.toNat

/-- Whether R175's row for S and TYPE takes a rounding override. -/
def cvtRnd (s t : Nat) : Bool :=
  if tyInt s then tyFlt t
  else if tyInt t then true
  else tyWidth t < tyWidth s || (tyWidth t == tyWidth s && s != t)

/-- A row of OP 0x20 (R214). -/
def rowM (sub : Nat) (codes : Fields → Bool) : Row :=
  { opc := 0x20, subs := [sub], lay := .m, hint := .mem, immFree := true, codes := codes }

/-- The address position of a memory instruction (R215). -/
def addrOk (f : Fields) : Bool :=
  if f.space == 0 then (if f.csrc then isLocalNoOff f.sa else isLocal f.sa) else isX f.sa

/-- IMM of a memory instruction without operand C: an offset under `.g` and `.m`; under
`.l` used only by a code that names it. -/
def memImm (f : Fields) : Bool :=
  if f.csrc then f.imm.extractLsb' 8 24 == 0#24
  else if f.space != 0 then true
  else usesImm f.sa || usesImm f.sb || f.imm == 0#32

/-- The value that ST stores, where it is an immediate of a 16-bit floating-point TYPE (R146). -/
def stImm (f : Fields) : Bool :=
  !(f.sb == 0x7F#8 && (f.tyN == 8 || f.tyN == 9)) || f.imm.extractLsb' 16 16 == 0#16

/-- TYPE of LDV, VLDS and their kin (R214). -/
def memV (t : Nat) : Bool := vAll t
/-- Long-latency loads (R149). -/
def notLocal (f : Fields) : Bool := f.space != 0

/-- A row of OP 0x21 (R225). -/
def rowT (sub : Nat) (tys : Nat → Bool) : Row :=
  {
    opc := 0x21, subs := [sub], tys := fun f => tys f.tyN, lay := .t, hint := .mem,
    long := fun _ => true, immFree := true,
    codes := fun f => isX f.dst && isX f.sa && vs f.tyN f.sb }
/-- Integer atomics (R225). -/
def tAt (t : Nat) : Bool := t == 2 || t == 3 || t == 6 || t == 7
/-- Atomics that also take floating-point patterns (R225). -/
def tAtF (t : Nat) : Bool := tAt t || t == 10 || t == 11

/-- A row of OP 0x22 with a global side (R228). -/
def rowCpy (sub : Nat) (c : BitVec 8 → Bool) : Row :=
  {
    opc := 0x22, subs := [sub], lay := .m, hint := .mem, csrc := fun _ => true,
    modOk := fun f => f.space != 0, immA := false,
    codes := fun f => isX f.dst && isX f.sa && (isX f.sb || isAD f.sb) && c f.sc }

/-- A row of the system opcode without operands (R268). -/
def rowSys (sub : Nat) (imm : BitVec 32 → Bool) : Row :=
  {
    opc := 0x30, subs := [sub], immFree := true,
    flds := fun f => isZ f.dst && isZ f.sa && isZ f.sb && imm f.imm }

/-- The thread state register numbers of R179. -/
def movsNumber (n : Nat) : Bool :=
  n == 0x000 || n == 0x001 || (0x010 ≤ n && n ≤ 0x015) || n == 0x020 || n == 0x030 ||
  (0x040 ≤ n && n ≤ 0x043)

/-- The control register numbers of R300. -/
def csrNumber (n : Nat) : Bool :=
  n ≤ 0x004 || (0x100 ≤ n && n ≤ 0x103) || (0x200 ≤ n && n ≤ 0x205) || (0x300 ≤ n && n ≤ 0x304) ||
  (0x340 ≤ n && n ≤ 0x37F) || (0x400 ≤ n && n ≤ 0x402) || (0x800 ≤ n && n ≤ 0x9FF)

/-- Sources of CSRW and CSRX (R268). -/
def csrSrc (c : BitVec 8) : Bool := vs 0 c && !isImm c && !isLocalOff c

/-- The row of each mnemonic. -/
def Op.row : Op → Row
  -- OP 0x01 (R161)
  | .add => row2 0x00 t011 tyInt tyFlt
  | .sub => row2 0x01 t011 tyInt tyFlt
  | .mul => row2 0x02 t011 tyInt tyFlt
  | .mulh => row2 0x03 tyInt never never
  | .div => { row2 0x04 t011 never tyFlt with
      long := fun _ => true, codes := fun f => vdReg f.tyN f.dst && vs f.tyN f.sa && vs f.tyN f.sb }
  | .rem => { row2 0x05 t011 never never with
      long := fun _ => true, codes := fun f => vdReg f.tyN f.dst && vs f.tyN f.sa && vs f.tyN f.sb }
  | .min => row2 0x06 t011 never never
  | .max => row2 0x07 t011 never never
  | .and => row2 0x08 tyInt never never
  | .or => row2 0x09 tyInt never never
  | .xor => row2 0x0A tyInt never never
  | .andn => row2 0x0B tyInt never never
  | .orn => row2 0x0C tyInt never never
  | .shl => row2 0x0D tyInt tyInt never
  | .shr => row2 0x0E tyInt never never
  | .sha => row2 0x0F tyInt never never
  | .rol => row2 0x10 tyInt never never
  -- OP 0x02
  | .neg => row1 0x00 t011 tyInt
  | .abs => row1 0x01 t011 tyInt
  | .not => row1 0x02 tyInt never
  | .clz => row1 0x03 tyInt never
  | .ctz => row1 0x04 tyInt never
  | .popc => row1 0x05 tyInt never
  | .brev => row1 0x06 tyInt never
  | .bfx => { row2 0x07 tyInt never never with opc := 0x02 }
  | .bfi => { row2 0x08 tyInt never never with
      opc := 0x02,
      codes := fun f => (isX f.dst || isAD f.dst || isLocal f.dst) && vs f.tyN f.sa && vs f.tyN f.sb }
  | .sext => { row2 0x09 tyInt never never with opc := 0x02 }
  | .zext => { row2 0x0A tyInt never never with opc := 0x02 }
  -- OP 0x03
  | .mov => { row1 0x00 t011 never with opc := 0x03 }
  | .movi => {
      opc := 0x03, subs := [0x01], immFree := true,
      flds := fun f => isZ f.sa && isZ f.sb, codes := fun f => isX f.dst || isA f.dst }
  | .movh => {
      opc := 0x03, subs := [0x02], immFree := true,
      flds := fun f => isZ f.sa && isZ f.sb, codes := fun f => isX f.dst || isA f.dst }
  | .sel => { row2 0x03 t011 never never with
      opc := 0x03, csrc := fun _ => true,
      codes := fun f => vd f.tyN f.dst && vs f.tyN f.sa && vs f.tyN f.sb && vs f.tyN f.sc }
  | .cmp => { row2 0x10 t011 never never with
      opc := 0x03, subs := [0x10, 0x11, 0x12, 0x13, 0x14, 0x15, 0x16, 0x17],
      tys := fun f => if f.sub.toNat ≥ 0x16 then tyFlt f.tyN else t011 f.tyN, immD := false,
      codes := fun f => (isPW f.dst || isX f.dst) && vs f.tyN f.sa && vs f.tyN f.sb }
  | .test => { row2 0x18 tyInt never never with
      opc := 0x03, subs := [0x18, 0x19], immD := false,
      codes := fun f => (isPW f.dst || isX f.dst) && vs f.tyN f.sa && vs f.tyN f.sb }
  -- OP 0x04
  | .fma => { row2 0x00 tyFlt never tyFlt with
      opc := 0x04, csrc := fun _ => true,
      codes := fun f => vd f.tyN f.dst && vs f.tyN f.sa && vs f.tyN f.sb && vs f.tyN f.sc }
  | .sqrt => { row1 0x01 tyFlt never with
      opc := 0x04, rnd := fun _ => true, long := fun _ => true,
      codes := fun f => vdReg f.tyN f.dst && vs f.tyN f.sa }
  | .cvt => { row1 0x02 t011 never with
      opc := 0x04, sat := fun f => tyInt f.sb.toNat && tyInt f.tyN,
      rnd := fun f => cvtRnd f.sb.toNat f.tyN, immFree := true,
      flds := fun f => sField f.sb && (usesImm f.dst || usesImm f.sa || f.imm == 0#32) &&
        (!(f.sa == 0x7F#8 && (f.sb.toNat == 8 || f.sb.toNat == 9)) || f.imm.extractLsb' 16 16 == 0#16),
      codes := fun f => vd f.tyN f.dst && vs f.tyN f.sa }
  | .fclass => { row1 0x03 tyFlt never with
      opc := 0x04, codes := fun f => vd f.tyN f.dst && !isK f.dst && vs f.tyN f.sa }
  | .rndi => { row1 0x04 tyFlt never with opc := 0x04, rnd := fun _ => true }
  | .movsRead => {
      opc := 0x04, subs := [0x05], immFree := true,
      flds := fun f => isZ f.sa && isZ f.sb && movsNumber f.imm.toNat,
      codes := fun f => vd 0 f.dst && !isLocalOff f.dst }
  | .movsWrite => {
      opc := 0x04, subs := [0x06], immFree := true,
      flds := fun f => isZ f.dst && isZ f.sb && movsNumber f.imm.toNat && f.imm.toNat != 0x030,
      codes := fun f => vs 0 f.sa && !isImm f.sa && !isLocalOff f.sa }
  -- OP 0x05
  | .amov => {
      opc := 0x05, subs := [0x00], immA := true, immB := true,
      codes := fun f => isA f.dst && vs 0 f.sa && vs 0 f.sb }
  | .astr => {
      opc := 0x05, subs := [0x01], tys := fun f => t011 f.tyN, immA := true, wide := true,
      flds := fun f => isZ f.sb, codes := fun f => isA f.dst && vs f.tyN f.sa }
  | .aadv => {
      opc := 0x05, subs := [0x02], immA := true,
      flds := fun f => isZ f.sb, codes := fun f => isA f.dst && vs 0 f.sa }
  | .lea => {
      opc := 0x05, subs := [0x03], tys := fun f => t011 f.tyN, immD := true, immA := true,
      immB := true, wide := true, codes := fun f => vd f.tyN f.dst && vs f.tyN f.sa && vs f.tyN f.sb }
  -- OP 0x06
  | .pand => { opc := 0x06, subs := [0x00], codes := fun f => isPW f.dst && isP f.sa && isP f.sb }
  | .por => { opc := 0x06, subs := [0x01], codes := fun f => isPW f.dst && isP f.sa && isP f.sb }
  | .pxor => { opc := 0x06, subs := [0x02], codes := fun f => isPW f.dst && isP f.sa && isP f.sb }
  | .pnot => {
      opc := 0x06, subs := [0x03], flds := fun f => isZ f.sb,
      codes := fun f => isPW f.dst && isP f.sa }
  | .pmov => {
      opc := 0x06, subs := [0x04], flds := fun f => isZ f.sb, immA := true,
      codes := fun f => isPW f.dst && vs 0 f.sa }
  -- OP 0x08 (R152, R183 to R190)
  | .br => {
      opc := 0x08, subs := [0x00], hint := .branch, immFree := true,
      flds := fun f => isZ f.dst && isZ f.sa && isZ f.sb }
  | .brx => {
      opc := 0x08, subs := [0x01], hint := .branch,
      flds := fun f => isZ f.dst && isZ f.sb, codes := fun f => btgt f.sa }
  | .call => {
      opc := 0x08, subs := [0x02], hint := .branch, immFree := true,
      flds := fun f => isZ f.sa && eDst f.sb, codes := fun f => isX f.dst }
  | .callx => {
      opc := 0x08, subs := [0x03], hint := .branch,
      flds := fun f => eDst f.sb, codes := fun f => isX f.dst && btgt f.sa }
  | .ret => {
      opc := 0x08, subs := [0x04],
      flds := fun f => isZ f.dst && eDst f.sb, codes := fun f => btgt f.sa }
  | .loop => {
      opc := 0x08, subs := [0x05], immFree := true,
      flds := fun f => isZ f.dst && isZ f.sa && isZ f.sb && f.imm.extractLsb' 0 16 != 0#16 }
  | .loopx => {
      opc := 0x08, subs := [0x06], immFree := true,
      flds := fun f => isZ f.dst && isZ f.sb && f.imm.extractLsb' 0 16 != 0#16 &&
        f.imm.extractLsb' 16 16 == 0#16,
      codes := fun f => isX f.sa || isAD f.sa || isM f.sa }
  | .nop => { opc := 0x08, subs := [0x07], flds := fun f => isZ f.dst && isZ f.sa && isZ f.sb }
  | .yield => { opc := 0x08, subs := [0x08], flds := fun f => isZ f.dst && isZ f.sa && isZ f.sb }
  | .waitl => { opc := 0x08, subs := [0x09], flds := fun f => isZ f.dst && isZ f.sa && isZ f.sb }
  -- OP 0x10 (R194)
  | .vadd => rowV2 0x00 vAll vInt vFlt false
  | .vsub => rowV2 0x01 vAll vInt vFlt false
  | .vmul => rowV2 0x02 vAll vInt vFlt false
  | .vfma => { rowV2 0x03 vFlt never vFlt false with
      csrc := fun _ => true,
      codes := fun f => vv f.dst && vv f.sa && (vv f.sb || vb f.tyN f.sb) && (vv f.sc || vb f.tyN f.sc) }
  | .vmin => rowV2 0x04 vAll never never false
  | .vmax => rowV2 0x05 vAll never never false
  | .vdiv => rowV2 0x06 vFlt never vFlt true
  | .vand => rowV2 0x08 vInt never never false
  | .vor => rowV2 0x09 vInt never never false
  | .vxor => rowV2 0x0A vInt never never false
  | .vshl => rowV2 0x0B vInt vInt never false
  | .vshr => rowV2 0x0C vInt never never false
  | .vsha => rowV2 0x0D vInt never never false
  | .vdot => { rowV2 0x10 (fun t => t == 0 || t == 1 || t == 4 || t == 5 || t == 8 || t == 9)
        vInt (fun t => t == 8 || t == 9) false with
      csrc := fun _ => true,
      codes := fun f => vv f.dst && vv f.sa && (vv f.sb || vb f.tyN f.sb) && vv f.sc }
  -- OP 0x11
  | .vabs => rowV1 0x00 vAll vInt never false (fun _ => vv)
  | .vneg => rowV1 0x01 vAll vInt never false (fun _ => vv)
  | .vsqrt => rowV1 0x02 vFlt never vFlt true (fun _ => vv)
  | .vrcp => rowV1 0x03 vFlt never (fun t => t == 8 || t == 9) true (fun t c => vv c || vb t c)
  | .vrsq => rowV1 0x04 vFlt never (fun t => t == 8 || t == 9) true (fun t c => vv c || vb t c)
  | .vexp2 => rowV1 0x05 vFlt never (fun t => t == 8 || t == 9) true (fun t c => vv c || vb t c)
  -- OP 0x12
  | .vsel => { rowV2 0x00 vAll never never false with opc := 0x12 }
  | .vmaskAnd => { opc := 0x12, subs := [0x01], flds := fun f => eDst f.dst && eField f.sa && eField f.sb }
  | .vmaskOr => { opc := 0x12, subs := [0x02], flds := fun f => eDst f.dst && eField f.sa && eField f.sb }
  | .vmaskXor => { opc := 0x12, subs := [0x03], flds := fun f => eDst f.dst && eField f.sa && eField f.sb }
  | .vmaskAndn => { opc := 0x12, subs := [0x04], flds := fun f => eDst f.dst && eField f.sa && eField f.sb }
  | .vmaskNot => { opc := 0x12, subs := [0x05], flds := fun f => eDst f.dst && eField f.sa && isZ f.sb }
  | .vmaskSet => {
      opc := 0x12, subs := [0x06], immA := true,
      flds := fun f => eDst f.dst && isZ f.sb, codes := fun f => vb 0 f.sa }
  | .vmaskGet => {
      opc := 0x12, subs := [0x07], immD := true,
      flds := fun f => eField f.sa && isZ f.sb, codes := fun f => vd 0 f.dst }
  | .viota => { rowV1 0x08 vInt never never false vb with opc := 0x12 }
  | .vcmp => { rowV2 0x10 vAll never never false with
      opc := 0x12, subs := [0x10, 0x11, 0x12, 0x13, 0x14, 0x15, 0x16, 0x17],
      tys := fun f => if f.sub.toNat ≥ 0x16 then vFlt f.tyN else vAll f.tyN, immD := false,
      flds := fun f => eDst f.dst,
      codes := fun f => vv f.sa && (vv f.sb || vb f.tyN f.sb) }
  -- OP 0x13
  | .vmov => { rowV1 0x00 vAll never never false (fun _ => vv) with opc := 0x13 }
  | .vbcast => { rowV1 0x01 vAll never never false vb with opc := 0x13 }
  | .vext => { rowV2 0x02 vAll never never false with
      opc := 0x13, mask := false, codes := fun f => vd f.tyN f.dst && vv f.sa && vb f.tyN f.sb }
  | .vins => { rowV2 0x03 vAll never never false with
      opc := 0x13, codes := fun f => isV f.dst && vb f.tyN f.sa && vb f.tyN f.sb }
  | .vshuf => { rowV2 0x04 vAll never never false with
      opc := 0x13, csrc := fun _ => true,
      codes := fun f => vv f.dst && vv f.sa && vv f.sb && vv f.sc }
  | .vrot => { rowV2 0x05 vAll never never false with
      opc := 0x13, codes := fun f => vv f.dst && vv f.sa && vb f.tyN f.sb }
  -- OP 0x14
  | .vreds => { rowV1 0x00 vAll vInt vFlt false (fun _ => vv) with
      opc := 0x14, codes := fun f => vd f.tyN f.dst && vv f.sa }
  | .vredmMin => { rowV1 0x01 vAll never never false (fun _ => vv) with
      opc := 0x14, codes := fun f => vd f.tyN f.dst && vv f.sa }
  | .vredmMax => { rowV1 0x02 vAll never never false (fun _ => vv) with
      opc := 0x14, codes := fun f => vd f.tyN f.dst && vv f.sa }
  | .vscan => { rowV1 0x03 vAll vInt vFlt false (fun _ => vv) with opc := 0x14 }
  -- OP 0x15
  | .vcvt => { rowV1 0x00 vAll never never false (fun _ => vv) with
      opc := 0x15, sat := fun f => tyInt f.sb.toNat && tyInt f.tyN,
      rnd := fun f => cvtRnd f.sb.toNat f.tyN,
      flds := fun f => sFieldV f.sb && tyWidth f.sb.toNat == tyWidth f.tyN }
  | .vwidn => { rowV1 0x01 vAll never never false (fun _ => vv) with
      opc := 0x15, sat := fun f => tyInt f.sb.toNat && tyInt f.tyN,
      rnd := fun f => cvtRnd f.sb.toNat f.tyN, immFree := true,
      flds := fun f => sFieldV f.sb && 2 * tyWidth f.sb.toNat == tyWidth f.tyN &&
        f.imm.extractLsb' 1 31 == 0#31 }
  | .vnarr => { rowV1 0x02 vAll never never false (fun _ => vv) with
      opc := 0x15, sat := fun f => tyInt f.sb.toNat && tyInt f.tyN, rnd := fun _ => true,
      immFree := true,
      flds := fun f => sFieldV f.sb && tyWidth f.sb.toNat == 2 * tyWidth f.tyN &&
        f.imm.extractLsb' 9 23 == 0#23 }
  | .vqnt => { rowV2 0x03 vAll never vAll false with
      opc := 0x15, flds := fun f => tyWidth f.tyN == 32 || isZ f.sb,
      immB := true,
      codes := fun f => isLocal f.dst && vv f.sa && (tyWidth f.tyN != 32 || vv f.sb) }
  | .vdqt => { rowV1 0x04 (fun t => t == 1 || t == 2 || t == 5 || t == 6 || t == 8 || t == 9 || t == 10)
        never (fun t => t != 10) false (fun _ => vv) with
      opc := 0x15, immFree := true,
      flds := fun f => isZ f.sb && f.imm.extractLsb' 1 31 == 0#31 &&
        (tyWidth f.tyN == 32 || f.imm == 0#32),
      codes := fun f => isV f.dst && isLocal f.sa }
  | .vsprs => { rowV1 0x05 vAll never never false (fun _ => vv) with
      opc := 0x15, codes := fun f => isV f.dst && vv f.sa }
  | .vxpnd => { rowV1 0x06 vAll never never false (fun _ => vv) with
      opc := 0x15, codes := fun f => isV f.dst && vv f.sa }
  -- OP 0x20 (R214)
  | .ld => { rowM 0x00 (fun f => vdReg f.tyN f.dst && addrOk f) with
      tys := fun f => t011 f.tyN, long := notLocal, flds := fun f => isZ f.sb && memImm f }
  | .st => { rowM 0x01 (fun f => addrOk f && vs f.tyN f.sb) with
      tys := fun f => t011 f.tyN, flds := fun f => isZ f.dst && memImm f && stImm f }
  | .ldv => { rowM 0x02 (fun f => isV f.dst && addrOk f) with
      tys := fun f => memV f.tyN || (f.tyN == 12 && f.space == 0), long := notLocal, mask := true,
      flds := fun f => (if f.tyN == 12 then f.sb.toNat ≤ 1 else isZ f.sb) && memImm f }
  | .stv => { rowM 0x03 (fun f => addrOk f && (if f.tyN == 12 then isV f.sb && isV f.sc else vv f.sb)) with
      tys := fun f => memV f.tyN || (f.tyN == 12 && f.space == 0), mask := true,
      csrc := fun f => f.tyN == 12, flds := fun f => isZ f.dst && memImm f }
  | .vlds => { rowM 0x04 (fun f => isV f.dst && addrOk f && (isX f.sb || isAD f.sb || f.sb == 0x7F#8)) with
      tys := fun f => memV f.tyN, long := notLocal, mask := true, flds := memImm }
  | .vsts => { rowM 0x05 (fun f => addrOk f && (isX f.sb || isAD f.sb) && isV f.sc) with
      tys := fun f => memV f.tyN, mask := true, csrc := fun _ => true,
      flds := fun f => isZ f.dst && memImm f }
  | .vgath => { rowM 0x06 (fun f => isV f.dst && isV f.sb &&
        (if f.space == 0 then inR 0x80 0x87 f.sa || isLocalOff f.sa else isX f.sa)) with
      tys := fun f => memV f.tyN, long := notLocal, mask := true, flds := memImm }
  | .vscat => { rowM 0x07 (fun f => isV f.sb && isV f.sc &&
        (if f.space == 0 then inR 0x80 0x87 f.sa else isX f.sa)) with
      tys := fun f => memV f.tyN, mask := true, csrc := fun _ => true,
      flds := fun f => isZ f.dst && memImm f }
  | .pref => { rowM 0x08 addrOk with
      modOk := fun f => f.space != 0, flds := fun f => isZ f.dst && isZ f.sb }
  | .wbk => { rowM 0x09 (fun f => addrOk f && (isX f.sb || isAD f.sb)) with
      modOk := fun f => f.space != 0 && f.clsM == 0, flds := fun f => isZ f.dst }
  | .invl => { rowM 0x0A (fun f => addrOk f && (isX f.sb || isAD f.sb)) with
      modOk := fun f => f.space != 0 && f.clsM == 0, flds := fun f => isZ f.dst }
  | .fence => {
      opc := 0x20, subs := [0x0B], lay := .s,
      modOk := fun f => f.ord != 0 && f.xbits == 0,
      flds := fun f => isZ f.dst && isZ f.sa && isZ f.sb }
  -- OP 0x21 (R225)
  | .atadd => rowT 0x00 tAt
  | .atsub => rowT 0x01 tAt
  | .atmin => rowT 0x02 tAt
  | .atmax => rowT 0x03 tAt
  | .atand => rowT 0x04 tAt
  | .ator => rowT 0x05 tAt
  | .atxor => rowT 0x06 tAt
  | .atswp => rowT 0x07 tAtF
  | .atcas => rowT 0x08 tAtF
  | .atfadd => rowT 0x09 (fun t => t == 10 || t == 11)
  | .atinc => rowT 0x0A (fun t => t == 6 || t == 7)
  -- OP 0x22 (R228)
  | .cpyIn => rowCpy 0x00 isLocalNoOff
  | .cpyOut => rowCpy 0x01 isLocalNoOff
  | .cpyGlobal => rowCpy 0x02 isX
  | .cpy2dIn => rowCpy 0x03 (inR 0x80 0x87)
  | .cpy2dOut => rowCpy 0x04 (inR 0x80 0x87)
  | .cpyl => {
      opc := 0x22, subs := [0x05], tys := fun f => vAll f.tyN, lay := .a, hint := .mem,
      csrc := fun _ => true, rnd := fun _ => true,
      codes := fun f => isX f.dst && isLocalNoOff f.sa && (isX f.sb || isAD f.sb) && isLocalNoOff f.sc }
  | .cwait => {
      opc := 0x22, subs := [0x06],
      flds := fun f => isZ f.dst && isZ f.sb, codes := fun f => isX f.sa }
  -- OP 0x23 (R235)
  | .tobj => {
      opc := 0x23, subs := [0x00], immD := true, immA := true,
      flds := fun f => isZ f.sb, codes := fun f => isLocal f.dst && isLocal f.sa }
  | .tdefBox => {
      opc := 0x23, subs := [0x01], immA := true, immB := true,
      codes := fun f => isX f.dst && isLocal f.sa && isLocal f.sb }
  | .tdefSpan => {
      opc := 0x23, subs := [0x02], immFree := true,
      codes := fun f => isX f.dst && isX f.sa && (isX f.sb || isAD f.sb) }
  | .tacq => {
      opc := 0x23, subs := [0x03], lay := .s, modOk := fun f => f.ord == 1 && f.xbits ≤ 1,
      long := fun _ => true, flds := fun f => isZ f.dst && isZ f.sb, codes := fun f => isX f.sa }
  | .ttry => {
      opc := 0x23, subs := [0x04], lay := .s, modOk := fun f => f.ord == 1 && f.xbits ≤ 1,
      flds := fun f => isZ f.sb, codes := fun f => (isX f.dst || isPW f.dst) && isX f.sa }
  | .trel => {
      opc := 0x23, subs := [0x05], lay := .s, modOk := fun f => f.ord == 2 && f.xbits == 0,
      flds := fun f => isZ f.dst && isZ f.sb, codes := fun f => isX f.sa }
  | .tdrop => {
      opc := 0x23, subs := [0x06],
      flds := fun f => isZ f.dst && isZ f.sb, codes := fun f => isX f.sa }
  | .tqry => {
      opc := 0x23, subs := [0x07], immB := true,
      codes := fun f => isX f.dst && isX f.sa && vs 0 f.sb && !isLocal f.sb }
  | .tsplt => {
      opc := 0x23, subs := [0x08], lay := .s, modOk := fun f => f.ord == 0 && f.scope == 0,
      immB := true,
      codes := fun f => inR 1 0x3F f.dst && inR 1 0x3F f.sa && vs 0 f.sb && !isLocal f.sb }
  -- OP 0x28 (R243)
  | .mldbLocal => {
      opc := 0x28, subs := [0x00], immA := true,
      flds := fun f => isZ f.dst && isZ f.sb, codes := fun f => isLocal f.sa }
  | .mldbTile => {
      opc := 0x28, subs := [0x01], immFree := true,
      flds := fun f => isZ f.dst && isZ f.sb && f.imm.toNat ≤ 0x3F, codes := fun f => inR 1 0x3F f.sa }
  | .mmaLocal => {
      opc := 0x28, subs := [0x02], immA := true,
      codes := fun f => isLocal f.sa && isK f.sb }
  | .mmaTile => {
      opc := 0x28, subs := [0x03], immFree := true,
      flds := fun f => f.imm.toNat ≤ 0x3F, codes := fun f => inR 1 0x3F f.sa && isK f.sb }
  | .mclr => { opc := 0x28, subs := [0x04], flds := fun f => isZ f.sa && isZ f.sb }
  | .mdrn => { opc := 0x28, subs := [0x05], flds := fun f => isZ f.sa && isZ f.sb }
  | .mhnd => {
      opc := 0x28, subs := [0x06], immFree := true,
      flds := fun f => isZ f.dst && isZ f.sa && isZ f.sb }
  | .mwait => { opc := 0x28, subs := [0x07], flds := fun f => isZ f.dst && isZ f.sa && isZ f.sb }
  | .mcmd => {
      opc := 0x28, subs := [0x08], immB := true,
      codes := fun f => isX f.dst && isX f.sa && isLocal f.sb }
  | .mstat => {
      opc := 0x28, subs := [0x09], immFree := true, long := fun _ => true,
      flds := fun f => isZ f.sa && isZ f.sb && f.imm.toNat ≤ 31, codes := fun f => isX f.dst }
  -- OP 0x29 (R244)
  | .send => {
      opc := 0x29, subs := [0x00], immFree := true,
      flds := fun f => isZ f.dst && f.imm.toNat ≤ 31, codes := fun f => isX f.sa && isX f.sb }
  | .sendv => {
      opc := 0x29, subs := [0x01], immFree := true,
      flds := fun f => isZ f.dst && f.imm.toNat ≤ 31, codes := fun f => isX f.sa && isV f.sb }
  | .sendt => {
      opc := 0x29, subs := [0x02], lay := .m, immFree := true,
      modOk := fun f => f.space != 0 && f.clsM == 0,
      flds := fun f => f.imm.extractLsb' 16 16 == 0#16,
      codes := fun f => isX f.dst && isX f.sa && isLocalNoOff f.sb }
  | .rls => { opc := 0x29, subs := [0x03], flds := fun f => isZ f.dst && isZ f.sa && isZ f.sb }
  | .poll => {
      opc := 0x29, subs := [0x04], immFree := true,
      flds := fun f => isZ f.sa && isZ f.sb && f.imm.toNat ≤ 1, codes := fun f => isX f.dst }
  | .waitq => {
      opc := 0x29, subs := [0x05], immFree := true,
      flds := fun f => isZ f.sa && isZ f.sb && f.imm.toNat ≤ 1, codes := fun f => isX f.dst }
  -- OP 0x2A (R267)
  | .spawn => {
      opc := 0x2A, subs := [0x00], immA := true,
      flds := fun f => isZ f.dst && isZ f.sb, codes := fun f => isLocal f.sa }
  | .spawnr => {
      opc := 0x2A, subs := [0x01], immA := true,
      flds := fun f => isZ f.dst && isZ f.sb, codes := fun f => isLocal f.sa }
  | .rnext => {
      opc := 0x2A, subs := [0x02], flds := fun f => isZ f.sa && isZ f.sb,
      codes := fun f => isX f.dst }
  | .done => { opc := 0x2A, subs := [0x03], flds := fun f => isZ f.dst && isZ f.sa && isZ f.sb }
  | .lnch => {
      opc := 0x2A, subs := [0x04], immFree := true, flds := fun f => isZ f.sb,
      codes := fun f => isX f.dst && isX f.sa }
  | .wcfg => {
      opc := 0x2A, subs := [0x05], immFree := true,
      flds := fun f => isZ f.dst && isZ f.sb && f.imm.toNat < 0x30, codes := fun f => isX f.sa }
  | .wqry => {
      opc := 0x2A, subs := [0x06], immD := true, long := fun _ => true,
      flds := fun f => isZ f.sa && f.sb.toNat ≤ 15, codes := fun f => isLocal f.dst }
  -- OP 0x2B
  | .bar => {
      opc := 0x2B, subs := [0x00], lay := .s, modOk := fun f => f.ord == 3,
      flds := fun f => isZ f.dst && isZ f.sa && isZ f.sb }
  | .bara => {
      opc := 0x2B, subs := [0x01], lay := .s, modOk := fun f => f.ord == 2,
      flds := fun f => isZ f.sa && isZ f.sb, codes := fun f => isX f.dst }
  | .barw => {
      opc := 0x2B, subs := [0x02], lay := .s,
      modOk := fun f => f.ord == 1 && f.scope == 0 && f.xbits == 0,
      flds := fun f => isZ f.dst && isZ f.sb, codes := fun f => isX f.sa }
  | .wake => {
      opc := 0x2B, subs := [0x03], immB := true, flds := fun f => isZ f.dst,
      codes := fun f => isX f.sa && (isX f.sb || f.sb == 0x7F#8) }
  | .sleep => {
      opc := 0x2B, subs := [0x04], immA := true, flds := fun f => isZ f.sb,
      codes := fun f => isX f.dst && (isX f.sa || f.sa == 0x7F#8) }
  | .evq => {
      opc := 0x2B, subs := [0x05], immFree := true,
      flds := fun f => isZ f.sa && isZ f.sb && f.imm.toNat ≤ 7 && f.imm.extractLsb' 1 2 != 1#2,
      codes := fun f => isX f.dst }
  -- OP 0x2C
  | .ratq => {
      opc := 0x2C, subs := [0x00], flds := fun f => isZ f.sa && isZ f.sb,
      codes := fun f => isX f.dst }
  | .ratr => {
      opc := 0x2C, subs := [0x01], flds := fun f => isZ f.sb,
      codes := fun f => isX f.dst && isX f.sa }
  -- OP 0x30 (R268)
  | .trap => rowSys 0x00 (fun i => i.toNat < 2 ^ 16)
  | .sysc => {
      opc := 0x30, subs := [0x01], immA := true, flds := fun f => f.sb.toNat ≤ 1,
      codes := fun f => isX f.dst && isLocal f.sa }
  | .sret => rowSys 0x02 (fun i => i == 0#32)
  | .csrr => {
      opc := 0x30, subs := [0x03], immFree := true,
      flds := fun f => isZ f.sa && isZ f.sb && csrNumber f.imm.toNat, codes := fun f => isX f.dst }
  | .csrw => {
      opc := 0x30, subs := [0x04], immFree := true,
      flds := fun f => isZ f.dst && isZ f.sb && csrNumber f.imm.toNat, codes := fun f => csrSrc f.sa }
  | .csrx => {
      opc := 0x30, subs := [0x05], immFree := true,
      flds := fun f => isZ f.sb && csrNumber f.imm.toNat, codes := fun f => isX f.dst && csrSrc f.sa }
  | .tlbiVa => {
      opc := 0x30, subs := [0x06], immFree := true,
      flds := fun f => isZ f.dst && (f.imm == 0#32 || f.imm == 4#32),
      codes := fun f => isX f.sa && isX f.sb }
  | .tlbiAs => {
      opc := 0x30, subs := [0x06], immFree := true,
      flds := fun f => isZ f.dst && isZ f.sa && (f.imm == 1#32 || f.imm == 5#32),
      codes := fun f => isX f.sb }
  | .tlbiAll => {
      opc := 0x30, subs := [0x06], immFree := true,
      flds := fun f => isZ f.dst && isZ f.sa && isZ f.sb && (f.imm == 2#32 || f.imm == 6#32) }
  | .irq => rowSys 0x07 (fun i => 1 ≤ i.toNat && i.toNat ≤ 4095)
  | .bkpt => rowSys 0x08 (fun i => i.toNat < 2 ^ 16)
  | .halt => rowSys 0x09 (fun i => i == 0#32)

end Sys2Proof
end

