-- ==== Sys2Proof/Decode.lean ====
section
/-! DEFINITION. Decoding and encoding: 96-bit words of threads (R137, R152, R153) and the
custom-0 words of the Zenith harts (R368). A word outside the tables decodes to none, which
the fetching machine turns into the illegal-instruction trap (R153, check 2; R368). -/

namespace Sys2Proof

/-! ## Thread instructions -/

/-- Bits [95:88]. -/
def wordOp (w : BitVec 96) : BitVec 8 := w.extractLsb' 88 8

/-- The fields of a word (R137). -/
def wordFields (w : BitVec 96) : Fields where
  guard := w.extractLsb' 84 4
  la    := w.extractLsb' 80 4
  dst   := w.extractLsb' 72 8
  sa    := w.extractLsb' 64 8
  sb    := w.extractLsb' 56 8
  ty    := w.extractLsb' 52 4
  mod   := w.extractLsb' 44 8
  hint  := w.extractLsb' 40 4
  sub   := w.extractLsb' 32 8
  imm   := w.extractLsb' 0 32

/-- The mnemonics of a major opcode (R152). -/
def opsOf : Nat → List Op
  | 0x01 => [.add, .sub, .mul, .mulh, .div, .rem, .min, .max, .and, .or, .xor, .andn, .orn, .shl,
      .shr, .sha, .rol]
  | 0x02 => [.neg, .abs, .not, .clz, .ctz, .popc, .brev, .bfx, .bfi, .sext, .zext]
  | 0x03 => [.mov, .movi, .movh, .sel, .cmp, .test]
  | 0x04 => [.fma, .sqrt, .cvt, .fclass, .rndi, .movsRead, .movsWrite]
  | 0x05 => [.amov, .astr, .aadv, .lea]
  | 0x06 => [.pand, .por, .pxor, .pnot, .pmov]
  | 0x08 => [.br, .brx, .call, .callx, .ret, .loop, .loopx, .nop, .yield, .waitl]
  | 0x10 => [.vadd, .vsub, .vmul, .vfma, .vmin, .vmax, .vdiv, .vand, .vor, .vxor, .vshl, .vshr,
      .vsha, .vdot]
  | 0x11 => [.vabs, .vneg, .vsqrt, .vrcp, .vrsq, .vexp2]
  | 0x12 => [.vsel, .vmaskAnd, .vmaskOr, .vmaskXor, .vmaskAndn, .vmaskNot, .vmaskSet, .vmaskGet,
      .viota, .vcmp]
  | 0x13 => [.vmov, .vbcast, .vext, .vins, .vshuf, .vrot]
  | 0x14 => [.vreds, .vredmMin, .vredmMax, .vscan]
  | 0x15 => [.vcvt, .vwidn, .vnarr, .vqnt, .vdqt, .vsprs, .vxpnd]
  | 0x20 => [.ld, .st, .ldv, .stv, .vlds, .vsts, .vgath, .vscat, .pref, .wbk, .invl, .fence]
  | 0x21 => [.atadd, .atsub, .atmin, .atmax, .atand, .ator, .atxor, .atswp, .atcas, .atfadd, .atinc]
  | 0x22 => [.cpyIn, .cpyOut, .cpyGlobal, .cpy2dIn, .cpy2dOut, .cpyl, .cwait]
  | 0x23 => [.tobj, .tdefBox, .tdefSpan, .tacq, .ttry, .trel, .tdrop, .tqry, .tsplt]
  | 0x28 => [.mldbLocal, .mldbTile, .mmaLocal, .mmaTile, .mclr, .mdrn, .mhnd, .mwait, .mcmd, .mstat]
  | 0x29 => [.send, .sendv, .sendt, .rls, .poll, .waitq]
  | 0x2A => [.spawn, .spawnr, .rnext, .done, .lnch, .wcfg, .wqry]
  | 0x2B => [.bar, .bara, .barw, .wake, .sleep, .evq]
  | 0x2C => [.ratq, .ratr]
  | 0x30 => [.trap, .sysc, .sret, .csrr, .csrw, .csrx, .tlbiVa, .tlbiAs, .tlbiAll, .irq, .bkpt, .halt]
  | _ => []

/-- Whether the fields, under a major opcode, are a legal word of this mnemonic. -/
def Op.accepts (o : Op) (opc : Nat) (f : Fields) : Bool :=
  o.row.opc == opc && o.row.subs.contains f.sub.toNat && o.row.legal f

/-- The mnemonic of a word, if its encoding is legal (R153, check 2). -/
def wordMnemonic (w : BitVec 96) : Option Op :=
  let f := wordFields w
  (opsOf (wordOp w).toNat).find? (fun o => o.accepts (wordOp w).toNat f)

/-- The instruction of a 96-bit word; none raises the illegal-instruction trap. -/
def decodeThread (w : BitVec 96) : Option Instr :=
  (wordMnemonic w).map (fun o => o.instr (wordFields w))

/-- The word of a mnemonic and its fields (R137). -/
def Op.word (o : Op) (f : Fields) : BitVec 96 :=
  BitVec.ofNat 8 o.row.opc ++ f.guard ++ f.la ++ f.dst ++ f.sa ++ f.sb ++ f.ty ++ f.mod ++
    f.hint ++ f.sub ++ f.imm

/-! ## Capability instructions -/

/-- funct7 of a capability instruction (R368). -/
def ZOp.funct7 : ZOp → Nat
  | .cgrant => 0 | .cderive => 1 | .cmove => 2 | .crevoke => 3 | .cread => 4
  | .ccheck => 5 | .cldadv => 6 | .cstadv => 7 | .ccount => 8 | .chand => 9

/-- The forms that have a destination register (R368). -/
def ZOp.hasRd : ZOp → Bool
  | .cderive | .cread | .ccheck | .cldadv | .ccount => true
  | .cgrant | .cmove | .crevoke | .cstadv | .chand => false

/-- The capability instruction of a funct7 value. -/
def zopOf : Nat → Option ZOp
  | 0 => some .cgrant | 1 => some .cderive | 2 => some .cmove | 3 => some .crevoke
  | 4 => some .cread | 5 => some .ccheck | 6 => some .cldadv | 7 => some .cstadv
  | 8 => some .ccount | 9 => some .chand | _ => none

/-- The register numbers of a word. -/
def wordZFields (w : BitVec 32) : ZFields where
  rd  := w.extractLsb' 7 5
  rs1 := w.extractLsb' 15 5
  rs2 := w.extractLsb' 20 5

/-- Whether a hart's word lies in opcode custom-0. -/
def isCustom0 (w : BitVec 32) : Bool := w.extractLsb' 0 7 == 0x0B#7

/-- The capability instruction of a hart's word; a custom-0 word with none raises the
illegal-instruction exception of the hart. -/
def decodeZenith (w : BitVec 32) : Option Instr :=
  if isCustom0 w && w.extractLsb' 12 3 == 0#3 then
    match zopOf (w.extractLsb' 25 7).toNat with
    | some o =>
      let z := wordZFields w
      if o.hasRd || z.rd == 0#5 then some (o.instr z) else none
    | none => none
  else none

/-- The word of a capability instruction. -/
def ZOp.word (o : ZOp) (z : ZFields) : BitVec 32 :=
  BitVec.ofNat 7 o.funct7 ++ z.rs2 ++ z.rs1 ++ 0#3 ++ z.rd ++ 0x0B#7

/-! ## Bytes -/

/-- The bytes of a number in ascending address order. -/
def leBytes : Nat → Nat → List Byte
  | 0, _ => []
  | n + 1, v => BitVec.ofNat 8 v :: leBytes n (v / 256)

/-- The number that little-endian bytes hold. -/
def leNat : List Byte → Nat
  | [] => 0
  | b :: bs => b.toNat + 256 * leNat bs

/-- The thread instruction at the front of a byte string, and the bytes after it. -/
def decode (bs : List Byte) : Option (Instr × List Byte) :=
  if bs.length < 12 then none
  else (decodeThread (BitVec.ofNat 96 (leNat (bs.take 12)))).map (fun i => (i, bs.drop 12))

/-- The capability instruction at the front of a byte string, and the bytes after it. -/
def decodeHart (bs : List Byte) : Option (Instr × List Byte) :=
  if bs.length < 4 then none
  else (decodeZenith (BitVec.ofNat 32 (leNat (bs.take 4)))).map (fun i => (i, bs.drop 4))

/-! ## The encoder -/

/-- The capability mnemonic and register numbers of a step; none for any other. -/
def Instr.zenith? : Instr → Option (ZOp × ZFields)
  | .cgrant z => some (.cgrant, z)
  | .cderive z => some (.cderive, z)
  | .cmove z => some (.cmove, z)
  | .crevoke z => some (.crevoke, z)
  | .cread z => some (.cread, z)
  | .ccheck z => some (.ccheck, z)
  | .cldadv z => some (.cldadv, z)
  | .cstadv z => some (.cstadv, z)
  | .ccount z => some (.ccount, z)
  | .chand z => some (.chand, z)
  | _ => none

/-- The bytes of an instruction in memory: 12 of a thread instruction, 4 of a capability
instruction, none of a hardware step, which has no encoding. -/
def encode (i : Instr) : List Byte :=
  match i.thread? with
  | some (o, f) => leBytes 12 (o.word f).toNat
  | none =>
    match i.zenith? with
    | some (o, z) => leBytes 4 (o.word z).toNat
    | none => []

/-- The instruction that the decoder reads from a word of the given width, its bytes laid out
as the part stores them. -/
def decodeTableWord (nbits w : Nat) : Option Instr :=
  if nbits ≤ 32 then (decodeHart (leBytes 4 (w % 2 ^ nbits))).map Prod.fst
  else if nbits ≤ 96 then (decode (leBytes 12 (w % 2 ^ nbits))).map Prod.fst
  else none

end Sys2Proof
end

