-- ==== Sys2Proof/Machine/Types.lean ====
section
/-! DEFINITION. The records that the state is made of: what a context, a core, a field hub, a
stack and a launch hold. Every field's default is its value at reset (R394), or the value the
assumption log names where the spec gives none. -/

namespace Sys2Proof.Machine

open Sys2Proof

/-! ## Faults as the part delivers them -/

/-- A fault to be delivered: cause and value of R337, the code of TRAP and BKPT, the engine
mark, the log entry of a refusal (R339). -/
structure Exc where
  cause : Nat
  tval  : Word := 0
  code  : Nat := 0
  eng   : Bool := false
  loge  : Nat := 0
  deriving DecidableEq, Repr

/-! ## A context -/

/-- The states of a context table entry (R22); DORMANT is split into ready and parked. -/
inductive CtxSt where
  | free | issuing | ready | parked | quiescing
  deriving DecidableEq, Repr

/-- What a parked context waits for (R22). -/
inductive Wait where
  /-- nothing -/
  | none
  /-- a message in a queue (R263) -/
  | msg (q : Nat)
  /-- a wake, or the tick of a timeout; the register the SLEEP writes (R279) -/
  | sleep (deadline : Option Nat) (d : BitVec 8)
  /-- the end of a barrier's phase: scope, number of the place, barrier, phase (R277) -/
  | bar (scope inst b phase : Nat)
  /-- an event record (R280) -/
  | event
  /-- the grant of a TACQ (R238) -/
  | tenure
  /-- the release of a trap-queue slot (R344) -/
  | slot (k : Nat)
  /-- the release of any trap-queue slot (R344, step 4) -/
  | anySlot
  /-- the supervisor (R286) -/
  | halted
  deriving DecidableEq, Repr

/-- An entry of the hardware loop stack (R186, R189). -/
structure LoopEnt where
  start : Word
  stop  : Word
  rem   : Nat
  atS   : Bool
  deriving DecidableEq, Repr

/-- A register as resolved at issue (R150, rule 7). -/
inductive Slot where
  | none
  /-- an `x` register by its place: 1 to 7, or 64 + window slot -/
  | x (n : Nat)
  | a (n : Nat) | d (n : Nat) | k (n : Nat) | p (n : Nat)
  deriving DecidableEq, Repr

/-- One element of a memory access: lane, physical address, bytes, address as named (R337). -/
structure Elem where
  lane  : Nat
  pa    : Nat
  bytes : Nat
  named : Word
  deriving DecidableEq, Repr

/-- An access that has issued and is not yet performed. -/
inductive Work where
  /-- nothing remains -/
  | none
  /-- a scalar load into a slot: TYPE, class, element -/
  | load (ty cls : Nat) (dst : Slot) (el : Elem)
  /-- a vector load: lane bytes, class, the enabled elements -/
  | vload (lane cls : Nat) (dst : Nat) (els : List Elem)
  /-- an atomic: minor opcode, TYPE, ordering, scope, operand, expected value -/
  | atomic (sub ty ord scope : Nat) (dst : Slot) (b old : Word) (el : Elem)
  /-- a tenure request -/
  | tacq (handle : Word) (write : Bool) (scope : Nat)
  /-- a snapshot of the array state: selector, own entries still ahead -/
  | mstat (sel : Nat) (dst : Slot) (after : Nat)
  deriving DecidableEq, Repr

/-- The result of a long-latency instruction, waiting to land. -/
inductive Result where
  | none
  /-- a value for a slot -/
  | scalar (dst : Slot) (v : Word)
  /-- the bits of a vector register that the mask selects -/
  | vector (n : Nat) (mask v : Vec)
  deriving DecidableEq, Repr

/-- A long-latency instruction that has issued and not landed (R150). -/
structure Pend where
  /-- its PC -/
  pc     : Word
  /-- its number in the thread's order of issue -/
  idx    : Nat
  /-- window instructions not yet issued -/
  left   : Nat
  done   : Bool
  result : Result
  flags  : BitVec 5
  fault  : Option Exc
  work   : Work
  /-- vclk count of the core's field when its access stalled on tenure (R113) -/
  since  : Option Nat
  /-- issued at level S -/
  sup    : Bool
  /-- the packets that carry it to other cubes: cube and end-to-end sequence (R376) -/
  e2e    : List (Nat × Nat) := []
  deriving DecidableEq, Repr

/-- An entry of an array queue (R246). -/
inductive ArrOp where
  /-- load B from eight blocks of the vault: local address, bank format -/
  | mldbLocal (addr : Nat) (fmt : BitVec 8)
  /-- load B from records of a tensor object: physical addresses of records and exponents -/
  | mldbTile (els : List (Nat × Nat)) (fmt : BitVec 8)
  /-- accumulate rows from blocks of the vault -/
  | mmaLocal (row cnt : Nat) (k : BitVec 32) (addr : Nat) (fmt : BitVec 8)
  /-- accumulate rows from records of a tensor object -/
  | mmaTile (row cnt : Nat) (k : BitVec 32) (els : List (Nat × Nat)) (fmt : BitVec 8)
  | mclr (row cnt : Nat)
  deriving DecidableEq, Repr

/-- An array queue entry: the operation, who receives its flags, how many of its rows the
array has accumulated, and whether it came as a command (R257, R259). -/
structure ArrEntry where
  op     : ArrOp
  /-- the context and activation whose FPST takes the flags -/
  owner  : Nat
  act    : Nat
  cmd    : Bool
  done   : Nat := 0
  /-- flags of the rows so far -/
  fl     : BitVec 5 := 0
  /-- number of the entry in the order of the context's queue -/
  seq    : Nat
  deriving DecidableEq, Repr

/-- A tenure in a context's list (R103). -/
structure Tenure where
  handle : Word
  write  : Bool
  scope  : Nat
  deriving DecidableEq, Repr

/-- What a physical frame holds (R74, R75): a local page of a context, or a named region, whose
owner is `namedOwner`. -/
structure Frame where
  owner : Nat
  page  : Nat
  dirty : Bool
  deriving DecidableEq, Repr

/-- The owner shown for a named region's frame. -/
def namedOwner : Nat := 2 ^ 24

/-- A posted-store refusal waiting for its boundary (R343). -/
structure Pending where
  cause : Nat
  addr  : Word
  entry : Nat
  size  : Nat
  mask  : Word
  data  : Word
  count : Nat
  deriving DecidableEq, Repr

/-- The range of a range task at the hub (R31). -/
structure Rng where
  hi : Nat
  c  : Nat
  g  : Nat
  deriving DecidableEq, Repr

/-- A posted store that waits for an entry of the log (R218): place, bytes, byte mask, data, address as
named, and the member cube of a replica. -/
structure ToPost where
  pa     : Nat
  n      : Nat
  mask   : Nat
  data   : Vec
  named  : Word
  member : Option Nat
  deriving DecidableEq, Repr

/-- A context: its register context (R70), trap state (R339), array state (R245), and what
its hub keeps for it. Unlisted registers read as R26 sets them at activation. -/
structure Ctx where
  st      : CtxSt := .free
  task    : Option Task := none
  /-- number of the activation -/
  act     : Nat := 0
  pc      : Word := 0
  /-- level S (R298) -/
  sup     : Bool := false
  xs      : Map Word := []
  vs      : Map Vec := []
  as      : Map Word := []
  ds      : Map (BitVec 32) := []
  es      : Map (BitVec 64) := []
  ks      : Map (BitVec 32) := []
  preds   : BitVec 8 := 1
  fpst    : Word := 0
  bfmt    : Map (BitVec 8) := []
  wb      : Nat := 0
  mhnd    : Word := 0
  loops   : List LoopEnt := []
  tcause  : Word := 0
  tval    : Word := 0
  tepc    : Word := 0
  tstat   : Word := 0
  tscr    : Word := 0
  /-- the thread counters (R182): bank conflicts, instructions, cycles, lookahead waits -/
  vcnf    : Word := 0
  vins    : Word := 0
  vcyc    : Word := 0
  vlaw    : Word := 0
  /-- an instruction re-executes alone: the resume PC (R341) -/
  lone    : Option Word := none
  /-- the resume PC captured at the entry of a replayable trap, and the slot of its record (R353) -/
  resume  : Word := 0
  tslot   : Option Nat := none
  /-- instructions issued since activation -/
  issued  : Nat := 0
  pend    : List Pend := []
  accRows : Map (BitVec 256) := []
  kcount  : Map Nat := []
  drain   : BitVec 16 := 0
  bMant   : Map (BitVec 16) := []
  bExp    : BitVec 64 := 0
  bWidth  : BitVec 4 := 0
  bValid  : Bool := false
  arrQ    : List ArrEntry := []
  arrSeq  : Nat := 0
  arrErr  : List Exc := []
  /-- rows of an MDRN still to dispatch while it holds its slot -/
  drained : Nat := 0
  /-- queue and slot of the message held (R261) -/
  held    : Option (Nat × Nat) := none
  /-- a message that it held was discarded by a soft error: its next POLL or WAITQ sees that (R350) -/
  lost    : Bool := false
  copySeq : Nat := 0
  /-- failed copies whose failure is pending: sequence and fault (R233) -/
  copyErr : List (Nat × Exc) := []
  tens    : List Tenure := []
  /-- handles the task created, with their stacks in the handle (R101) -/
  made    : List Word := []
  notify  : Word := 0
  /-- the always-on notify latch (R362) -/
  latch   : Word := 0
  events  : List Word := []
  evDrop  : Nat := 0
  cevon   : Bool := false
  refusal : Option Pending := none
  wait    : Wait := .none
  /-- when the context became ready (R23) and when it entered its slot (R320) -/
  readyAt : Nat := 0
  slotAt  : Nat := 0
  /-- the number of its issue slot -/
  slotNo  : Nat := 0
  /-- vclk count when it became ready, for the rise of its slot priority (R319) -/
  readyV  : Nat := 0
  slotPri : Nat := 0
  /-- ordinary local pages accessed since activation (R27) -/
  touched : BitVec 12 := 0
  rng     : Option Rng := none
  /-- a drain handler: issuing context, its activation, row (R255) -/
  drainOf : Option (Nat × Nat × Nat) := none
  /-- vclk count when a store of the context began to stall on tenure, and its address (R113) -/
  stallAt : Option (Nat × Word) := none
  /-- an instruction that waits for its unit holds a ticket there -/
  ticket  : Option Nat := none
  /-- an MCMD that waits: target, command, the target's answer (R259) -/
  mcmd    : Option (Word × List Word × Option Nat) := none
  /-- an instruction that has begun an exchange and waits (R321): a SENDT, an LNCH, a write of L2CFG; the
  answer, once it is there (R265, R272, R287) -/
  answer  : Option (Option Nat) := none
  /-- a DONE has issued and waits (R322) -/
  ending  : Bool := false
  /-- arrival at the hub made by a SYSC, SEND or MCMD that still waits -/
  reserved : Option (Nat × Nat × Nat) := none
  /-- the next access of the thread that issues is performed later, not at its issue (R124) -/
  delay : Bool := false
  /-- an access to its own field's scratch waits since STATE read 0b01: how many instructions had issued (R86) -/
  scratchAt : Option Nat := none
  /-- what a store has still to post: the thread issues nothing until the log has taken it (R218) -/
  toPost : List ToPost := []
  deriving DecidableEq, Repr

/-! ## A core -/

/-- The states of a message slot (R261). -/
inductive MsgSt where
  | free
  /-- held for the reply to a SYSC request of a context: context, activation, sequence -/
  | reply (ctx act : Nat) (seq : Nat)
  | queued
  | held
  deriving DecidableEq, Repr

/-- A message slot: sender name and context, words, order of queueing, and the producer whose
allowance it counts against (channel, producer core) (R35, R263). -/
structure MsgSlot where
  st     : MsgSt := .free
  sender : BitVec 32 := 0
  n      : Nat := 0
  words  : List Word := []
  order  : Nat := 0
  chan   : Option (Nat × Nat) := none
  /-- the handler that was bound when the message arrived (R30) -/
  hand   : Option Task := none
  bad    : Bool := false
  deriving DecidableEq, Repr

/-- One contiguous piece of a copy: source and destination places and the bytes moved. A place
is a byte of the physical vault of the core, or a physical address, as the copy says. -/
structure Seg where
  src   : Nat
  dst   : Nat
  n     : Nat
  deriving DecidableEq, Repr

/-- What a copy does with its segments. -/
inductive CopyKind where
  | bytes
  /-- CPYL between banks of which one has blocks: source and destination formats, TYPE, rounding
  mode, blocks, local addresses -/
  | convert (sfmt dfmt : BitVec 8) (ty rm n : Nat) (src dst : Nat)
  deriving DecidableEq, Repr

/-- A copy in the field's copy engine (R228 to R233). -/
structure Copy where
  tid   : Nat
  act   : Nat
  seq   : Nat
  cls   : Nat
  kind  : CopyKind
  segs  : List Seg
  /-- whether the source and the destination are on the global side -/
  gsrc  : Bool
  gdst  : Bool
  /-- instructions of the thread, and entries of its core's log, that came before it (R124) -/
  idx   : Nat := 0
  lord  : Nat := 0
  /-- the local bytes that a converting copy reads and writes -/
  srcs  : List (Nat × Nat) := []
  dsts  : List (Nat × Nat) := []
  /-- global destination lines that the engine has taken ownership of (R115) -/
  owned : List Nat := []
  deriving DecidableEq, Repr

/-- A range scoreboard entry (R83): physical vault ranges of one local extent, the copy's tag, the
context. A query's answer has the sequence 0 and its ticket. -/
structure SbEnt where
  rs     : List (Nat × Nat)
  tid    : Nat
  seq    : Nat
  ticket : Nat := 0
  deriving DecidableEq, Repr

/-- An entry of the posted-store log (R343). -/
structure LogEnt where
  tid   : Nat
  act   : Nat
  named : Word
  pa    : Nat
  size  : Nat
  mask  : Word
  data  : Vec
  /-- the number of the entry in order of issue -/
  order : Nat
  /-- resends of the packet that carries it (R376) -/
  tries : Nat := 0
  /-- the packets that carry it to other cubes: cube and end-to-end sequence (R376) -/
  e2e   : List (Nat × Nat) := []
  /-- a collective replica: the member cube (R380) -/
  member : Option Nat := none
  /-- the task that issued it (R343) -/
  task  : Option Task := none
  deriving DecidableEq, Repr

/-- What the resolution of addresses rests on (R88, R336): the home map, and of a re-stripe in progress its entry,
its new image and the granules moved. -/
structure HomeView where
  hmap  : Map Word
  busy  : Bool
  ent   : Nat
  rsnew : Map Word
  moved : List Nat
  deriving DecidableEq, Repr

/-- One leaf held by a TLB (R330). -/
structure TlbEnt where
  asid : Nat
  va   : Nat
  size : Nat
  pte  : Word
  /-- for a read-duplicate page in a core's TLB: what the core chose its copies by; the choice stands while the
  entry does (R329) -/
  hm   : Option HomeView := none
  deriving DecidableEq, Repr

/-- A block of an instruction cache, or fetched ahead and poisoned (R140, R346). -/
structure IBlock where
  asid   : Nat
  /-- the block's number: virtual and physical address divided by 128 -/
  va     : Nat
  pa     : Nat
  data   : Line
  poison : Bool
  /-- only fetched ahead: none of its instructions has come to issue (R346) -/
  ahead  : Bool := false
  deriving DecidableEq, Repr

/-- A line of a context's image in its core's register cache: context number, line, whether it is drowsy, vclk
count of the field when an instruction last touched it (R71). -/
structure RegLine where
  ctx    : Nat
  line   : Nat
  drowsy : Bool := false
  at_    : Nat
  deriving DecidableEq, Repr

/-- A core and its hub-side tables. -/
structure Core where
  /-- the slot that issued last (R323) -/
  rr      : Nat := 3
  /-- slots whose instruction was not ready since one last issued, and the turn under way: context, what it had
  issued before (R323; the model's own) -/
  tried   : List Nat := []
  turnOf  : Option (Nat × Nat) := none
  ctxb    : Word := 0
  lpsel   : Nat := 0
  ctxsel  : Nat := 0
  ferr    : Bool := false
  /-- contexts being flushed (R301) -/
  flushing : List Nat := []
  msgs    : Map MsgSlot := []
  hand0   : Option Task := none
  hand1   : Option Task := none
  /-- contexts whose handler activation runs on a queue (R30) -/
  hrun0   : Option Nat := none
  hrun1   : Option Nat := none
  ports   : Map (List Vec) := []
  copies  : List Copy := []
  sb      : List SbEnt := []
  log     : Map LogEnt := []
  tlb     : List TlbEnt := []
  icache  : List IBlock := []
  frames  : Map Frame := []
  /-- pages whose fill an access waits for: context and page (R75) -/
  wants   : List (Nat × Nat) := []
  lseq    : Nat := 0
  /-- the number that the next entry of the posted-store log takes -/
  ord     : Nat := 0
  /-- the register cache, at most 32 lines, the one touched last first; every other line is gated (R71) -/
  regs    : List RegLine := []
  /-- image lines held in the system region, at most 384, newest first: context number, line (R71, R72) -/
  back    : List (Nat × Nat) := []
  /-- an aperture write has taken banks since time last passed (R79; the model's own) -/
  apertured : Bool := false
  /-- messages waiting for a slot: sender context, queue (R262) -/
  sendQ   : List (Nat × Nat) := []
  deriving DecidableEq, Repr

/-! ## A field -/

/-- The states of a held line (R97). -/
inductive LineSt where
  | s | o | l
  deriving DecidableEq, Repr

/-- A line of an L2 slice, or of the Zenith cache. -/
structure L2Line where
  st    : LineSt
  dirty : Bool
  data  : Line
  tags  : BitVec 8
  /-- tenure mark (R97) -/
  mark  : Bool
  /-- lease expiry EXP (R116) -/
  exp   : Nat
  /-- held in ways 8 to 15 (R84) -/
  high  : Bool
  /-- line-check syndrome and poison, as carried (R92, R350) -/
  syn   : BitVec 32
  bad   : Bool
  deriving DecidableEq, Repr

/-- A queued task (R315, R316). -/
structure QTask where
  task   : Task
  level  : Nat
  stamp  : Nat
  bypass : Nat
  /-- vclk count of the field when its aging count began -/
  since  : Nat
  /-- a retry that waits for a context, ahead of every task (R348) -/
  retry  : Bool
  /-- the core of the fault that a retry answers: it starts on another one (R348) -/
  avoid  : Option Nat := none
  deriving DecidableEq, Repr

/-- A work distributor (R273). -/
structure Dist where
  x     : Nat := 0
  y     : Nat := 0
  z     : Nat := 0
  order : Nat := 0
  n     : Nat := 0
  deriving DecidableEq, Repr

/-- An accepted query and the item it took (R275). -/
structure Query where
  tid    : Nat
  ticket : Nat
  core   : Nat
  lo     : Nat
  item   : BitVec 128
  deriving DecidableEq, Repr

/-- A request in a field's miss buffer (R331). -/
structure Miss where
  core   : Nat
  tid    : Nat
  asid   : Nat
  va     : Nat
  /-- the walk that serves it -/
  walk   : Option Nat
  /-- the instruction that asked: its PC, and how many its thread had issued before -/
  pc     : Word := 0
  idx    : Nat := 0
  deriving DecidableEq, Repr

/-- A walk in progress. -/
structure Walk where
  id   : Nat
  asid : Nat
  va   : Nat
  deriving DecidableEq, Repr

/-- The answer of a walk that faulted, kept until the instruction of the thread that asked takes it. -/
structure MissFault where
  core : Nat
  tid  : Nat
  asid : Nat
  va   : Nat
  pc   : Word := 0
  idx  : Nat := 0
  deriving DecidableEq, Repr

/-- A pending line miss of the slice (R120): what asked, and the largest invalidation
sequence that arrived. -/
structure LineMiss where
  inval : Option Nat := none
  deriving DecidableEq, Repr

/-- A fill in flight to a slice. -/
structure LineMsg where
  line : Nat
  seq  : Nat
  data : Line
  tags : BitVec 8
  syn  : BitVec 32
  bad  : Bool
  deriving DecidableEq, Repr

/-- A ratio vector: matrix, vector, network, memory (R281). -/
structure Ratio where
  m : Nat := 4
  v : Nat := 4
  n : Nat := 4
  d : Nat := 4
  deriving DecidableEq, Repr

/-- A field: its hub, its L2 slice and its trap queue. -/
structure Field where
  fpart   : Nat := 0
  flid    : Nat := 0
  tvec    : Word := 0
  flagor  : BitVec 5 := 0
  l2state : Nat := 0
  surr    : Bool := false
  /-- a SURR write held during a transition (R85) -/
  surrHeld : Option Bool := none
  l2wbc   : Nat := 0
  l2      : Map L2Line := []
  miss    : Map LineMiss := []
  fills   : List LineMsg := []
  tasks   : List QTask := []
  htab    : List (Word × Nat) := []
  dists   : Map Dist := []
  queries : List Query := []
  tlb     : List TlbEnt := []
  misses  : List Miss := []
  walks   : List Walk := []
  mfaults : List MissFault := []
  trec    : Map (List Word) := []
  tqvalid : BitVec 64 := 0
  tqiid   : Nat := 0
  tqien   : Bool := false
  tqovf   : Bool := false
  pdisc   : BitVec 32 := 0
  secor   : BitVec 32 := 0
  seunc   : BitVec 32 := 0
  /-- threads parked without a record, oldest first (R344) -/
  tqwait  : List Nat := []
  /-- those of them that a freed slot has made ready, in the order in which they re-execute (R344) -/
  tqgo    : List Nat := []
  /-- fatal records written in one cycle: the time, and each one's core and slot (R353) -/
  fatals  : Nat × List (Nat × Nat) := (0, [])
  /-- faults charged to tasks that have ended, whose fatal records are still to be written: context, task,
  fault, refusal (R343, R401) -/
  orphans : List (Nat × Option Task × Exc × Option Pending) := []
  /-- largest remaining range published (R318) -/
  maxRng  : Nat := 0
  ratio   : Ratio := {}
  gen     : BitVec 16 := 0
  /-- the vector a switch is to reach; whether the switch has begun; the vector that a later run
  granted meanwhile (R360, R361) -/
  target  : Option Ratio := none
  switching : Bool := false
  again   : Option Ratio := none
  /-- vclk cycles of the field, and the time they were counted at -/
  vclk    : Nat := 0
  vclkAt  : Nat := 0
  ftcmp   : Word := 0
  /-- vclk cycles when a wrap was announced: its pause counts in no tenure wait (R113) -/
  pauseV  : Nat := 0
  /-- the compare fell due at a wrap while the field was frozen (R118, R351) -/
  ftdue   : Bool := false
  frozen  : Bool := false
  deriving DecidableEq, Repr

/-! ## A stack -/

/-- The kinds of directory records in use (R93). -/
inductive RecKind where
  | box | span | region
  deriving DecidableEq, Repr

/-- An exact sharer entry (R97). -/
structure Sharer where
  own : Bool
  fi  : Nat
  deriving DecidableEq, Repr

/-- A directory record (R94). -/
structure DirRec where
  kind   : RecKind
  piece  : Bool := false
  part   : Nat
  gen    : Nat
  lid    : Nat := 0
  gseq   : Nat := 0
  ten    : Nat := 0
  rcnt   : Nat := 0
  next   : Nat := 0
  whv    : Bool := false
  whold  : BitVec 32 := 0
  sh0    : Option Sharer := none
  sh1    : Option Sharer := none
  sh2    : Option Sharer := none
  sh3    : Option Sharer := none
  coarse : Bool := false
  cvec   : BitVec 64 := 0
  zs     : Bool := false
  zown   : Bool := false
  didx   : Nat := 0
  base   : Nat := 0
  len    : Nat := 0
  lo     : List Nat := []
  hi     : List Nat := []
  /-- the task that created it: context and activation -/
  owner  : Option (Nat × Nat) := none
  /-- directory cycle of its last split or conflict (R110, R112) -/
  quiet  : Nat := 0
  /-- its task has been killed: it ends once the stores of its holders are performed (R101, R105) -/
  ending : Bool := false
  deriving DecidableEq, Repr

/-- A waiting tenure request (R102). -/
structure Waiter where
  tid    : Nat
  act    : Nat
  slot   : Nat
  handle : Word
  write  : Bool
  scope  : Nat
  stamp  : Nat
  deriving DecidableEq, Repr

/-- A snapshot engine (R382). -/
structure Snap where
  busy   : Bool := false
  status : Nat := 0
  rej    : Bool := false
  step   : Word := 0
  list   : Word := 0
  slot0  : Word := 0
  slot1  : Word := 0
  idx    : Word := 0
  shtab  : Word := 0
  shself : Nat := 0
  /-- SNCNT: pages written by the last snapshot, references recorded by it -/
  nwr    : BitVec 32 := 0
  nref   : BitVec 32 := 0
  rstep  : Word := 0
  /-- partition and command in progress: 1 snapshot, 2 restore -/
  part   : Nat := 0
  cmd    : Nat := 0
  /-- the checks are made and the pages are listed -/
  begun  : Bool := false
  /-- S: the slot that the snapshot writes, from SNSTEP as its checks are made (R384) -/
  slot   : Nat := 0
  /-- pages still to do; the manifest so far, newest first: page, kind, location, hash -/
  todo   : List Nat := []
  mani   : List (Nat × Nat × Nat × BitVec 128) := []
  cut    : Nat := 0
  /-- since when the engine waits for WRITTEN of an index entry, fixed-clock cycles (R385) -/
  waitAt : Option Nat := none
  deriving DecidableEq, Repr

/-- A stack: tile directory, descriptor table, snapshot engine. -/
structure Stack where
  dir     : Map DirRec := []
  /-- generation of a slot; 1 at reset (R100) -/
  gens    : Map Nat := []
  /-- slots retired until reset (R100) -/
  retired : List Nat := []
  /-- descriptors and their users (R95) -/
  descs   : Map (BitVec 256 × Nat) := []
  waiters : List Waiter := []
  stamp   : Nat := 0
  snap    : Snap := {}
  /-- lines pinned by tile fetches: line, context, entry sequence (R115) -/
  pins    : List (Nat × Nat × Nat) := []
  deriving DecidableEq, Repr

/-! ## Launches and partitions -/

/-- A barrier of a launch (R276). -/
structure Barrier where
  phase   : Nat := 0
  arrived : List Nat := []
  deriving DecidableEq, Repr

/-- A launch, pending or bound (R310 to R314). -/
structure Launch where
  lid     : Nat
  seq     : Word
  /-- from the launch queue -/
  qsrc    : Bool
  /-- name and context of the submitter of an LNCH -/
  name    : BitVec 32
  part    : Nat
  asid    : Nat
  /-- the 64 words of its launch block -/
  block   : List Word
  bound   : Bool := false
  /-- fields in launch order (R33) -/
  fields  : List Nat := []
  /-- stages released (R39) -/
  staged  : List Nat := []
  bars    : Map Barrier := []
  /-- slots each producer holds: key channel × 2^20 + producer core (R35) -/
  used    : Map Nat := []
  /-- standing request, floors and lean order, as bits [47:0] of word 0x008 (R282) -/
  request : Word := 0
  /-- initial activations not yet made: core and task -/
  initial : List (Nat × Task) := []
  completing : Bool := false
  /-- its bind waits for the grant run that it has started (R313, step 2) -/
  binding : Bool := false
  deriving DecidableEq, Repr

/-- An LNCH that has arrived at the scheduler unit and waits to be judged (R310): its context and
activation, its block with the tags of its buffers, when it arrived. -/
structure LnchReq where
  tid    : Nat
  act    : Nat
  launch : Launch
  tags   : List Bool
  at_    : Nat
  deriving DecidableEq, Repr

/-- A task packet that waits at a home stack's hub for room in a queue (R315): the context and
activation of its SENDT, partition, stack, launch, record. -/
structure SendtWait where
  tid    : Nat
  act    : Nat
  part   : Nat
  stack  : Nat
  lid    : Nat
  words  : List Word
  deriving DecidableEq, Repr

/-- A partition (R302, R300). -/
structure Part where
  pctl   : Nat := 0
  pquota : Nat := 0
  pshare : Word := 0
  pasid  : Word := 0
  pirq   : Map Word := []
  /-- next SYSC sequence number (R285) -/
  sysSeq : Nat := 1
  /-- Eclipse registers (R351) -/
  ealign : Bool := false
  bkhit  : Bool := false
  frozen : Bool := false
  assert : Bool := false
  etick  : Word := 0
  esrc   : BitVec 32 := 0
  /-- the time of the BKPT that asserted Eclipse, and its context (R353) -/
  bkBy   : Option (Nat × Nat) := none
  /-- an assertion or a release is on its way -/
  ecount : Option Bool := none
  /-- ALIGN was written and its tick has not come -/
  earmed : Bool := false
  /-- a release waits for a snapshot (R384) -/
  erel   : Bool := false
  /-- service queue (R371) -/
  sqcap  : BitVec 128 := 0
  sqtag  : Bool := false
  sqiid  : Nat := 0
  sqcerr : Bool := false
  sqlogn : Nat := 4
  sqtail : Nat := 0
  sqhead : Nat := 0
  rplGone : Bool := false
  rplErr : Bool := false
  rplw   : Map Word := []
  /-- outstanding requests: sequence, caller context, activation, queue, slot -/
  outst  : List (Nat × Nat × Nat × Nat × Nat) := []
  deriving DecidableEq, Repr

/-! ## The Zenith complex and the links -/

/-- The privilege modes of a hart (R365). -/
inductive HMode where
  | m | hs | vs | vu | u
  deriving DecidableEq, Repr

/-- A hart: its registers, and the trap state of the RISC-V privileged architecture (R365). -/
structure Hart where
  running : Bool := false
  xs      : Map Word := []
  pc      : Word := 0
  mode    : HMode := .m
  medeleg : Word := 0
  hedeleg : Word := 0
  mstatus : Word := 0
  mtvec   : Word := 0
  mepc    : Word := 0
  mcause  : Word := 0
  mtval   : Word := 0
  hstatus : Word := 0
  vsstatus : Word := 0
  stvec   : Word := 0
  sepc    : Word := 0
  scause  : Word := 0
  stval   : Word := 0
  vstvec  : Word := 0
  vsepc   : Word := 0
  vscause : Word := 0
  vstval  : Word := 0
  /-- pending identities of the interrupt files: 0 M-level, 1 S-level, 2 to 8 guest -/
  imsic   : Map (List Nat) := []
  /-- their enabled identities, eidelivery and eithreshold (R366) -/
  ien     : Map (List Nat) := []
  idel    : Map Nat := []
  ithr    : Map Nat := []
  /-- floating-point registers -/
  fs      : Map Word := []
  /-- the other control and status registers, by number -/
  csr     : Map Word := []
  /-- the reservation of LR: physical address and size -/
  resv    : Option (Nat × Nat) := none
  deriving DecidableEq, Repr

/-- A Zhevzen link's registers and buffers (R375). -/
structure Link where
  lctl   : Nat := 0
  up     : Bool := false
  nbr    : Nat := 0
  replc  : BitVec 32 := 0
  dropc  : BitVec 32 := 0
  /-- next flit sequence expected, last one acknowledged, failed replays in a row -/
  rxSeq  : BitVec 12 := 0
  /-- a replay has been asked for: the highest sequence that arrived since (R375) -/
  hiSeq  : Option (BitVec 12) := none
  txSeq  : BitVec 12 := 0
  txAck  : BitVec 12 := 0
  fails  : Nat := 0
  /-- the link trains, as after reset (R394, step 5), or retrains: LINK_TRAINING ends it -/
  training : Bool := true
  /-- the CUBEID that was last sent to the neighbour (R375) -/
  idSent : Nat := 0
  /-- flits kept for replay, oldest first, and the packets that wait for room there -/
  replay : List Vec := []
  queue  : List Packet := []
  /-- flits sent, oldest first -/
  wire   : List Vec := []
  /-- payloads of a packet whose flits are arriving -/
  part   : List (BitVec 448) := []
  out    : List Packet := []
  deriving DecidableEq, Repr

/-- An end-to-end packet not yet acknowledged (R376). -/
structure E2E where
  cube   : Nat
  seq    : Nat
  tries  : Nat
  /-- when it was last sent, fixed-clock cycles -/
  sentAt : Nat
  packet : Packet
  deriving DecidableEq, Repr

/-- A SENDT whose packet is on its way to another cube (R265): cube and end-to-end sequence of the packet,
context and activation, address, launch, record. -/
structure TaskOut where
  cube   : Nat
  seq    : Nat
  tid    : Nat
  act    : Nat
  pa     : Nat
  lid    : Nat
  words  : List Word
  deriving DecidableEq, Repr

/-- Contributions to a reduction group: cube, word, value, in order of arrival (R379). -/
structure Contrib where
  group : Nat
  cube  : Nat
  word  : Nat
  value : BitVec 32
  deriving DecidableEq, Repr

end Sys2Proof.Machine
end

