-- ==== Sys2Proof/Machine/State.lean ====
section
/-! DEFINITION. The state of one cube, its value at reset, and the reasons a step can stop. -/

namespace Sys2Proof.Machine

open Sys2Proof

/-- Memory: bytes at locations, addresses strictly rising, no byte listed that equals what an
unlisted location reads as. A DRAM byte's location is
((cube × 4 + stack) × 32 + channel) × 2^33 + channel address; a field-scratch byte's and a
vault byte's location is its physical address (R80, R86). -/
abbrev Memory := List Host.Cell

/-- Whose step comes next. -/
inductive Turn where
  | hart (h : Nat)
  | thread (t : Nat)
  | event (i : Instr)
  deriving DecidableEq, Repr

/-- The scheduler window (R308) and the scheduler unit. -/
structure Sched where
  lqcap   : BitVec 128 := 0
  lqtag   : Bool := false
  cerr    : Bool := false
  rerr    : Bool := false
  logn    : Nat := 4
  en      : Bool := false
  lqtail  : Nat := 0
  lqhead  : Nat := 0
  psel    : Nat := 0
  bstat   : Nat := 0
  cmplfV  : Bool := false
  cmplf   : Nat := 0
  bindf   : BitVec 1024 := 0
  /-- launches pending or bound, oldest first -/
  launches : List Launch := []
  /-- last launch identifier given (R310) -/
  lastLid : Nat := 0
  /-- accepted launches of the queue -/
  qseq    : Nat := 0
  /-- LNCH requests not yet judged, in order of arrival (R310) -/
  reqs    : List LnchReq := []
  /-- task packets that wait for room at a hub of this cube, oldest first (R315) -/
  sendts  : List SendtWait := []
  deriving DecidableEq, Repr

/-- A shootdown that is not complete (R333): its sequence, its kind (0 `.va`, 1 `.as`, 2 `.all`),
the virtual page, the address space or the partition, and the listed fields whose hubs have not
acknowledged it. A hub that the state does not list holds nothing and has acknowledged. -/
structure Shoot where
  seq  : Nat
  kind : Nat
  va   : Nat
  who  : Nat
  left : List Nat
  deriving DecidableEq, Repr

/-- The translation window (R325), shootdown broadcast and re-stripe engine. -/
structure Trans where
  astb    : Word := 0
  sdseq   : BitVec 32 := 0
  sddone  : BitVec 32 := 0
  sdva    : Word := 0
  /-- shootdowns in progress, oldest first -/
  shoots  : List Shoot := []
  rsnew   : Map Word := []
  status  : Nat := 0
  busy    : Bool := false
  fwd     : Bool := false
  ent     : Nat := 0
  /-- next granule to move -/
  gran    : Nat := 0
  /-- granules moved: their forwarding records stand until RSRET (R335) -/
  moved   : List Nat := []
  /-- the image of entry ENT before the last re-stripe -/
  old     : Map Word := []
  /-- entry and image before each earlier re-stripe, newest first (R336) -/
  olds    : List (Nat × Map Word) := []
  deriving DecidableEq, Repr

/-- The Meridian arbiter (R354). -/
structure Meridian where
  cap    : Nat := 3000
  leak   : Nat := 600000
  idle   : Nat := 40
  runs   : BitVec 16 := 0
  crit   : Bool := false
  hot    : Bool := false
  ovr    : Bool := false
  busy   : Bool := false
  est    : BitVec 32 := 0
  tcap   : Nat := 3600
  tok    : Nat := 85
  thot   : Nat := 95
  temp   : Nat := 0
  ien    : Bool := false
  iid    : Nat := 0
  /-- coefficients that were written: key 32 d + n (R355) -/
  coef   : Map Nat := []
  /-- the coefficients and the leakage term that the last run took into use (R355) -/
  coefUse : Map Nat := []
  leakUse : Nat := 600000
  rot    : Map Nat := []
  /-- an event has asked for a run (R357) -/
  due    : Bool := false
  /-- every bound field is kept at 4/4/4/4 until TEMP ≤ TOK (R364) -/
  cold   : Bool := false
  /-- a run has taken place since reset -/
  ran    : Bool := false
  /-- when the last run started (R357) and TCAP last moved (R363), fixed-clock cycles -/
  runAt  : Nat := 0
  tcapAt : Nat := 0
  deriving DecidableEq, Repr

/-- The Zenith complex, its cache, PCIe and the links (chapter 20). -/
structure Zen where
  harts  : Map Hart := []
  cache  : Map L2Line := []
  mtime  : Word := 0
  /-- firmware has started mtime (R367) -/
  mtimeOn : Bool := false
  irt    : Map Word := []
  routes : Map Word := []
  groups : Map (List Word) := []
  contribs : List Contrib := []
  links  : Map Link := []
  e2eTx  : Map Nat := []
  unacked : List E2E := []
  /-- task packets sent to other cubes whose status has not come (R265) -/
  tasksOut : List TaskOut := []
  /-- sequences already acknowledged: key cube -/
  acked  : Map (List Nat) := []
  /-- the end-to-end sequence below which every packet of a cube has been performed here: key cube (R377) -/
  rxNext : Map Nat := []
  /-- packets of this cube that were reported undeliverable or refused, until their requests have taken it: cube and
  end-to-end sequence (R376) -/
  lost   : List (Nat × Nat) := []
  /-- packets that carry accesses and posted stores, until these are done: cube, end-to-end sequence, packet -/
  kept   : List ((Nat × Nat) × Packet) := []
  /-- the members that the present epoch of a group waits for: those when it began (R379, R381) -/
  epochs : Map (List Nat) := []
  pcie   : Map (Bool × Bool × Bool) := []
  /-- completions of PCIe reads: address, bytes, poisoned -/
  pcieOut : List (Word × List Byte × Bool) := []
  deriving DecidableEq, Repr

/-- What the boot ROM is doing (R396). -/
inductive BootPhase where
  /-- reset has ended and hart 0 starts the ROM -/
  | rom
  | done
  /-- both slots failed: hart 0 halted, ERROR_N asserted -/
  | failed
  /-- reset halted at step 2, with the rails up (R394) -/
  | halted
  /-- the supplies are removed (R398, R399) -/
  | off
  deriving DecidableEq, Repr

/-- The boot window (R393). -/
structure Boot where
  phase  : BootPhase := .rom
  fail   : Nat := 0
  slot   : Nat := 0
  done   : Bool := false
  rcause : Nat := 0
  /-- burnt rollback counter, when it exceeds the fused one -/
  rbcnt  : Nat := 0
  /-- rollback index of the booted image -/
  rbidx  : Nat := 0
  meas0  : BitVec 256 := 0
  meas1  : BitVec 256 := 0
  ataddr : Word := 0
  /-- where the report goes that is being signed: ATADDR at the write that started it (R397) -/
  atat   : Word := 0
  /-- time of the write of RSTCTL whose reset is on its way (R395) -/
  rstAt  : Option Nat := none
  /-- THERMTRIP_N is asserted: the last reset follows a trip (R399) -/
  tripN  : Bool := false
  aterr  : Bool := false
  atbusy : Bool := false
  errorN : Bool := false
  /-- words of a MEXT whose 32 bytes are not complete, and extensions that wait for a report -/
  mextW  : Map Word := []
  mextQ  : List (BitVec 256) := []
  deriving DecidableEq, Repr

/-- The cube. -/
structure State where
  /-- the thread whose instruction is executed: core identifier × 16 + context -/
  cur    : Nat
  /-- an access of the step in progress is held: the step has no effect and is taken again (the model's own) -/
  blocked : Bool
  turn   : Option Turn
  /-- events on their way: messages between units, and what the outside does -/
  agenda : List Instr
  /-- free values taken so far (the model's own) -/
  free   : Nat
  /-- cycles of the fixed 2.0 GHz clock since reset (the model's own) -/
  time   : Nat
  /-- cycles of the fixed clock that passed while the sidereal counter was held at its end; counts
  in domain cycles leave them out (R113, R118) -/
  held   : Nat
  mem    : Memory
  /-- error of the stored line check against the bytes, by DRAM line; 0 is a valid check -/
  syn    : Map (BitVec 32)
  /-- poisoned DRAM lines and vault words -/
  bad    : Map Bool
  /-- tags, eight per DRAM line (R306) -/
  tags   : Map (BitVec 8)
  ctxs   : Map Ctx
  cores  : Map Core
  fields : Map Field
  stks : Map Stack
  parts  : Map Part
  /-- home map words: key 8 e + w (R87) -/
  hmap   : Map Word
  cubeid : Nat
  /-- sidereal counter and its control (R300) -/
  sid    : Nat
  wrapn  : BitVec 8
  lease  : Nat
  master : Bool
  blost  : Bool
  biid   : Nat
  /-- ticks that the counter holds because it is ahead of the master (R119) -/
  sidHold : Nat
  /-- when the last beacon arrived, fixed-clock cycles (R119) -/
  beaconAt : Nat
  /-- a beacon has been taken: the cube belongs to the domain (R117) -/
  joined : Bool
  /-- the count of a beacon that ends a wrap, while accesses of this cube are still in flight (R117) -/
  wrapNext : Option Nat
  /-- what the last scan read shifted out of the test access port (R352) -/
  tap    : Nat
  /-- 0 running, 1 wrap announced, 2 held at the end, 3 a forced wrap announced (R117) -/
  wrap   : Nat
  sched  : Sched
  trans  : Trans
  mer    : Meridian
  zen    : Zen
  boot   : Boot
  deriving DecidableEq, Repr

/-- The cube right after reset: R394, step 6, power-on. Hart 0 runs the boot ROM; every other
table is empty, which reads as the reset values. -/
def State.reset : State where
  cur    := 0
  blocked := false
  turn   := some (.hart 0)
  agenda := []
  free   := 0
  time   := 0
  held   := 0
  mem    := []
  syn    := []
  bad    := []
  tags   := []
  ctxs   := []
  cores  := []
  fields := []
  stks := []
  parts  := []
  hmap   := []
  cubeid := 0
  sid    := 0
  wrapn  := 0
  lease  := 12
  master := false
  blost  := false
  biid   := 0
  sidHold := 0
  beaconAt := 0
  joined := false
  wrapNext := none
  tap    := 0
  wrap   := 0
  sched  := {}
  trans  := {}
  mer    := {}
  zen    := { harts := [(0, { running := true })] }
  boot   := {}

/-- Why the machine stops with a fault. -/
inductive Fault where
  /-- raised by step when the part has no supply or reset has halted it
  (R394, step 2; R399) and no event is on its way. Safe: nothing runs. -/
  | halted
  deriving DecidableEq, Repr

/-- Why the machine refuses a step. -/
inductive Refusal where
  /-- raised by an arm of exec that has no meaning yet; safe -/
  | notModelled (mnemonic : String)
  deriving DecidableEq, Repr

end Sys2Proof.Machine
end

