-- ==== Sys2Proof/Machine/Basics.lean ====
section
/-! DEFINITION. Sparse tables, memory, named parts of the state, and the monad that the
meanings of thread instructions are written in. -/

namespace Sys2Proof.Machine

open Sys2Proof

/-! ## Sparse tables -/

/-- The entry of a key, or the default. -/
def look {α : Type} (m : Map α) (k : Nat) (d : α) : α :=
  match m with
  | [] => d
  | (k', v) :: t => if k = k' then v else look t k d

/-- The entry of a key, if listed. -/
def look? {α : Type} (m : Map α) (k : Nat) : Option α :=
  match m with
  | [] => none
  | (k', v) :: t => if k = k' then some v else look? t k

/-- Lists a value under a key, in key order. -/
def put {α : Type} (m : Map α) (k : Nat) (v : α) : Map α :=
  match m with
  | [] => [(k, v)]
  | (k', v') :: t =>
    if k = k' then (k, v) :: t
    else if k < k' then (k, v) :: (k', v') :: t
    else (k', v') :: put t k v

/-- Drops a key. -/
def drop {α : Type} (m : Map α) (k : Nat) : Map α :=
  match m with
  | [] => []
  | (k', v') :: t => if k = k' then drop t k else (k', v') :: drop t k

/-! ## Memory -/

/-- The byte at a location; an unlisted location reads 0 (R394, step 4). -/
def Memory.byte (m : Memory) (a : Nat) : Byte :=
  match m with
  | [] => 0#8
  | (a', b) :: t => if a = a' then b else Memory.byte t a

/-- Writes one byte and keeps the canonical form. -/
def Memory.set (m : Memory) (a : Nat) (b : Byte) : Memory :=
  match m with
  | [] => if b = 0#8 then [] else [(a, b)]
  | (a', b') :: t =>
    if a < a' then (if b = 0#8 then (a', b') :: t else (a, b) :: (a', b') :: t)
    else if a = a' then (if b = 0#8 then t else (a, b) :: t)
    else (a', b') :: Memory.set t a b

/-- Whether all listed addresses lie above one. -/
def Memory.above (a : Nat) : Memory → Bool
  | [] => true
  | (a', _) :: t => a < a' && Memory.above a t

/-- The canonical form: addresses strictly rising, no byte 0 listed. -/
def Memory.wf : Memory → Bool
  | [] => true
  | (a, b) :: t => b != 0#8 && Memory.above a t && Memory.wf t

/-- Bytes at consecutive locations. -/
def Memory.bytes (m : Memory) (a : Nat) : Nat → List Byte
  | 0 => []
  | n + 1 => m.byte a :: Memory.bytes m (a + 1) n

/-- The little-endian value of bytes at consecutive locations (R2). -/
def Memory.val (m : Memory) (a n : Nat) : Nat := leNat (m.bytes a n)

/-- Writes bytes to consecutive locations. -/
def Memory.setBytes (m : Memory) (a : Nat) : List Byte → Memory
  | [] => m
  | b :: bs => Memory.setBytes (m.set a b) (a + 1) bs

/-- Writes a little-endian value. -/
def Memory.setVal (m : Memory) (a n v : Nat) : Memory := m.setBytes a (leBytes n v)

/-! ## Bits and numbers -/

/-- Bits [hi:lo] of a number. -/
def bits (v hi lo : Nat) : Nat := (v / 2 ^ lo) % 2 ^ (hi + 1 - lo)

/-- Bit i of a number. -/
def bit (v i : Nat) : Bool := (v / 2 ^ i) % 2 == 1

/-- The two's-complement reading of n bits (sext of R154). -/
def sextI (v n : Nat) : Int :=
  let u := v % 2 ^ n
  if n ≠ 0 ∧ u ≥ 2 ^ (n - 1) then (u : Int) - (2 ^ n : Nat) else (u : Int)

/-- An integer modulo 2^n. -/
def wrapN (x : Int) (n : Nat) : Nat := (x % ((2 ^ n : Nat) : Int)).toNat

/-- A number as a 64-bit word. -/
def w64 (n : Nat) : Word := BitVec.ofNat 64 n

/-- An integer as a 64-bit word. -/
def w64i (x : Int) : Word := BitVec.ofInt 64 x

/-- sext(IMM, 32) as a word. -/
def sextImm (i : BitVec 32) : Word := i.signExtend 64

/-- A truth value as a word. -/
def b2w (b : Bool) : Word := if b then 1 else 0

/-! ## Parts of the state -/

def State.ctx (s : State) (t : Nat) : Ctx := look s.ctxs t {}
def State.core (s : State) (c : Nat) : Core := look s.cores c {}
def State.field (s : State) (f : Nat) : Field := look s.fields f {}
def State.stack (s : State) (k : Nat) : Stack := look s.stks k {}
def State.part (s : State) (p : Nat) : Part := look s.parts p {}
def State.hart (s : State) (h : Nat) : Hart := look s.zen.harts h {}

def State.setCtx (s : State) (t : Nat) (c : Ctx) : State := { s with ctxs := put s.ctxs t c }
def State.setCore (s : State) (n : Nat) (c : Core) : State := { s with cores := put s.cores n c }
def State.setField (s : State) (n : Nat) (f : Field) : State := { s with fields := put s.fields n f }
def State.setStack (s : State) (n : Nat) (k : Stack) : State := { s with stks := put s.stks n k }
def State.setPart (s : State) (n : Nat) (p : Part) : State := { s with parts := put s.parts n p }
def State.setHart (s : State) (n : Nat) (h : Hart) : State :=
  { s with zen := { s.zen with harts := put s.zen.harts n h } }

def State.modCtx (s : State) (t : Nat) (g : Ctx → Ctx) : State := s.setCtx t (g (s.ctx t))
def State.modCore (s : State) (n : Nat) (g : Core → Core) : State := s.setCore n (g (s.core n))
def State.modField (s : State) (n : Nat) (g : Field → Field) : State := s.setField n (g (s.field n))
def State.modStack (s : State) (n : Nat) (g : Stack → Stack) : State := s.setStack n (g (s.stack n))
def State.modPart (s : State) (n : Nat) (g : Part → Part) : State := s.setPart n (g (s.part n))

/-- CTXCTL.BUSY (R301). -/
def Core.busy (c : Core) : Bool := !c.flushing.isEmpty

/-- The core of a context (R8, R22). -/
def coreOf (t : Nat) : Nat := t / 16
/-- The context index of a context. -/
def ctxIx (t : Nat) : Nat := t % 16
/-- The field of a core: stack × 256 + field (R8). -/
def fieldOfCore (c : Nat) : Nat := c / 1024
/-- The field of a context. -/
def fieldOf (t : Nat) : Nat := t / 16384
/-- The stack of a context. -/
def stackOf (t : Nat) : Nat := t / 4194304
/-- The stack of a field. -/
def stackOfField (f : Nat) : Nat := f / 256

/-- {cube, core identifier} of a context in bits [27:0] and its index in [31:28]
(R26, R263). -/
def State.ctxName (s : State) (t : Nat) : Nat :=
  coreOf t + s.cubeid * 2 ^ 20 + ctxIx t * 2 ^ 28

/-- WHOLD's encoding of a context (R94). -/
def State.holdName (s : State) (t : Nat) : BitVec 32 :=
  BitVec.ofNat 32 (s.cubeid * 2 ^ 24 + t)

/-- Takes a free value: the counter's value before, and the state with it advanced. -/
def State.tick (s : State) : Nat × State := (s.free, { s with free := s.free + 1 })

/-- Puts an event on its way. -/
def State.post (s : State) (i : Instr) : State := { s with agenda := s.agenda ++ [i] }

/-- The launch of an identifier, if pending or bound. -/
def State.launch? (s : State) (lid : Nat) : Option Launch :=
  s.sched.launches.find? (fun l => l.lid == lid)

/-- Replaces the record of a launch. -/
def State.setLaunch (s : State) (l : Launch) : State :=
  { s with sched := { s.sched with
      launches := s.sched.launches.map (fun l' => if l'.lid == l.lid then l else l') } }

/-- Applies a function to a launch. -/
def State.modLaunch (s : State) (lid : Nat) (g : Launch → Launch) : State :=
  { s with sched := { s.sched with
      launches := s.sched.launches.map (fun l => if l.lid == lid then g l else l) } }

/-- The launch a context's task belongs to. -/
def State.ctxLaunch? (s : State) (t : Nat) : Option Launch :=
  match (s.ctx t).task with
  | some k => s.launch? k.lid
  | none => none

/-- Cycles of the fixed clock that count for aging and tenure waits: those of a hold at the end of a
sidereal period do not (R113, R118). -/
def State.counted (s : State) : Nat := s.time - s.held

/-- vclk cycles of a field up to now (R15): fixed-clock cycles times the vector ratio / 16. -/
def State.vclk (s : State) (f : Nat) : Nat :=
  let fl := s.field f
  if fl.frozen then fl.vclk
  else fl.vclk + (s.counted - fl.vclkAt) * fl.ratio.v / 16

/-! ## The monad of the meanings -/

/-- How an instruction stops without completing. -/
inductive Stop where
  /-- an exact fault: nothing was performed -/
  | exc (e : Exc)
  /-- an exact fault that keeps what was done (R233: raising a failure consumes it) -/
  | excKeep (e : Exc)
  /-- the answer of a walk that faulted: taken from the hub, nothing else performed (R331) -/
  | excWalk (va : Word)
  /-- a stall: the instruction holds its slot and nothing was performed -/
  | stall
  /-- a stall that keeps what was done: a request that waits, a parked thread -/
  | stallKeep
  /-- a stall on a local page that is not resident (R75) -/
  | page (p : Nat)
  /-- a wait for landing finds a late fault, which is delivered first (R151) -/
  | late
  /-- a stall on a translation that the TLBs miss (R331) -/
  | walk (va : Word)
  /-- a store that stalls on tenure, and its address (R113) -/
  | tenure (va : Word)
  deriving DecidableEq, Repr

/-- Meanings of thread instructions: they act on the context State.cur. -/
abbrev M := EStateM Stop State

/-- Raises an exact fault. -/
def raise {α : Type} (cause : Nat) (tval : Word := 0) : M α :=
  throw (.exc { cause := cause, tval := tval })

/-- Raises an exact fault unless a condition holds. -/
def need (b : Bool) (cause : Nat) (tval : Word := 0) : M Unit :=
  if b then pure () else raise cause tval

/-- Stalls unless a condition holds. -/
def waitFor (b : Bool) : M Unit := if b then pure () else throw .stall

def getCtx : M Ctx := fun s => .ok (s.ctx s.cur) s
def modCtx (g : Ctx → Ctx) : M Unit := fun s => .ok () (s.modCtx s.cur g)
def getCore : M Core := fun s => .ok (s.core (coreOf s.cur)) s
def modCore (g : Core → Core) : M Unit := fun s => .ok () (s.modCore (coreOf s.cur) g)
def getField : M Field := fun s => .ok (s.field (fieldOf s.cur)) s
def modField (g : Field → Field) : M Unit := fun s => .ok () (s.modField (fieldOf s.cur) g)
/-- Applies a function to the whole state. -/
def act (g : State → State) : M Unit := fun s => .ok () (g s)
/-- Reads from the whole state. -/
def ask {α : Type} (g : State → α) : M α := fun s => .ok (g s) s
/-- Takes a free value from the state's counter. -/
def freeNat : M Nat := fun s => .ok s.tick.1 s.tick.2

/-- How an instruction that completes moves the PC. -/
inductive Ctl where
  /-- to the next instruction, loop-back judged (R187) -/
  | seq
  /-- a taken branch that acts on the loop stack (R188) -/
  | jump (pc : Word)
  /-- a transfer that leaves the loop stack alone: CALL, CALLX, SRET -/
  | goto (pc : Word)
  /-- the PC stays: the activation has ended, or waits for the same instruction -/
  | stay
  deriving DecidableEq, Repr

/-! ## Causes (R337) -/

def cIllegal : Nat := 0x01
def cOperand : Nat := 0x02
def cAlign : Nat := 0x03
def cTrans : Nat := 0x04
def cProt : Nat := 0x05
def cWProt : Nat := 0x06
def cCap : Nat := 0x07
def cStale : Nat := 0x08
def cScratch : Nat := 0x09
def cFetch : Nat := 0x0A
def cTrap : Nat := 0x0B
def cBkpt : Nat := 0x0C
def cPhys : Nat := 0x0D
def cPosted : Nat := 0x0E
def cTenure : Nat := 0x10
def cDirFull : Nat := 0x11
def cData : Nat := 0x12
def cCheck : Nat := 0x13
def cContext : Nat := 0x14

/-- The operand or encoding fault; its value is the word's bits [95:32], filled in by the
issue of the instruction. -/
def opFault {α : Type} : M α := raise cOperand
/-- Raises the operand or encoding fault unless a condition holds. -/
def needOp (b : Bool) : M Unit := need b cOperand

end Sys2Proof.Machine
end

