-- ==== Sys2Proof/Machine/Float.lean ====
section
/-! DEFINITION. Floating-point and block arithmetic (chapter 3): every result is formed exactly
and rounded once. -/

namespace Sys2Proof.Machine

open Sys2Proof

/-- Exception flags in the order of FLAGOR: NV, DZ, OF, UF, NX from bit 0 (R47, R49). -/
abbrev Flags := BitVec 5

def fNV : Flags := 1
def fDZ : Flags := 2
def fOF : Flags := 4
def fUF : Flags := 8
def fNX : Flags := 16

/-- A format: total width, exponent bits, fraction bits, bias (R45). -/
structure Fmt where
  w : Nat
  e : Nat
  f : Nat
  b : Nat
  deriving DecidableEq, Repr

/-- The format of a floating-point TYPE code. -/
def fmtOf : Nat → Fmt
  | 8 => ⟨16, 5, 10, 15⟩
  | 9 => ⟨16, 8, 7, 127⟩
  | 10 => ⟨32, 8, 23, 127⟩
  | _ => ⟨64, 11, 52, 1023⟩

/-- What a bit pattern stands for; a finite value is (−1)^s × m × 2^e. -/
inductive FV where
  | nan (s quiet : Bool) (payload : Nat)
  | inf (s : Bool)
  | fin (s : Bool) (m : Nat) (e : Int)
  deriving DecidableEq, Repr

/-- Reads a bit pattern. -/
def unpack (t : Fmt) (v : Nat) : FV :=
  let fr := v % 2 ^ t.f
  let ex := v / 2 ^ t.f % 2 ^ t.e
  let s := bit v (t.w - 1)
  if ex = 2 ^ t.e - 1 then
    if fr = 0 then .inf s else .nan s (bit fr (t.f - 1)) (fr % 2 ^ (t.f - 1))
  else if ex = 0 then .fin s fr (1 - (t.b : Int) - t.f)
  else .fin s (2 ^ t.f + fr) ((ex : Int) - t.b - t.f)

def signBit (t : Fmt) (s : Bool) : Nat := if s then 2 ^ (t.w - 1) else 0
def packInf (t : Fmt) (s : Bool) : Nat := signBit t s + (2 ^ t.e - 1) * 2 ^ t.f
def packZero (t : Fmt) (s : Bool) : Nat := signBit t s
/-- A quiet NaN with a sign and payload. -/
def packNan (t : Fmt) (s : Bool) (p : Nat) : Nat :=
  signBit t s + (2 ^ t.e - 1) * 2 ^ t.f + 2 ^ (t.f - 1) + p % 2 ^ (t.f - 1)
/-- The canonical quiet NaN (R45). -/
def qnan (t : Fmt) : Nat := packNan t false 0

def FV.isNan : FV → Bool | .nan .. => true | _ => false
def FV.isSnan : FV → Bool | .nan _ q _ => !q | _ => false
def FV.isInf : FV → Bool | .inf _ => true | _ => false
def FV.isZero : FV → Bool | .fin _ 0 _ => true | _ => false
def FV.sign : FV → Bool | .nan s .. => s | .inf s => s | .fin s .. => s

/-- Number of bits of a magnitude. -/
def bitLen (m : Nat) : Nat := if m = 0 then 0 else m.log2 + 1

/-- Whether a magnitude with kept part k (odd or even), remainder r of 2^n rounds away from
zero, by mode (R46). -/
def roundsUp (rm : Nat) (s : Bool) (k r n : Nat) : Bool :=
  if r = 0 then false
  else
    let half := 2 ^ (n - 1)
    match rm with
    | 0 => decide (r > half) || (r == half && k % 2 == 1)
    | 1 => false
    | 2 => !s
    | 3 => s
    | _ => decide (r ≥ half)

/-- Rounds the magnitude m × 2^e at the bit 2^q: the multiple of 2^q, and whether it changed. -/
def roundAt (rm : Nat) (s : Bool) (m : Nat) (e q : Int) : Nat × Bool :=
  if q ≤ e then (m * 2 ^ (e - q).toNat, false)
  else
    let n := (q - e).toNat
    let k := m / 2 ^ n
    let r := m % 2 ^ n
    ((if roundsUp rm s k r n then k + 1 else k), r != 0)

/-- The overflow result of a mode (R46). -/
def overflowTo (t : Fmt) (rm : Nat) (s : Bool) : Nat :=
  let largest := signBit t s + (2 ^ t.e - 1) * 2 ^ t.f - 1
  match rm with
  | 1 => largest
  | 2 => if s then largest else packInf t s
  | 3 => if s then packInf t s else largest
  | _ => packInf t s

/-- round of R154: (−1)^s × m × 2^e in a format, with the flags of R48. Tininess is judged
after rounding. A zero keeps the sign given. -/
def roundTo (t : Fmt) (rm : Nat) (s : Bool) (m : Nat) (e : Int) : Nat × Flags :=
  if m = 0 then (packZero t s, 0)
  else
    let top : Int := e + bitLen m - 1
    let emin : Int := 1 - (t.b : Int)
    let q : Int := max (top - t.f) (emin - t.f)
    let (r, inexact) := roundAt rm s m e q
    let tiny := decide (top < emin) &&
      !(decide (top = emin - 1) && (roundAt rm s m e (top - t.f)).1 == 2 ^ (t.f + 1))
    let fl : Flags := (if inexact then fNX else 0) ||| (if tiny && inexact then fUF else 0)
    if r < 2 ^ t.f then (signBit t s + r, fl)
    else
      let (r', q') := if r = 2 ^ (t.f + 1) then (2 ^ t.f, q + 1) else (r, q)
      let ex := (q' + t.f + t.b).toNat
      if ex ≥ 2 ^ t.e - 1 then (overflowTo t rm s, fOF ||| fNX)
      else (signBit t s + ex * 2 ^ t.f + (r' - 2 ^ t.f), fl)

/-- The first NaN of a list of operands, quietened (R50). -/
def firstNan (t : Fmt) : List FV → Option Nat
  | [] => none
  | .nan s _ p :: _ => some (packNan t s p)
  | _ :: xs => firstNan t xs

/-- NV for a signalling NaN among the operands (R48). -/
def snanFlag (xs : List FV) : Flags := if xs.any FV.isSnan then fNV else 0

/-- Sign of an exactly zero sum of two zero or cancelling addends (R68: + except under RDN). -/
def zeroSign (rm : Nat) (s1 s2 : Bool) : Bool := if s1 == s2 then s1 else rm == 3

/-- The exact sum of two finite values, rounded. -/
def addFin (t : Fmt) (rm : Nat) (s1 : Bool) (m1 : Nat) (e1 : Int) (s2 : Bool) (m2 : Nat) (e2 : Int) :
    Nat × Flags :=
  let e := min e1 e2
  let a : Int := (if s1 then -1 else 1) * (m1 * 2 ^ (e1 - e).toNat : Nat)
  let b : Int := (if s2 then -1 else 1) * (m2 * 2 ^ (e2 - e).toNat : Nat)
  let r := a + b
  if r = 0 then
    (packZero t (if m1 = 0 && m2 = 0 then zeroSign rm s1 s2 else rm == 3), 0)
  else roundTo t rm (decide (r < 0)) r.natAbs e

/-- Addition of unpacked operands that are no NaN. -/
def addFv (t : Fmt) (rm : Nat) (a b : FV) : Nat × Flags :=
  match a, b with
  | .inf s1, .inf s2 => if s1 == s2 then (packInf t s1, 0) else (qnan t, fNV)
  | .inf s, _ => (packInf t s, 0)
  | _, .inf s => (packInf t s, 0)
  | .fin s1 m1 e1, .fin s2 m2 e2 => addFin t rm s1 m1 e1 s2 m2 e2
  | _, _ => (qnan t, 0)

/-- add(a, b) of R154, NaNs by R50. -/
def fadd (t : Fmt) (rm : Nat) (a b : Nat) : Nat × Flags :=
  let x := unpack t a
  let y := unpack t b
  match firstNan t [x, y] with
  | some n => (n, snanFlag [x, y])
  | none => addFv t rm x y

/-- The negated bit pattern. -/
def fneg (t : Fmt) (v : Nat) : Nat := v ^^^ 2 ^ (t.w - 1)

/-- Subtraction: NaN operands keep their own sign. -/
def fsub (t : Fmt) (rm : Nat) (a b : Nat) : Nat × Flags :=
  let x := unpack t a
  let y := unpack t b
  match firstNan t [x, y] with
  | some n => (n, snanFlag [x, y])
  | none => addFv t rm x (unpack t (fneg t b))

/-- The choice between two NaNs of R51: the lower payload, else the first; quietened. -/
def nan51 (t : Fmt) (a b : FV) : Option Nat :=
  match a, b with
  | .nan s1 _ p1, .nan s2 _ p2 => some (if p2 < p1 then packNan t s2 p2 else packNan t s1 p1)
  | _, _ => none

/-- add(a, b) with R51 for two NaNs. -/
def fadd51 (t : Fmt) (rm : Nat) (a b : Nat) : Nat × Flags :=
  match nan51 t (unpack t a) (unpack t b) with
  | some n => (n, snanFlag [unpack t a, unpack t b])
  | none => fadd t rm a b

/-- Multiplication. -/
def fmul (t : Fmt) (rm : Nat) (a b : Nat) : Nat × Flags :=
  let x := unpack t a
  let y := unpack t b
  match firstNan t [x, y] with
  | some n => (n, snanFlag [x, y])
  | none =>
    let s := x.sign != y.sign
    match x, y with
    | .fin _ m1 e1, .fin _ m2 e2 => roundTo t rm s (m1 * m2) (e1 + e2)
    | _, _ => if x.isZero || y.isZero then (qnan t, fNV) else (packInf t s, 0)

/-- Fused multiply-add a × b + c; 0 × ∞ + c raises NV even when c is a quiet NaN (R48). -/
def ffma (t : Fmt) (rm : Nat) (a b c : Nat) : Nat × Flags :=
  let x := unpack t a
  let y := unpack t b
  let z := unpack t c
  let bad := (x.isZero && y.isInf) || (x.isInf && y.isZero)
  match firstNan t [x, y, z] with
  | some n => (n, snanFlag [x, y, z] ||| (if bad then fNV else 0))
  | none =>
    if bad then (qnan t, fNV)
    else
      let s := x.sign != y.sign
      match x, y, z with
      | .fin _ m1 e1, .fin _ m2 e2, .fin s3 m3 e3 => addFin t rm s (m1 * m2) (e1 + e2) s3 m3 e3
      | .fin .., .fin .., _ => (packInf t z.sign, 0)
      | _, _, .inf s3 => if s == s3 then (packInf t s, 0) else (qnan t, fNV)
      | _, _, _ => (packInf t s, 0)

/-- Division. -/
def fdiv (t : Fmt) (rm : Nat) (a b : Nat) : Nat × Flags :=
  let x := unpack t a
  let y := unpack t b
  match firstNan t [x, y] with
  | some n => (n, snanFlag [x, y])
  | none =>
    let s := x.sign != y.sign
    match x, y with
    | .inf _, .inf _ => (qnan t, fNV)
    | .inf _, _ => (packInf t s, 0)
    | _, .inf _ => (packZero t s, 0)
    | .fin _ m1 e1, .fin _ m2 e2 =>
      if m2 = 0 then (if m1 = 0 then (qnan t, fNV) else (packInf t s, fDZ))
      else if m1 = 0 then (packZero t s, 0)
      else
        let k := t.f + 4 + bitLen m2
        let n := m1 * 2 ^ k
        let m := 2 * (n / m2) + (if n % m2 = 0 then 0 else 1)
        roundTo t rm s m (e1 - e2 - k - 1)
    | _, _ => (qnan t, 0)

/-- The integer square root, bit by bit. -/
def isqrtBits (n : Nat) : Nat → Nat → Nat
  | 0, r => r
  | b + 1, r => isqrtBits n b (if (r + 2 ^ b) * (r + 2 ^ b) ≤ n then r + 2 ^ b else r)

/-- floor(sqrt(n)). -/
def isqrt (n : Nat) : Nat := isqrtBits n (bitLen n / 2 + 1) 0

/-- Square root. -/
def fsqrt (t : Fmt) (rm : Nat) (a : Nat) : Nat × Flags :=
  let x := unpack t a
  match firstNan t [x] with
  | some n => (n, snanFlag [x])
  | none =>
    match x with
    | .fin s m e =>
      if m = 0 then (packZero t s, 0)
      else if s then (qnan t, fNV)
      else
        let (m', e') := if e % 2 = 0 then (m, e) else (2 * m, e - 1)
        let k := t.f + 3
        let n := m' * 2 ^ (2 * k)
        let r := isqrt n
        roundTo t rm false (2 * r + (if r * r = n then 0 else 1)) (e' / 2 - k - 1)
    | .inf s => if s then (qnan t, fNV) else (packInf t false, 0)
    | _ => (qnan t, 0)

/-- A finite value's order key against another: less, equal, greater as an integer sign. -/
def cmpFin (s1 : Bool) (m1 : Nat) (e1 : Int) (s2 : Bool) (m2 : Nat) (e2 : Int) : Int :=
  let e := min e1 e2
  let a : Int := (if s1 then -1 else 1) * (m1 * 2 ^ (e1 - e).toNat : Nat)
  let b : Int := (if s2 then -1 else 1) * (m2 * 2 ^ (e2 - e).toNat : Nat)
  (a - b).sign

/-- Numerical comparison of operands that are no NaN; −0 equals +0. -/
def cmpFv (a b : FV) : Int :=
  match a, b with
  | .inf s1, .inf s2 => if s1 == s2 then 0 else if s1 then -1 else 1
  | .inf s, _ => if s then -1 else 1
  | _, .inf s => if s then 1 else -1
  | .fin s1 m1 e1, .fin s2 m2 e2 => cmpFin s1 m1 e1 s2 m2 e2
  | _, _ => 0

/-! ## Conversions (R44, R50) -/

/-- round_int of R154: the integer, and whether it differs. -/
def roundInt (rm : Nat) (s : Bool) (m : Nat) (e : Int) : Int × Bool :=
  let (k, inexact) := roundAt rm s m e 0
  ((if s then -(k : Int) else k), inexact)

/-- The least and greatest values of an integer TYPE. -/
def intMin (t : Nat) : Int := if tySigned t then -((2 ^ (tyWidth t - 1) : Nat) : Int) else 0
def intMax (t : Nat) : Int :=
  if tySigned t then ((2 ^ (tyWidth t - 1) : Nat) : Int) - 1 else ((2 ^ tyWidth t : Nat) : Int) - 1

/-- The integer that N bits stand for under a TYPE. -/
def intVal (t : Nat) (v : Nat) : Int :=
  if tySigned t then sextI v (tyWidth t) else ((v % 2 ^ tyWidth t : Nat) : Int)

/-- clamp of R154. -/
def clampI (x lo hi : Int) : Int := min (max x lo) hi

/-- wrap or sat to a TYPE (R43), as N bits. -/
def narrowInt (t : Nat) (sat : Bool) (x : Int) : Nat :=
  wrapN (if sat then clampI x (intMin t) (intMax t) else x) (tyWidth t)

/-- Floating point to integer (R44), as N bits. -/
def floatToInt (t : Nat) (rm : Nat) (x : FV) : Nat × Flags :=
  let pick : Bool → Nat := fun s => wrapN (if s then intMin t else intMax t) (tyWidth t)
  match x with
  | .nan .. => (0, fNV)
  | .inf s => (pick s, fNV)
  | .fin s m e =>
    let (r, inexact) := roundInt rm s m e
    if r < intMin t then (pick true, fNV)
    else if r > intMax t then (pick false, fNV)
    else (wrapN r (tyWidth t), if inexact then fNX else 0)

/-- An exact integer to floating point (R44). -/
def intToFloat (t : Fmt) (rm : Nat) (x : Int) : Nat × Flags :=
  roundTo t rm (decide (x < 0)) x.natAbs 0

/-- Floating point to floating point: NaNs are quietened, their payload kept from its most
significant bit down (R50). -/
def floatToFloat (s t : Fmt) (rm : Nat) (v : Nat) : Nat × Flags :=
  match unpack s v with
  | .nan sg q p =>
    (packNan t sg (if s.f ≤ t.f then p * 2 ^ (t.f - s.f) else p / 2 ^ (s.f - t.f)),
      if q then 0 else fNV)
  | .inf sg => (packInf t sg, 0)
  | .fin sg m e => roundTo t rm sg m e

/-- Conversion of N-bit patterns between TYPE codes (R44). -/
def convert (src dst : Nat) (sat : Bool) (rm : Nat) (v : Nat) : Nat × Flags :=
  if tyInt src then
    if tyInt dst then (narrowInt dst sat (intVal src v), 0)
    else intToFloat (fmtOf dst) rm (intVal src v)
  else if tyInt dst then floatToInt dst rm (unpack (fmtOf src) v)
  else floatToFloat (fmtOf src) (fmtOf dst) rm v

/-! ## Blocks (R52 to R56) -/

/-- A block: exponent byte and 32 mantissas as w-bit patterns. -/
structure Blk where
  e : Nat
  m : List Nat
  deriving DecidableEq, Repr

/-- The value of an element (R52) of a block that is no NaN block. -/
def blkVal (w e m : Nat) : FV :=
  let x := sextI m w
  .fin (decide (x < 0)) x.natAbs ((Nat.max e 1 : Int) - 127 - (w - 1 : Nat))

/-- The unpacked value of an N-bit pattern of a TYPE. -/
def valOf (t : Nat) (v : Nat) : FV :=
  if tyInt t then
    let x := intVal t v
    .fin (decide (x < 0)) x.natAbs 0
  else unpack (fmtOf t) v

/-- floor(log2 |x|) + 127 of a non-zero finite value. -/
def emaxOf : FV → Option Int
  | .fin _ m e => if m = 0 then none else some (e + bitLen m - 1 + 127)
  | _ => none

/-- One element of R56: mantissa bits and flags. -/
def quantOne (w : Nat) (rm : Nat) (e : Nat) : FV → Nat × Flags
  | .fin s m x =>
    let (q, inexact) := roundInt rm s m (x + (w - 1 : Nat) + 127 - e)
    let c := clampI q (-((2 ^ (w - 1) : Nat) : Int)) (((2 ^ (w - 1) : Nat) : Int) - 1)
    (wrapN c w, (if inexact then fNX else 0) ||| (if c ≠ q then fOF ||| fNX else 0) |||
      (if m ≠ 0 ∧ c = 0 then fUF else 0))
  | _ => (0, 0)

/-- Quantisation of 32 values (R56). -/
def quantise (w rm : Nat) (xs : List FV) : Blk × Flags :=
  match xs.findIdx? (fun x => x.isNan || x.isInf) with
  | some j => ({ e := 255, m := (j % 2 ^ w) :: List.replicate 31 0 }, fNV)
  | none =>
    let emax : Int := match xs.filterMap emaxOf with
      | [] => 0
      | y :: ys => ys.foldl max y
    let e := (clampI (emax + 1) 1 254).toNat
    let rs := xs.map (quantOne w rm e)
    ({ e := e, m := rs.map Prod.fst }, rs.foldl (fun f r => f ||| r.2) 0)

/-- Quantisation of elements of a TYPE; i8 into w = 8 is exact with E = 134 (R55). -/
def quantiseTy (w rm ty : Nat) (xs : List Nat) : Blk × Flags :=
  if ty = 0 && w = 8 then ({ e := 134, m := xs.map (fun x => x % 256) }, 0)
  else quantise w rm (xs.map (valOf ty))

/-- Dequantisation of an element to a floating-point TYPE (R54). -/
def dequant (w rm ty : Nat) (b : Blk) (i : Nat) : Nat × Flags :=
  if b.e = 255 then
    (if ty = 10 then 0x7FC00000 + b.m.getD 0 0 % 2 ^ w else qnan (fmtOf ty), 0)
  else
    match blkVal w b.e (b.m.getD i 0) with
    | .fin s m e => roundTo (fmtOf ty) rm s m e
    | _ => (0, 0)

/-- Dequantisation to any TYPE: to an integer type through R44. -/
def dequantTy (w rm ty : Nat) (b : Blk) (i : Nat) : Nat × Flags :=
  if tyInt ty then
    if b.e = 255 then (0, fNV) else floatToInt ty rm (blkVal w b.e (b.m.getD i 0))
  else dequant w rm ty b i

/-! ## Layouts of blocks (R57 to R59) -/

/-- The number of blocks of a bank (R57). -/
def blkCapacity (w : Nat) : Nat := Nat.min 256 (7936 / (4 * w))

/-- The mantissa field of element-major or plane layout, as one little-endian value. -/
def blkEncode (w : Nat) (plane : Bool) (m : List Nat) : Nat :=
  if plane then
    ((List.range w).map (fun j =>
      ((List.range 32).map (fun e => if bit (m.getD e 0) j then 2 ^ e else 0)).sum * 2 ^ (32 * j))).sum
  else ((List.range 32).map (fun e => (m.getD e 0 % 2 ^ w) * 2 ^ (e * w))).sum

/-- The mantissas of a block's bytes. -/
def blkDecode (w : Nat) (plane : Bool) (v : Nat) : List Nat :=
  if plane then
    (List.range 32).map (fun e =>
      ((List.range w).map (fun j => if bit v (32 * j + e) then 2 ^ j else 0)).sum)
  else (List.range 32).map (fun e => v / 2 ^ (e * w) % 2 ^ w)

/-! ## Bit-plane array arithmetic (R60 to R66) -/

/-- One accumulation into one column. `core` is the core-in-field number, `cnt` the row's K-block
counter. -/
def accumulate (core cnt : Nat) (acc : Nat) (wa ea : Nat) (a : List Nat) (wb eb : Nat) (b : List Nat)
    (k : Nat) : Nat × Flags :=
  let t := fmtOf 10
  let x := unpack t acc
  if ea = 255 || eb = 255 then
    let p := core % 1024 * 4096 + cnt % 4096
    -- a NaN block raises nothing; a signalling NaN among the numbers read does (R48)
    let fl : Flags := if x.isSnan || (unpack t k).isSnan then fNV else 0
    match nan51 t x (.nan false true p) with
    | some n => (n, fl)
    | none => (packNan t false p, fl)
  else
    let s : Int := ((List.zip a b).map (fun ab => sextI ab.1 wa * sextI ab.2 wb)).foldl (· + ·) 0
    let p : Int := (Nat.max ea 1 : Int) - 127 + ((Nat.max eb 1 : Int) - 127) - (wa - 1 : Nat) - (wb - 1 : Nat)
    match x, unpack t k with
    | .nan _ q _, kv => (acc, (if q then 0 else fNV) ||| (if kv.isSnan then fNV else 0))
    | _, .nan sg q pl => (packNan t sg pl, if q then 0 else fNV)
    | _, .inf ks =>
      if s = 0 then (qnan t, fNV)
      else
        let sg := (decide (s < 0)) != ks
        match x with
        | .inf as => if as == sg then (packInf t sg, 0) else (qnan t, fNV)
        | _ => (packInf t sg, 0)
    | .inf as, _ => (packInf t as, 0)
    | .fin as am ae, .fin ks km ke =>
      if s = 0 || km = 0 then
        if am = 0 then (packZero t false, 0) else roundTo t 0 as am ae
      else addFin t 0 as am ae ((decide (s < 0)) != ks) (s.natAbs * km) (p + ke)

end Sys2Proof.Machine
end

