-- ==== Sys2Proof/Machine/Home.lean ====
section
/-! DEFINITION. Where a physical address is homed (R80, R86 to R88, R335), lines at their home
with tags and line checks (R92, R306), and the geometry of tensor objects (R89, R90). -/

namespace Sys2Proof.Machine

open Sys2Proof

/-! ## The home map -/

/-- A word of a home-map entry (R87). -/
def State.hmapWord (s : State) (e w : Nat) : Nat := (look s.hmap (8 * e + w) 0).toNat

/-- A home: cube, stack, channel, channel address. -/
structure HomeAt where
  cube : Nat
  stack : Nat
  chan : Nat
  addr : Nat
  deriving DecidableEq, Repr

/-- The location of a home's byte. -/
def HomeAt.loc (h : HomeAt) : Nat := ((h.cube * 4 + h.stack) * 32 + h.chan) * 2 ^ 33 + h.addr

/-- Whether an entry is valid and covers an address. -/
def entryCovers (w : Nat → Nat) (pa : Nat) : Bool :=
  bit (w 0) 63 && decide (bits (w 0) 51 30 * 2 ^ 30 ≤ pa) &&
    decide (pa < bits (w 0) 51 30 * 2 ^ 30 + 2 ^ bits (w 0) 15 10)

/-- The granule of an address under an entry (R88). -/
def entryGran (w : Nat → Nat) (pa : Nat) : Nat :=
  (pa - bits (w 0) 51 30 * 2 ^ 30) / 2 ^ bits (w 0) 9 5

/-- The home of an address under an entry (R88), whether or not its channel address exists. -/
def entryHome (w : Nat → Nat) (pa : Nat) : HomeAt :=
  let g := entryGran w pa
  let gran := bits (w 0) 9 5
  let nh := bits (w 0) 3 0 + 1
  let h := g % nh
  let hw := bits (w (1 + h / 4)) (16 * (h % 4) + 15) (16 * (h % 4))
  { cube := bits hw 14 7, stack := bits hw 6 5, chan := bits hw 4 0,
    addr := bits (w 5) 32 12 * 2 ^ 12 + g / nh * 2 ^ gran + pa % 2 ^ gran }

/-- The lowest-numbered valid entry that covers an address. -/
def State.entryOf (s : State) (pa : Nat) : Option Nat :=
  (List.range 64).find? (fun e => entryCovers (s.hmapWord e) pa)

/-- Where a physical address outside the 0xE and 0xF spaces is resolved to (R88), whether or not the channel
address exists; a granule that a re-stripe has moved is at its new home (R335, R336). -/
def State.resolve? (s : State) (pa : Nat) : Option HomeAt :=
  (s.entryOf pa).map (fun e =>
    entryHome (if s.trans.busy && s.trans.ent == e &&
        s.trans.moved.contains (entryGran (s.hmapWord e) pa)
      then (fun i => (look s.trans.rsnew i 0).toNat) else s.hmapWord e) pa)

/-- The home of a physical address. None is the physical-address fault: no entry, or a channel address that
the home refuses. -/
def State.home? (s : State) (pa : Nat) : Option HomeAt := (s.resolve? pa).filter (fun h => decide (h.addr < 6 * 2 ^ 30))

/-- bits [51:48] of a physical address. -/
def paSpace (pa : Nat) : Nat := pa / 2 ^ 48 % 16

/-- The vault aperture address of a byte of this cube (R80). -/
def State.vaultLoc (s : State) (core off : Nat) : Nat :=
  0xF000000000000 + s.cubeid * 2 ^ 36 + core * 2 ^ 16 + off

/-- The scratch address of a byte of this cube (R86). -/
def State.scratchLoc (s : State) (fi off : Nat) : Nat :=
  0xE000000000000 + s.cubeid * 2 ^ 36 + fi * 2 ^ 20 + off

/-! ## Reaching other cubes (R377) -/

def State.linkUsable (s : State) (k : Nat) : Bool :=
  let l := look s.zen.links k {}
  bit l.lctl 0 && l.up

/-- Whether a request to a cube can be sent. -/
def State.reachable (s : State) (c : Nat) : Bool :=
  c == s.cubeid ||
  (let r := (look s.zen.routes c 0).toNat
   bit r 8 && (s.linkUsable (bits r 3 0) || s.linkUsable (bits r 7 4)))

/-! ## Directories and handles (R93, R100) -/

/-- The number of a stack's directory in the state: 0 to 3 in this cube; those of the domain's other cubes
follow, as far as this cube's threads have made records there. -/
def State.dirNo (s : State) (cube stack : Nat) : Nat := if cube = s.cubeid then stack else 4 * (cube + 1) + stack

/-- The directory of a home. -/
def State.dirAt (s : State) (h : HomeAt) : Nat := s.dirNo h.cube h.stack

/-- The cube of a directory. -/
def State.dirCube (s : State) (k : Nat) : Nat := if k < 4 then s.cubeid else k / 4 - 1

/-- A tile handle (R100). -/
def mkHandle (gen cube stack slot : Nat) : Word :=
  w64 (gen * 2 ^ 40 + cube * 2 ^ 32 + stack * 2 ^ 30 + slot)

def hGen (h : Word) : Nat := bits h.toNat 63 40
def hCube (h : Word) : Nat := bits h.toNat 39 32
def hStack (h : Word) : Nat := bits h.toNat 31 30
def hSlot (h : Word) : Nat := bits h.toNat 19 0
def hReserved (h : Word) : Bool := bits h.toNat 29 20 == 0

/-- The directory that a handle names. -/
def State.hDir (s : State) (h : Word) : Nat := s.dirNo (hCube h) (hStack h)

/-! ## Lines at home -/

/-- A number as a list of its n low bytes, and back, for whole lines. -/
def lineOf (bs : List Byte) : Line := BitVec.ofNat 1024 (leNat bs)

/-- A line as it stands at its home: data, tags, check error, poison. -/
structure HomeLine where
  data : Line
  tags : BitVec 8
  syn  : BitVec 32
  bad  : Bool
  deriving DecidableEq, Repr

/-- The line at a location. -/
def State.lineAt (s : State) (loc : Nat) : HomeLine where
  data := lineOf (s.mem.bytes (loc / 128 * 128) 128)
  tags := look s.tags (loc / 128) 0
  syn  := look s.syn (loc / 128) 0
  bad  := look s.bad (loc / 128) false

/-- Stores a line at a location. -/
def State.setLineAt (s : State) (loc : Nat) (l : HomeLine) : State :=
  { s with
    mem := s.mem.setVal (loc / 128 * 128) 128 l.data.toNat
    tags := put s.tags (loc / 128) l.tags
    syn := put s.syn (loc / 128) l.syn
    bad := put s.bad (loc / 128) l.bad }

/-- Replaces n bytes of a line from a byte offset. -/
def setInLine (d : Line) (off n v : Nat) : Line :=
  let m := (2 ^ (8 * n) - 1) * 2 ^ (8 * off)
  (d &&& ~~~ BitVec.ofNat 1024 m) ||| BitVec.ofNat 1024 ((v % 2 ^ (8 * n)) * 2 ^ (8 * off))

/-- n bytes of a line from a byte offset. -/
def getInLine (d : Line) (off n : Nat) : Nat := d.toNat / 2 ^ (8 * off) % 2 ^ (8 * n)

/-- The tags of a line after a write of n bytes at an offset: every granule touched loses its
tag (R306). -/
def clearTags (t : BitVec 8) (off n : Nat) : BitVec 8 :=
  if n = 0 then t
  else
    let a := off / 16
    let b := (off + n - 1) / 16
    t &&& ~~~ BitVec.ofNat 8 ((2 ^ (b + 1 - a) - 1) * 2 ^ a)

/-! ## CRC-32C (R92) -/

/-- One bit of the reflected CRC. -/
def crcBit (c : Nat) : Nat := if c % 2 = 1 then (c / 2) ^^^ 0x82F63B78 else c / 2

/-- One byte of the CRC. -/
def crcByte (c : Nat) (b : Byte) : Nat :=
  let x := c ^^^ b.toNat
  crcBit (crcBit (crcBit (crcBit (crcBit (crcBit (crcBit (crcBit x)))))))

/-- crc32c of R92 over bytes in ascending address order. -/
def crc32c (bs : List Byte) : BitVec 32 :=
  BitVec.ofNat 32 ((bs.foldl crcByte 0xFFFFFFFF) ^^^ 0xFFFFFFFF)

/-! ## Tensor objects (R89, R90) -/

/-- The least p with n ≤ 2^p. -/
def clog2 (n : Nat) : Nat := if n ≤ 1 then 0 else (n - 1).log2 + 1

/-- Word w of a descriptor. -/
def descWord (d : BitVec 256) (w : Nat) : Nat := (d.extractLsb' (64 * w) 64).toNat

def descBase (d : BitVec 256) : Nat := bits (descWord d 0) 51 0
def descFmt (d : BitVec 256) : Nat := bits (descWord d 0) 59 52
/-- NDIM: dimensions − 1. -/
def descNdim (d : BitVec 256) : Nat := bits (descWord d 0) 61 60
def descExt (d : BitVec 256) (i : Nat) : Nat := bits (descWord d 1) (16 * i + 15) (16 * i)
/-- P of dimension i, i from 1 to 3. -/
def descP (d : BitVec 256) (i : Nat) : Nat := bits (descWord d 2) (6 * i - 1) (6 * i - 6)
def descEbase (d : BitVec 256) : Nat := bits (descWord d 3) 51 0

/-- Width codes of R52. -/
def wcodeWidth : Nat → Option Nat
  | 0 => some 2 | 1 => some 3 | 2 => some 4 | 3 => some 5 | 4 => some 6 | 5 => some 7
  | 6 => some 8 | 7 => some 12 | 8 => some 16 | _ => none

/-- Whether a format byte of a bank is legal (R76). -/
def bfmtLegal (b : Nat) : Bool :=
  bits b 7 7 == 0 &&
  (if bits b 6 5 == 0 then bits b 4 0 == 0
   else bits b 6 5 == 1 && (wcodeWidth (bits b 3 0)).isSome)

/-- Whether a format has blocks. -/
def fmtBlock (f : Nat) : Bool := f ≥ 0x80

/-- The element size of a format; none for a reserved format (R89). -/
def fmtSize (f : Nat) : Option Nat :=
  if f ≤ 11 then some (tyWidth f / 8)
  else if f ≥ 0x80 && bits f 6 5 == 1 then
    (wcodeWidth (bits f 3 0)).map (fun w => 2 ^ clog2 (4 * w))
  else none

/-- log2 of the byte pitch of dimension i, 0 being the element size. -/
def descPitch (d : BitVec 256) (i : Nat) : Nat :=
  if i = 0 then clog2 ((fmtSize (descFmt d)).getD 1) else descP d i

/-- Ptop (R90). -/
def descTop (d : BitVec 256) : Nat :=
  descPitch d (descNdim d) + clog2 (descExt d (descNdim d) + 1)

/-- The pitch conditions of R90 for dimensions above i. -/
def descPitchesOk (d : BitVec 256) : Bool :=
  (List.range (descNdim d)).all (fun i =>
    decide (descPitch d i + clog2 (descExt d i + 1) ≤ descP d (i + 1)))

/-- Reserved bits of a descriptor are zero (R89). -/
def descReserved (d : BitVec 256) : Bool :=
  bits (descWord d 0) 63 62 == 0 && bits (descWord d 2) 63 18 == 0 && bits (descWord d 3) 63 52 == 0

/-- A descriptor is legal (R90). -/
def descLegal (d : BitVec 256) : Bool :=
  (fmtSize (descFmt d)).isSome && descReserved d && descPitchesOk d &&
  descBase d % 2 ^ descTop d == 0 &&
  (if fmtBlock (descFmt d) then descEbase d % 2 ^ descTop d == 0 else descEbase d == 0)

/-- Index i of the byte at an offset from BASE (R90). -/
def descIndex (d : BitVec 256) (off i : Nat) : Nat :=
  let p := descPitch d i
  let top := if i = descNdim d then descTop d else descP d (i + 1)
  off / 2 ^ p % 2 ^ (top - p)

/-- Whether the byte at a physical address is an element byte at an index inside a box. -/
def inBox (d : BitVec 256) (lo hi : List Nat) (pa : Nat) : Bool :=
  decide (descBase d ≤ pa) && decide (pa < descBase d + 2 ^ descTop d) &&
  (List.range (descNdim d + 1)).all (fun i =>
    let x := descIndex d (pa - descBase d) i
    decide (lo.getD i 0 ≤ x) && decide (x ≤ hi.getD i 0) && decide (x ≤ descExt d i))

/-- The physical address of an element (R90). -/
def descElem (d : BitVec 256) (ix : List Nat) : Nat :=
  descBase d + ((List.range (descNdim d + 1)).map (fun i => ix.getD i 0 * 2 ^ descPitch d i)).sum

end Sys2Proof.Machine
end

