-- ==== Sys2Proof/Machine/Directory.lean ====
section
/-! DEFINITION. The tile directory and the slices it tracks: covering records, sharers,
region records, and the actions of R96 to R98, R104, R111, R112 and R116 on held lines. -/

namespace Sys2Proof.Machine

open Sys2Proof

/-! ## Records -/

/-- Whether a line belongs to a record: some byte of it does. -/
def recCovers (k : Stack) (r : DirRec) (ln : Nat) : Bool :=
  match r.kind with
  | .box =>
    let d := (look k.descs r.didx (0, 0)).1
    (List.range 128).any (fun o => inBox d r.lo r.hi (128 * ln + o))
  | .span | .region => decide (r.base ≤ ln) && decide (ln ≤ r.base + r.len)

/-- Whether one byte belongs to a record. -/
def recHasByte (k : Stack) (r : DirRec) (pa : Nat) : Bool :=
  match r.kind with
  | .box => inBox (look k.descs r.didx (0, 0)).1 r.lo r.hi pa
  | .span | .region => decide (r.base ≤ pa / 128) && decide (pa / 128 ≤ r.base + r.len)

/-- Slots of the records that cover a line. -/
def Stack.covering (k : Stack) (ln : Nat) : List Nat :=
  (k.dir.filter (fun e => recCovers k e.2 ln)).map Prod.fst

/-- The first number at or above n that is not a key of an ascending map. -/
def firstGap {α : Type} (n : Nat) : Map α → Nat
  | [] => n
  | (k, _) :: t => if k = n then firstGap (n + 1) t else firstGap n t

/-- The lowest free record slot (R93, R100): retired slots are not reused. DESIGN CHOICE, which free slot: log 128. -/
def Stack.freeSlot? (k : Stack) : Option Nat :=
  let n := (List.range (k.retired.length + k.dir.length + 2)).find? (fun i =>
    i ≥ 1 && !(k.dir.any (fun e => e.1 == i)) && !k.retired.contains i)
  match n with
  | some i => if i < 2 ^ 20 then some i else none
  | none => none

/-- Free slots left, retired ones not counted. -/
def Stack.freeSlots (k : Stack) : Nat := 2 ^ 20 - 1 - k.dir.length - k.retired.length

/-- Records charged to a partition (R300, PRECS). -/
def Stack.precs (k : Stack) (p : Nat) : Nat := (k.dir.filter (fun e => e.2.part == p)).length

/-- Internal records of tile fetches that are charged to a partition (R115). -/
def State.fetchRecs (s : State) (k p : Nat) : Nat :=
  ((((s.stack k).pins.map Prod.snd).eraseDups).filter (fun q =>
    (s.field (fieldOf q.1)).fpart == p && !(s.ctx q.1).tens.any (fun x =>
      s.hDir x.handle == k && (match look? (s.stack k).dir (x.handle.toNat % 2 ^ 20) with
        | some r => (s.stack k).pins.any (fun l => l.2 == q && recCovers (s.stack k) r l.1)
        | none => false)))).length

/-- Whether one more record may be charged to a partition (R305). -/
def State.quotaOk (s : State) (k p : Nat) : Bool :=
  decide ((s.stack k).precs p + s.fetchRecs k p < (s.part p).pquota)

/-- Generation of a slot (R100). -/
def Stack.gen (k : Stack) (slot : Nat) : Nat := look k.gens slot 1

/-- Frees a record: the slot's generation rises, or the slot retires; a descriptor loses a
user (R95, R100). -/
def Stack.freeRec (k : Stack) (slot : Nat) : Stack :=
  match look? k.dir slot with
  | none => k
  | some r =>
    let k1 := { k with dir := drop k.dir slot }
    let k2 := if k.gen slot ≥ 2 ^ 24 - 1 then { k1 with retired := slot :: k1.retired }
      else { k1 with gens := put k1.gens slot (k.gen slot + 1) }
    if r.kind == .box then
      let u := look k2.descs r.didx (0, 0)
      if u.2 ≤ 1 then { k2 with descs := drop k2.descs r.didx }
      else { k2 with descs := put k2.descs r.didx (u.1, u.2 - 1) }
    else k2

def Stack.setRec (k : Stack) (slot : Nat) (r : DirRec) : Stack := { k with dir := put k.dir slot r }

/-- Applies a function to a record. -/
def Stack.modRec (k : Stack) (slot : Nat) (g : DirRec → DirRec) : Stack :=
  match look? k.dir slot with
  | some r => k.setRec slot (g r)
  | none => k

/-- Frees a region record: what stands behind it in its NEXT chain follows the record before it, or
becomes a record of its own. -/
def Stack.freeRegion (k : Stack) (slot : Nat) : Stack :=
  match look? k.dir slot with
  | none => k
  | some r =>
    let k1 := { k with dir := k.dir.map (fun (e : Nat × DirRec) => (e.1, if e.2.next = slot then { e.2 with next := r.next } else e.2)) }
    (if r.piece || r.next = 0 then k1 else k1.modRec r.next (fun q => { q with piece := false })).freeRec slot

/-! ## Sharers (R97) -/

def DirRec.shList (r : DirRec) : List (Option Sharer) := [r.sh0, r.sh1, r.sh2, r.sh3]

def DirRec.setSh (r : DirRec) (i : Nat) (x : Option Sharer) : DirRec :=
  match i with
  | 0 => { r with sh0 := x } | 1 => { r with sh1 := x } | 2 => { r with sh2 := x }
  | _ => { r with sh3 := x }

/-- The exact entry of a field. -/
def DirRec.entryOf (r : DirRec) (fi : Nat) : Option Nat :=
  (List.range 4).find? (fun i =>
    match r.shList.getD i none with | some e => e.fi == fi | none => false)

/-- The lowest empty exact entry. -/
def DirRec.emptyEntry (r : DirRec) : Option Nat :=
  (List.range 4).find? (fun i => (r.shList.getD i none).isNone)

/-- The lowest exact entry that is no owner. -/
def DirRec.plainEntry (r : DirRec) : Option Nat :=
  (List.range 4).find? (fun i =>
    match r.shList.getD i none with | some e => !e.own | none => false)

/-- The CVEC bit of a field: STACK × 16 + FROW. -/
def cvecBit (fi : Nat) : Nat := fi / 16

/-- Sets the coarse bit of a field. -/
def DirRec.setCoarse (r : DirRec) (fi : Nat) : DirRec :=
  { r with coarse := true, cvec := r.cvec ||| (1#64 <<< cvecBit fi) }

/-- Adds a sharer that is no owner. -/
def DirRec.addSharer (r : DirRec) (fi : Nat) : DirRec :=
  match r.entryOf fi with
  | some _ => r
  | none =>
    if r.cvec.getLsbD (cvecBit fi) then r
    else
      match r.coarse, r.emptyEntry with
      | false, some i => r.setSh i (some { own := false, fi := fi })
      | _, _ => r.setCoarse fi

/-- Adds an owner, who is always exact. With no empty entry the lowest entry that is no owner
moves into CVEC; with four owners the lowest does. -/
def DirRec.addOwner (r : DirRec) (fi : Nat) : DirRec :=
  match r.entryOf fi with
  | some i => r.setSh i (some { own := true, fi := fi })
  | none =>
    match r.emptyEntry with
    | some i => r.setSh i (some { own := true, fi := fi })
    | none =>
      let i := r.plainEntry.getD 0
      let r' := match r.shList.getD i none with | some e => r.setCoarse e.fi | none => r
      r'.setSh i (some { own := true, fi := fi })

/-- Every field that a record lists, exactly or by a coarse bit. -/
def DirRec.sharers (r : DirRec) : List Nat :=
  (r.shList.filterMap (fun e => e.map Sharer.fi)) ++
  (if r.coarse then
    (List.range 64).flatMap (fun b =>
      if r.cvec.getLsbD b then (List.range 16).map (fun j => 16 * b + j) else [])
   else [])

/-- The fields listed as owners. -/
def DirRec.owners (r : DirRec) : List Nat :=
  r.shList.filterMap (fun e => match e with | some x => if x.own then some x.fi else none | none => none)

/-- Whether a record lists no agent at all. -/
def DirRec.unshared (r : DirRec) : Bool :=
  r.shList.all Option.isNone && !r.coarse && !r.zs

/-- Clears every sharer but one field. -/
def DirRec.clearSharers (r : DirRec) (keep : Option Nat) : DirRec :=
  let kept := match keep with
    | some f =>
      (match r.entryOf f with
       | some i => r.shList.getD i none
       | none =>
         if r.cvec.getLsbD (cvecBit f) && r.coarse then some { own := false, fi := f } else none)
    | none => none
  { r with sh0 := kept, sh1 := none, sh2 := none, sh3 := none, coarse := false, cvec := 0,
           zs := false, zown := false }

/-- Clears the owner marks (R104). -/
def DirRec.dropOwners (r : DirRec) : DirRec :=
  let g : Option Sharer → Option Sharer := fun e => e.map (fun x => { x with own := false })
  { r with sh0 := g r.sh0, sh1 := g r.sh1, sh2 := g r.sh2, sh3 := g r.sh3, zown := false }

/-- Clears the owner mark of one field. -/
def DirRec.dropOwner (r : DirRec) (fi : Nat) : DirRec :=
  let g : Option Sharer → Option Sharer := fun e => e.map (fun x => if x.fi = fi then { x with own := false } else x)
  { r with sh0 := g r.sh0, sh1 := g r.sh1, sh2 := g r.sh2, sh3 := g r.sh3 }

/-- The join of two records' sharers (R98, R110, R112). They list at most four owners: see
State.spareOwners. -/
def DirRec.joinSharers (r q : DirRec) : DirRec :=
  let r1 := q.owners.foldl DirRec.addOwner r
  let r2 := (q.shList.filterMap (fun e => e.map Sharer.fi)).foldl DirRec.addSharer r1
  { r2 with coarse := r2.coarse || q.coarse, cvec := r2.cvec ||| q.cvec, zs := r2.zs || q.zs,
            zown := r2.zown || q.zown, gseq := Nat.max r.gseq q.gseq }

/-! ## Lines held by slices and by the Zenith cache -/

/-- Whether a stream lease has ended (R116). -/
def State.leaseOver (s : State) (l : L2Line) : Bool := l.st == .l && decide (s.sid ≥ l.exp - 8)

/-- The line a slice holds, leases that have ended apart. -/
def State.held? (s : State) (fi ln : Nat) : Option L2Line :=
  match look? (s.field fi).l2 ln with
  | some l => if s.leaseOver l then none else some l
  | none => none

def State.setHeld (s : State) (fi ln : Nat) (l : L2Line) : State :=
  s.modField fi (fun f => { f with l2 := put f.l2 ln l })

def State.unhold (s : State) (fi ln : Nat) : State :=
  s.modField fi (fun f => { f with l2 := drop f.l2 ln })

/-- The location of a line's first byte, by its home. -/
def State.lineLoc? (s : State) (ln : Nat) : Option Nat := (s.home? (128 * ln)).map HomeAt.loc

/-- Writes a held line's contents to its home (R96). -/
def State.writeHome (s : State) (ln : Nat) (l : L2Line) : State :=
  match s.lineLoc? ln with
  | some loc => s.setLineAt loc { data := l.data, tags := l.tags, syn := l.syn, bad := l.bad }
  | none => s

/-- Writes a dirty line back; the slice keeps it, clean. -/
def State.cleanLine (s : State) (fi ln : Nat) : State :=
  match look? (s.field fi).l2 ln with
  | some l => if l.dirty then (s.writeHome ln l).setHeld fi ln { l with dirty := false } else s
  | none => s

/-- Writes a line back when dirty and keeps it shared (recall of a read fill, R96). -/
def State.recallLine (s : State) (fi ln : Nat) : State :=
  match look? (s.field fi).l2 ln with
  | some l =>
    let s1 := if l.dirty then s.writeHome ln l else s
    if l.st == .o then s1.setHeld fi ln { l with dirty := false, st := .s } else s1
  | none => s

/-- OWN of a slice clears in the records of a line once the slice holds no owned line of them (R96). -/
def State.settleOwn (s : State) (fi ln : Nat) : State :=
  match s.home? (128 * ln) with
  | none => s
  | some h =>
    if h.cube ≠ s.cubeid then s
    else
      let owns := (s.field fi).l2.filter (fun e => e.2.st == .o)
      s.modStack h.stack (fun st => (st.covering ln).foldl (fun st c =>
        st.modRec c (fun r => if owns.any (fun e => recCovers st r e.1) then r else r.dropOwner fi)) st)

/-- Writes a line back when dirty and drops it (invalidation; a slice answers it without
regard to tenure, R114). A plain copy only: state L is never tracked. -/
def State.dropLine (s : State) (fi ln : Nat) : State :=
  match look? (s.field fi).l2 ln with
  | some l =>
    if l.st == .l then s
    else
      let s1 := (if l.dirty then s.writeHome ln l else s).unhold fi ln
      if l.st == .o then s1.settleOwn fi ln else s1
  | none => s

/-- The lines that a slice holds or waits for, of those that satisfy a condition: an invalidation that
finds a miss pending is recorded there (R120). -/
def Field.linesOf (f : Field) (p : Nat → Bool) : List Nat :=
  ((f.l2.map Prod.fst ++ f.miss.map Prod.fst).eraseDups).filter p

/-- seq_ge of R120. -/
def seqGe (a b : Nat) : Bool := decide ((a + 2 ^ 16 - b % 2 ^ 16) % 2 ^ 16 < 2 ^ 15)

/-- An invalidation of a sequence arrives at a slice: it is acknowledged at once; a copy held is
dropped, and with a miss pending the sequence is recorded (R120). -/
def State.arriveInval (s : State) (fi ln seq : Nat) : State :=
  let s1 := s.dropLine fi ln
  match look? (s1.field fi).miss ln with
  | some m =>
    let m' : LineMiss := { inval := some (match m.inval with
      | some i => if seqGe seq i then seq else i
      | none => seq) }
    s1.modField fi (fun f => { f with miss := put f.miss ln m' })
  | none => s1

/-- The sequence that the next event on a line has: one above the largest of its records. -/
def Stack.nextSeq (k : Stack) (ln : Nat) : Nat :=
  ((k.covering ln).foldl (fun m c => Nat.max m ((look? k.dir c).map DirRec.gseq |>.getD 0)) 0 + 1) % 2 ^ 16

/-- A directory's invalidation of a line at one slice. -/
def State.invalAt (s : State) (k fi ln : Nat) : State := s.arriveInval fi ln ((s.stack k).nextSeq ln)

/-- A hart without a reservation in a line. -/
def Hart.unreserve (h : Hart) (ln : Nat) : Hart :=
  { h with resv := h.resv.filter (fun r => r.1 / 128 != ln) }

/-- The same for the Zenith cache (R98); reservations of harts in the line go with it. -/
def State.zDrop (s : State) (ln : Nat) : State :=
  match look? s.zen.cache ln with
  | some l =>
    let s1 := if l.dirty then s.writeHome ln l else s
    { s1 with zen := { s1.zen with
      cache := drop s1.zen.cache ln, harts := s1.zen.harts.map (fun (e : Nat × Hart) => (e.1, e.2.unreserve ln)) } }
  | none => s

def State.zRecall (s : State) (ln : Nat) : State :=
  match look? s.zen.cache ln with
  | some l =>
    let s1 := if l.dirty then s.writeHome ln l else s
    { s1 with zen := { s1.zen with cache := put s1.zen.cache ln { l with dirty := false, st := .s } } }
  | none => s

/-- The set of a line (R84). -/
def setOf (ln : Nat) : Nat := (ln % 1024) ^^^ (ln / 1024 % 1024)

/-- Ways that misses may allocate in (R85). -/
def Field.ways (f : Field) : Nat := if f.l2state = 0 then 16 else 8

/-- The lines of a set that a miss competes with: while ways 8 to 15 are away, those of ways 0 to 7. -/
def Field.rivals (f : Field) (ln : Nat) : List (Nat × L2Line) :=
  f.l2.filter (fun e => setOf e.1 == setOf ln && e.1 != ln && (f.l2state == 0 || !e.2.high))

/-- Makes room in a set: while it is full, one of its lines is evicted, an owned line after
its write-back (R96). Which one is not architectural (R84). -/
def State.makeRoom (s : State) (fi ln : Nat) : State :=
  let f := s.field fi
  let inSet := f.rivals ln
  if inSet.length < f.ways then s
  else
    let (n, s1) := s.tick
    match inSet[Config.choice n % inSet.length]? with
    | some (v, l) => if l.st == .l then s1.unhold fi v else s1.dropLine fi v
    | none => s1

/-- Whether new lines of a set would take ways 8 to 15. -/
def Field.takesHigh (f : Field) (ln : Nat) : Bool :=
  f.l2state == 0 && decide ((f.l2.filter (fun e => setOf e.1 == setOf ln && !e.2.high)).length ≥ 8)

/-- Installs a line in a slice. -/
def State.install (s : State) (fi ln : Nat) (st : LineSt) (h : HomeLine) (mark : Bool) (exp : Nat) :
    State :=
  let s1 := s.makeRoom fi ln
  s1.setHeld fi ln { st := st, dirty := false, data := h.data, tags := h.tags, mark := mark, exp := exp,
                     high := (s1.field fi).takesHigh ln, syn := h.syn, bad := h.bad }

/-! ## Actions of the home directory -/

/-- The directory's clock: cycles of the fixed 2.0 GHz (R110). -/
def State.dirClock (s : State) : Nat := s.time

/-- Adds 1 to the grant sequence of every covering record; the largest result (R96). -/
def State.bumpSeq (s : State) (k ln : Nat) : Nat × State :=
  let cs := (s.stack k).covering ln
  let s1 := s.modStack k (fun st => cs.foldl (fun st c =>
    st.modRec c (fun r => { r with gseq := (r.gseq + 1) % 2 ^ 16 })) st)
  (cs.foldl (fun m c => Nat.max m ((look? (s1.stack k).dir c).map DirRec.gseq |>.getD 0)) 0, s1)

/-- The region records that cover a line. -/
def Stack.regionsOf (k : Stack) (ln : Nat) : List Nat :=
  (k.dir.filter (fun e => e.2.kind == .region && recCovers k e.2 ln)).map Prod.fst

/-- Halves a region record once on a conflict over a line (R111). The half with the line keeps the slot;
the other half takes a new slot with the same sharers and sequence, in the same NEXT chain if the record
stands in one. With no slot or no quota the record stays whole. -/
def State.halve (s : State) (k slot ln : Nat) : State :=
  let st := s.stack k
  match look? st.dir slot with
  | none => s
  | some r =>
    let r := { r with quiet := s.dirClock }
    let whole := s.modStack k (fun st => st.setRec slot r)
    if r.len = 0 then whole
    else
      match st.freeSlot? with
      | none => whole
      | some n =>
        if !s.quotaOk k r.part then whole
        else
          let half := (r.len + 1) / 2
          let low := { r with len := half - 1 }
          let high := { r with base := r.base + half, len := r.len - half }
          let two := if ln < r.base + half then (low, high) else (high, low)
          let chained := r.piece || r.next != 0
          s.modStack k (fun st => (st.setRec slot { two.1 with next := if chained then n else 0 }).setRec n
            { two.2 with gen := st.gen n, piece := chained })

/-- Invalidates one line at the slices of some fields, and at the Zenith cache; the sequences of its records
rise by the event (R96). -/
def State.invalEvent (s : State) (k : Nat) (fs : List Nat) (zen : Bool) (ln : Nat) : State :=
  let s1 := fs.foldl (fun s f => if ((s.field f).linesOf (fun l => l == ln)).isEmpty then s else s.invalAt k f ln) s
  ((if zen then s1.zDrop ln else s1).bumpSeq k ln).2

/-- Drops every held line of a region's record in the slices of the given fields, and the
record with them when no sharer is left, unless the requester is about to join it (R111, R112). -/
def State.purgeRegion (s : State) (k slot : Nat) (fs : List Nat) (zen : Bool) (keep : Option Nat) (joins : Bool) :
    State :=
  match look? (s.stack k).dir slot with
  | none => s
  | some r =>
    let cov := recCovers (s.stack k) r
    let lines := (fs.flatMap (fun f => (s.field f).linesOf cov) ++
      (if zen then (s.zen.cache.map Prod.fst).filter cov else [])).eraseDups
    let s1 := lines.foldl (fun s ln => s.invalEvent k fs zen ln) s
    let left := fun (r : DirRec) =>
      let r' := { r.clearSharers keep with quiet := s.dirClock }
      if zen then r' else { r' with zs := r.zs, zown := r.zown }
    if (left r).unshared && !joins then s1.modStack k (fun st => st.freeRegion slot)
    else s1.modStack k (fun st => st.modRec slot left)

/-- Drops, at every sharer but the requester, the lines of a region record (R111). -/
def State.purgeHalf (s : State) (k c : Nat) (except : Option Nat) (keepZ : Bool) : State :=
  match look? (s.stack k).dir c with
  | some r => s.purgeRegion k c (r.sharers.filter (fun f => some f != except)) (r.zs && !keepZ) except
      (except.isSome || keepZ)
  | none => s

/-- Recalls a line from every owner, for a read that no slice keeps (R91). -/
def State.recallOwners (s : State) (k ln : Nat) : State :=
  let st := s.stack k
  (st.covering ln).foldl (fun s c =>
    match look? st.dir c with
    | some r =>
      let s1 := r.owners.foldl (fun s f => s.recallLine f ln) s
      if r.zown then s1.zRecall ln else s1
    | none => s) s

/-- The lines of a record that the Zenith cache holds are written back and kept shared; ZOWN clears (R98). -/
def State.zRecallRec (s : State) (k c : Nat) (r : DirRec) : State :=
  ((s.zen.cache.filter (fun e => recCovers (s.stack k) r e.1)).foldl (fun s e => s.zRecall e.1) s).modStack k
    (fun st => st.modRec c (fun r => { r with zown := false }))

/-- An invalidation of the Zenith cache for a record: the lines of the record leave it, and ZS and ZOWN
clear (R98). -/
def State.zInvalRec (s : State) (k c : Nat) (r : DirRec) : State :=
  ((s.zen.cache.filter (fun e => recCovers (s.stack k) r e.1)).foldl (fun s e => s.zDrop e.1) s).modStack k
    (fun st => st.modRec c (fun r => { r with zs := false, zown := false }))

/-- Before records are joined: where they list more than four owners together, the lines of those beyond
the fourth are written back and kept shared, because an owner is always exact (R97). -/
def State.spareOwners (s : State) (k : Nat) (slots : List Nat) : State :=
  let own := (slots.flatMap (fun c => ((look? (s.stack k).dir c).map DirRec.owners).getD [])).eraseDups
  (own.drop 4).foldl (fun s f => slots.foldl (fun s c =>
    match look? (s.stack k).dir c with
    | some r =>
      if r.owners.contains f then
        (((s.field f).linesOf (recCovers (s.stack k) r)).foldl (fun s ln => s.recallLine f ln) s).modStack k
          (fun st => st.modRec c (fun r => r.dropOwner f))
      else s
    | none => s) s) s

/-- Recalls a line for a read fill (R96), from every owner but the requester: a field, or the Zenith
cache. An owner listed by a region record is a conflict: the record is halved, and the sharers of the
requesting half drop its lines (R111). -/
def State.recallForFill (s : State) (k ln : Nat) (except : Option Nat) (keepZ : Bool) : State :=
  let st := s.stack k
  let conflicts := (st.regionsOf ln).filter (fun c =>
    ((look? st.dir c).map (fun r => r.owners.any (fun f => some f != except) || (r.zown && !keepZ))).getD false)
  let s1 := conflicts.foldl (fun s c => s.halve k c ln) s
  let st1 := s1.stack k
  let s2 := (st1.covering ln).foldl (fun s c =>
    match look? st1.dir c with
    | some r =>
      let s' := (r.owners.filter (fun f => some f != except)).foldl (fun s f => s.recallLine f ln) s
      if r.zown && !keepZ then s'.zRecallRec k c r else s'
    | none => s) s1
  conflicts.foldl (fun s c => s.purgeHalf k c except keepZ) s2

/-- Whether a record lists an agent other than a requester. -/
def DirRec.listsOther (r : DirRec) (except : Option Nat) (keepZ : Bool) : Bool :=
  r.sharers.any (fun f => some f != except) || (r.zs && !keepZ)

/-- Whether a record over a line lists an agent other than a requester: an invalidation is to be sent. -/
def State.sharedElse (s : State) (k ln : Nat) (except : Option Nat) (keepZ : Bool) : Bool :=
  let st := s.stack k
  (st.covering ln).any (fun c => ((look? st.dir c).map (fun r => r.listsOther except keepZ)).getD false)

/-- Invalidates a line at every sharer but the requester (R96). With a region record over the line that
is a conflict, which halves it first; the invalidation then reaches that half (R111). -/
def State.invalidateOthers (s : State) (k ln : Nat) (except : Option Nat) (keepZ : Bool) : State :=
  let conflicts := if s.sharedElse k ln except keepZ then (s.stack k).regionsOf ln else []
  let s1 := conflicts.foldl (fun s c => s.halve k c ln) s
  let st1 := s1.stack k
  let s2 := (st1.covering ln).foldl (fun s c =>
    match look? st1.dir c with
    | some r =>
      let s' := (r.sharers.filter (fun f => some f != except)).foldl (fun s f => s.invalAt k f ln) s
      if r.zs && !keepZ then (if r.kind == .region then s'.zDrop ln else s'.zInvalRec k c r) else s'
    | none => s) s1
  conflicts.foldl (fun s c => s.purgeHalf k c except keepZ) s2

/-- Whether a record covers one of the 512 lines from b on. -/
def recMeets (k : Stack) (r : DirRec) (b : Nat) : Bool :=
  match r.kind with
  | .box => (List.range 512).any (fun i => recCovers k r (b + i))
  | .span | .region => decide (r.base < b + 512) && decide (b ≤ r.base + r.len)

/-- A new region record for the 64 KiB of a line: it lists every agent that a record covering one of
its lines lists, because every covering record does (R96). -/
def Stack.newRegion (k : Stack) (n ln part now : Nat) : DirRec :=
  let b := ln / 512 * 512
  let r : DirRec := { kind := .region, part := part, gen := k.gen n, base := b, len := 511, quiet := now }
  { (k.dir.filter (fun e => recMeets k e.2 b)).foldl
      (fun q e => q.joinSharers e.2) r with gseq := 0 }

/-- Makes a region record for the aligned 64 KiB of a line when no record covers it (R96).
False when no slot or quota is left: the fill is then served as direct. -/
def State.ensureCovered (s : State) (k ln part : Nat) : Bool × State :=
  if (s.stack k).covering ln ≠ [] then (true, s)
  else
    match (s.stack k).freeSlot? with
    | none => (false, s)
    | some n =>
      if !s.quotaOk k part then (false, s)
      else
        let near := (s.stack k).dir.filter (fun e => recMeets (s.stack k) e.2 (ln / 512 * 512))
        (true, (s.spareOwners k (near.map Prod.fst)).modStack k (fun st => st.setRec n (st.newRegion n ln part s.dirClock)))

/-- Applies a function to every covering record. -/
def State.modCovering (s : State) (k ln : Nat) (g : DirRec → DirRec) : State :=
  let cs := (s.stack k).covering ln
  s.modStack k (fun st => cs.foldl (fun st c => st.modRec c g) st)

/-- Whether some record that covers the line is held for writing by a context of a field: a
fill into that slice then carries the tenure mark (R97, R104). -/
def State.fillMark (s : State) (k ln fi : Nat) : Bool :=
  (s.stack k).dir.any (fun e => e.2.whv && e.2.ten == 2 && recCovers (s.stack k) e.2 ln &&
    fieldOf (e.2.whold.toNat % 2 ^ 24) == fi)

/-- A read fill (R96): recall of owners, then the fill, the requester added to every covering
record and the line installed in state S. -/
def State.readFill (s : State) (k loc fi ln : Nat) : State :=
  let s1 := s.recallForFill k ln (some fi) false
  let (ok, s2) := s1.ensureCovered k ln (s.field fi).fpart
  let (_, s3) := s2.bumpSeq k ln
  if ok then
    (s3.modCovering k ln (fun r => r.addSharer fi)).install fi ln .s (s3.lineAt loc)
      (s3.fillMark k ln fi) 0
  else s3

/-- A record that lists four other owners has no room for a fifth: before the lowest of them
moves into CVEC, its dirty lines of the record are written back and kept shared, because an
owner is always exact (R97). -/
def State.retireOwner (s : State) (k c fi : Nat) : State :=
  match look? (s.stack k).dir c with
  | some r =>
    if (r.entryOf fi).isNone && r.emptyEntry.isNone && r.plainEntry.isNone then
      match r.sh0 with
      | some e => ((s.field e.fi).l2.filter (fun l => recCovers (s.stack k) r l.1)).foldl
          (fun s l => s.recallLine e.fi l.1) s
      | none => s
    else s
  | none => s

/-- An ownership grant for a plain store (R96): other copies invalidated, the requester
recorded as owner of every covering record, the line installed in state O. False when the
line cannot be tracked, so that the store is performed as direct. -/
def State.ownLine (s : State) (k loc fi ln : Nat) : Bool × State :=
  let s1 := s.invalidateOthers k ln (some fi) false
  let (ok, s2) := s1.ensureCovered k ln (s.field fi).fpart
  let (_, s3) := s2.bumpSeq k ln
  if ok then
    let s3 := ((s3.stack k).covering ln).foldl (fun s c => s.retireOwner k c fi) s3
    let s4 := s3.modCovering k ln (fun r => r.addOwner fi)
    (true, match look? (s4.field fi).l2 ln with
      | some l => s4.setHeld fi ln { l with st := .o, exp := 0 }
      | none => s4.install fi ln .o (s4.lineAt loc) (s4.fillMark k ln fi) 0)
  else (false, s3)

/-- Fills a line under a stream lease (R116). -/
def State.streamFill (s : State) (loc fi ln : Nat) : State :=
  s.install fi ln .l (s.lineAt loc) false (Nat.min (s.sid + 2 ^ s.lease) (2 ^ 40 - 1))

/-- Invalidates the stream copies of a field's slice that satisfy a condition. -/
def State.dropLeases (s : State) (fi : Nat) (p : Nat → Bool) : State :=
  s.modField fi (fun f => { f with l2 := f.l2.filter (fun e => !(e.2.st == .l && p e.1)) })

/-- The fields whose slices an acquire of a scope reaches (R104, R129). -/
def State.scopeFields (s : State) (t scope : Nat) : List Nat :=
  if scope ≤ 1 then [fieldOf t]
  else if scope = 2 then (s.fields.map Prod.fst).filter (fun f => stackOfField f == stackOf t)
  else s.fields.map Prod.fst

/-- Whether the next event of a record has to wait: its sequence would come 2^15 beyond that of a fill of
one of its lines still in flight (R120). -/
def State.recHeld (s : State) (k c : Nat) : Bool :=
  match look? (s.stack k).dir c with
  | some r => s.fields.any (fun e => e.2.fills.any (fun m =>
      recCovers (s.stack k) r m.line && (r.gseq + 1 + 2 ^ 16 - m.seq) % 2 ^ 16 == 2 ^ 15))
  | none => false

/-- The same for the next event on a line: it is one of every record that covers the line. -/
def State.seqHeld (s : State) (ln : Nat) : Bool :=
  match s.home? (128 * ln) with
  | some h => h.cube == s.cubeid && ((s.stack h.stack).covering ln).any (s.recHeld h.stack)
  | none => false

/-- The stream invalidation of an acquire (R129, R130). -/
def State.acquire (s : State) (t scope : Nat) (p : Nat → Bool) : State :=
  (s.scopeFields t scope).foldl (fun s f => s.dropLeases f p) s

/-! ## Records and holders -/

/-- The slots of a record and its pieces, along NEXT. -/
def Stack.chain (k : Stack) (slot : Nat) : Nat → List Nat
  | 0 => [slot]
  | n + 1 =>
    match look? k.dir slot with
    | some r => if r.next = 0 then [slot] else slot :: k.chain r.next n
    | none => []

/-- All slots of a record. -/
def Stack.pieces (k : Stack) (slot : Nat) : List Nat := k.chain slot k.dir.length

/-- The record that a piece belongs to (R109); a record that is no piece is its own. -/
def Stack.root (k : Stack) (slot : Nat) : Nat :=
  match look? k.dir slot with
  | some r =>
    if r.piece then
      ((k.dir.find? (fun e => !e.2.piece && (k.pieces e.1).contains slot)).map Prod.fst).getD slot
    else slot
  | none => slot

/-- Whether a context holds tenure on the record in a slot, or on the record whose piece it is. -/
def State.holds (s : State) (t k slot : Nat) : Bool :=
  let root := (s.stack k).root slot
  (s.ctx t).tens.any (fun x => s.hDir x.handle == k && hSlot x.handle == root)

/-- Whether tenure excludes an access of a context to bytes [pa, pa + n) (R113): some record has
one of the bytes, is in tenure that excludes the access, and the context does not hold it; or the
access is a store to a line that the tile fetch unit has pinned for another context (R115). -/
def State.excluded (s : State) (t k pa n : Nat) (store : Bool) : Bool :=
  (s.stack k).dir.any (fun e =>
    (e.2.ten == 2 || (e.2.ten == 1 && store)) &&
    (List.range n).any (fun i => recHasByte (s.stack k) e.2 (pa + i)) && !s.holds t k e.1) ||
  (store && (s.stack k).pins.any (fun p => p.1 == pa / 128 && p.2.1 != t))

/-! ## Lines that the copy engine owns (R115) -/

/-- The places that an access not yet performed names. -/
def Work.els : Work → List Elem
  | .load _ _ _ el => [el]
  | .vload _ _ _ els => els
  | .atomic _ _ _ _ _ _ _ el => [el]
  | _ => []

/-- Whether two ranges share a byte. -/
def meets (a n b m : Nat) : Bool := decide (a < b + m) && decide (b < a + n)

/-- The part of a copy's piece that lies in a line of its destination: first source byte and length. -/
def Seg.inLine (g : Seg) (ln : Nat) : Nat × Nat :=
  let a := Nat.max g.dst (128 * ln)
  (g.src + (a - g.dst), Nat.min (g.dst + g.n) (128 * ln + 128) - a)

/-- Whether a copy engine can write a line that it has taken without waiting for tenure: neither what it has
to read for it nor an earlier access of its thread to it is kept waiting so. One that cannot gives the line
up to a recall (R114). -/
def State.canFinish (s : State) (k : Copy) (ln : Nat) : Bool :=
  (k.segs.filter (fun g => meets g.dst g.n (128 * ln) 128)).all (fun g =>
    let r := g.inLine ln
    !(k.gsrc && [r.1, r.1 + r.2 - 1].any (fun a => match s.home? a with
      | some h => s.excluded k.tid (s.dirAt h) a 1 false
      | none => false)) &&
    !(s.ctx k.tid).pend.any (fun p => p.since.isSome && decide (p.idx < k.idx) && p.work.els.any (fun e =>
      (k.gsrc && meets e.pa e.bytes r.1 r.2) || meets e.pa e.bytes (128 * ln) 128)))

/-- Whether a copy of some core has taken ownership of a line and has not written it yet. A frozen
field's engine answers a recall at once (R114). -/
def State.engineOwns (s : State) (ln : Nat) (p : Nat → Bool) : Bool :=
  s.cores.any (fun e => p (fieldOfCore e.1) && !(s.field (fieldOfCore e.1)).frozen &&
    e.2.copies.any (fun k => k.owned.contains ln && s.canFinish k ln))

/-- An access of a hub or of a hart reaches a line: where a copy engine owns it, the access is held until the
engine has written the line (R115). -/
def State.reach (s : State) (ln : Nat) : State :=
  if s.engineOwns ln (fun _ => true) then { s with blocked := true } else s

end Sys2Proof.Machine
end

