-- ==== Sys2Proof/Machine/Translate.lean ====
section
/-! DEFINITION. Reads and writes at a home (R91, direct class), the table walk (R326, R327),
permissions (R328), read-duplicate pages (R329) and the lookup of the TLBs (R330, R331). -/

namespace Sys2Proof.Machine

open Sys2Proof

/-- The outcome of an access: performed, held, or failed with a cause. -/
inductive Acc (α : Type) where
  | ok (v : α) (s : State)
  | stall (s : State)
  | fault (cause : Nat)
  deriving Repr

def Acc.bind {α β : Type} (x : Acc α) (g : α → State → Acc β) : Acc β :=
  match x with
  | .ok v s => g v s
  | .stall s => .stall s
  | .fault c => .fault c

/-- Why a line may not be read: poison, then the line check (R350). -/
def HomeLine.failure (l : HomeLine) : Option Nat :=
  if l.bad then some cData else if l.syn != 0#32 then some cCheck else none

/-- A direct read of n bytes at the home of a physical address (R91, R96). -/
def State.readDirect (s : State) (pa n : Nat) : Acc Nat :=
  match s.home? pa with
  | none => .fault cPhys
  | some h =>
    if !s.reachable h.cube then .fault cPhys
    else
    let s1 := if h.cube = s.cubeid then (s.reach (pa / 128)).recallOwners h.stack (pa / 128) else s
    let l := s1.lineAt h.loc
    match l.failure with
    | some c => .fault c
    | none => .ok (getInLine l.data (pa % 128) n) s1

/-- Writes n bytes of a line at its location: tags of the granules touched are cleared, a write
of the whole line computes a fresh check (R92, R306, R350). -/
def State.storeHome (s : State) (loc n v : Nat) : Acc Unit :=
  let l := s.lineAt loc
  if l.bad && n < 128 then .fault cData
  else .ok () (s.setLineAt loc
    { data := setInLine l.data (loc % 128) n v, tags := clearTags l.tags (loc % 128) n,
      syn := if n = 128 then 0#32 else l.syn, bad := false })

/-- Removes every copy of a line of this cube before a direct access writes it (R91). -/
def State.clearCopies (s : State) (h : HomeAt) (ln : Nat) : State :=
  if h.cube = s.cubeid && s.sharedElse h.stack ln none false then
    ((s.invalidateOthers h.stack ln none false).bumpSeq h.stack ln).2
  else s

/-- A direct write of n bytes inside one line. -/
def State.writeDirect (s : State) (pa n v : Nat) : Acc Unit :=
  match s.home? pa with
  | none => .fault cPhys
  | some h =>
    if !s.reachable h.cube then .fault cPhys
    else ((s.reach (pa / 128)).clearCopies h (pa / 128)).storeHome h.loc n v

/-- A direct write of bytes. -/
def State.writeDirectBytes (s : State) (pa : Nat) (bs : List Byte) : Acc Unit :=
  match bs with
  | [] => .ok () s
  | b :: t =>
    match s.writeDirect pa 1 b.toNat with
    | .ok _ s1 => s1.writeDirectBytes (pa + 1) t
    | .stall s1 => .stall s1
    | .fault c => .fault c

/-! ## The walk (R326, R327) -/

/-- Fields of a page-table entry. -/
def pteV (e : Nat) : Bool := bit e 0
def pteR (e : Nat) : Bool := bit e 1
def pteW (e : Nat) : Bool := bit e 2
def pteX (e : Nat) : Bool := bit e 3
def pteU (e : Nat) : Bool := bit e 4
def pteC (e : Nat) : Bool := bit e 5
def pteLeaf (e : Nat) : Bool := bit e 7
def pteDup (e : Nat) : Nat := bits e 9 8
def pteStride (e : Nat) : Nat := 2 ^ (30 + 2 * bits e 11 10)
def ptePpn (e : Nat) : Nat := bits e 51 12 * 2 ^ 12

/-- Reserved bits of an entry are zero; in a pointer, bits [10:1] are (R327). -/
def pteReserved (e : Nat) : Bool :=
  e / 2 ^ 52 == 0 && !bit e 6 && (pteLeaf e || bits e 10 1 == 0)

/-- The group of 16 that a contiguous entry belongs to is whole (R327). -/
def groupOk (g : List Nat) (size : Nat) : Bool :=
  let e0 := g.getD 0 0
  (List.range 16).all (fun i =>
    let e := g.getD i 0
    pteV e && pteReserved e && pteLeaf e && pteC e && bits e 11 0 == bits e0 11 0 &&
      ptePpn e == ptePpn e0 + i * 2 ^ size) &&
  ptePpn e0 % 2 ^ (size + 4) == 0

/-- The 16 entries of a line of a table, read direct. -/
def State.readGroup (s : State) (pa : Nat) : Nat → Acc (List Nat)
  | 0 => .ok [] s
  | n + 1 =>
    match s.readDirect pa 8 with
    | .ok e s1 =>
      (match s1.readGroup (pa + 8) n with
       | .ok es s2 => .ok (e :: es) s2
       | .stall s2 => .stall s2
       | .fault c => .fault c)
    | .stall s1 => .stall s1
    | .fault c => .fault c

/-- Whether an address lies where a table may (R326). -/
def tableAddrOk (pa : Nat) : Bool := paSpace pa < 0xE

/-- The walk from level l of the table at t; none is the translation fault. -/
def State.walkFrom (s : State) (asid va t : Nat) : Nat → Option TlbEnt × State
  | 0 => (none, s)
  | l + 1 =>
    -- level l; a walk starts at level 4
    let a := t + 8 * bits va (8 * l + 19) (8 * l + 12)
    if !tableAddrOk t then (none, s)
    else
      match s.readDirect a 8 with
      | .ok e s1 =>
        if !pteV e || !pteReserved e then (none, s1)
        else if !pteLeaf e then
          if l = 0 || pteC e then (none, s1)
          else s1.walkFrom asid va (bits e 51 11 * 2 ^ 11) l
        else if l = 4 then (none, s1)
        else
          let size := 8 * l + 12
          if pteC e then
            if l = 3 then (none, s1)
            else
              match s1.readGroup (a / 128 * 128) 16 with
              | .ok g s2 =>
                if groupOk g size then
                  (some { asid := asid, va := va / 2 ^ (size + 4) * 2 ^ (size + 4), size := size + 4,
                          pte := w64 (e - ptePpn e + ptePpn (g.getD 0 0)) }, s2)
                else (none, s2)
              | _ => (none, s1)
          else if ptePpn e % 2 ^ size == 0 then
            (some { asid := asid, va := va / 2 ^ size * 2 ^ size, size := size, pte := w64 e }, s1)
          else (none, s1)
      | _ => (none, s)

/-- The walk of an address space (R325, R327). -/
def State.walk (s : State) (asid va : Nat) : Option TlbEnt × State :=
  if s.trans.astb = 0 then (none, s)
  else
    match s.readDirect (s.trans.astb.toNat + 8 * asid) 8 with
    | .ok e s1 =>
      if bit e 0 && e / 2 ^ 52 == 0 && bits e 10 1 == 0 then
        s1.walkFrom asid va (bits e 51 11 * 2 ^ 11) 5
      else (none, s1)
    | _ => (none, s)

/-! ## Permissions (R328) -/

/-- What an access needs of a leaf. -/
structure Need where
  r : Bool := false
  w : Bool := false
  x : Bool := false
  /-- stores the leaf's bytes: refused on a read-duplicate page -/
  stores : Bool := false
  /-- TOBJ and TDEF on a read-duplicate page: the operand or encoding fault -/
  tile : Bool := false
  /-- reads that use the nearest copy of a read-duplicate page (R329) -/
  near : Bool := false
  /-- the U bit is not asked for (R401, R40) -/
  anyU : Bool := false
  deriving DecidableEq, Repr

/-- The permission check: the first failure's cause. -/
def leafCheck (sup : Bool) (e : Nat) (nd : Need) : Option Nat :=
  if !sup && !nd.anyU && !pteU e then some cProt
  else if (nd.r && !pteR e) || (nd.w && !pteW e) || (nd.x && !pteX e) then some cProt
  else if nd.stores && pteDup e != 0 then some cWProt
  else if nd.tile && pteDup e != 0 then some cOperand
  else none

/-- Distance from a stack of this cube to a home (R329). -/
def stackDist (a b : Nat) : Nat := if a = b then 0 else if a + b = 3 then 2 else 1

def State.homeDist (s : State) (stack : Nat) (h : HomeAt) : Nat :=
  if h.cube = s.cubeid then stackDist stack h.stack else 4

/-- The copy of a read-duplicate page that a core of a stack reads: nearest first, then the
lowest number; copies that resolve to no home are skipped (R329). None: none resolves. -/
def State.nearCopy (s : State) (stack pa stride : Nat) (dup : Nat) : Option Nat :=
  let cands := (List.range (dup + 1)).filterMap (fun k =>
    (s.home? (pa + k * stride)).map (fun h => (s.homeDist stack h, pa + k * stride)))
  let best := cands.foldl (fun (b : Option (Nat × Nat)) c =>
    match b with
    | none => some c
    | some x => if c.1 < x.1 then some c else some x) none
  best.map Prod.snd

/-- The physical address of a virtual one under a leaf. -/
def leafPa (e : TlbEnt) (va : Nat) : Nat :=
  ptePpn e.pte.toNat / 2 ^ e.size * 2 ^ e.size + va % 2 ^ e.size

/-- What resolution rests on now. -/
def State.homeView (s : State) : HomeView where
  hmap := s.hmap
  busy := s.trans.busy
  ent := s.trans.ent
  rsnew := s.trans.rsnew
  moved := s.trans.moved

/-- The state in which addresses resolve as under a view. -/
def State.underView (s : State) (v : HomeView) : State :=
  { s with hmap := v.hmap, trans := { s.trans with busy := v.busy, ent := v.ent, rsnew := v.rsnew, moved := v.moved } }

/-- The physical address that an access uses under a leaf, or the cause of its fault: copies of
a read-duplicate page in the 0xE and 0xF spaces or past 2^52 are translation faults; if no copy
resolves, the access has the physical-address fault (R329). -/
def State.leafTarget (s : State) (stack : Nat) (e : TlbEnt) (va : Nat) (nd : Need) :
    Except Nat Nat :=
  let p := e.pte.toNat
  let pa := leafPa e va
  if pteDup p = 0 || !nd.near then .ok pa
  else if (List.range (pteDup p + 1)).any (fun k =>
      decide (pa + k * pteStride p ≥ 2 ^ 52) || paSpace (pa + k * pteStride p) ≥ 0xE) then
    .error cTrans
  else
    -- the choice that the core's entry was made with
    let s0 := match e.hm with
      | some m => s.underView m
      | none => s
    match s0.nearCopy stack pa (pteStride p) (pteDup p) with
    | some a => .ok a
    | none => .error cPhys

/-! ## TLBs (R330, R331) -/

def TlbEnt.covers (e : TlbEnt) (asid va : Nat) : Bool :=
  e.asid == asid && va / 2 ^ e.size * 2 ^ e.size == e.va

/-- Puts a leaf into a TLB of a capacity; which leaf makes room is not architectural. -/
def tlbInsert (n : Nat) (t : List TlbEnt) (e : TlbEnt) : List TlbEnt :=
  (e :: t.filter (fun x => x != e)).take n

/-- What a lookup finds. -/
inductive Lookup where
  | leaf (e : TlbEnt)
  | miss
  | fault

/-- Whether the answer of a walk that faulted is for the instruction at which a thread stands: a fault answers only
the requests that were merged into its walk (R331). -/
def State.ownFault (s : State) (m : MissFault) (t asid va : Nat) : Bool :=
  m.tid == t && m.asid == asid && m.va == va / 4096 && m.pc == (s.ctx t).pc && m.idx == (s.ctx t).issued

/-- The lookup of a core: a walk that faulted is waiting as the answer; else the first-level TLB, then the hub's; or
the walk is still to be made. -/
def State.tlbLook (s : State) (t asid va : Nat) : Lookup :=
  let c := coreOf t
  let f := s.field (fieldOf t)
  if f.mfaults.any (fun m => s.ownFault m t asid va) then .fault
  else
  match (s.core c).tlb.find? (fun e => e.covers asid va) with
  | some e => .leaf e
  | none =>
    match f.tlb.find? (fun e => e.covers asid va) with
    | some e => .leaf e
    | none => .miss

/-- Asks the hub for a walk; a core has at most one miss outstanding, the buffer 1,024 entries
(R331). -/
def State.askWalk (s : State) (t asid va : Nat) : State :=
  s.modField (fieldOf t) (fun f =>
    if f.misses.any (fun m => m.core == coreOf t) || f.misses.length ≥ 1024 then f
    else { f with misses := f.misses ++
      [{ core := coreOf t, tid := t, asid := asid, va := va / 4096, walk := none, pc := (s.ctx t).pc, idx := (s.ctx t).issued }] })

/-- Forgets the answers of walks that faulted for a thread. -/
def State.forgetFaults (s : State) (t : Nat) : State :=
  s.modField (fieldOf t) (fun f => { f with mfaults := f.mfaults.filter (fun m => m.tid != t) })

/-- Takes the answer of a walk that faulted; one of an instruction that the thread has left goes with it. -/
def State.takeWalkFault (s : State) (t asid va : Nat) : State :=
  s.modField (fieldOf t) (fun f => { f with mfaults := f.mfaults.filter (fun m =>
    !(m.tid == t && (s.ownFault m t asid va || m.pc != (s.ctx t).pc || m.idx != (s.ctx t).issued))) })

/-- A core keeps a leaf it used in its first-level TLB (R330), with its choice among the copies of a
read-duplicate page (R329). -/
def State.keepLeaf (s : State) (t : Nat) (e : TlbEnt) : State :=
  if (s.core (coreOf t)).tlb.contains e then s
  else
    let e := if pteDup e.pte.toNat = 0 then e else { e with hm := some s.homeView }
    s.modCore (coreOf t) (fun c => { c with tlb := tlbInsert 1024 c.tlb e })

/-- A core and its hub may give up leaves at any time (R330): later accesses walk again, and use an
entry that was changed meanwhile (R332). -/
def State.forgetLeaves (s : State) (core : Nat) : State :=
  (s.modCore core (fun c => { c with tlb := [] })).modField (fieldOfCore core) (fun f => { f with tlb := [] })

/-- The address space of a context's launch. -/
def State.asidOf (s : State) (t : Nat) : Nat := ((s.ctxLaunch? t).map Launch.asid).getD 0

/-- The outcome of translating for a thread, and the leaf used. -/
def State.translateFor (s : State) (t : Nat) (va : Word) (nd : Need) : Except Stop (Nat × TlbEnt) :=
  if va.toNat ≥ 2 ^ 52 then .error (.exc { cause := cTrans, tval := va })
  else
    match s.tlbLook t (s.asidOf t) va.toNat with
    | .miss => .error (.walk va)
    | .fault => .error (.excWalk va)
    | .leaf e =>
      match leafCheck (s.ctx t).sup e.pte.toNat nd with
      | some c => .error (.exc { cause := c, tval := va })
      | none =>
        match s.leafTarget (stackOf t) e va.toNat nd with
        | .ok pa => .ok (pa, e)
        | .error c => .error (.exc { cause := c, tval := va })

/-- Translates a virtual address for the issuing thread (R87, R328); the access that misses the
TLBs holds its issue slot (R331). -/
def translate (va : Word) (nd : Need) : M Nat := fun s =>
  match s.translateFor s.cur va nd with
  | .ok (pa, e) => .ok pa (s.keepLeaf s.cur e)
  | .error x => .error x s

/-- A walk made by a hub for an address it holds itself: a backing line (R401) or a completion
address (R40). -/
def State.hubTranslate (s : State) (asid va : Nat) (nd : Need) : Option Nat × State :=
  if va ≥ 2 ^ 52 then (none, s)
  else
    match s.walk asid va with
    | (some e, s1) =>
      if (leafCheck false e.pte.toNat { nd with anyU := true }).isSome then (none, s1)
      else (some (leafPa e va), s1)
    | (none, s1) => (none, s1)

end Sys2Proof.Machine
end

