-- ==== Sys2Proof/Machine/Access.lean ====
section
/-! DEFINITION. Accesses of threads and engines to global, aperture and scratch bytes: classes
(R91), tenure (R113), posted stores (R218, R343), atomics (R130), collectives (R379, R380). -/

namespace Sys2Proof.Machine

open Sys2Proof

/-! ## Waiting at the home (R115, R120) -/

/-- Whether a context's own slice serves an access by itself. -/
def State.ownServes (s : State) (t cls pa : Nat) (store : Bool) : Bool :=
  match s.held? (fieldOf t) (pa / 128) with
  | some l => if store then cls == 0 && l.st == .o else (cls == 0 && l.st != .l) || (cls == 1 && l.st == .l)
  | none => false

/-- Whether an access of a context that goes to the home waits there: until the copy engine of a field
has written the line (R115), or for the sequence of the line (R120). -/
def State.homeHolds (s : State) (t cls pa : Nat) (store : Bool) : Bool :=
  paSpace pa < 0xE && !s.ownServes t cls pa store &&
    (s.engineOwns (pa / 128) (fun f => f != fieldOf t || cls != 0) || s.seqHeld (pa / 128))

/-! ## Aperture and scratch targets (R80, R81, R86) -/

/-- The partition of a context's field. -/
def State.partOf (s : State) (t : Nat) : Nat := (s.field (fieldOf t)).fpart

/-- Whether an aperture or scratch access of a context to n bytes is permitted: `none` when it
is, else how it ends. -/
def State.specialCheck (s : State) (t pa : Nat) : Option (Option Nat) :=
  let cube := bits pa 47 36
  if paSpace pa = 0xF then
    let core := bits pa 35 16
    if cube ≠ s.cubeid || (s.field (fieldOfCore core)).fpart ≠ s.partOf t then some (some cProt)
    else if bits pa 15 0 ≥ 0xC000 then some (some cProt)
    else none
  else
    let fi := bits pa 35 20
    if cube ≠ s.cubeid || fi ≥ 1024 || (s.field fi).fpart ≠ s.partOf t then some (some cProt)
    else
      match (s.field fi).l2state with
      | 2 => none
      | 1 => some none
      | _ => some (some cScratch)

/-- The check of an access that a thread makes: one of its own field's scratch was checked at its
issue and is performed whatever STATE has become (R86). -/
def State.threadCheck (s : State) (t pa : Nat) : Option (Option Nat) :=
  if paSpace pa = 0xE && bits pa 47 36 == s.cubeid && bits pa 35 20 == fieldOf t then none
  else s.specialCheck t pa

/-- Whether some vault word of [loc, loc + n) is poisoned (R350). -/
def State.vaultBad (s : State) (loc n : Nat) : Bool :=
  (List.range n).any (fun i => look s.bad ((loc + i) / 8) false)

/-- Marks the frame of a vault byte as differing from its backing (R74). -/
def State.dirtyFrame (s : State) (core off : Nat) : State :=
  s.modCore core (fun c => { c with frames := match look? c.frames (off / 4096) with
    | some f => put c.frames (off / 4096) { f with dirty := true }
    | none => c.frames })

/-- What a write of n bytes through the vault aperture leaves beside the bytes: the banks of the core are taken
(R79), the frame differs from its backing, and a poisoned word written whole is poisoned no more. -/
def State.afterAperture (s : State) (pa n : Nat) : State :=
  if paSpace pa = 0xF then
    (({ s with bad := if n ≥ 8 then (List.range (n / 8)).foldl (fun m i => drop m ((pa + 8 * i) / 8)) s.bad else s.bad }).dirtyFrame
      (bits pa 35 16) (bits pa 15 0)).modCore (bits pa 35 16) (fun c => { c with apertured := true })
  else s

/-! ## Loads -/

/-- Bytes [pa, pa + n) from a line, or the failure of its checks. -/
def lineValue (l : HomeLine) (pa n : Nat) : Except Nat Nat :=
  match l.failure with
  | some c => .error c
  | none => .ok (getInLine l.data (pa % 128) n)

def L2Line.home (l : L2Line) : HomeLine := { data := l.data, tags := l.tags, syn := l.syn, bad := l.bad }

def accOf {α : Type} (r : Except Nat α) (s : State) : Acc α :=
  match r with
  | .ok v => .ok v s
  | .error c => .fault c

/-- Whether a context has a posted store to some of the bytes in its core's log: its later
accesses to them wait (R124, same thread and location). -/
def State.postedOver (s : State) (t pa n : Nat) : Bool :=
  (s.core (coreOf t)).log.any (fun e => e.2.tid == t && e.2.act == (s.ctx t).act &&
    decide (e.2.pa < pa + n) && decide (pa < e.2.pa + e.2.size))

/-- The same of its posted stores that are not replicas: replicas reach their members in issue order of themselves (R380). -/
def State.storedOver (s : State) (t pa n : Nat) : Bool :=
  (s.core (coreOf t)).log.any (fun e => e.2.tid == t && e.2.act == (s.ctx t).act && e.2.member.isNone &&
    decide (e.2.pa < pa + n) && decide (pa < e.2.pa + e.2.size))

/-- A read of up to 128 bytes inside one line (R91). `t` is the context it is made for; an
engine's read waits for tenure like a load but never faults on it. -/
def State.load (s : State) (t cls pa n : Nat) : Acc Nat :=
  if s.wrap ≠ 0 || s.postedOver t pa n then .stall s
  else if paSpace pa ≥ 0xE then
    match s.threadCheck t pa with
    | some (some c) => .fault c
    | some none => .stall s
    | none => if paSpace pa = 0xF && s.vaultBad pa n then .fault cData else .ok (s.mem.val pa n) s
  else
    match s.home? pa with
    | none => .fault cPhys
    | some h =>
      let ln := pa / 128
      let fi := fieldOf t
      let own := h.cube == s.cubeid
      if !s.reachable h.cube then .fault cPhys
      else
        let cls := if cls = 0 && !own then 1 else cls
        let out := s.excluded t (s.dirAt h) pa n false
        match cls, s.held? fi ln with
        | 0, some l =>
          if l.st == .l then
            -- found under the other class: the copy is dropped (R91)
            if out then .stall s
            else
              let s1 := (s.unhold fi ln).readFill h.stack h.loc fi ln
              accOf (lineValue (s1.lineAt h.loc) pa n) s1
          else if l.mark && out then .stall s
          else accOf (lineValue l.home pa n) s
        | 0, none =>
          if out then .stall s
          else
            let s1 := (s.unhold fi ln).readFill h.stack h.loc fi ln
            accOf (lineValue (s1.lineAt h.loc) pa n) s1
        | 1, some l =>
          if l.st == .l then accOf (lineValue l.home pa n) s
          else if out then .stall s
          else
            let s1 := (s.dropLine fi ln).recallOwners h.stack ln
            let s2 := s1.streamFill h.loc fi ln
            accOf (lineValue (s2.lineAt h.loc) pa n) s2
        | 1, none =>
          if out then .stall s
          else
            let s1 := if own then s.recallOwners h.stack ln else s
            let s2 := s1.streamFill h.loc fi ln
            accOf (lineValue (s2.lineAt h.loc) pa n) s2
        | _, _ =>
          if out then .stall s
          else
            -- the slice's own leased copy goes: no later load returns an older value (R91, R123)
            let s0 := s.dropLeases fi (fun l => l == ln)
            let s1 := if own then s0.recallOwners h.stack ln else s0
            accOf (lineValue (s1.lineAt h.loc) pa n) s1

/-! ## Stores -/

/-- The bits that a byte mask selects. -/
def maskBits (mask n : Nat) : Nat :=
  ((List.range n).map (fun i => if bit mask i then 255 * 256 ^ i else 0)).sum

/-- A line with the bytes of a masked store of n bytes at an offset. -/
def storeInLine (d : Line) (off n mask v : Nat) : Line :=
  let m := maskBits mask n * 256 ^ off
  (d &&& ~~~ BitVec.ofNat 1024 m) ||| (BitVec.ofNat 1024 (v * 256 ^ off) &&& BitVec.ofNat 1024 m)

/-- The tags after a masked store. -/
def storeTags (t : BitVec 8) (off n mask : Nat) : BitVec 8 :=
  (List.range n).foldl (fun t i => if bit mask i then clearTags t (off + i) 1 else t) t

/-- A masked store into a line's contents: a partial store into a poisoned line is refused; one
that covers all 128 bytes computes a fresh check (R350). -/
def HomeLine.store (l : HomeLine) (off n mask v : Nat) : Except Nat HomeLine :=
  let whole := n == 128 && mask % 2 ^ 128 == 2 ^ 128 - 1
  if l.bad && !whole then .error cData
  else .ok { data := storeInLine l.data off n mask v, tags := storeTags l.tags off n mask,
             syn := if whole then 0#32 else l.syn, bad := false }

/-- The reduction or multicast group whose window has an address (R378). -/
def State.windowOf (s : State) (pa : Nat) : Option (Nat × List Word) :=
  (s.zen.groups.find? (fun g =>
    let w := fun i => (g.2.getD i 0).toNat
    bit (w 0) 0 && decide (w 1 / 64 * 64 ≤ pa) && decide (pa < w 1 / 64 * 64 + bits (w 2) 20 0)))

/-- OPR of a group entry. -/
def groupOpr (g : List Word) : Nat := bits (g.getD 0 0).toNat 3 1

/-- Whether a cube is a member of a group. -/
def groupMember (g : List Word) (c : Nat) : Bool := bit (g.getD (4 + c / 64) 0).toNat (c % 64)

/-- Whether a masked store writes whole 4-byte words only, aligned to 4 bytes (R379). -/
def wholeWords (pa n mask : Nat) : Bool :=
  pa % 4 == 0 && n % 4 == 0 &&
  (List.range (n / 4)).all (fun i => bits mask (4 * i + 3) (4 * i) == 15 || bits mask (4 * i + 3) (4 * i) == 0)

/-- Contributions of a store to a reduction window, one event per word (R379). -/
def State.contribute (s : State) (g pa base n mask v : Nat) : State :=
  (List.range (n / 4)).foldl (fun s i =>
    if bit mask (4 * i) then
      s.post (.collectiveContribution g s.cubeid ((pa - base) / 4 + i)
        (BitVec.ofNat 32 (v / 2 ^ (32 * i))))
    else s) s

/-- A masked store performed at its home as direct class. -/
def State.storeDirect (s : State) (h : HomeAt) (pa n mask v : Nat) : Acc Unit :=
  let s1 := s.clearCopies h (pa / 128)
  match (s1.lineAt h.loc).store (pa % 128) n mask v with
  | .ok l => .ok () (s1.setLineAt h.loc l)
  | .error c => .fault c

/-- A masked store of n ≤ 128 bytes inside one line, performed (R91, R131). `t` is the context
it is made for. One that the hub has issued is performed during a wrap too (R117). -/
def State.storeNow (s : State) (t cls pa n mask v : Nat) : Acc Unit :=
  if paSpace pa ≥ 0xE then
    match s.threadCheck t pa with
    | some (some c) => .fault c
    | some none => .stall s
    | none =>
      let whole := decide (mask % 2 ^ n = 2 ^ n - 1)
      .ok () (((List.range n).foldl (fun s i =>
        if bit mask i then { s with mem := s.mem.set (pa + i) (BitVec.ofNat 8 (v / 256 ^ i)) } else s) s).afterAperture
          pa (if whole then n else 0))
  else
    match s.home? pa with
    | none => .fault cPhys
    | some h =>
      let ln := pa / 128
      let fi := fieldOf t
      let own := h.cube == s.cubeid
      if !s.reachable h.cube then .fault cPhys
      else
        match s.windowOf pa with
        | some (g, w) =>
          if groupOpr w = 4 then
            -- multicast: performed at home; its replicas are posted by the issuing core
            if s.excluded t (s.dirAt h) pa n true then .stall s
            else s.storeDirect h pa n mask v
          else if !wholeWords pa n mask || !groupMember w s.cubeid then .fault cPhys
          else .ok () (s.contribute g pa ((w.getD 1 0).toNat / 64 * 64) n mask v)
        | none =>
          let out := s.excluded t (s.dirAt h) pa n true
          let cls := if cls = 0 && !own then 1 else cls
          match cls, s.held? fi ln with
          | 0, some l =>
            if l.st == .o && !(l.mark && out) then
              match l.home.store (pa % 128) n mask v with
              | .ok x => .ok () (s.setHeld fi ln { l with data := x.data, tags := x.tags, syn := x.syn,
                                                          bad := x.bad, dirty := true })
              | .error c => .fault c
            else if out then .stall s
            else
              let (ok, s1) := (if l.st == .l then s.unhold fi ln else s).ownLine h.stack h.loc fi ln
              if ok then
                match look? (s1.field fi).l2 ln with
                | some l =>
                  (match l.home.store (pa % 128) n mask v with
                   | .ok x => .ok () (s1.setHeld fi ln { l with data := x.data, tags := x.tags,
                                                                syn := x.syn, bad := x.bad, dirty := true })
                   | .error c => .fault c)
                | none => s1.storeDirect h pa n mask v
              else s1.storeDirect h pa n mask v
          | 0, none =>
            if out then .stall s
            else
              let (ok, s1) := (s.unhold fi ln).ownLine h.stack h.loc fi ln
              if ok then
                match look? (s1.field fi).l2 ln with
                | some l =>
                  (match l.home.store (pa % 128) n mask v with
                   | .ok x => .ok () (s1.setHeld fi ln { l with data := x.data, tags := x.tags,
                                                                syn := x.syn, bad := x.bad, dirty := true })
                   | .error c => .fault c)
                | none => s1.storeDirect h pa n mask v
              else s1.storeDirect h pa n mask v
          | 1, held =>
            if out then .stall s
            else
              -- write through; the own leased copy is updated (R116)
              let s0 := match held with
                | some l => if l.st == LineSt.l then s else s.dropLine fi ln
                | none => s
              match s0.storeDirect h pa n mask v with
              | .ok _ s1 =>
                (match look? (s1.field fi).l2 ln with
                 | some l =>
                   (match l.home.store (pa % 128) n mask v with
                    | .ok x => .ok () (s1.setHeld fi ln { l with data := x.data, tags := x.tags,
                                                                 syn := x.syn, bad := x.bad })
                    | .error _ => .ok () (s1.unhold fi ln))
                 | none => .ok () s1)
              | r => r
          | _, _ =>
            if out then .stall s
            else (s.dropLeases fi (fun l => l == ln)).storeDirect h pa n mask v

/-- A masked store that the hub issues now: during a wrap it stalls (R117). -/
def State.store (s : State) (t cls pa n mask v : Nat) : Acc Unit :=
  if s.wrap ≠ 0 then .stall s else s.storeNow t cls pa n mask v

/-! ## Posted stores (R218, R343) -/

/-- Whether a global store is posted: under `.m`, or homed in another cube. -/
def State.isPosted (s : State) (spaceM : Bool) (pa : Nat) : Bool :=
  spaceM || (paSpace pa < 0xE && match s.resolve? pa with
    | some h => h.cube != s.cubeid
    | none => false)

/-! ## Atomics (R130) -/

/-- A read-modify-write performed once at home; the old value. `g` answers the new value, or
none where only the read is performed. -/
def State.rmw (s : State) (t pa n : Nat) (g : Nat → Option Nat) : Acc Nat :=
  if s.wrap ≠ 0 || s.postedOver t pa n then .stall s
  else if paSpace pa ≥ 0xE then
    match s.threadCheck t pa with
    | some (some c) => .fault c
    | some none => .stall s
    | none =>
      if paSpace pa = 0xF && s.vaultBad pa n then .fault cData
      else
        let old := s.mem.val pa n
        match g old with
        | some v => .ok old ({ s with mem := s.mem.setVal pa n v }.afterAperture pa n)
        | none => .ok old s
  else
    match s.home? pa with
    | none => .fault cPhys
    | some h =>
      if !s.reachable h.cube || (s.windowOf pa).any (fun w => groupOpr w.2 != 4) then .fault cPhys
      else if s.excluded t (s.dirAt h) pa n true then .stall s
      else
        let s1 := s.clearCopies h (pa / 128)
        let s1 := s1.dropLeases (fieldOf t) (fun l => l == pa / 128)
        let l := s1.lineAt h.loc
        match l.failure with
        | some c => .fault c
        | none =>
          let old := getInLine l.data (pa % 128) n
          match g old with
          | none => .ok old s1
          | some v =>
            (match l.store (pa % 128) n (2 ^ n - 1) v with
             | .ok x => .ok old (s1.setLineAt h.loc x)
             | .error c => .fault c)

end Sys2Proof.Machine
end

