-- ==== Sys2Proof/Machine/Packets.lean ====
section
/-! DEFINITION. Packets between cubes (R374, R376, R377): routes, numbering, sending. What follows
the header inside a packet is the model's own layout (the manual gives none). -/

namespace Sys2Proof.Machine

open Sys2Proof

/-- The packet kinds of R374. -/
def kRead : Nat := 0
def kWrite : Nat := 1
def kAtomic : Nat := 2
def kResponse : Nat := 3
def kTask : Nat := 4
def kContribution : Nat := 5
def kReplica : Nat := 6
def kBeacon : Nat := 7
def kMoved : Nat := 8
def kFreeze : Nat := 9
def kAck : Nat := 10

/-- The link that a packet to a cube takes: the primary where it is usable, else the alternate; a
resend takes the alternate where that is usable (R376, R377). -/
def State.route? (s : State) (c : Nat) (again : Bool) : Option Nat :=
  let r := (look s.zen.routes c 0).toNat
  let a := if again then bits r 7 4 else bits r 3 0
  let b := if again then bits r 3 0 else bits r 7 4
  if !bit r 8 then none
  else if s.linkUsable a then some a
  else if s.linkUsable b then some b
  else none

/-- The header of a packet, 16 bytes (R374). -/
def headerBytes (p : Packet) : List Byte :=
  let w0 := p.dcube.toNat + p.scube.toNat * 2 ^ 8 + p.cls.toNat * 2 ^ 16 + p.kind.toNat * 2 ^ 18 +
    p.flits.toNat * 2 ^ 22 + p.grp.toNat * 2 ^ 26 + p.e2e.toNat * 2 ^ 32
  let w1 := p.pa.toNat + (if p.pois then 2 ^ 52 else 0) + (if p.chk then 2 ^ 53 else 0)
  leBytes 8 w0 ++ leBytes 8 w1

/-- The payloads of a packet's flits, 56 bytes each: the header, the number of the bytes that follow, these. -/
def packetFlits (p : Packet) : List (BitVec 448) :=
  let bs := headerBytes p ++ leBytes 2 p.payload.length ++ p.payload
  (List.range (p.flits.toNat + 1)).map (fun i => BitVec.ofNat 448 (leNat ((bs.drop (56 * i)).take 56)))

/-- A flit: 56 payload bytes and the trailer with the two sequences and the check (R374). -/
def mkFlit (seq ack : BitVec 12) (v : BitVec 448) : Vec :=
  let body := v.toNat + (ack.toNat * 2 ^ 8 + seq.toNat * 2 ^ 20) * 2 ^ 448
  BitVec.ofNat 512 (body + (crc32c (leBytes 60 body)).toNat * 2 ^ 480)

/-- The flits of a packet leave a link and stay in its replay buffer (R375). -/
def Link.transmit (l : Link) (p : Packet) : Link :=
  (packetFlits p).foldl (fun l v =>
    let f := mkFlit l.txSeq l.rxSeq v
    { l with txSeq := l.txSeq + 1, replay := l.replay ++ [f], wire := l.wire ++ [f] }) { l with out := l.out ++ [p] }

/-- Whether the replay buffer of 256 flits takes a packet. -/
def Link.room (l : Link) (p : Packet) : Bool := decide (l.replay.length + p.flits.toNat + 1 ≤ 256)

/-- A packet that a link is given leaves at once, or waits for room behind those before it. -/
def Link.give (l : Link) (p : Packet) : Link :=
  if l.queue.isEmpty && l.room p then l.transmit p else { l with queue := l.queue ++ [p] }

/-- Packets that wait leave in their order while there is room. -/
def Link.pump (l : Link) : Nat → Link
  | 0 => l
  | n + 1 =>
    match l.queue with
    | p :: rest => if l.room p then ({ l with queue := rest }.transmit p).pump n else l
    | [] => l

/-- Gives a packet to a link. -/
def State.sendOn (s : State) (link : Nat) (p : Packet) : State :=
  let l := look s.zen.links link {}
  { s with zen := { s.zen with links := put s.zen.links link (l.give p) } }

/-- Sends a packet on its route; an unreachable cube drops it. -/
def State.forward (s : State) (p : Packet) (again : Bool) : State :=
  match s.route? p.dcube.toNat again with
  | some l => s.sendOn l p
  | none => s

/-- A packet of this cube. -/
def State.mkPacket (s : State) (dst cls kind pa grp : Nat) (payload : List Byte) : Packet :=
  { dcube := BitVec.ofNat 8 dst, scube := BitVec.ofNat 8 s.cubeid, cls := BitVec.ofNat 2 cls,
    kind := BitVec.ofNat 4 kind, flits := BitVec.ofNat 4 ((payload.length + 18 + 55) / 56 - 1),
    grp := BitVec.ofNat 6 grp, e2e := 0, pa := BitVec.ofNat 52 pa, pois := false, chk := false, payload := payload }

/-- Sends a packet under the next end-to-end sequence of its destination and keeps it until it is
acknowledged (R376). -/
def State.sendPacket (s : State) (p : Packet) : State :=
  let c := p.dcube.toNat
  let n := look s.zen.e2eTx c 0
  let p' := { p with e2e := BitVec.ofNat 16 n }
  let e : E2E := { cube := c, seq := n % 2 ^ 16, tries := 0, sentAt := s.time, packet := p' }
  let s1 := { s with zen := { s.zen with e2eTx := put s.zen.e2eTx c ((n + 1) % 2 ^ 16), unacked := s.zen.unacked ++ [e] } }
  s1.forward p' false

/-! ## Requests to other cubes (R376, R377) -/

/-- Whether one of some packets, by cube and sequence, was reported undeliverable or refused. -/
def State.isLost (s : State) (l : List (Nat × Nat)) : Bool := l.any (fun q => s.zen.lost.contains q)

/-- Whether one of some packets is not acknowledged yet. -/
def State.isOut (s : State) (l : List (Nat × Nat)) : Bool :=
  s.zen.unacked.any (fun e => l.contains (e.cube, e.seq))

/-- What some packets were sent for is done: nothing more is kept for them. -/
def State.settled (s : State) (l : List (Nat × Nat)) : State :=
  if l.isEmpty then s
  else { s with zen := { s.zen with
    unacked := s.zen.unacked.filter (fun e => !l.contains (e.cube, e.seq))
    lost := s.zen.lost.filter (fun q => !l.contains q)
    kept := s.zen.kept.filter (fun e => !l.contains e.1) } }

/-- Sends a packet, names it by cube and sequence and keeps it until what it carries is done. -/
def State.sendNamed (s : State) (p : Packet) : (Nat × Nat) × State :=
  let q := (p.dcube.toNat, look s.zen.e2eTx p.dcube.toNat 0 % 2 ^ 16)
  let s1 := s.sendPacket p
  (q, { s1 with zen := { s1.zen with kept := s1.zen.kept ++ [(q, p)] } })

/-- Sends packets in order. -/
def State.sendAll (s : State) : List Packet → List (Nat × Nat) × State
  | [] => ([], s)
  | p :: ps =>
    let (q, s1) := s.sendNamed p
    let (qs, s2) := s1.sendAll ps
    (q :: qs, s2)

/-- The other cube in which an address is homed. -/
def State.farCube? (s : State) (pa : Nat) : Option Nat :=
  if paSpace pa ≥ 0xE then none else ((s.resolve? pa).map HomeAt.cube).filter (fun c => c != s.cubeid)

/-- The request packets of an access: a read or an atomic for each element that is homed in another cube and that
the slice of the context's field does not hold under lease. -/
def State.workPackets (s : State) (t : Nat) (w : Work) : List Packet :=
  w.els.filterMap (fun el => (s.farCube? el.pa).bind (fun c =>
    match w with
    | .atomic sub ty _ _ _ b old _ => some (s.mkPacket c 0 kAtomic el.pa 0
        (leBytes 1 sub ++ leBytes 1 ty ++ leBytes 8 b.toNat ++ leBytes 8 old.toNat))
    | _ =>
      if (s.held? (fieldOf t) (el.pa / 128)).any (fun l => l.st == .l) then none
      else some (s.mkPacket c 0 kRead el.pa 0 (leBytes 1 el.bytes))))

/-- The payload of a write: a byte mask of 16 bytes, then the data. -/
def writePayload (mask n v : Nat) : List Byte := leBytes 16 mask ++ leBytes n v

/-- The contribution packets of a store to a window that is homed in another cube, one for each word (R379). -/
def State.wordPackets (s : State) (c g : Nat) (w : List Word) (q : ToPost) : List Packet :=
  let base := (w.getD 1 0).toNat / 64 * 64
  ((List.range (q.n / 4)).filter (fun i => bit q.mask (4 * i))).map (fun i =>
    s.mkPacket c 2 kContribution (q.pa + 4 * i) g
      (leBytes 4 ((q.pa - base) / 4 + i) ++ leBytes 4 (q.data.toNat / 2 ^ (32 * i) % 2 ^ 32)))

/-- The packets that carry a posted store: a replica to its member, contributions or a write to another cube; none
for a store that stays in this cube (R380, R379, R218). -/
def State.postPackets (s : State) (q : ToPost) : List Packet :=
  let win := s.windowOf q.pa
  match q.member with
  | some c => [s.mkPacket c 2 kReplica q.pa ((win.map Prod.fst).getD 0) (writePayload q.mask q.n q.data.toNat)]
  | none =>
    match s.farCube? q.pa with
    | none => []
    | some c =>
      match win with
      | some (g, w) =>
        if groupOpr w = 4 then [s.mkPacket c 0 kWrite q.pa 0 (writePayload q.mask q.n q.data.toNat)]
        else if wholeWords q.pa q.n q.mask && groupMember w s.cubeid then s.wordPackets c g w q
        else []
      | none => [s.mkPacket c 0 kWrite q.pa 0 (writePayload q.mask q.n q.data.toNat)]

/-- A packet of the copy engine, class A, whose request is performed as it is sent. -/
def State.passFar (s : State) (kind pa : Nat) (payload : List Byte) : State :=
  match s.farCube? pa with
  | none => s
  | some c =>
    let (q, s1) := s.sendNamed (s.mkPacket c 1 kind pa 0 payload)
    s1.settled [q]

/-! ## Posted stores (R218, R343) -/

/-- The lowest free entry of a core's posted-store log. -/
def Core.freeLog? (c : Core) : Option Nat :=
  (List.range 32).find? (fun i => !(c.log.any (fun e => e.1 == i)))

/-- Number of the next log entry in order of issue. -/
def Core.nextOrder (c : Core) : Nat := c.log.foldl (fun m e => Nat.max m (e.2.order + 1)) c.ord

/-- Enters posted stores of a context into its core's log, in order; what finds the log full waits in the
context (R218). -/
def State.postRest (s : State) (t : Nat) : List ToPost → State
  | [] => s.modCtx t (fun x => { x with toPost := [] })
  | q :: qs =>
    let c := s.core (coreOf t)
    match c.freeLog? with
    | none => s.modCtx t (fun x => { x with toPost := q :: qs })
    | some i =>
      let (sent, s1) := s.sendAll (s.postPackets q)
      let e : LogEnt := { tid := t, act := (s.ctx t).act, named := q.named, pa := q.pa, size := q.n, mask := w64 q.mask,
                          data := q.data, order := c.nextOrder, member := q.member, task := (s.ctx t).task, e2e := sent }
      (s1.modCore (coreOf t) (fun c => { c with log := put c.log i e, ord := e.order + 1 })).postRest t qs

/-- Posts the stores of an instruction: with no entry free the instruction stalls. -/
def postStores (qs : List ToPost) : M Unit :=
  match qs with
  | [] => pure ()
  | _ => do
    waitFor ((← getCore).freeLog?).isSome
    act (fun s => s.postRest s.cur qs)

end Sys2Proof.Machine
end

