-- ==== Sys2Proof/Machine/Flags.lean ====
section
/-! DEFINITION. Floating-point status (R47 to R49): the sticky flags of a thread, the rounding
mode of an instruction, and the word that CLASS writes (R176). -/

namespace Sys2Proof.Machine

open Sys2Proof

/-- The flags at their place in FPST: NV at bit 4 up to NX at bit 8. -/
def flagWord (fl : Flags) : Word := (fl.zeroExtend 64) <<< 4

/-- Sets flags in a context's FPST and sends the event to its field's FLAGOR. -/
def State.raiseFlags (s : State) (t : Nat) (fl : Flags) : State :=
  if fl = 0 then s
  else (s.modCtx t (fun x => { x with fpst := x.fpst ||| flagWord fl })).post (.flagorSet (fieldOf t) fl)

/-- raise(f) of R154 for the issuing thread. -/
def raiseFlags (fl : Flags) : M Unit := fun s => .ok () (s.raiseFlags s.cur fl)

/-- FPST.RM. -/
def Ctx.rm (x : Ctx) : Nat := bits x.fpst.toNat 2 0

/-- The effective mode of an instruction (R46). -/
def Ctx.mode (x : Ctx) (f : Fields) : Nat := if f.rnd = 7 then x.rm else f.rnd

/-- Whether FPST may take a value (R47). -/
def fpstOk (v : Nat) : Bool := bits v 2 0 ≤ 4

/-- The bits of FPST that hold state. -/
def fpstMask : Word := 0x1F7

/-- The number of the class bit of R176. -/
def classOf (t : Fmt) (v : Nat) : Nat :=
  match unpack t v with
  | .inf s => if s then 0 else 7
  | .nan _ q _ => if q then 9 else 8
  | .fin s m _ =>
    if m = 0 then (if s then 3 else 4)
    else if m < 2 ^ t.f then (if s then 2 else 5)
    else (if s then 1 else 6)

end Sys2Proof.Machine
end

