-- ==== Sys2Proof/Machine/Records.lean ====
section
/-! DEFINITION. The fields of task records (R24), launch blocks (R34) and channel descriptors
(R35), and what is legal in them (R25). -/

namespace Sys2Proof.Machine

open Sys2Proof

/-! ## Task records (R24) -/

def tw (ws : List Word) (i : Nat) : Nat := (ws.getD i 0).toNat

def taskEblk (ws : List Word) : Nat := bits (tw ws 0) 31 4
def taskEslot (ws : List Word) : Nat := bits (tw ws 0) 3 0
def taskPri (ws : List Word) : Nat := bits (tw ws 0) 33 32
def taskRst (ws : List Word) : Bool := bit (tw ws 0) 34
def taskRng (ws : List Word) : Bool := bit (tw ws 0) 35
def taskPol (ws : List Word) : Nat := bits (tw ws 0) 38 36
def taskGrain (ws : List Word) : Nat := bits (tw ws 0) 43 39
def taskNlr (ws : List Word) : Nat := bits (tw ws 0) 55 44
def taskQb (ws : List Word) : Nat := bits (tw ws 0) 57 56
def taskLo (ws : List Word) : Nat := bits (tw ws 7) 31 0
def taskHi (ws : List Word) : Nat := bits (tw ws 7) 63 32

/-- A record is legal under a local page count (R25). -/
def taskLegal (lpg : Nat) (ws : List Word) : Bool :=
  taskEslot ws ≤ 9 && taskQb ws != 1 && bits (tw ws 0) 63 58 == 0 &&
  !(taskRst ws && taskNlr ws != 0) && taskNlr ws / 2 ^ lpg == 0 &&
  !(taskRng ws && decide (taskLo ws > taskHi ws)) && !(taskQb ws != 0 && taskRng ws)

/-! ## Launch blocks (R34) -/

/-- The word at a byte offset of a block. -/
def Launch.word (l : Launch) (off : Nat) : Nat := (l.block.getD (off / 8) 0).toNat

def Launch.kind (l : Launch) : Nat := bits (l.word 0) 5 4
def Launch.pri (l : Launch) : Nat := bits (l.word 0) 7 6
def Launch.rst (l : Launch) : Bool := bit (l.word 0) 8
def Launch.nstg (l : Launch) : Nat := bits (l.word 0) 10 9
def Launch.irqen (l : Launch) : Bool := bit (l.word 0) 11
def Launch.nfld (l : Launch) : Nat := bits (l.word 0) 22 12
def Launch.ctxN (l : Launch) : Nat := bits (l.word 0) 27 23
def Launch.lpg (l : Launch) : Nat := bits (l.word 0) 31 28
/-- Containment policy of level 0 thread to 4 domain. -/
def Launch.cpol (l : Launch) (lvl : Nat) : Nat := bits (l.word 0) (33 + 2 * lvl) (32 + 2 * lvl)
def Launch.pmode (l : Launch) : Nat := bits (l.word 0) 43 42
def Launch.pstk (l : Launch) : Nat := bits (l.word 0) 45 44
def Launch.prow0 (l : Launch) : Nat := bits (l.word 0) 49 46
def Launch.pcol0 (l : Launch) : Nat := bits (l.word 0) 53 50
def Launch.ph (l : Launch) : Nat := bits (l.word 0) 57 54
def Launch.pw (l : Launch) : Nat := bits (l.word 0) 61 58
def Launch.code (l : Launch) : Nat := bits (l.word 0x10) 51 7 * 128
def Launch.nbase (l : Launch) : Nat := bits (l.word 0x18) 51 12 * 4096
def Launch.lbase (l : Launch) : Nat := bits (l.word 0x20) 51 12 * 4096
def Launch.cmpl (l : Launch) : Nat := bits (l.word 0x28) 51 3 * 8
def Launch.iid (l : Launch) : Nat := bits (l.word 0x28) 63 52
def Launch.bmode (l : Launch) (i : Nat) : Nat := bits (l.word 0x30) (3 * i + 2) (3 * i)
def Launch.bcnt (l : Launch) : Nat := bits (l.word 0x30) 52 48
def Launch.chan (l : Launch) (c : Nat) : Nat := bits (l.word 0x38) (16 * c + 15) (16 * c)
def Launch.sfld (l : Launch) (s : Nat) : Nat := bits (l.word 0x40) (16 * s + 15) (16 * s)

/-- Channel descriptor fields (R35). -/
def chPstg (c : Nat) : Nat := bits c 1 0
def chCstg (c : Nat) : Nat := bits c 3 2
def chAllow (c : Nat) : Nat := bits c 6 4 + 1
def chQ (c : Nat) : Nat := bits c 7 7
def chValid (c : Nat) : Bool := bit c 8

/-- The task record of a single or range launch. -/
def Launch.record (l : Launch) : List Word := (List.range 8).map (fun i => l.block.getD (9 + i) 0)

/-- The record of a stage: W0, W1 and ARG0 to ARG2 of its descriptor; the launch header's PRI and
RST replace the descriptor's (R34). -/
def Launch.stageRecord (l : Launch) (s : Nat) : List Word :=
  (List.range 8).map (fun i => if i < 5 then l.block.getD (9 + 5 * s + i) 0 else 0)

/-! ## Ratio requests (word 0x008, R34, R282) -/

def rqReq (w d : Nat) : Nat := bits w (5 * d + 4) (5 * d)
def rqFlr (w d : Nat) : Nat := bits w (20 + 5 * d + 4) (20 + 5 * d)
def rqLean (w i : Nat) : Nat := bits w (40 + 2 * i + 1) (40 + 2 * i)

/-- A ratio request is legal: requests and floors from 4 to 16, no floor above its request,
LEAN a permutation (R37 status 4, R282). -/
def rqLegal (w : Nat) : Bool :=
  (List.range 4).all (fun d =>
    4 ≤ rqReq w d && rqReq w d ≤ 16 && 4 ≤ rqFlr w d && rqFlr w d ≤ rqReq w d) &&
  (List.range 4).all (fun d => (List.range 4).any (fun i => rqLean w i == d))

/-! ## Threads and their launch -/

/-- Local pages of a context's launch (R73). -/
def State.lpgOf (s : State) (t : Nat) : Nat := ((s.ctxLaunch? t).map Launch.lpg).getD 0

/-- Named local regions of a context's task. -/
def State.nlrOf (s : State) (t : Nat) : Nat :=
  match (s.ctx t).task with
  | some k => taskNlr k.words
  | none => 0

/-- The cores of a field list, in launch order (R33). -/
def coresOf (fields : List Nat) : List Nat :=
  fields.flatMap (fun f => (List.range 1024).map (fun c => f * 1024 + c))

/-- The launch index of a core (R33). -/
def Launch.indexOf (l : Launch) (core : Nat) : Nat :=
  (l.fields.findIdx (fun f => f == fieldOfCore core)) * 1024 + core % 1024

/-- The stage of a core: its field's place against the stages' field counts (R33). -/
def Launch.stageOfCore (l : Launch) (core : Nat) : Nat :=
  if l.kind ≠ 2 then 0
  else
    let p := l.fields.findIdx (fun f => f == fieldOfCore core)
    if p < l.sfld 0 then 0 else if p < l.sfld 0 + l.sfld 1 then 1
    else if p < l.sfld 0 + l.sfld 1 + l.sfld 2 then 2 else 3

/-- The fields of a stage, in launch order. -/
def Launch.stageFields (l : Launch) (s : Nat) : List Nat :=
  let before := ((List.range s).map l.sfld).sum
  (l.fields.drop before).take (l.sfld s)

end Sys2Proof.Machine
end

