-- ==== Sys2Proof/Machine/Operands.lean ====
section
/-! DEFINITION. Operands: registers and their windows (R70, R142, R184), the local vault (R73 to
R77, R83), mesh ports (R10, R143), immediates (R146), typed reads and writes (R163). -/

namespace Sys2Proof.Machine

open Sys2Proof

/-! ## Registers -/

/-- The place of `xN` under a window base: 1 to 7 are shared, N from 8 is window slot
WB + N − 8 (R70). -/
def xPlace (wb n : Nat) : Nat := if n < 8 then n else 64 + wb + n - 8

/-- `xN`; `x0` reads 0. -/
def Ctx.x (c : Ctx) (n : Nat) : Word := if n = 0 then 0 else look c.xs (xPlace c.wb n) 0
/-- Writes `xN`; `x0` discards. -/
def Ctx.setX (c : Ctx) (n : Nat) (v : Word) : Ctx :=
  if n = 0 then c else { c with xs := put c.xs (xPlace c.wb n) v }

def Ctx.v (c : Ctx) (n : Nat) : Vec := look c.vs n 0
def Ctx.setV (c : Ctx) (n : Nat) (v : Vec) : Ctx := { c with vs := put c.vs n v }
def Ctx.a (c : Ctx) (n : Nat) : Word := look c.as n 0
def Ctx.setA (c : Ctx) (n : Nat) (v : Word) : Ctx := { c with as := put c.as n v }
def Ctx.d (c : Ctx) (n : Nat) : BitVec 32 := look c.ds n 0
def Ctx.setD (c : Ctx) (n : Nat) (v : BitVec 32) : Ctx := { c with ds := put c.ds n v }
/-- `eN`; `e0` is all ones (R193), `e1` to `e7` are all ones at activation (R26). -/
def Ctx.e (c : Ctx) (n : Nat) : BitVec 64 :=
  if n = 0 then BitVec.allOnes 64 else look c.es n (BitVec.allOnes 64)
def Ctx.setE (c : Ctx) (n : Nat) (v : BitVec 64) : Ctx :=
  if n = 0 then c else { c with es := put c.es n v }
/-- `kN`, 1.0 at activation (R26). -/
def Ctx.k (c : Ctx) (n : Nat) : BitVec 32 := look c.ks n 0x3F800000
def Ctx.setK (c : Ctx) (n : Nat) (v : BitVec 32) : Ctx := { c with ks := put c.ks n v }
/-- `pN`; `p0` is true. -/
def Ctx.p (c : Ctx) (n : Nat) : Bool := n == 0 || c.preds.getLsbD n
def Ctx.setP (c : Ctx) (n : Nat) (b : Bool) : Ctx :=
  if n = 0 then c
  else { c with preds := (c.preds &&& ~~~ (1#8 <<< n)) ||| (if b then 1#8 <<< n else 0#8) }

/-- The register that an operand code names, as resolved at issue (R150, rule 7). -/
def Ctx.slotOf (c : Ctx) (code : BitVec 8) : Slot :=
  let n := code.toNat
  if n = 0 then .none
  else if n < 0x40 then .x (xPlace c.wb n)
  else if 0x98 ≤ n ∧ n ≤ 0x9F then .k (n - 0x98)
  else if 0xA0 ≤ n ∧ n ≤ 0xA7 then .a (n - 0xA0)
  else if 0xA8 ≤ n ∧ n ≤ 0xAF then .d (n - 0xA8)
  else if 0xB1 ≤ n ∧ n ≤ 0xB7 then .p (n - 0xB0)
  else .none

/-- Writes a register named by its place: `d` keeps 32 bits, `p` whether the value is non-zero
(R163). DESIGN CHOICE, that the bits are tested, so that −0 gives 1, and the low half in a `k`: log 131, log 133. -/
def Ctx.setSlot (c : Ctx) (sl : Slot) (v : Word) : Ctx :=
  match sl with
  | .none => c
  | .x n => { c with xs := put c.xs n v }
  | .a n => c.setA n v
  | .d n => c.setD n (v.truncate 32)
  | .k n => c.setK n (v.truncate 32)
  | .p n => c.setP n (v != 0)

/-- The word of the held message (R261): zero beyond its count and while none is held. -/
def State.msgWord (s : State) (t i : Nat) : Word :=
  match (s.ctx t).held with
  | none => 0
  | some (q, k) =>
    let m := look (s.core (coreOf t)).msgs (8 * q + k) {}
    if i < m.n then m.words.getD i 0 else 0

/-! ## The mesh (R10, R143) -/

def meshRow (c : Nat) : Nat := bits c 19 19 * 512 + bits c 17 14 * 32 + bits c 9 5
def meshCol (c : Nat) : Nat := bits c 18 18 * 512 + bits c 13 10 * 32 + bits c 4 0

/-- The core at a mesh coordinate. -/
def meshCore (row col : Nat) : Nat :=
  (row / 512) * 2 ^ 19 + (col / 512) * 2 ^ 18 + (row / 32 % 16) * 2 ^ 14 + (col / 32 % 16) * 2 ^ 10 +
    (row % 32) * 32 + col % 32

/-- The core that a port reaches: 0 north, 1 east, 2 south, 3 west, 4 the core itself. -/
def neighbour (p c : Nat) : Option Nat :=
  let r := meshRow c
  let k := meshCol c
  match p with
  | 0 => if r = 0 then none else some (meshCore (r - 1) k)
  | 1 => if k = 1023 then none else some (meshCore r (k + 1))
  | 2 => if r = 1023 then none else some (meshCore (r + 1) k)
  | 3 => if k = 0 then none else some (meshCore r (k - 1))
  | _ => some c

/-- The port by which the neighbour reads what is written to a port. -/
def facing : Nat → Nat
  | 0 => 2 | 1 => 3 | 2 => 0 | 3 => 1 | _ => 4

/-- Whether a port of a context's core has a neighbour in a field of the same launch (R10). -/
def State.portOk (s : State) (t p : Nat) : Bool :=
  match neighbour p (coreOf t) with
  | none => false
  | some c => p == 4 || ((s.field (fieldOfCore c)).flid == (s.field (fieldOf t)).flid)

/-- Whether an aperture address is one of a context's own vault. -/
def ownVault (t pa : Nat) : Bool := paSpace pa == 0xF && bits pa 35 16 == coreOf t

/-- Whether the thread has posted a store to its own vault that is not performed. -/
def State.ownVaultPosted (s : State) (t : Nat) : Bool :=
  (s.core (coreOf t)).log.any (fun e => e.2.tid == t && ownVault t e.2.pa)

/-- The wait of R82 that port accesses perform: whether an aperture access that the thread has issued to
its own vault is still to be performed: a posted store, a load or an atomic, or one of a copy. -/
def State.ownVaultOpen (s : State) (t : Nat) : Bool :=
  s.ownVaultPosted t ||
  (s.ctx t).pend.any (fun p => !p.done && p.work.els.any (fun e => ownVault t e.pa)) ||
  (s.core (coreOf t)).copies.any (fun k => k.tid == t && k.segs.any (fun g =>
    (k.gsrc && ownVault t g.src) || (k.gdst && ownVault t g.dst)))

/-- Takes the head entry of an inbound port queue; empty, the instruction stalls (R143). -/
def portRead (p : Nat) : M Vec := do
  let me ← ask State.cur
  waitFor (!(← ask (fun s => s.ownVaultOpen me)))
  let c ← getCore
  match look c.ports p [] with
  | [] => throw .stall
  | v :: vs =>
    modCore (fun c => { c with ports := put c.ports p vs })
    pure v

/-- Enqueues an entry at the neighbour; full, the instruction stalls (R143). -/
def portWrite (p : Nat) (v : Vec) : M Unit := do
  let me ← ask State.cur
  waitFor (!(← ask (fun s => s.ownVaultOpen me)))
  match neighbour p (coreOf me) with
  | none => opFault
  | some n =>
    let q ← ask (fun s => look (s.core n).ports (facing p) [])
    waitFor (q.length < 4)
    act (fun s => s.modCore n (fun c => { c with ports := put c.ports (facing p) (q ++ [v]) }))

/-! ## The local vault (R73 to R75, R83) -/

/-- The frame that holds a local page of a context, if it is resident. -/
def State.frameOf? (s : State) (t page : Nat) : Option Nat :=
  let named := bit (s.nlrOf t) page
  ((s.core (coreOf t)).frames.find? (fun e =>
    e.2.page == page && e.2.owner == (if named then namedOwner else t))).map Prod.fst

/-- The byte of the physical vault that a local address names: frame × 4,096 + offset. -/
def State.vaultOff? (s : State) (t a : Nat) : Option Nat :=
  (s.frameOf? t (a / 4096)).map (fun f => f * 4096 + a % 4096)

/-- Whether a range of the physical vault overlaps a range scoreboard entry (R83). -/
def State.sbHit (s : State) (core lo n : Nat) : Bool :=
  (s.core core).sb.any (fun e => e.rs.any (fun r => decide (r.1 < lo + n) && decide (lo < r.2)))

/-- The local byte ranges that a queued array entry has yet to read: mantissas and exponents of
its blocks (R251). -/
def arrReads (e : ArrEntry) : List (Nat × Nat) :=
  let rows := fun (addr : Nat) (fmt : BitVec 8) (lo n : Nat) =>
    let w := (wcodeWidth (bits fmt.toNat 3 0)).getD 16
    let b0 := addr % 8192 / (4 * w) + lo
    [(addr / 8192 * 8192 + 4 * w * b0, 4 * w * n), (addr / 8192 * 8192 + 7936 + b0, n)]
  match e.op with
  | .mldbLocal a f => rows a f 0 8
  | .mmaLocal _ c _ a f => rows a f e.done (c - e.done)
  | _ => []

/-- Whether a local range is still to be read by the context's queued array work. -/
def Ctx.arrHit (x : Ctx) (a n : Nat) : Bool :=
  x.arrQ.any (fun e => !e.cmd && (arrReads e).any (fun r => decide (r.1 < a + n) && decide (a < r.1 + r.2)))

/-- Faults of a local access (R73): beyond the alias or the launch's pages, misaligned. -/
def State.localFault (s : State) (t a n align : Nat) : Option Nat :=
  if a + n > 0xC000 || (a + n - 1) / 4096 ≥ s.lpgOf t then some cProt
  else if a % align ≠ 0 then some cAlign
  else none

/-- The vault location of a naturally aligned local access of n bytes: faults, then a page that
is not resident, then the scoreboard, then array reads ahead of a store. -/
def localLoc (a : Word) (n : Nat) (store : Bool) : M Nat := do
  let s ← get
  let t := s.cur
  match s.localFault t a.toNat n n with
  | some c => raise c a
  | none =>
    match s.vaultOff? t a.toNat with
    | none => throw (.page (a.toNat / 4096))
    | some o =>
      waitFor (!s.sbHit (coreOf t) o n)
      waitFor (!(store && (s.ctx t).arrHit a.toNat n))
      let loc := s.vaultLoc (coreOf t) o
      if !store && s.vaultBad loc n then raise cData a else pure loc

/-- Reads n bytes at a local address. -/
def localRead (a : Word) (n : Nat) : M Nat := do
  let l ← localLoc a n false
  ask (fun s => s.mem.val l n)

/-- Writes bytes of the vault; a poisoned word that is written whole is poisoned no more. -/
def State.writeVault (s : State) (core off n v : Nat) : State :=
  let loc := s.vaultLoc core off
  let s1 := { s with
    mem := s.mem.setVal loc n v
    bad := if n ≥ 8 then (List.range (n / 8)).foldl (fun m i => drop m ((loc + 8 * i) / 8)) s.bad else s.bad }
  s1.dirtyFrame core off

/-- Writes n bytes at a local address. -/
def localWrite (a : Word) (n v : Nat) : M Unit := do
  let l ← localLoc a n true
  act (fun s => s.writeVault (coreOf s.cur) (l % 65536) n v)

/-- The address of a local operand code (R142), as the context stood at issue. -/
def Ctx.localAddr (x : Ctx) (imm : BitVec 32) (c : BitVec 8) : Word :=
  let n := c.toNat
  if n < 0x88 then x.a (n - 0x80)
  else if n < 0x90 then x.a (n - 0x88)
  else x.a (n - 0x90) + sextImm imm

/-- The post-increments of (aK)+ codes, in the order given (R142), by the strides at issue. -/
def Ctx.bump (x : Ctx) (codes : List (BitVec 8)) : Ctx :=
  codes.foldl (fun y c =>
    if inR 0x88 0x8F c then
      let k := c.toNat - 0x88
      y.setA k (y.a k + (x.d k).signExtend 64)
    else y) x

/-- Performs the post-increments of an instruction's operand codes. -/
def bump (codes : List (BitVec 8)) : M Unit := modCtx (fun x => x.bump codes)

/-! ## Typed values (R42, R45, R146, R163) -/

/-- Bytes of a TYPE. -/
def tyBytes (t : Nat) : Nat := tyWidth t / 8

/-- N-bit value as it stands in a 64-bit register: extended by the type (R42, R45). -/
def extendTy (t v : Nat) : Word :=
  if tySigned t then w64i (sextI v (tyWidth t)) else w64 (v % 2 ^ tyWidth t)

/-- binary32 widened exactly to binary64, NaNs bit for bit in their upper payload (R146). -/
def widen32 (v : Nat) : Nat :=
  match unpack (fmtOf 10) v with
  | .nan s q p => packNan (fmtOf 11) s (p * 2 ^ 29) - (if q then 0 else 2 ^ 51)
  | .inf s => packInf (fmtOf 11) s
  | .fin s m e => (roundTo (fmtOf 11) 0 s m e).1

/-- The value of code 0x7F (R142, R146). -/
def immVal (t : Nat) (i : BitVec 32) : Nat :=
  match t with
  | 8 | 9 => i.toNat % 2 ^ 16
  | 10 => i.toNat
  | 11 => widen32 i.toNat
  | _ => (sextImm i).toNat % 2 ^ tyWidth t

/-- Reads a value operand as the N bits of a TYPE (R163); `x` is the context at issue. -/
def rd (x : Ctx) (t : Nat) (imm : BitVec 32) (c : BitVec 8) : M Nat := do
  let n := c.toNat
  let cut := fun (w : Nat) => w % 2 ^ tyWidth t
  if n < 0x40 then pure (cut (x.x n).toNat)
  else if isM c then
    let me ← ask State.cur
    let w ← ask (fun s => s.msgWord me (n - 0x60))
    pure (cut w.toNat)
  else if isPort c then
    let v ← portRead (n - 0x70)
    pure (cut v.toNat)
  else if n = 0x7E then pure (cut (imm.toNat * 2 ^ 32))
  else if n = 0x7F then pure (immVal t imm)
  else if isLocal c then localRead (x.localAddr imm c) (tyBytes t)
  else if isK c then pure (cut (x.k (n - 0x98)).toNat)
  else if isA c then pure (cut (x.a (n - 0xA0)).toNat)
  else if isAD c then pure (cut ((x.d (n - 0xA8)).signExtend 64).toNat)
  else if isP c then pure (b2w (x.p (n - 0xB0))).toNat
  else opFault

/-- Reads an operand as a 64-bit value (R163). DESIGN CHOICE, a k code is zero-extended: log 133. -/
def rd64 (x : Ctx) (imm : BitVec 32) (c : BitVec 8) : M Word := do
  let v ← rd x 3 imm c
  pure (w64 v)

/-- Writes the N-bit result of a TYPE (R163). DESIGN CHOICE, a narrow result in a port: log 132. -/
def wr (x : Ctx) (t : Nat) (imm : BitVec 32) (c : BitVec 8) (v : Nat) : M Unit := do
  let n := c.toNat
  if isLocal c then localWrite (x.localAddr imm c) (tyBytes t) (v % 2 ^ tyWidth t)
  else if isPort c then portWrite (n - 0x70) ((extendTy t v).zeroExtend 512)
  else
    let sl := x.slotOf c
    modCtx (fun y => y.setSlot sl (extendTy t v))

/-- Writes a 64-bit result whatever TYPE is. -/
def wr64 (x : Ctx) (imm : BitVec 32) (c : BitVec 8) (v : Word) : M Unit := wr x 7 imm c v.toNat

/-! ## Global addresses (R144, R215) -/

/-- xN + offset; with CSRC = 1 IMM holds operand C and the offset is 0. -/
def Ctx.globalAddr (x : Ctx) (f : Fields) : Word :=
  x.x f.sa.toNat + (if f.csrc then 0 else sextImm f.imm)

end Sys2Proof.Machine
end

