-- ==== Sys2Proof/Machine/Caps.lean ====
section
/-! DEFINITION. Capabilities and their check (R306, R307), the interrupt identities of the cube
(R366), and the reading of spans for the scheduler. -/

namespace Sys2Proof.Machine

open Sys2Proof

/-! ## Capabilities -/

/-- The two words of a capability. -/
structure Cap where
  w0 : Nat
  w1 : Nat
  deriving DecidableEq, Repr

def Cap.addr (c : Cap) : Nat := bits c.w0 51 0
def Cap.r (c : Cap) : Bool := bit c.w0 52
def Cap.w (c : Cap) : Bool := bit c.w0 53
def Cap.l (c : Cap) : Bool := bit c.w0 54
def Cap.g (c : Cap) : Bool := bit c.w0 55
def Cap.otype (c : Cap) : Nat := bits c.w0 63 56
def Cap.base (c : Cap) : Nat := bits c.w1 39 0
def Cap.lenp (c : Cap) : Nat := bits c.w1 63 40
/-- The bounds. -/
def Cap.lo (c : Cap) : Nat := c.base * 4096
def Cap.hi (c : Cap) : Nat := (c.base + c.lenp) * 4096

/-- Item 4 of R307. -/
def Cap.lenOk (c : Cap) : Bool := c.lenp != 0 && decide (c.base + c.lenp ≤ 2 ^ 40)
/-- Item 5 of R307. -/
def Cap.inBounds (c : Cap) : Bool := decide (c.lo ≤ c.addr) && decide (c.addr < c.hi)
/-- Whether an extent from ADDR lies within the bounds. -/
def Cap.holdsExtent (c : Cap) (n : Nat) : Bool := decide (c.addr + n ≤ c.hi)

/-- What a use asks of a capability: OTYPE, permissions, whether G is asked. -/
structure CapUse where
  otype : Nat
  r : Bool
  w : Bool
  l : Bool
  g : Bool
  deriving DecidableEq, Repr

def useBufferR : CapUse := { otype := 2, r := true, w := false, l := false, g := true }
def useBufferRW : CapUse := { otype := 2, r := true, w := true, l := false, g := true }
def useLaunchQ : CapUse := { otype := 1, r := true, w := true, l := true, g := true }
def useContext : CapUse := { otype := 3, r := true, w := true, l := true, g := true }
def useServiceQ : CapUse := { otype := 4, r := true, w := true, l := true, g := true }
def useMemR : CapUse := { otype := 0, r := true, w := false, l := false, g := false }
def useMemW : CapUse := { otype := 0, r := false, w := true, l := false, g := false }

/-- The number of the first item of R307 that fails, 0 when all hold. -/
def capCheck (tag : Bool) (c : Cap) (u : CapUse) : Nat :=
  if !tag then 1
  else if c.otype ≠ u.otype then 2
  else if (u.g && !c.g) || (u.r && !c.r) || (u.w && !c.w) || (u.l && !c.l) then 3
  else if !c.lenOk then 4
  else if !c.inBounds then 5
  else 0

/-- The tag of the granule at a physical address, and its two words, read at home. -/
def State.readGranule (s : State) (pa : Nat) : Acc (Bool × Cap) :=
  match s.readDirect pa 8 with
  | .ok a s1 =>
    (match s1.readDirect (pa + 8) 8 with
     | .ok b s2 =>
       let tag : Bool := match s2.home? pa with
         | some h => (s2.lineAt h.loc).tags.getLsbD (pa % 128 / 16)
         | none => false
       .ok (tag, { w0 := a, w1 := b }) s2
     | .stall s2 => .stall s2
     | .fault c => .fault c)
  | .stall s1 => .stall s1
  | .fault c => .fault c

/-- Words at consecutive physical addresses, read at home. -/
def State.readWords (s : State) (pa : Nat) : Nat → Acc (List Word)
  | 0 => .ok [] s
  | n + 1 =>
    match s.readDirect pa 8 with
    | .ok v s1 =>
      (match s1.readWords (pa + 8) n with
       | .ok vs s2 => .ok (w64 v :: vs) s2
       | .stall s2 => .stall s2
       | .fault c => .fault c)
    | .stall s1 => .stall s1
    | .fault c => .fault c

/-! ## Interrupt identities (R366) -/

/-- Adds 1 to a link's DROPC. -/
def State.countDrop (s : State) (link : Nat) : State :=
  let l := look s.zen.links link {}
  { s with zen := { s.zen with links := put s.zen.links link { l with dropc := l.dropc + 1 } } }

/-- An MSI: an identity becomes pending in an interrupt file of a hart, once (R366). -/
def State.deliverMsi (s : State) (h file id : Nat) : State :=
  let hart := s.hart h
  let pend := look hart.imsic file []
  s.setHart h { hart with imsic := put hart.imsic file (if pend.contains id then pend else id :: pend) }

/-- Raises one of the cube's interrupt identities: an MSI into the file its routing entry names,
or a count in DROPC of link 0. Identity 0 names none. -/
def State.raiseIid (s : State) (iid : Nat) : State :=
  if iid = 0 then s
  else
    let e := (look s.zen.irt iid 0).toNat
    let id := bits e 22 12
    if !bit e 0 || id = 0 || bits e 8 5 > 7 then s.countDrop 0
    else s.deliverMsi (bits e 4 1) (1 + bits e 8 5) id

end Sys2Proof.Machine
end

