-- ==== Sys2Proof/Machine/Power.lean ====
section
/-! DEFINITION. The Meridian arbiter (R354 to R364): coefficients, the estimate, the grant, the
switches of fields and the thermal limits. -/

namespace Sys2Proof.Machine

open Sys2Proof

/-! ## Coefficients and the estimate (R355, R356) -/

/-- K16 of R355. -/
def k16 : Nat → Nat
  | 0 => 1270 | 1 => 1465 | 2 => 781 | _ => 830

/-- K[d][n] as it is written, and as the last run took it into use. -/
def Meridian.k (m : Meridian) (d n : Nat) : Nat :=
  look m.coef (32 * d + n) (k16 d * n * (n + 16) / 512)
def Meridian.kUse (m : Meridian) (d n : Nat) : Nat :=
  look m.coefUse (32 * d + n) (k16 d * n * (n + 16) / 512)

/-- Domain d of a vector. -/
def Ratio.get (r : Ratio) (d : Nat) : Nat :=
  match d with
  | 0 => r.m | 1 => r.v | 2 => r.n | _ => r.d

def Ratio.set (r : Ratio) (d x : Nat) : Ratio :=
  match d with
  | 0 => { r with m := x } | 1 => { r with v := x } | 2 => { r with n := x } | _ => { r with d := x }

/-- The four coefficients of one field at a vector. -/
def Meridian.cost (m : Meridian) (r : Ratio) : Nat :=
  m.kUse 0 r.m + m.kUse 1 r.v + m.kUse 2 r.n + m.kUse 3 r.d

/-- The request and the floors of a standing request word. -/
def rqVector (w : Nat) : Ratio := { m := rqReq w 0, v := rqReq w 1, n := rqReq w 2, d := rqReq w 3 }
def rqFloors (w : Nat) : Ratio := { m := rqFlr w 0, v := rqFlr w 1, n := rqFlr w 2, d := rqFlr w 3 }

/-- A launch in the arbiter's view: identifier, priority, partition, fields, request word, and
the vector it has in this run. -/
structure Grant where
  lid   : Nat
  pri   : Nat
  part  : Nat
  count : Nat
  word  : Nat
  vec   : Ratio
  deriving DecidableEq, Repr

/-- CAPE of R354, in W. -/
def Meridian.cape (m : Meridian) : Nat := Nat.min m.cap m.tcap

/-- P(g), in mW. -/
def estimate (m : Meridian) (gs : List Grant) : Nat :=
  m.leakUse + m.idle * (1024 - (gs.map Grant.count).sum) + (gs.map (fun g => g.count * m.cost g.vec)).sum

/-- Fields whose FPART is X, bound or not. -/
def State.fieldsOfPart (s : State) (x : Nat) : Nat :=
  let listed := s.fields.filter (fun e => decide (e.1 < 1024))
  (listed.filter (fun e => e.2.fpart == x)).length + (if x = 0 then 1024 - listed.length else 0)

/-- Whether PX(g) > SX, in units of 1/1,024 mW. -/
def State.overShare (s : State) (gs : List Grant) (x : Nat) : Bool :=
  let own := ((gs.filter (fun g => g.part == x)).map (fun g => g.count * s.mer.cost g.vec)).sum
  decide (own * 1024 + s.mer.leakUse * s.fieldsOfPart x >
    bits (s.part x).pshare.toNat 9 0 * s.mer.cape * 1024)

/-- Whether some domain of a launch is above its floor. -/
def Grant.loose (g : Grant) : Bool :=
  (List.range 4).any (fun d => decide (g.vec.get d > rqFlr g.word d))

/-- Lowers the first domain in LEAN order that is above its floor. -/
def Grant.lower (g : Grant) : Grant :=
  match ((List.range 4).map (rqLean g.word)).find? (fun d => decide (g.vec.get d > rqFlr g.word d)) with
  | some d => { g with vec := g.vec.set d (g.vec.get d - 1) }
  | none => g

/-- The least element by a key. -/
def leastBy {α : Type} (key : α → Nat) (l : List α) : Option α :=
  l.foldl (fun b x => match b with
    | none => some x
    | some y => if key x < key y then some x else some y) none

/-- The loop of R358, with fuel for every lowering there can be: the grants, ROT and OVER. -/
def State.grantLoop (s : State) (rot : Map Nat) (gs : List Grant) : Nat → List Grant × Map Nat × Bool
  | 0 => (gs, rot, decide (estimate s.mer gs > s.mer.cape * 1000))
  | n + 1 =>
    if estimate s.mer gs ≤ s.mer.cape * 1000 then (gs, rot, false)
    else
      let loose := gs.filter Grant.loose
      let above := loose.filter (fun g => s.overShare gs g.part)
      let c := if above.isEmpty then loose else above
      match leastBy Grant.pri c with
      | none => (gs, rot, true)
      | some g0 =>
        let q := g0.pri
        let cq := c.filter (fun g => g.pri == q)
        let after := cq.filter (fun g => decide (g.lid > look rot q 0))
        match leastBy Grant.lid (if after.isEmpty then cq else after) with
        | none => (gs, rot, true)
        | some g =>
          s.grantLoop (put rot q g.lid) (gs.map (fun x => if x.lid == g.lid then x.lower else x)) n

/-- A launch as the arbiter sees it, at its request. -/
def Launch.grant (l : Launch) : Grant :=
  { lid := l.lid, pri := l.pri, part := l.part, count := l.nfld, word := l.request.toNat,
    vec := rqVector l.request.toNat }

/-- The bound launches. -/
def State.boundLaunches (s : State) : List Launch := s.sched.launches.filter Launch.bound

/-- Whether the estimate exceeds the effective cap with the bound launches and a newcomer at
their floors (R359). -/
def State.floorsFit (s : State) (extra : List Grant) : Bool :=
  let gs := (s.boundLaunches.map Launch.grant ++ extra).map (fun g => { g with vec := rqFloors g.word })
  decide (estimate s.mer gs ≤ s.mer.cape * 1000)

/-! ## Switches (R360) -/

/-- Whether a vector lowers at least one domain of another and raises none. -/
def Ratio.lowers (new old : Ratio) : Bool :=
  decide (new.m ≤ old.m) && decide (new.v ≤ old.v) && decide (new.n ≤ old.n) && decide (new.d ≤ old.d)

/-- Whether a field's waiting switch lowers domains and raises none, so that it waits for no other (R360). -/
def Field.lowersNext (f : Field) : Bool :=
  match f.target with
  | some r => r.lowers f.ratio
  | none => false

/-- Gives a field a new grant: a switch that has begun completes first; a waiting one is replaced. Under Eclipse
none begins (R361). -/
def Field.aim (f : Field) (r : Ratio) : Field :=
  if f.switching then { f with again := some r }
  else if r = f.ratio then { f with target := none }
  else { f with target := some r, switching := r.lowers f.ratio && !f.frozen }

/-- The vector that a field is granted: 4/4/4/4 while the part is held cold (R364). -/
def State.granted (s : State) (r : Ratio) : Ratio := if s.mer.cold then {} else r

/-- Whether any field has a switch under way or waiting. -/
def State.switchesLeft (s : State) : Bool := s.fields.any (fun e => e.2.target.isSome)

/-- The interrupt of the arbiter, when OVER, HOT or CRIT becomes 1. -/
def State.meridianIrq (s : State) : State := if s.mer.ien then s.raiseIid s.mer.iid else s

/-- A grant run over the bound launches (R358): the grant, RUNS, EST, OVER, and what it asks of
every bound field. Coefficients that were written take effect (R355). Fields of a launch in `direct` take
their vector at once (R313, step 2). -/
def State.grantRun (s0 : State) (direct : Option Nat) : State :=
  let s := { s0 with mer := { s0.mer with coefUse := s0.mer.coef, leakUse := s0.mer.leak } }
  let gs0 := s.boundLaunches.map Launch.grant
  let fuel := 48 * gs0.length
  let (gs, rot, ovr) := s.grantLoop s.mer.rot gs0 fuel
  let s1 := { s with mer := { s.mer with
      runs := s.mer.runs + 1, rot := rot, ovr := ovr,
      est := BitVec.ofNat 32 (estimate s.mer gs), due := false, busy := true, ran := true, runAt := s.time } }
  let s2 := gs.foldl (fun s g =>
    match s.launch? g.lid with
    | none => s
    | some l => l.fields.foldl (fun s fi =>
        if direct = some g.lid then
          s.modField fi (fun f => { f with ratio := s.granted g.vec, gen := f.gen + 1, target := none,
                                           switching := false, again := none, vclk := s.vclk fi,
                                           vclkAt := s.counted })
        else s.modField fi (fun f => f.aim (s.granted g.vec))) s) s1
  let s3 := { s2 with mer := { s2.mer with busy := s2.switchesLeft } }
  if ovr && !s.mer.ovr then s3.meridianIrq else s3

/-- Asks for a grant run (R357). -/
def State.askRun (s : State) : State := { s with mer := { s.mer with due := true } }

/-- The event queue takes a record, or counts it when full (R280). -/
def Ctx.pushEvent (x : Ctx) (r : Word) : Ctx :=
  if x.events.length < 8 then { x with events := x.events ++ [r] } else { x with evDrop := x.evDrop + 1 }

/-- RATQ's word (R281). -/
def Field.ratioWord (f : Field) : Nat :=
  f.gen.toNat * 2 ^ 32 + f.ratio.d * 2 ^ 15 + f.ratio.n * 2 ^ 10 + f.ratio.v * 2 ^ 5 + f.ratio.m

/-- Posts an event record to a context; one parked in EVQ becomes ready. -/
def State.postEvent (s : State) (t : Nat) (r : Word) : State :=
  let s1 := s.modCtx t (fun x => x.pushEvent r)
  s1.modCtx t (fun x =>
    if x.st == .parked && x.wait == .event then
      { x with st := .ready, wait := .none, readyAt := s.time, readyV := s.vclk (fieldOf t),
               slotPri := (x.task.map Task.pri).getD 0 }
    else x)

/-- A field's switch completes (R360): the vector, GEN and the records change at one moment. -/
def State.switchField (s : State) (fi : Nat) : State :=
  let f := s.field fi
  match f.target with
  | none => s
  | some r =>
    if !f.switching || f.frozen then s
    else
      let f1 := { f with ratio := r, gen := f.gen + 1, target := none, switching := false, again := none,
                         vclk := s.vclk fi, vclkAt := s.counted }
      let f2 := match f.again with | some r' => f1.aim r' | none => f1
      let s1 := s.setField fi f2
      let rec_ := w64 (2 ^ 60 + f1.ratioWord)
      let s2 := (s1.ctxs.filter (fun e => fieldOf e.1 == fi && e.2.st != .free)).foldl
        (fun s e => s.postEvent e.1 rec_) s1
      { s2 with mer := { s2.mer with busy := s2.switchesLeft } }

/-- Fields with a raised domain begin to switch once no switch is under way (R360, step 3); one under Eclipse
goes on waiting (R361). -/
def State.startRaised (s : State) : State :=
  if s.fields.any (fun e => e.2.switching) then s
  else { s with fields := s.fields.map (fun e =>
    (e.1, if e.2.target.isSome && !e.2.frozen then { e.2 with switching := true } else e.2)) }

/-! ## Register writes that are judged (R354, R355) -/

/-- The full-activity bound of R355. -/
def Meridian.boundOk (m : Meridian) : Bool :=
  decide (m.leak + 1024 * (m.k 0 16 + m.k 1 16 + m.k 2 16 + m.k 3 16) > 3600000)

def Meridian.rowOk (m : Meridian) (d : Nat) : Bool :=
  (List.range 12).all (fun i => decide (m.k d (i + 4) ≤ m.k d (i + 5)))

/-! ## Temperature (R363, R364) -/

/-- A new reading of the sensors. -/
def State.setTemp (s : State) (temp : Nat) : State :=
  let hot := decide (temp ≥ s.mer.thot)
  let s1 := { s with mer := { s.mer with temp := temp, hot := hot } }
  let s2 := if hot && !s.mer.hot then s1.meridianIrq else s1
  if s.mer.cold && decide (temp ≤ s.mer.tok) then
    { s2 with mer := { s2.mer with cold := false, due := true } }
  else s2

/-- The critical temperature: CRIT, and every bound field to 4/4/4/4 (R364). -/
def State.goCold (s : State) : State :=
  let s1 := { s with mer := { s.mer with crit := true, cold := true, busy := true } }
  let s2 := (s1.boundLaunches.flatMap Launch.fields).foldl (fun s fi =>
    s.modField fi (fun f => f.aim {})) s1
  let s3 := { s2 with mer := { s2.mer with busy := s2.switchesLeft } }
  if s.mer.crit then s3 else s3.meridianIrq

end Sys2Proof.Machine
end

