-- ==== Sys2Proof/Machine/Tenure.lean ====
section
/-! DEFINITION. Tenure (R102 to R110): overlap, piece splits, grants, releases, the end of a
record, the waiters, and the rejoining of pieces and merging of region records. -/

namespace Sys2Proof.Machine

open Sys2Proof

/-! ## Overlap (R102) -/

/-- Every line that a record covers. -/
def recLines (k : Stack) (r : DirRec) : List Nat :=
  match r.kind with
  | .box =>
    let d := (look k.descs r.didx (0, 0)).1
    ((List.range (2 ^ descTop d / 128 + 1)).map (fun i => descBase d / 128 + i)).filter (recCovers k r)
  | _ => (List.range (r.len + 1)).map (fun i => r.base + i)

/-- Whether two boxes of one tensor object intersect. -/
def boxesMeet (n : Nat) (r q : DirRec) : Bool :=
  (List.range (n + 1)).all (fun d =>
    decide (r.lo.getD d 0 ≤ q.hi.getD d 0) && decide (q.lo.getD d 0 ≤ r.hi.getD d 0))

/-- Number of dimensions − 1 of a box record's tensor object. -/
def recNdim (k : Stack) (r : DirRec) : Nat := descNdim (look k.descs r.didx (0, 0)).1

/-- Whether two records overlap. -/
def recsOverlap (k : Stack) (r q : DirRec) : Bool :=
  if r.kind == .box && q.kind == .box && r.didx == q.didx then boxesMeet (recNdim k r) r q
  else if r.kind == .box then (if q.kind == .box then (recLines k r).any (recCovers k q)
    else (recLines k q).any (recCovers k r))
  else (recLines k r).any (recCovers k q)

/-- Whether two slots name one record, or overlapping ones. -/
def Stack.slotsOverlap (k : Stack) (i j : Nat) : Bool :=
  i == j || (match look? k.dir i, look? k.dir j with
    | some r, some q => recsOverlap k r q
    | _, _ => false)

/-- The slots of other records that overlap some piece of a record. -/
def Stack.overlapping (k : Stack) (slot : Nat) : List Nat :=
  let mine := k.pieces slot
  ((k.dir.map Prod.fst).filter (fun j => !mine.contains j && mine.any (fun i => k.slotsOverlap i j)))

/-- Whether a record holds tenure that a request is incompatible with. -/
def DirRec.against (r : DirRec) (write : Bool) : Bool := r.ten == 2 || (r.ten == 1 && write)

/-- Whether a request is grantable: no holder of its own record, and no holder of any
overlapping record, holds incompatible tenure (R102). -/
def Stack.grantable (k : Stack) (slot : Nat) (write : Bool) : Bool :=
  (k.pieces slot ++ k.overlapping slot).all (fun j =>
    match look? k.dir j with
    | some r => !r.against write
    | none => true)

/-- Whether two requests conflict: one of them asks for write and their records overlap. -/
def Stack.clash (k : Stack) (a b : Waiter) : Bool :=
  (a.write || b.write) && (k.pieces a.slot).any (fun i => (k.pieces b.slot).any (k.slotsOverlap i))

/-- Whether a waiter has to wait for an earlier one. -/
def Stack.behind (k : Stack) (w : Waiter) : Bool :=
  k.waiters.any (fun v => decide (v.stamp < w.stamp) && k.clash v w)

/-! ## Whole records and their pieces -/

/-- The box or span of a whole record: the hull of its pieces. -/
def Stack.hull (k : Stack) (slot : Nat) : Option DirRec :=
  match look? k.dir slot with
  | none => none
  | some r =>
    some ((k.pieces slot).foldl (fun h j =>
      match look? k.dir j with
      | some q =>
        let first := Nat.min h.base q.base
        { h with lo := List.zipWith Nat.min h.lo q.lo, hi := List.zipWith Nat.max h.hi q.hi,
                 len := Nat.max (h.base + h.len) (q.base + q.len) - first, base := first }
      | none => h) r)

/-- Adds a user to a descriptor (R95). -/
def Stack.useDesc (k : Stack) (didx : Nat) : Stack :=
  let u := look k.descs didx (0, 0)
  { k with descs := put k.descs didx (u.1, u.2 + 1) }

/-- The pieces that cutting a box along the faces of another makes, and the intersection (R109). -/
def cutBox (q : DirRec) : List Nat → DirRec → List DirRec × DirRec
  | [], b => ([], b)
  | d :: ds, b =>
    let p1 := if b.lo.getD d 0 < q.lo.getD d 0 then [{ b with hi := b.hi.set d (q.lo.getD d 0 - 1) }] else []
    let b1 := if b.lo.getD d 0 < q.lo.getD d 0 then { b with lo := b.lo.set d (q.lo.getD d 0) } else b
    let p2 := if b1.hi.getD d 0 > q.hi.getD d 0 then [{ b1 with lo := b1.lo.set d (q.hi.getD d 0 + 1) }] else []
    let b2 := if b1.hi.getD d 0 > q.hi.getD d 0 then { b1 with hi := b1.hi.set d (q.hi.getD d 0) } else b1
    let (ps, b3) := cutBox q ds b2
    (p1 ++ p2 ++ ps, b3)

/-- The pieces that cutting a span at a request's first and last line makes. -/
def cutSpan (first last : Nat) (b : DirRec) : List DirRec × DirRec :=
  let p1 := if b.base < first then [{ b with len := first - b.base - 1 }] else []
  let b1 := if b.base < first then { b with base := first, len := b.base + b.len - first } else b
  let p2 := if b1.base + b1.len > last then
    [{ b1 with base := last + 1, len := b1.base + b1.len - last - 1 }] else []
  let b2 := if b1.base + b1.len > last then { b1 with len := last - b1.base } else b1
  (p1 ++ p2, b2)

/-- Gives pieces slots of their own behind a record (R109). -/
def Stack.addPieces (k : Stack) (slot clock : Nat) : List DirRec → Stack
  | [] => k
  | p :: ps =>
    match k.freeSlot?, look? k.dir slot with
    | some n, some r =>
      let k1 := (k.setRec slot { r with next := n }).setRec n { p with piece := true, gen := k.gen n, next := r.next, quiet := clock }
      (if p.kind == .box then k1.useDesc p.didx else k1).addPieces slot clock ps
    | _, _ => k

/-- Splits one overlapping record along the faces of a request's box or span (R109): a span or a region
record at the request's first and last line. A box against a record of another kind or descriptor is never
split; with too few slots, or over the
quota (R305), nothing is split. -/
def State.splitFor (s : State) (k slot : Nat) (q : DirRec) : State :=
  let st := s.stack k
  match look? st.dir slot with
  | none => s
  | some r =>
    let cut : Option (List DirRec × DirRec) :=
      match r.kind with
      | .box => if q.kind == .box && q.didx == r.didx then
          some (cutBox q (List.range (recNdim st r + 1)) r) else none
      | _ =>
        -- at the request's first and last line
        let ls := recLines st q
        some (cutSpan (ls.head?.getD 0) (ls.getLast?.getD 0) r)
    match cut with
    | none => s
    | some (ps, b) =>
      if ps.isEmpty || ps.length > st.freeSlots || st.precs r.part + s.fetchRecs k r.part + ps.length > (s.part r.part).pquota
      then s
      else s.setStack k ((st.setRec slot { b with quiet := s.dirClock }).addPieces slot s.dirClock ps)

/-- Splits every overlapping record of incompatible state before a request acts (R109). -/
def State.splitAll (s : State) (k slot : Nat) (write : Bool) : State :=
  match (s.stack k).hull slot with
  | none => s
  | some q =>
    ((s.stack k).overlapping slot).foldl (fun s j =>
      match look? (s.stack k).dir j with
      | some r => if r.against write || (write && !r.unshared) || (!write && (!r.owners.isEmpty || r.zown))
          then s.splitFor k j q else s
      | none => s) s

/-- Joins a record's pieces into one record again: the union of the sharers, the largest
sequence; the pieces' slots are freed (R110). -/
def Stack.rejoin (k : Stack) (slot : Nat) : Stack :=
  match look? k.dir slot, k.hull slot with
  | some _, some h =>
    let ps := (k.pieces slot).filter (fun j => j != slot)
    let h1 := ps.foldl (fun h j =>
      match look? k.dir j with
      | some q => h.joinSharers q
      | none => h) h
    (ps.foldl Stack.freeRec k).setRec slot { h1 with next := 0 }
  | _, _ => k

/-! ## Grants and releases -/

/-- Applies a function to a record and all its pieces. -/
def State.modRecord (s : State) (k slot : Nat) (g : DirRec → DirRec) : State :=
  s.modStack k (fun st => (st.pieces slot).foldl (fun st j => st.modRec j g) st)

/-- Whether a record, pieces included, covers a line. -/
def Stack.recordCovers (k : Stack) (slot ln : Nat) : Bool :=
  (k.pieces slot).any (fun j => match look? k.dir j with
    | some r => recCovers k r ln
    | none => false)

/-- Recalls every line of one record from its owners (R104, read grant). -/
def State.recallRec (s : State) (k slot : Nat) : State :=
  match look? (s.stack k).dir slot with
  | none => s
  | some r =>
    let s1 := r.owners.foldl (fun s f =>
      ((s.field f).l2.filter (fun e => recCovers (s.stack k) r e.1)).foldl (fun s e => s.recallLine f e.1) s) s
    let s2 := if r.zown then (s1.zen.cache.filter (fun e => recCovers (s1.stack k) r e.1)).foldl
      (fun s e => s.zRecall e.1) s1 else s1
    s2.modStack k (fun st => st.modRec slot DirRec.dropOwners)

/-- Invalidates every line of one record at every sharer but one field (R104, write grant). -/
def State.invalRec (s : State) (k slot : Nat) (keep : Nat) : State :=
  match look? (s.stack k).dir slot with
  | none => s
  | some r =>
    let s1 := (r.sharers.filter (fun f => f != keep)).foldl (fun s f =>
      ((s.field f).linesOf (recCovers (s.stack k) r)).foldl (fun s ln => s.invalAt k f ln) s) s
    let s2 := if r.zs then (s1.zen.cache.filter (fun e => recCovers (s1.stack k) r e.1)).foldl
      (fun s e => s.zDrop e.1) s1 else s1
    -- an invalidation is a conflict of a region record (R111, R112)
    let r' := { r.clearSharers (some keep) with quiet := if r.kind == .region then s.dirClock else r.quiet }
    if r.kind == .region && r'.unshared then s2.modStack k (fun st => st.freeRegion slot)
    else s2.modStack k (fun st => st.setRec slot r')

/-- The region records among some slots that a write grant over a request's lines conflicts with are halved
once (R111). -/
def State.halveFor (s : State) (k slot fi : Nat) : State :=
  match (s.stack k).hull slot with
  | none => s
  | some q =>
    let first := (recLines (s.stack k) q).head?.getD 0
    ((s.stack k).overlapping slot).foldl (fun s j =>
      match look? (s.stack k).dir j with
      | some r => if r.kind == .region && r.listsOther (some fi) false then s.halve k j (Nat.max r.base first) else s
      | none => s) s

/-- Sets or clears the tenure mark on a record's lines in one slice. -/
def State.markLines (s : State) (k slot fi : Nat) (b : Bool) : State :=
  let st := s.stack k
  s.modField fi (fun f => { f with l2 := f.l2.map (fun e =>
    if e.2.st != .l && st.recordCovers slot e.1 then (e.1, { e.2 with mark := b }) else e) })

/-- A write grant has invalidated the lines of some records: their sequences rise (R96). -/
def State.raiseSeqs (s : State) (k : Nat) (slots : List Nat) : State :=
  s.modStack k (fun st => slots.foldl (fun st j => st.modRec j (fun r => { r with gseq := (r.gseq + 1) % 2 ^ 16 })) st)

/-- A grant (R104): overlapping records are split and acted on, the record takes the tenure, the
context's list the entry, and the stream copies of the scope are dropped: every one, because a pair
orders every earlier access of the releasing thread (R127, R129). -/
def State.grantTenure (s : State) (t k slot : Nat) (handle : Word) (write : Bool) (scope : Nat) : State :=
  let fi := fieldOf t
  let s0 := s.splitAll k slot write
  let s1 := if write then s0.halveFor k slot fi else s0
  let others := ((s1.stack k).overlapping slot).filter (fun j =>
    ((look? (s1.stack k).dir j).map (fun r => r.listsOther (some fi) false)).getD false)
  let slots := (s1.stack k).pieces slot ++ (s1.stack k).overlapping slot
  let s2 := slots.foldl (fun s j => if write then s.invalRec k j fi else s.recallRec k j) s1
  let s2 := if write then s2.raiseSeqs k others else s2
  let s3 := s2.modRecord k slot (fun r =>
    if write then { r with gseq := (r.gseq + 1) % 2 ^ 16, ten := 2, whv := true, whold := s.holdName t }
    else { r with gseq := (r.gseq + 1) % 2 ^ 16, ten := 1, rcnt := r.rcnt + 1 })
  let s4 := if write then s3.markLines k slot fi true else s3
  (s4.acquire t scope (fun _ => true)).modCtx t (fun x =>
    { x with tens := x.tens ++ [{ handle := handle, write := write, scope := scope }] })

/-- The record's side of a release (R106). -/
def DirRec.unten (r : DirRec) (write : Bool) : DirRec :=
  if write then { r with ten := 0, whv := false }
  else { r with rcnt := r.rcnt - 1, ten := if r.rcnt ≤ 1 then 0 else r.ten }

/-- The actions of a release (R105): at domain scope the covered dirty lines of the holder's
slice are written to DRAM; the marks of write tenure are cleared; the release is recorded. -/
def State.releaseTenure (s : State) (t : Nat) (x : Tenure) (scope : Nat) : State :=
  let k := s.hDir x.handle
  let slot := hSlot x.handle
  let fi := fieldOf t
  let s1 := if scope = 3 then
    ((s.field fi).l2.filter (fun e => e.2.st != .l && (s.stack k).recordCovers slot e.1)).foldl
      (fun s e => s.cleanLine fi e.1) s else s
  let s2 := if x.write then s1.markLines k slot fi false else s1
  (s2.modRecord k slot (fun r => r.unten x.write)).modCtx t (fun c =>
    { c with tens := c.tens.erase x })

/-! ## Waiters -/

/-- A parked context becomes DORMANT (ready) (R22). -/
def State.makeReady (s : State) (t : Nat) : State :=
  s.modCtx t (fun x =>
    if x.st == .parked then
      { x with st := .ready, wait := .none, readyAt := s.time, readyV := s.vclk (fieldOf t),
               slotPri := (x.task.map Task.pri).getD 0 }
    else x)

/-- Marks a context's request on a handle complete, and makes the context ready if it is parked
on it. A context has one request at a time on a handle (State.requestTenure). -/
def State.answerTacq (s : State) (t : Nat) (handle : Word) (flt : Option Exc) : State :=
  let s1 := s.modCtx t (fun x => { x with pend := x.pend.map (fun p =>
    match p.work with
    | .tacq h _ _ => if h == handle && !p.done then { p with done := true, work := .none, fault := flt } else p
    | _ => p) })
  if (s1.ctx t).wait == .tenure then s1.makeReady t else s1

/-- Whether a waiter can be granted now: a write request waits for the lines of its record that
the tile fetch unit holds for another context (R115). -/
def Stack.ripe (k : Stack) (w : Waiter) : Bool :=
  k.grantable w.slot w.write && !k.behind w &&
  !(w.write && k.pins.any (fun p => p.2.1 != w.tid && k.recordCovers w.slot p.1))

/-- Whether the recalls and invalidations of a grant are answered at once: no line of the record waits for
a copy engine of another field that has taken it (R114, R115). -/
def State.enginesDone (s : State) (k : Nat) (w : Waiter) : Bool :=
  !s.cores.any (fun e => fieldOfCore e.1 != fieldOf w.tid && !(s.field (fieldOfCore e.1)).frozen &&
    e.2.copies.any (fun y => y.owned.any (fun ln => (s.stack k).recordCovers w.slot ln && s.canFinish y ln)))

/-- Whether a waiter can be granted now: a grant is an event of its record and of those it acts on (R120). -/
def State.mayGrant (s : State) (k : Nat) (w : Waiter) : Bool :=
  (s.stack k).ripe w && s.enginesDone k w &&
  !((s.stack k).pieces w.slot ++ (s.stack k).overlapping w.slot).any (s.recHeld k)

/-- What the home answers for a handle (R101): the record's slot, or a stale handle. A record that is
ending is stale already. -/
def State.handleSlot (s : State) (h : Word) : Option (Nat × Nat × DirRec) :=
  if !hReserved h || !s.reachable (hCube h) then none
  else
    match look? (s.stack (s.hDir h)).dir (hSlot h) with
    | some r =>
      if r.piece || r.kind == .region || r.gen ≠ hGen h || r.ending then none
      else some (s.hDir h, hSlot h, r)
    | none => none

/-- A waiter resumes: it is granted, or its handle has become stale by a TSPLT meanwhile (R107). -/
def State.grantWaiter (s : State) (k : Nat) (w : Waiter) : State :=
  let s1 := s.modStack k (fun st => { st with waiters := st.waiters.filter (fun v => v != w) })
  if (s.handleSlot w.handle).isNone then s1.answerTacq w.tid w.handle (some { cause := cStale, tval := w.handle })
  else (s1.grantTenure w.tid k w.slot w.handle w.write w.scope).answerTacq w.tid w.handle none

/-- Serves the queues of one directory: the first waiter in order of arrival that can be granted,
and with a read request every consecutive grantable read request of its record (R102). -/
def State.serveWaiters (s : State) (k : Nat) : State :=
  match (s.stack k).waiters.find? (fun w => s.mayGrant k w) with
  | none => s
  | some w =>
    let s1 := s.grantWaiter k w
    if w.write then s1
    else
      (((s1.stack k).waiters.filter (fun v => v.slot == w.slot)).takeWhile (fun v => !v.write)).foldl
        (fun s v => if s.mayGrant k v then s.grantWaiter k v else s) s1

/-- Removes a context's own waiting requests. -/
def State.dropWaiters (s : State) (t : Nat) : State :=
  { s with stks := s.stks.map (fun e =>
      (e.1, { e.2 with waiters := e.2.waiters.filter (fun w => w.tid != t) })) }

/-! ## The end of a record (R101) -/

/-- Lines that a record covers and that a slice or the Zenith cache holds. -/
def State.heldOf (s : State) (k : Nat) (r : DirRec) : List Nat :=
  let st := s.stack k
  (r.sharers.flatMap (fun f => ((s.field f).l2.filter (fun e => e.2.st != .l && recCovers st r e.1)).map Prod.fst) ++
    (if r.zs then (s.zen.cache.filter (fun e => recCovers st r e.1)).map Prod.fst else [])).eraseDups

/-- The tracking of a held line passes from a record that has ended to the region records (R101). A
line that cannot be tracked is given up. -/
def State.passLine (s : State) (k : Nat) (r : DirRec) (ln : Nat) : State :=
  let (ok, s1) := s.ensureCovered k ln r.part
  -- an owner for whom a covering record has no room left writes the line back and keeps it shared (R97)
  let full := ((s1.stack k).covering ln).any (fun c => ((look? (s1.stack k).dir c).map (fun q =>
    decide ((q.owners ++ r.owners).eraseDups.length > 4))).getD false)
  if ok then
    if full then (r.owners.foldl (fun s f => s.recallLine f ln) s1).modCovering k ln
      (fun q => q.joinSharers { r.dropOwners with zown := r.zown })
    else s1.modCovering k ln (fun q => q.joinSharers r)
  else (r.sharers.foldl (fun s f => s.invalAt k f ln) s1).zDrop ln

/-- The stores that a context has posted to lines of a record are performed (R105). -/
def State.storesSettled (s : State) (t k slot : Nat) : Bool :=
  let x := s.ctx t
  x.toPost.isEmpty && !(s.core (coreOf t)).log.any (fun l => l.2.tid == t && l.2.act == x.act &&
    (s.stack k).recordCovers slot (l.2.pa / 128))

/-- Whether the tenures still held on a record can end: their holders' stores are performed (R101, R105). -/
def State.mayEnd (s : State) (k slot : Nat) : Bool :=
  s.ctxs.all (fun e => !e.2.tens.any (fun x => s.hDir x.handle == k && hSlot x.handle == slot) ||
    s.storesSettled e.1 k slot)

/-- Ends a record: every tenure on it ends with the release actions of its acquire scope, every
waiter receives the stale-handle fault, and the record, its pieces and its descriptor reference
are freed. Lines stay where they are held (R101). -/
def State.endRecord (s : State) (k slot : Nat) : State :=
  let names := fun (h : Word) => s.hDir h == k && hSlot h == slot
  let s1 := s.ctxs.foldl (fun s e => (e.2.tens.filter (fun x => names x.handle)).foldl
    (fun s x => s.releaseTenure e.1 x x.scope) s) s
  let ws := (s1.stack k).waiters.filter (fun w => w.slot == slot)
  let held := ((s1.stack k).pieces slot).flatMap (fun j => match look? (s1.stack k).dir j with
    | some r => (s1.heldOf k r).map (fun ln => (r, ln))
    | none => [])
  let s2 := s1.modStack k (fun st =>
    let st1 := { st with waiters := st.waiters.filter (fun w => w.slot != slot) }
    (st.pieces slot).foldl Stack.freeRec st1)
  -- a retry that waits in a queue keeps no tenure on a record that has ended (R108)
  let lose := fun (q : QTask) =>
    { q with task := { q.task with retained := q.task.retained.filter (fun r => !names r.1) } }
  let s2 : State := { s2 with fields := s2.fields.map (fun (e : Nat × Field) => (e.1, { e.2 with tasks := e.2.tasks.map lose })) }
  let s3 := held.foldl (fun s x => s.passLine k x.1 x.2) s2
  ws.foldl (fun s w => s.answerTacq w.tid w.handle (some { cause := cStale, tval := w.handle })) s3

/-- The end of a record whose creating task has been killed: at once, or once the stores of its holders are
performed; until then its handle is stale and its tenures stand. -/
def State.beginEnd (s : State) (k slot : Nat) : State :=
  if s.mayEnd k slot then s.endRecord k slot
  else s.modStack k (fun st => st.modRec slot (fun r => { r with ending := true }))

/-- The records that were to end and can. -/
def State.finishEnds (s : State) (k : Nat) : State :=
  ((s.stack k).dir.filter (fun e => e.2.ending)).foldl (fun s e => if s.mayEnd k e.1 then s.endRecord k e.1 else s) s

/-! ## Events of the directory -/

/-- Pieces of one record rejoin when all have tenure none and nothing has split them for 2^20
directory cycles (R110). -/
def State.rejoinPieces (s : State) (k slot : Nat) : State :=
  let st := s.stack k
  let ps := st.pieces slot
  let calm := ps.all (fun j => match look? st.dir j with
    | some r => r.ten == 0 && decide (r.quiet + 2 ^ 20 ≤ s.dirClock)
    | none => false)
  match look? st.dir slot with
  | some r =>
    -- the pieces' union is the original box or span again
    let whole := r.kind == .box || (match st.hull slot with
      | some h => h.len + 1 == (ps.map (fun j => ((look? st.dir j).map (fun q => q.len + 1)).getD 0)).sum
      | none => false)
    if !r.piece && ps.length > 1 && calm && whole then (s.spareOwners k ps).modStack k (fun st => st.rejoin slot) else s
  | none => s

/-- Merging of region records (R112): a record with no sharers is freed; after 2^20 directory
cycles without conflict it merges with its buddy, or becomes the parent where no record has the
buddy's place. None grows beyond 64 KiB. -/
def State.mergeRegion (s : State) (k slot : Nat) : State :=
  let st := s.stack k
  match look? st.dir slot with
  | none => s
  | some r =>
    if r.kind != .region then s
    else if r.unshared then s.setStack k (st.freeRegion slot)
    else if r.piece || r.next ≠ 0 then s
    else
      let n := r.len + 1
      if n ≥ 512 || r.base % n ≠ 0 || r.quiet + 2 ^ 20 > s.dirClock || 512 % n ≠ 0 then s
      else
        let base := r.base / (2 * n) * (2 * n)
        let bud := if r.base = base then base + n else base
        let inBud := st.dir.filter (fun e => e.2.kind == .region && decide (e.2.base < bud + n) &&
          decide (bud ≤ e.2.base + e.2.len))
        match inBud with
        | [] => s.setStack k (st.setRec slot { r with base := base, len := 2 * n - 1, quiet := s.dirClock })
        | [(j, q)] =>
          if q.base = bud ∧ q.len = r.len ∧ q.quiet + 2 ^ 20 ≤ s.dirClock ∧ q.piece = false ∧ q.next = 0 then
            let s1 := s.spareOwners k [slot, j]
            let own := fun (c : Nat) (d : DirRec) => (look? (s1.stack k).dir c).getD d
            s1.modStack k (fun st => (st.setRec slot
              { (own slot r).joinSharers (own j q) with base := base, len := 2 * n - 1, quiet := s.dirClock }).freeRec j)
          else s
        | _ => s

end Sys2Proof.Machine
end

