-- ==== Sys2Proof/Machine/Sched.lean ====
section
/-! DEFINITION. Contexts from activation to their end (R22 to R32), the issue slots (R319 to
R321), the field queues (R315 to R318), messages' slots (R261, R264). -/

namespace Sys2Proof.Machine

open Sys2Proof

/-! ## Tasks -/

/-- Effective priority of a context's task; 0 for none. -/
def Ctx.pri (x : Ctx) : Nat := (x.task.map Task.pri).getD 0

/-- A task of a launch made from a record (R24, R25, R269). -/
def Launch.mkTask (l : Launch) (stage : Nat) (ws : List Word) : Task :=
  { words := ws, lid := l.lid, stage := stage, stageX4 := 0, stageX5 := 0, stageX6 := 0, staged := false,
    rst := taskRst ws && l.rst, pri := Nat.min (taskPri ws) l.pri, retries := 0, handler := none,
    retained := [] }

/-- A record of a launch block: the header's PRI and RST replace its own (R34). -/
def Launch.withHeader (l : Launch) (ws : List Word) : List Word :=
  let w := tw ws 0
  w64 (w - bits w 34 32 * 2 ^ 32 + (l.pri + (if l.rst then 4 else 0)) * 2 ^ 32) :: ws.drop 1

/-- Core counts of a stage. -/
def Launch.stageCores (l : Launch) (st : Nat) : Nat := l.sfld st * 1024

/-- Producers of a channel that are paired with consumer core j: those k with
floor(k × Nc / Np) = j (R35). -/
def producersOf (np nc j : Nat) : Nat :=
  let up := fun a b => (a + b - 1) / b
  if nc = 0 then 0 else up ((j + 1) * np) nc - up (j * np) nc

/-- The core with a stage index in a stage. -/
def Launch.stageCore (l : Launch) (st i : Nat) : Nat :=
  (l.stageFields st).getD (i / 1024) 0 * 1024 + i % 1024

/-- The index of a core in its stage (R33). -/
def Launch.stageIndex (l : Launch) (core : Nat) : Nat :=
  ((l.stageFields (l.stageOfCore core)).findIdx (fun f => f == fieldOfCore core)) * 1024 + core % 1024

/-- A channel's word for a core of a stage (R35). -/
def State.channelWord (s : State) (l : Launch) (c core : Nat) : Nat :=
  let d := l.chan c
  let st := l.stageOfCore core
  let i := l.stageIndex core
  let np := l.stageCores (chPstg d)
  let nc := l.stageCores (chCstg d)
  if !chValid d then 0
  else if chPstg d = st then
    2 ^ 31 + (s.cubeid * 2 ^ 20 + l.stageCore (chCstg d) (if np = 0 then 0 else i * nc / np))
  else if chCstg d = st then 2 ^ 31 + 2 ^ 30 + producersOf np nc i
  else 0

/-- A stage's task on one core (R26, R39). -/
def State.stageTask (s : State) (l : Launch) (st core : Nat) : Task :=
  { l.mkTask st (l.withHeader (l.stageRecord st)) with
    staged := true
    stageX4 := w64 (s.channelWord l 1 core * 2 ^ 32 + s.channelWord l 0 core)
    stageX5 := w64 (s.channelWord l 3 core * 2 ^ 32 + s.channelWord l 2 core)
    stageX6 := w64 (l.stageCores st * 2 ^ 32 + l.stageIndex core) }

/-! ## Issue slots -/

/-- Whether a context holds an issue slot. -/
def Ctx.inSlot (x : Ctx) : Bool := x.st == .issuing || x.st == .quiescing

/-- The contexts of a core. -/
def ctxsOf (core : Nat) : List Nat := (List.range 16).map (fun i => core * 16 + i)

/-- Contexts of a core that hold an issue slot. -/
def State.slotsUsed (s : State) (core : Nat) : Nat :=
  ((ctxsOf core).filter (fun t => (s.ctx t).inSlot)).length

/-- Contexts of a core that its launch holds. -/
def State.ctxsHeld (s : State) (core : Nat) : Nat :=
  ((ctxsOf core).filter (fun t => (s.ctx t).st != .free)).length

/-- Whether every valid page of a context can be pinned beside those of the contexts in issue
slots and the frames that range scoreboard entries keep (R75). -/
def State.pinOk (s : State) (t : Nat) : Bool :=
  let core := coreOf t
  let set := t :: (ctxsOf core).filter (fun u => u != t && (s.ctx u).inSlot)
  let named := (List.range 12).filter (fun j => set.any (fun u => bit (s.nlrOf u) j && decide (j < s.lpgOf u)))
  let own := (set.map (fun u => ((List.range (s.lpgOf u)).filter (fun j => !bit (s.nlrOf u) j)).length)).sum
  let kept := (s.core core).frames.filter (fun e =>
    s.sbHit core (e.1 * 4096) 4096 && !set.contains e.2.owner &&
      !(e.2.owner == namedOwner && named.contains e.2.page))
  decide (named.length + own + kept.length ≤ 12)

/-- Whether a context may take an issue slot now. -/
def State.slotFor (s : State) (t : Nat) : Bool :=
  decide (s.slotsUsed (coreOf t) < 4) && !(s.core (coreOf t)).busy && s.pinOk t

/-- A ready context enters the lowest free issue slot; its slot priority returns to the effective one. -/
def State.enterSlot (s : State) (t : Nat) : State :=
  let used := ((ctxsOf (coreOf t)).filter (fun u => u != t && (s.ctx u).inSlot)).map (fun u => (s.ctx u).slotNo)
  let k := ((List.range 4).find? (fun k => !used.contains k)).getD 0
  s.modCtx t (fun x => { x with st := .issuing, slotAt := s.time, slotPri := x.pri, slotNo := k })

/-- A context becomes DORMANT (ready) at this moment. -/
def State.toReady (s : State) (t : Nat) : State :=
  s.modCtx t (fun x => { x with st := .ready, wait := .none, readyAt := s.time,
                                readyV := s.vclk (fieldOf t), slotPri := x.pri })

/-- Whether one ready context goes before another: slot priority, ready time, index (R23). -/
def readyBefore (a b : Nat × Ctx) : Bool :=
  decide (a.2.slotPri > b.2.slotPri) ||
  (a.2.slotPri == b.2.slotPri && (decide (a.2.readyAt < b.2.readyAt) ||
    (a.2.readyAt == b.2.readyAt && decide (a.1 < b.1))))

/-- The best of a list under an order. -/
def bestBy {α : Type} (before : α → α → Bool) (l : List α) : Option α :=
  l.foldl (fun b x => match b with
    | none => some x
    | some y => if before x y then some x else some y) none

/-- Whether a ready context has its turn: of those that a freed trap-queue slot has made ready, the first one (R344). -/
def State.mayEnter (s : State) (t : Nat) : Bool :=
  (s.ctx t).st == .ready && !((s.field (fieldOf t)).tqgo.drop 1).contains t

/-- The dispatcher fills a free issue slot (R23, R319). -/
def State.fillSlot (s : State) (core : Nat) : State :=
  let cands := (ctxsOf core).filterMap (fun t => if s.mayEnter t && s.slotFor t then some (t, s.ctx t) else none)
  match bestBy readyBefore cands with
  | some c => s.enterSlot c.1
  | none => s

/-- An instruction that has begun an exchange is not cut short by a quiesce (R321, step 2): a
SEND, SYSC or MCMD that holds its reservation, an MDRN that has dispatched a row, a store that has
posted some of its lanes. -/
def Ctx.exchanging (x : Ctx) : Bool :=
  x.reserved.isSome || x.drained != 0 || x.mcmd.isSome || x.answer.isSome || !x.toPost.isEmpty

/-- Whether a context in an issue slot executes: a quiesce lets an exchange, and a DONE that has issued,
complete (R321, R322). -/
def Ctx.mayGo (x : Ctx) : Bool := x.st == .issuing || (x.st == .quiescing && (x.exchanging || x.ending))

/-- Whether one ISSUING context is the victim before another (R320): lower priority, later slot,
higher index. -/
def victimBefore (a b : Nat × Ctx) : Bool :=
  decide (a.2.pri < b.2.pri) ||
  (a.2.pri == b.2.pri && (decide (a.2.slotAt > b.2.slotAt) ||
    (a.2.slotAt == b.2.slotAt && decide (a.1 > b.1))))

/-- The start of a quiesce (R320). -/
def State.startQuiesce (s : State) (core : Nat) : State :=
  let cs := (ctxsOf core).map (fun t => (t, s.ctx t))
  let issuing := cs.filter (fun c => c.2.st == .issuing)
  match bestBy victimBefore issuing with
  | none => s
  | some v =>
    if s.slotsUsed core ≥ 4 && !cs.any (fun c => c.2.st == .quiescing) &&
        cs.any (fun c => s.mayEnter c.1 && decide (c.2.slotPri > v.2.pri)) && !v.2.exchanging
    then s.modCtx v.1 (fun x => { x with st := .quiescing, stallAt := none })
    else s

/-- A context gives up the place of a SEND or SYSC that holds no slot yet (R262), and its request
for a walk with the answer that may be there (R331): the instruction executes again. -/
def State.leaveQueues (s : State) (t : Nat) : State :=
  { s with
    cores := s.cores.map (fun (e : Nat × Core) =>
      (e.1, { e.2 with sendQ := e.2.sendQ.filter (fun y => y.1 != t) }))
    fields := s.fields.map (fun (e : Nat × Field) =>
      (e.1, { e.2 with misses := e.2.misses.filter (fun m => m.tid != t),
                       mfaults := e.2.mfaults.filter (fun m => m.tid != t) })) }

/-- The end of a quiesce once every window has landed (R321, steps 4 to 6). -/
def State.endQuiesce (s : State) (t : Nat) : State :=
  (s.leaveQueues t).modCtx t (fun x => { x with
    st := .ready, readyAt := s.time, readyV := s.vclk (fieldOf t), slotPri := x.pri, ticket := none
    -- a late fault of level U that the handler holds back stays
    pend := (x.pend.filter (fun p => p.fault.isSome)).map (fun p => { p with left := 0 }) })

/-! ## Message slots (R261, R264) -/

def msgKey (q k : Nat) : Nat := 8 * q + k

def Core.msg (c : Core) (q k : Nat) : MsgSlot := look c.msgs (msgKey q k) {}

/-- Frees a slot; a message that came through a channel returns one slot to the producer. -/
def State.freeMsg (s : State) (core q k : Nat) : State :=
  let m := (s.core core).msg q k
  let s1 := s.modCore core (fun c => { c with msgs := put c.msgs (msgKey q k) {} })
  match m.chan with
  | some (c, p) =>
    s1.modLaunch (s.field (fieldOfCore core)).flid (fun l =>
      { l with used := put l.used (c * 2 ^ 20 + p) (look l.used (c * 2 ^ 20 + p) 0 - 1) })
  | none => s1

/-- The oldest queued message of a queue. -/
def Core.oldest (c : Core) (q : Nat) : Option Nat :=
  (leastBy (fun k => (c.msg q k).order)
    ((List.range 8).filter (fun k => (c.msg q k).st == .queued)))

/-- The lowest free slot of a queue. -/
def Core.freeMsg? (c : Core) (q : Nat) : Option Nat :=
  (List.range 8).find? (fun k => (c.msg q k).st == .free)

/-- The number that the next message of a core takes in its order of queueing. -/
def Core.msgOrder (c : Core) : Nat := c.msgs.foldl (fun m e => Nat.max m (e.2.order + 1)) 0

/-- Queues a message in a slot; a context parked on that queue becomes ready, unless a handler is
bound to it. -/
def State.queueMsg (s : State) (core q k : Nat) (m : MsgSlot) : State :=
  let s1 := s.modCore core (fun c =>
    let m' := { m with st := .queued, order := c.msgOrder, hand := if q = 0 then c.hand0 else c.hand1 }
    { c with msgs := put c.msgs (msgKey q k) m' })
  (ctxsOf core).foldl (fun s t => if (s.ctx t).wait == .msg q then s.makeReady t else s) s1

/-! ## Activation (R26) -/

/-- The task word (R26). -/
def State.taskWord (s : State) (t : Nat) (k : Task) (handler : Bool) : Word :=
  w64 (s.ctxName t + k.stage * 2 ^ 32 + k.pri * 2 ^ 34 + (if handler then 2 ^ 36 else 0) + k.lid * 2 ^ 48)

/-- The lowest FREE context of a core, while its launch holds fewer than CTX contexts there. -/
def State.freeCtx? (s : State) (core : Nat) : Option Nat :=
  match s.launch? (s.field (fieldOfCore core)).flid with
  | none => none
  | some l =>
    if (s.core core).busy || (s.field (fieldOfCore core)).frozen || decide (s.ctxsHeld core ≥ l.ctxN) then none
    else (ctxsOf core).find? (fun t => (s.ctx t).st == .free)

/-- The range that a task's record holds at the hub, and the first chunk as a word (R31). -/
def rangeOf (k : Task) : Option Rng × Word :=
  if taskRng k.words then
    let g := 2 ^ taskGrain k.words
    let lo := taskLo k.words
    let hi := taskHi k.words
    let c := Nat.min (lo + g) hi
    (some { hi := hi, c := c, g := g }, w64 (c * 2 ^ 32 + lo))
  else (none, k.words.getD 7 0)

/-- The entry PC of a record (R24). -/
def Launch.entryPc (l : Launch) (ws : List Word) : Word := w64 (l.code + taskEblk ws * 128 + taskEslot ws)

/-- Binds a task to a context and sets its visible state (R26). What R26 does not name, the trap
registers and the notify latch, stays. -/
def State.activate (s : State) (t : Nat) (k : Task) : State :=
  match s.launch? k.lid with
  | none => s
  | some l =>
    let old := s.ctx t
    let (rng, x6) := rangeOf k
    let staged := k.staged && k.handler.isNone
    -- a record that has ended while a retry waited is retained no more
    let kept := k.retained.filter (fun r => (s.handleSlot r.1).isSome)
    let arg := fun i => k.words.getD i 0
    let s0 := s.setCtx t
      { st := .ready, task := some k, act := old.act + 1, pc := l.entryPc k.words,
        xs := [(1, arg 2), (2, arg 3), (3, arg 4), (4, if staged then k.stageX4 else arg 5),
               (5, if staged then k.stageX5 else arg 6), (6, if staged then k.stageX6 else x6),
               (7, s.taskWord t k k.handler.isSome)],
        tcause := old.tcause, tval := old.tval, tepc := old.tepc, tstat := old.tstat, tscr := old.tscr,
        resume := old.resume, latch := old.latch, drain := old.drain, rng := rng, readyAt := s.time,
        readyV := s.vclk (fieldOf t), slotPri := k.pri,
        tens := kept.map (fun r => { handle := r.1, write := r.2.1, scope := r.2.2 }) }
    -- retained tenures are rebound to the new activation before it starts (R108)
    let s1 := kept.foldl (fun s r =>
      if r.2.1 then s.modRecord (s.hDir r.1) (hSlot r.1) (fun d => { d with whold := s.holdName t }) else s) s0
    -- the activation is an acquire of what the instruction that made the task released (R128)
    let s2 := s1.acquire t 3 (fun _ => true)
    s2.fillSlot (coreOf t)

/-- A handler activation takes the head message of its queue (R30). A message that a soft error
discarded is seen as the uncorrectable data error (R350). -/
def State.activateHandler (s : State) (t q : Nat) (k : Task) : State :=
  let core := coreOf t
  let s1 := s.activate t { k with handler := some q }
  let s2 := s1.modCore core (fun c => if q = 0 then { c with hrun0 := some t } else { c with hrun1 := some t })
  match (s2.core core).oldest q with
  | none => s2
  | some j =>
    let m := (s2.core core).msg q j
    if m.bad then
      (s2.freeMsg core q j).modCtx t (fun x =>
        let p : Pend := { pc := x.pc, idx := 0, left := 0, done := true, result := .none, flags := 0,
                          fault := some { cause := cData }, work := .none, since := none, sup := false }
        { x with pend := [p] })
    else
      (s2.modCore core (fun c => { c with msgs := put c.msgs (msgKey q j) { m with st := .held } })).modCtx t
        (fun x => { x with held := some (q, j) })

/-- The handler bound to a queue, and the context it runs on. -/
def Core.hand (c : Core) (q : Nat) : Option Task := if q = 0 then c.hand0 else c.hand1
def Core.hrun (c : Core) (q : Nat) : Option Nat := if q = 0 then c.hrun0 else c.hrun1
def Core.setHand (c : Core) (q : Nat) (k : Option Task) : Core :=
  if q = 0 then { c with hand0 := k } else { c with hand1 := k }

/-- Starts the bound handler on the message at the head of its queue (R30): the one that was bound
when the message arrived, or the present one for a message that found none. -/
def State.startHandler (s : State) (core q : Nat) : State :=
  let c := s.core core
  match c.hand q, c.hrun q, c.oldest q, s.freeCtx? core with
  | some k, none, some j, some t => s.activateHandler t q ((c.msg q j).hand.getD k)
  | _, _, _, _ => s

/-! ## Context images (R70, R71) -/

/-- A write of a hub at home; none where it fails. -/
def State.hubWrite (s : State) (pa n v : Nat) : Option State :=
  match s.home? pa with
  | none => none
  | some h =>
    if paSpace pa ≥ 0xE || !s.reachable h.cube then none
    else
      match s.writeDirect pa n v with
      | .ok _ s1 => some s1
      | _ => none

/-- Values of w bytes put side by side. -/
def packBytes (w : Nat) (vs : List Nat) : Nat :=
  (vs.zipIdx.map (fun e => e.1 % 256 ^ w * 256 ^ (w * e.2))).sum

/-- A loop stack entry of an image. -/
def LoopEnt.image (e : LoopEnt) : Nat := packBytes 8 [e.start.toNat, e.stop.toNat, e.rem]

/-- The 64 bytes of an image's line, as a number. -/
def Ctx.imageLine (x : Ctx) (n : Nat) : Nat :=
  let r8 := List.range 8
  let loop := fun (k : Nat) => ((x.loops[k]?).map LoopEnt.image).getD 0
  let atS := fun (k : Nat) => if (x.loops[k]?).any LoopEnt.atS then 2 ^ k else 0
  match n with
  | 0 => packBytes 8 (r8.map (fun i => if i = 0 then 0 else (look x.xs i 0).toNat))
  | 1 => x.pc.toNat + x.fpst.toNat * 256 ^ 8 + x.preds.toNat * 256 ^ 16 + x.wb * 256 ^ 18 +
      packBytes 1 ((List.range 6).map (fun i => (look x.bfmt i 0).toNat)) * 256 ^ 24 + x.mhnd.toNat * 256 ^ 32
  | 2 => loop 0 + loop 1 * 256 ^ 24 + (atS 0 + atS 1) * 256 ^ 48
  | 3 => packBytes 8 (r8.map (fun i => (x.a i).toNat))
  | 4 => packBytes 4 (r8.map (fun i => (x.d i).toNat) ++ r8.map (fun i => (x.k i).toNat))
  | 5 => packBytes 8 (r8.map (fun i => (x.e i).toNat))
  | 6 => packBytes 8 [x.vcnf.toNat, x.vcyc.toNat, x.vins.toNat, x.vlaw.toNat]
  | 56 => x.bExp.toNat + x.bWidth.toNat * 256 ^ 8 + (if x.bValid then 256 ^ 9 else 0) +
      packBytes 2 ((List.range 16).map (fun r =>
        look x.kcount r 0 % 4096 + (if x.drain.getLsbD r then 2 ^ 15 else 0))) * 256 ^ 16
  | _ =>
    if 8 ≤ n ∧ n ≤ 39 then (x.v (n - 8)).toNat
    else if 40 ≤ n ∧ n ≤ 47 then
      packBytes 32 [(look x.accRows (2 * (n - 40)) 0).toNat, (look x.accRows (2 * (n - 40) + 1) 0).toNat]
    else if 48 ≤ n ∧ n ≤ 55 then
      packBytes 2 ((List.range 32).map (fun i => (look x.bMant (32 * (n - 48) + i) 0).toNat))
    else if 64 ≤ n ∧ n ≤ 127 then
      packBytes 8 (r8.map (fun i => (look x.xs (64 + 8 * (n - 64) + i) 0).toNat))
    else 0

/-- Writes the lines from n on of a context's image; none when one fails. -/
def State.imageFrom (s : State) (t base : Nat) (n : Nat) : Nat → Option State
  | 0 => some s
  | k + 1 =>
    match s.hubWrite (base + 64 * n) 64 ((s.ctx t).imageLine n) with
    | some s1 => s1.imageFrom t base (n + 1) k
    | none => none

/-- Writes a context's image. -/
def State.writeImage (s : State) (t : Nat) : Option State :=
  s.imageFrom t ((s.core (coreOf t)).ctxb.toNat + ctxIx t * 8192) 0 128

/-! ## The end of an activation (R28, R29) -/

/-- The handles a context has to give up, in ascending order, each once. -/
def Ctx.handles (x : Ctx) : List Nat :=
  (((x.tens.map Tenure.handle ++ x.made).map BitVec.toNat).mergeSort (fun a b => a ≤ b)).eraseDups

/-- Step 4 of R28: releases and drops, in ascending handle order. -/
def State.giveUp (s : State) (t : Nat) (hs : List Nat) : State :=
  hs.foldl (fun s h =>
    let w := w64 h
    let x := s.ctx t
    let s1 := match x.tens.find? (fun y => y.handle == w) with
      | some y => s.releaseTenure t y y.scope
      | none => s
    if x.made.contains w then
      match s1.handleSlot w with
      | some (k, slot, _) => s1.beginEnd k slot
      | none => s1
    else s1) s

/-- Frees the context's tile fetch pins (R115). -/
def State.dropFetches (s : State) (t : Nat) : State :=
  { s with stks := s.stks.map (fun e => (e.1, { e.2 with pins := e.2.pins.filter (fun p => p.2.1 != t) })) }

/-- The end of an activation, by DONE (steps 4 to 6 of R28) or by a kill (R29). Its draining marks stay until
their handlers end (R254, R266); its registers
stay as they were until the next activation; its ordinary local pages leave their frames. -/
def State.endActivation (s : State) (t : Nat) : State :=
  let x := s.ctx t
  let core := coreOf t
  let fi := fieldOf t
  let s1 := (((s.giveUp t x.handles).dropWaiters t).dropFetches t).leaveQueues t
  let s2 := match x.held with
    | some (q, k) => s1.freeMsg core q k
    | none => s1
  -- reply slots that a SYSC of this activation still holds
  let s3 := s2.modCore core (fun c => { c with
    msgs := c.msgs.map (fun e => match e.2.st with
      | .reply u a _ => if u == t && a == x.act then (e.1, {}) else e
      | _ => e)
    copies := c.copies.filter (fun y => y.tid != t)
    sb := c.sb.filter (fun y => y.tid != t)
    frames := c.frames.filter (fun e => e.2.owner != t)
    wants := c.wants.filter (fun y => y.1 != t)
    regs := c.regs.filter (fun r => r.ctx != ctxIx t)
    back := c.back.filter (fun r => r.1 != ctxIx t)
    hrun0 := if c.hrun0 == some t then none else c.hrun0
    hrun1 := if c.hrun1 == some t then none else c.hrun1 })
  let s4 := s3.modField fi (fun f => { f with
    queries := f.queries.filter (fun y => y.tid != t)
    tqwait := f.tqwait.filter (fun y => y != t)
    tqgo := f.tqgo.filter (fun y => y != t)
    mfaults := f.mfaults.filter (fun m => m.tid != t) })
  -- the end of a drain handler clears its row's mark
  let s5 := match x.drainOf with
    | some (u, _, r) => s4.modCtx u (fun y => { y with drain := y.drain &&& ~~~(1#16 <<< r) })
    | none => s4
  let s6 := s5.modCtx t (fun y => { y with
    st := .free, task := none, sup := false, wait := .none, pend := [], arrQ := [], arrErr := [], copyErr := [],
    accRows := [], kcount := [], drained := 0, held := none, lost := false, tens := [], made := [], rng := none,
    drainOf := none, refusal := none, lone := none, loops := [], reserved := none, ticket := none,
    mcmd := none, answer := none, ending := false, stallAt := none, touched := 0, toPost := [] })
  -- the image of a FREE context agrees with its state (R71)
  if (s6.core core).ctxb = 0 then s6
  -- during the pause of a wrap no hub writes it: it is flushed afterwards (R117)
  else if s6.wrap ≠ 0 then s6.modCore core (fun c => { c with flushing := c.flushing.filter (fun u => u != t) ++ [t] })
  else
    match s6.writeImage t with
    | some s7 => s7
    | none => s6.modField fi (fun f => { f with orphans := f.orphans ++ [(t, x.task, ({ cause := cContext } : Exc), none)] })

/-- A kill (R29). The record of a thread parked on it stays with ACT 0b10 (R353). -/
def State.kill (s : State) (t : Nat) : State :=
  let x := s.ctx t
  if x.st == .free then s
  else
    let s1 := match x.wait with
      | .slot k => s.modField (fieldOf t) (fun f => { f with trec := match look? f.trec k with
        | some (w :: ws) => put f.trec k (w64 (w.toNat - bits w.toNat 53 52 * 2 ^ 52 + 2 * 2 ^ 52) :: ws)
        | _ => f.trec })
      | _ => s
    -- a refusal that was not delivered has no boundary left (R343)
    let s2 := match x.refusal with
      | some r => s1.modField (fieldOf t) (fun f => { f with
          orphans := f.orphans ++ [(t, x.task, ({ cause := cPosted, tval := r.addr, loge := r.entry } : Exc), some r)] })
      | none => s1
    s2.endActivation t

/-! ## Field queues (R315 to R318) -/

/-- Tasks that a field's queue holds at most. -/
def queueRoom (f : Field) : Nat := 256 - f.tasks.length

/-- Puts a task into a field's queue. -/
def State.enqueue (s : State) (fi : Nat) (k : Task) : State :=
  s.modField fi (fun f =>
    let q : QTask := { task := k, level := k.pri, bypass := 0, since := s.vclk fi, retry := false,
                       stamp := f.tasks.foldl (fun m q => Nat.max m (q.stamp + 1)) 0 }
    { f with tasks := f.tasks ++ [q] })

/-- The field with the most room among some, the lowest winning a tie; none without room. -/
def State.roomiest (s : State) (fs : List Nat) : Option Nat :=
  let best := bestBy (fun a b => decide (queueRoom (s.field a) > queueRoom (s.field b)) ||
    (queueRoom (s.field a) == queueRoom (s.field b) && decide (a < b))) fs
  match best with
  | some f => if queueRoom (s.field f) = 0 then none else some f
  | none => none

/-- Where SPAWN places a task (R315). -/
def State.spawnField (s : State) (fi : Nat) (l : Launch) : Option Nat :=
  if queueRoom (s.field fi) > 0 then some fi
  else s.roomiest (l.fields.filter (fun f => stackOfField f == stackOfField fi))

/-- Where SENDT's packet places a task (R265, R315). -/
def State.sendtField (s : State) (stack : Nat) (l : Launch) : Option Nat :=
  let here := l.fields.filter (fun f => stackOfField f == stack)
  s.roomiest (if here.isEmpty then l.fields else here)

/-- Whether a task's probe hits (R316). -/
def State.probeHits (s : State) (fi : Nat) (k : Task) : Bool :=
  let h := k.words.getD 1 0
  (s.field fi).htab.any (fun e => e.1 == h && (s.held? fi e.2).isSome)

/-- Tasks of a level in order of arrival. -/
def Field.levelTasks (f : Field) (q : Nat) : List QTask :=
  (f.tasks.filter (fun t => t.level == q && !t.retry)).mergeSort (fun a b => a.stamp ≤ b.stamp)

/-- take() of R316 at one level. -/
def State.takeAt (s : State) (fi : Nat) (l : List QTask) : Option (QTask × List QTask) :=
  match l with
  | [] => none
  | h :: _ =>
    let w := l.take 8
    let k := match w.findIdx? (fun t => t.bypass == 7) with
      | some k => k
      | none => w.length - 1
    let t := ((w.take (k + 1)).find? (fun t => s.probeHits fi t.task)).getD h
    some (t, l.takeWhile (fun u => u != t))

/-- take() of R316: the task, and the queue with it removed and the bypassed counted. A retry
that waits goes ahead of every task (R348). -/
def State.take? (s : State) (fi : Nat) : Option (QTask × List QTask) :=
  let f := s.field fi
  match f.tasks.find? QTask.retry with
  | some r => some (r, f.tasks.erase r)
  | none =>
    match [3, 2, 1, 0].findSome? (fun q => s.takeAt fi (f.levelTasks q)) with
    | some (t, before) =>
      some (t, (f.tasks.erase t).map (fun u => if before.contains u then { u with bypass := u.bypass + 1 } else u))
    | none => none

/-- The task at the head of the highest non-empty level, and the core that it avoids. -/
def Field.headTask (f : Field) : Option (Task × Option Nat) :=
  match f.tasks.find? QTask.retry with
  | some r => some (r.task, r.avoid)
  | none => ([3, 2, 1, 0].findSome? (fun q => (f.levelTasks q).head?)).map (fun q => (q.task, none))

/-- The cores of a field. -/
def coresOfField (fi : Nat) : List Nat := (List.range 1024).map (fun c => fi * 1024 + c)

/-- Lowest effective priority among a core's ISSUING contexts. -/
def State.lowestIssuing (s : State) (core : Nat) : Option Nat :=
  leastBy id (((ctxsOf core).filter (fun t => (s.ctx t).st == .issuing)).map (fun t => (s.ctx t).pri))

/-- The core that takes a task of a priority (R317); a retry avoids the core of its fault (R348). -/
def State.takeCore (s : State) (fi pri : Nat) (avoid : Option Nat) : Option Nat :=
  let cs := (coresOfField fi).filter (fun c => some c != avoid && (s.freeCtx? c).isSome)
  match cs.find? (fun c => decide (s.slotsUsed c < 4)) with
  | some c => some c
  | none =>
    (bestBy (fun (a b : Nat × Nat) => decide (a.1 < b.1) || (a.1 == b.1 && decide (a.2 < b.2)))
      (cs.filterMap (fun c => match s.lowestIssuing c with
        | some p => if p < pri then some (p, c) else none
        | none => none))).map Prod.snd

/-- The hub takes a task and activates it on a core (R317). -/
def State.takeTask (s : State) (fi : Nat) : State :=
  let f := s.field fi
  if f.frozen then s
  else
    match f.headTask with
    | none => s
    | some h =>
      match s.takeCore fi h.1.pri h.2 with
      | none => s
      | some c =>
        match s.take? fi, s.freeCtx? c with
        | some (q, rest), some t => (s.setField fi { f with tasks := rest }).activate t q.task
        | _, _ => s

/-! ## Splits (R32, R318) -/

/-- The running range threads of a field: remaining indices, core, context. -/
def State.rangeThreads (s : State) (fi : Nat) : List (Nat × Nat) :=
  s.ctxs.filterMap (fun e => if fieldOf e.1 == fi && e.2.st != .free then
    e.2.rng.map (fun r => (r.hi - r.c, e.1)) else none)

/-- The donor of a field: the largest remaining range, the lowest core on a tie. -/
def State.donor (s : State) (fi : Nat) : Option Nat :=
  (bestBy (fun (a b : Nat × Nat) => decide (a.1 > b.1) || (a.1 == b.1 && decide (a.2 < b.2)))
    (s.rangeThreads fi)).map Prod.snd

/-- A split for an idle core (R32). -/
def State.splitFrom (s : State) (core donor : Nat) : State :=
  match (s.ctx donor).rng, (s.ctx donor).task, s.freeCtx? core with
  | some r, some k, some t =>
    let n := (r.hi - r.c + r.g - 1) / r.g
    if n < 2 || r.hi < r.c then s
    else
      let mid := r.c + n / 2 * r.g
      let words := k.words.take 7 ++ [w64 (r.hi * 2 ^ 32 + mid)]
      (s.modCtx donor (fun x => { x with rng := some { r with hi := mid } })).activate t
        { k with words := words, retries := 0, retained := [] }
  | _, _, _ => s

/-- The hub's attempt for an idle core: a donor of its field, else of the stack's fields of the
launch by their published values (R32, R318). -/
def State.trySplit (s : State) (core : Nat) : State :=
  let fi := fieldOfCore core
  match s.launch? (s.field fi).flid with
  | none => s
  | some l =>
    if l.fields.any (fun f => !(s.field f).tasks.isEmpty) || (s.freeCtx? core).isNone then s
    else
      match s.donor fi with
      | some d => s.splitFrom core d
      | none =>
        let others := l.fields.filter (fun f => stackOfField f == stackOfField fi && f != fi &&
          decide ((s.field f).maxRng > 0) && !(s.field f).frozen)
        match bestBy (fun a b => decide ((s.field a).maxRng > (s.field b).maxRng) ||
            ((s.field a).maxRng == (s.field b).maxRng && decide (a < b))) others with
        | some f => (match s.donor f with | some d => s.splitFrom core d | none => s)
        | none => s

/-- What a hub publishes (R318). -/
def State.publish (s : State) (fi : Nat) : State :=
  let m := (s.rangeThreads fi).foldl (fun m e => Nat.max m e.1) 0
  s.modField fi (fun f => { f with maxRng := m })

end Sys2Proof.Machine
end

