-- ==== Sys2Proof/WellFormed.lean ====
section
/-! DEFINITION. The words that pass check 2 of R153, as a property of the syntax, and the
words that pass check 3. -/

namespace Sys2Proof

/-- A thread instruction's fields are a legal word of its mnemonic (R137, R145 to R149); a
capability instruction without a destination names register 0 there (R368). A hardware step
has no encoding and nothing to check. -/
def Instr.wellFormed (i : Instr) : Bool :=
  match i.thread? with
  | some (o, f) => o.row.subs.contains f.sub.toNat && o.row.legal f
  | none =>
    match i.zenith? with
    | some (o, z) => o.hasRd || z.rd == 0#5
    | none => true

/-- The operand codes of a thread instruction are ones its positions accept (R142), and a
long-latency instruction with a window does not name a port as destination (R150, rule 10).
Ports without a neighbour (R10) depend on the core and are judged by the machine. -/
def Instr.operandsOk (i : Instr) : Bool :=
  match i.thread? with
  | some (o, f) => o.row.codesOk f && !(isPort f.dst && f.la != 0#4 && o.row.long f)
  | none => true

/-- The named property. -/
abbrev WellFormed (i : Instr) : Prop := i.wellFormed = true

end Sys2Proof
end

