-- ==== Sys2Proof/Machine/Ops.lean ====
section
/-! DEFINITION. The shared operations of thread instructions: landing (R150), taking an exception
(R340 to R345), containment (R347, R348), the return from a handler (R341), and the issue of an
instruction (R153, R187, R188). -/

namespace Sys2Proof.Machine

open Sys2Proof

/-! ## Answers -/

/-- The answer of an exchange reaches the context that waits for it, if the activation goes on. -/
def State.answerTo (s : State) (t act v : Nat) : State :=
  s.modCtx t (fun x => if x.act = act && x.answer == some none then { x with answer := some (some v) } else x)

/-! ## Landing (R150) -/

/-- A context after a result has landed. -/
def Ctx.land (x : Ctx) (r : Result) : Ctx :=
  match r with
  | .none => x
  | .scalar sl v => x.setSlot sl v
  | .vector n m v => x.setV n ((x.v n &&& ~~~m) ||| (v &&& m))

/-- One long-latency instruction lands: its register results, then its flags. -/
def State.landPend (s : State) (t : Nat) (p : Pend) : State :=
  (s.modCtx t (fun x => x.land p.result)).raiseFlags t p.flags

/-- Lands some instructions of a context in program order and removes them from its list; those
with a fault stay, to be delivered. -/
def State.landThese (s : State) (t : Nat) (which : Pend → Bool) : State :=
  let ps := ((s.ctx t).pend.filter (fun p => which p && p.fault.isNone))
  let s1 := s.modCtx t (fun x => { x with pend := x.pend.filter (fun p => !(which p && p.fault.isNone)) })
  ps.foldl (fun s p => s.landPend t p) s1

/-- The register a result is for. -/
def resultTarget : Result → Option (Nat × Slot)
  | .none => none
  | .scalar sl _ => some (0, sl)
  | .vector n _ _ => some (1, .x n)

/-- The register an instruction that is not complete will write. -/
def workTarget : Work → Option (Nat × Slot)
  | .load _ _ d _ => some (0, d)
  | .vload _ _ n _ => some (1, .x n)
  | .atomic _ _ _ _ d _ _ _ => some (0, d)
  | .mstat _ d _ => some (0, d)
  | _ => none

/-- The register that a long-latency instruction writes. -/
def Pend.target (p : Pend) : Option (Nat × Slot) :=
  match resultTarget p.result with
  | some d => some d
  | none => workTarget p.work

/-- The instructions that have to land now: those whose window has ended, and before each of them
the earlier ones that write the same register (R150, rules 4 and 8). -/
def dueNow (ps : List Pend) (p : Pend) : Bool :=
  p.left == 0 || ps.any (fun q => q.left == 0 && decide (p.idx < q.idx) && p.target.isSome && p.target == q.target)

/-! ## Trap-queue records (R344, R345) -/

/-- The lowest free slot of a field's trap queue. -/
def Field.freeSlot? (f : Field) : Option Nat := (List.range 64).find? (fun k => !f.tqvalid.getLsbD k)

/-- Free slots of a field's trap queue. -/
def Field.freeSlots (f : Field) : Nat := ((List.range 64).filter (fun k => !f.tqvalid.getLsbD k)).length

/-- Word 0 of a record. -/
def recWord0 (e : Exc) (late repl fatal : Bool) (t lid act lvl : Nat) : Word :=
  w64 (e.cause + (if late then 2 ^ 8 else 0) + (if repl then 2 ^ 9 else 0) + (if fatal then 2 ^ 10 else 0) +
    ctxIx t * 2 ^ 12 + coreOf t * 2 ^ 16 + lid * 2 ^ 36 + act * 2 ^ 52 + lvl * 2 ^ 54)

/-- Words 6 and 7, of a posted-store refusal (R345). -/
def refusalWords (r : Option Pending) : Word × Word :=
  match r with
  | none => (0, 0)
  | some p =>
    (w64 (p.entry + p.size.log2 * 2 ^ 8 + (p.mask.toNat % 2 ^ 52) * 2 ^ 12), p.data)

/-- Fatal records of one field written in one cycle: the lower core has the lower slot (R353). -/
def Field.orderFatals (f : Field) (now core k : Nat) : Field :=
  let l := (core, k) :: (if f.fatals.1 = now then f.fatals.2.filter (fun e => e.2 != k && f.tqvalid.getLsbD e.2) else [])
  let byCore := l.mergeSort (fun a b => a.1 ≤ b.1)
  let slots := (l.map Prod.snd).mergeSort (fun a b => a ≤ b)
  let pairs := byCore.zip slots
  { f with trec := pairs.foldl (fun m e => put m e.2 (look f.trec e.1.2 [])) f.trec
           fatals := (now, pairs.map (fun e => (e.1.1, e.2))) }

/-- Writes a record into a slot and raises the field's identity where IEN is set. -/
def State.writeRecord (s : State) (fi k : Nat) (ws : List Word) : State :=
  let s1 := s.modField fi (fun f =>
    { f with trec := put f.trec k ws, tqvalid := f.tqvalid ||| (1#64 <<< k) })
  if (s.field fi).tqien then s1.raiseIid (s.field fi).tqiid else s1

/-- The launch identifier of a context's task. -/
def State.lidOf (s : State) (t : Nat) : Nat := ((s.ctx t).task.map Task.lid).getD 0

/-! ## Containment (R347, R348) -/

/-- The thread-level policy of a context: the task's POL, or the launch's (R24, R347). -/
def State.threadPolicy (s : State) (t : Nat) : Nat :=
  let pol := ((s.ctx t).task.map (fun k => taskPol k.words)).getD 0
  if bit pol 2 then bits pol 1 0 else ((s.ctxLaunch? t).map (fun l => l.cpol 0)).getD 0

/-- The policy of a level. -/
def State.policy (s : State) (t lvl : Nat) : Nat :=
  if lvl = 0 then s.threadPolicy t else ((s.ctxLaunch? t).map (fun l => l.cpol lvl)).getD 0

/-- Whether another context lies in the instance of a level that contains a context. -/
def sameInstance (lvl t u : Nat) : Bool :=
  match lvl with
  | 0 => u == t
  | 1 => coreOf u == coreOf t
  | 2 => fieldOf u == fieldOf t
  | 3 => stackOf u == stackOf t
  | _ => true

/-- Kills every activation of a launch in the instance of a level that contains a context. -/
def State.killIn (s : State) (t lid lvl : Nat) : State :=
  (s.ctxs.filter (fun e => e.2.st != .free && (e.2.task.map Task.lid).getD 0 == lid &&
    sameInstance lvl t e.1)).foldl (fun s e => s.kill e.1) s

/-- The same for the launch of the context's task. -/
def State.killInstance (s : State) (t lvl : Nat) : State := s.killIn t (s.lidOf t) lvl

/-- Kills a whole launch: its activations, and what would still become one. -/
def State.killLid (s : State) (t lid : Nat) : State :=
  let s1 := s.killIn t lid 4
  let s2 : State := { s1 with fields := s1.fields.map (fun (e : Nat × Field) =>
    (e.1, { e.2 with tasks := e.2.tasks.filter (fun q => q.task.lid != lid) })) }
  s2.modLaunch lid (fun l => { l with initial := [], staged := List.range 4, completing := true })

def State.killLaunch (s : State) (t : Nat) : State := s.killLid t (s.lidOf t)

/-- The core on which a retry starts: the lowest with a FREE context in the field, other than the
faulting one, else in the stack, else in the launch (R348). -/
def State.retryCore (s : State) (l : Launch) (core : Nat) : Option Nat :=
  let free := fun (fs : List Nat) =>
    ((fs.mergeSort (fun a b => a ≤ b)).flatMap coresOfField).find? (fun c => c != core && (s.freeCtx? c).isSome)
  let fi := fieldOfCore core
  match free [fi] with
  | some c => some c
  | none =>
    match free (l.fields.filter (fun f => stackOfField f == stackOfField fi)) with
    | some c => some c
    | none => free l.fields

/-- Retry (R348): the activation is killed but keeps the tenures of R108; a new one of its record
starts on another core, or waits at the head of its field's queue. DESIGN CHOICE, that a stage task keeps its words
x4 to x6: log 126. -/
def State.retry (s : State) (t : Nat) : State :=
  let x := s.ctx t
  match x.task, s.ctxLaunch? t with
  | some k, some l =>
    let keep := x.tens.filter (fun y => !x.made.contains y.handle)
    let words := match x.rng with
      | some r => k.words.take 7 ++ [w64 (r.hi * 2 ^ 32 + taskLo k.words)]
      | none => k.words
    let k' := { k with words := words, retries := k.retries + 1,
                       retained := keep.map (fun y => (y.handle, y.write, y.scope)) }
    -- what the failed activation posted and was not performed is discarded (R134)
    let s0 := s.modCore (coreOf t) (fun c => { c with log := c.log.filter (fun e => !(e.2.tid == t && e.2.act == x.act)) })
    let s1 := (s0.modCtx t (fun x => { x with tens := x.tens.filter (fun y => x.made.contains y.handle) })).kill t
    match s1.retryCore l (coreOf t) with
    | some c =>
      (match s1.freeCtx? c with
       | some u => s1.activate u k'
       | none => s1)
    | none =>
      let fi := fieldOf t
      s1.modField fi (fun f =>
        let q : QTask := { task := k', level := 3, stamp := 0, bypass := 0, since := s1.vclk fi, retry := true,
                           avoid := some (coreOf t) }
        { f with tasks := f.tasks ++ [q] })
  | _, _ => s.kill t

/-- The walk from a level up, with the levels left as fuel: what absorbed it (ACT, LVL), and the
state after it (R347). -/
def State.walkUp (s : State) (t lvl : Nat) : Nat → Nat × Nat × State
  | 0 => (2, 4, s.killLaunch t)
  | n + 1 =>
    match s.policy t lvl with
    | 1 =>
      (match (s.ctx t).task with
       | some k => if k.rst && decide (k.retries < 3) then (1, lvl, s.retry t) else s.walkUp t (lvl + 1) n
       | none => s.walkUp t (lvl + 1) n)
    | 2 => (2, lvl, s.killInstance t lvl)
    | 3 => (2, lvl, s.killInstance t (lvl + 1))
    | _ => s.walkUp t (lvl + 1) n

/-- An unhandled fault (R342): a fatal record, and the containment walk. With no slot free
containment applies at once and OVF is set. -/
def State.fatal (s : State) (t : Nat) (e : Exc) (late : Bool) (fpc rpc : Word) (ref : Option Pending) : State :=
  let fi := fieldOf t
  let x := s.ctx t
  let hc : Word := if x.sup then x.tcause else 0
  let lid := s.lidOf t
  let tick := w64 s.sid
  let slot := (s.field fi).freeSlot?
  let (act, lvl, s1) := s.walkUp t 0 5
  let (w6, w7) := refusalWords ref
  match slot with
  | some k => (s1.writeRecord fi k [recWord0 e late false true t lid act lvl, fpc, rpc, e.tval, hc, tick, w6, w7]).modField
      fi (fun f => f.orderFatals s.time (coreOf t) k)
  | none => s1.modField fi (fun f => { f with tqovf := true })

/-- The policy of a level for a task that has ended. -/
def State.policyOf (s : State) (k : Task) (lvl : Nat) : Nat :=
  let pol := taskPol k.words
  if lvl = 0 && bit pol 2 then bits pol 1 0 else ((s.launch? k.lid).map (fun l => l.cpol lvl)).getD 0

/-- The walk for a task whose activation has ended, from thread level up: a task that has ended is not
retried, and at thread level nothing of it is left to kill. -/
def State.walkEnded (s : State) (t : Nat) (k : Task) (lvl : Nat) : Nat → Nat × Nat × State
  | 0 => (2, 4, s.killLid t k.lid)
  | n + 1 =>
    match s.policyOf k lvl with
    | 2 => (2, lvl, if lvl = 0 then s else s.killIn t k.lid lvl)
    | 3 => (2, lvl, s.killIn t k.lid (lvl + 1))
    | _ => s.walkEnded t k (lvl + 1) n

/-- A fatal record and a walk for a task whose activation has ended (R343, R401): the walk starts at thread
level for that task. Without the task's record there is no policy to ask. -/
def State.fatalEnded (s : State) (t lid : Nat) (k : Option Task) (e : Exc) (ref : Option Pending) : State :=
  let fi := fieldOf t
  let (act, lvl, s1) := match k with
    | some k => s.walkEnded t k 0 5
    | none => (2, 0, s)
  let (w6, w7) := refusalWords ref
  match (s.field fi).freeSlot? with
  | some k => s1.writeRecord fi k [recWord0 e false false true t lid act lvl, 0, 0, e.tval, 0, w64 s.sid, w6, w7]
  | none => s1.modField fi (fun f => { f with tqovf := true })

/-- What is charged to a task that has ended writes its fatal record, the oldest of each field first: a
refusal that a kill has left without a boundary (R343), an image that could not be written (R401). -/
def State.deliverOrphans (s : State) : State :=
  s.fields.foldl (fun s e =>
    if e.2.frozen then s
    else
      match e.2.orphans with
      | [] => s
      | (t, k, x, r) :: rest =>
        (s.modField e.1 (fun f => { f with orphans := rest })).fatalEnded t ((k.map Task.lid).getD e.2.flid) k x r) s

/-! ## Taking an exception (R340 to R344) -/

/-- The causes that are replayable (R337). -/
def replayable (c : Nat) : Bool := c == cTenure || c == cDirFull

/-- TCAUSE of a fault (R339). -/
def causeWord (e : Exc) (late repl : Bool) : Word :=
  w64 (e.cause + (if late then 2 ^ 8 else 0) + (if repl then 2 ^ 9 else 0) + (if e.eng then 2 ^ 10 else 0) +
    e.loge * 2 ^ 11 + e.code * 2 ^ 16)

/-- TSTAT at entry from level U (R339, R340). -/
def statusWord (lone : Bool) (slot : Option Nat) : Word :=
  w64 ((if lone then 2 ^ 16 else 0) + (match slot with | some k => 2 ^ 15 + k * 2 ^ 8 | none => 0))

/-- Entry into the field's handler: TCAUSE, TVAL, TSTAT and TEPC are written, the level becomes S
and the PC TVEC (R340). An instruction that re-executed alone will do so again after a replayable fault. -/
def State.enterHandler (s : State) (t : Nat) (e : Exc) (late repl : Bool) (tepc rpc : Word) (slot : Option Nat) :
    State :=
  let tvec := (s.field (fieldOf t)).tvec
  (s.leaveQueues t).modCtx t (fun x => { x with
    tcause := causeWord e late repl, tval := e.tval, tstat := statusWord ((late || x.lone.isSome) && repl) slot, tepc := tepc,
    resume := rpc, tslot := slot, sup := true, pc := tvec, lone := none, wait := .none, ticket := none,
    answer := none, ending := false })

/-- Parks a thread on a replayable fault: it re-executes the instruction at `fpc`, alone where
the fault is late (R344). -/
def State.parkReplay (s : State) (t : Nat) (late : Bool) (fpc rpc : Word) (w : Wait) : State :=
  s.modCtx t (fun x => { x with
    st := .parked, wait := w, pc := fpc, lone := if late then some rpc else x.lone, stallAt := none,
    ending := false })

/-- Taking an exception, once every window of the context has landed: `fpc` is the PC of the
faulting instruction and `rpc` the resume PC. -/
def State.take (s : State) (t : Nat) (e : Exc) (late : Bool) (fpc rpc : Word) (ref : Option Pending) : State :=
  let fi := fieldOf t
  let f := s.field fi
  let x := s.ctx t
  let handled := !x.sup && f.tvec != 0
  if e.cause = cContext then s.fatal t e late fpc rpc ref
  else if replayable e.cause then
    if f.freeSlots > 4 then
      match f.freeSlot? with
      | some k =>
        let ws := fun act => [recWord0 e late true false t (s.lidOf t) act 7, fpc, rpc, e.tval,
          if x.sup then x.tcause else 0, w64 s.sid, 0, 0]
        if handled then (s.writeRecord fi k (ws 3)).enterHandler t e late true fpc rpc (some k)
        else (s.writeRecord fi k (ws 0)).parkReplay t late fpc rpc (.slot k)
      | none => s
    else (s.parkReplay t late fpc rpc .anySlot).modField fi (fun f => { f with tqwait := f.tqwait ++ [t] })
  else if handled then s.enterHandler t e late false (if late then rpc else fpc) rpc none
  else s.fatal t e late fpc rpc ref

/-- Whether a late fault can be delivered at the context's level: one that was raised at level U waits until
the handler has returned, and then until the instruction that re-executes alone has done so (R151). -/
def Ctx.lateDue (x : Ctx) (p : Pend) : Bool := p.done && p.fault.isSome && (p.sup || !x.sup) && x.lone.isNone

/-- Delivers the first late fault of a context; `rpc` is the first instruction not yet issued
(R151). Every other instruction completes and every other window lands first. -/
def State.takeLate (s : State) (t : Nat) (p : Pend) : State :=
  if (s.ctx t).pend.any (fun q => !q.done) then s
  else
  let rpc := (s.ctx t).pc
  let s1 := s.modCtx t (fun x => { x with pend := x.pend.filter (fun q => q != p) })
  let s2 := s1.landThese t (fun _ => true)
  match p.fault with
  | some e =>
    -- an unhandled fault of the handler stays one when SRET has issued meanwhile (R342)
    let s3 := if p.sup && !replayable e.cause then s2.modCtx t (fun x => { x with sup := true }) else s2
    s3.take t e true p.pc rpc none
  | none => s2

/-- An exact fault of the instruction at the context's PC: incomplete long-latency instructions
complete and land first (R151); a late fault found then is delivered first, and the instruction
re-executes afterwards. -/
def State.takeExact (s : State) (t : Nat) (e : Exc) : State :=
  let x := s.ctx t
  if x.pend.any (fun p => !p.done) then s
  else
    match x.pend.find? x.lateDue with
    | some p => s.takeLate t p
    | none =>
      if e.cause = cPosted then
        -- the release that found the refusal has delivered it
        ((s.landThese t (fun _ => true)).modCtx t (fun x => { x with refusal := none })).take t e false x.pc x.pc x.refusal
      else (s.landThese t (fun _ => true)).take t e false x.pc (x.lone.getD x.pc) none

/-- The pending refusal of a context is delivered (R343): TEPC is the next unissued instruction. -/
def State.takeRefusal (s : State) (t : Nat) : State :=
  let x := s.ctx t
  match x.refusal with
  | none => s
  | some r =>
    if x.sup || x.pend.any (fun p => !p.done) then s
    else
      ((s.landThese t (fun _ => true)).modCtx t (fun x => { x with refusal := none })).take t
        { cause := cPosted, tval := r.addr, loge := r.entry } false x.pc x.pc (some r)

/-- Frees trap-queue slot k: a thread parked on it re-executes, and those that wait for any slot
re-execute in the order in which they parked (R344). -/
def State.freeTqSlot (s : State) (fi k : Nat) : State :=
  let f := s.field fi
  if !f.tqvalid.getLsbD k then s
  else
    let s1 := s.modField fi (fun f =>
      { f with tqvalid := f.tqvalid &&& ~~~(1#64 <<< k), tqwait := [], tqgo := f.tqgo ++ f.tqwait })
    let s2 := (s.ctxs.filter (fun e => fieldOf e.1 == fi && e.2.wait == .slot k)).foldl
      (fun s e => s.makeReady e.1) s1
    f.tqwait.foldl State.makeReady s2

/-! ## The return from a handler (R341) -/

/-- Whether a record is still the one of a context's trap: it has not been freed and given to
another. -/
def State.ownRecord (s : State) (t k : Nat) : Bool :=
  let f := s.field (fieldOf t)
  let w := ((look f.trec k []).getD 0 0).toNat
  f.tqvalid.getLsbD k && bits w 35 16 == coreOf t && bits w 15 12 == ctxIx t && bits w 53 52 == 3

/-- The effect of SRET at level S: the slot is freed, the level restored, the handler's loops
cleared; with LONE the instruction at TEPC executes alone and the resume PC follows. The slot that the trap
took frees nothing more once TQFREE has freed it (R353); another one, which the handler has written into
TSTAT, is taken as it is written. -/
def State.sret (s : State) (t : Nat) : State :=
  let x := s.ctx t
  let st := x.tstat.toNat
  let k := bits st 13 8
  let own := x.tslot != some k || s.ownRecord t k
  let rpc := if own then (look (s.field (fieldOf t)).trec k []).getD 2 0 else x.resume
  let s1 := if bit st 15 && own then s.freeTqSlot (fieldOf t) k else s
  s1.modCtx t (fun x => { x with
    sup := bit st 0, lone := if bit st 16 then some rpc else none, tslot := none,
    loops := x.loops.filter (fun e => !e.atS) })

/-! ## Moving the PC (R139, R187, R188) -/

/-- idx of R152: the instruction index of a PC. -/
def pcIdx (pc : Word) : Int := (pc.toNat / 128 : Nat) * 10 + (pc.toNat % 16 : Nat)

/-- pc_of of R152. -/
def pcOf (i : Int) : Word := w64i (i / 10 * 128 + i % 10)

/-- Sequential flow: slot s to s + 1, slot 9 to slot 0 of the next block. -/
def nextPc (pc : Word) : Word := pcOf (pcIdx pc + 1)

/-- The target of an instruction offset from a PC. -/
def relPc (pc : Word) (off : Int) : Word := pcOf (pcIdx pc + off)

/-- Loop-back at an instruction that is no taken branch (R187): the entries, top first, that count
at this level. -/
def loopBack (sup : Bool) (pc next : Word) : List LoopEnt → List LoopEnt × Word
  | [] => ([], next)
  | e :: t =>
    if e.atS != sup then
      let r := loopBack sup pc next t
      (e :: r.1, r.2)
    else if e.stop = pc then
      if e.rem ≤ 1 then loopBack sup pc next t else ({ e with rem := e.rem - 1 } :: t, e.start)
    else (e :: t, next)

/-- Whether a taken branch leaves an entry in place (R188). -/
def keepsLoop (sup : Bool) (pc target : Word) (e : LoopEnt) : Bool :=
  e.atS != sup ||
  (e.stop != pc &&
    !(decide (e.start ≤ pc) && decide (pc < e.stop) && !(decide (e.start ≤ target) && decide (target ≤ e.stop))))

/-- The loop stack and the PC after an instruction that completes. The stack is held bottom
first. -/
def Ctx.follow (x : Ctx) (ctl : Ctl) : List LoopEnt × Word :=
  match ctl with
  | .seq =>
    let r := loopBack x.sup x.pc (nextPc x.pc) x.loops.reverse
    (r.1.reverse, r.2)
  | .jump t => (x.loops.filter (keepsLoop x.sup x.pc t), t)
  | .goto t => (x.loops, t)
  | .stay => (x.loops, x.pc)

/-- Counts an instruction as issued: VINS, and the windows of the long-latency instructions
before it (R150, rule 1; R179). -/
def Ctx.countIssue (x : Ctx) : Ctx :=
  { x with vins := x.vins + 1, issued := x.issued + 1, stallAt := none,
           pend := x.pend.map (fun p => if p.idx < x.issued then { p with left := p.left - 1 } else p) }

/-- A context after an instruction that completes; one that re-executed alone goes on at the
resume PC, and no second loop-back is made (R189). DESIGN CHOICE, that MOVS to VINS counts itself: log 134. -/
def Ctx.retire (x : Ctx) (ctl : Ctl) : Ctx :=
  match ctl with
  | .stay => x
  | .goto p => { x.countIssue with pc := p }
  | _ =>
    match x.lone with
    | some r => { x.countIssue with pc := r, lone := none }
    | none =>
      let m := x.follow ctl
      { x.countIssue with loops := m.1, pc := m.2 }

/-! ## The issue of an instruction (R153) -/

/-- The value that an illegal-instruction or an operand fault reports: bits [95:32] of the word. -/
def faultValue (op : Op) (f : Fields) : Word := (op.word f).extractLsb' 32 64

/-- A fault as it is reported: causes 0x01 and 0x02 carry the word. -/
def fillTval (op : Op) (f : Fields) (e : Exc) : Exc :=
  if e.cause = cIllegal || e.cause = cOperand then { e with tval := faultValue op f } else e

/-- The mesh ports that an instruction's operand codes name; DST of the array instructions is a
rows field (R243). -/
def Op.portCodes (op : Op) (f : Fields) : List (BitVec 8) :=
  let rows := op == .mmaLocal || op == .mmaTile || op == .mclr || op == .mdrn
  ((if rows then [] else [f.dst]) ++ [f.sa, f.sb] ++ (if op.row.csrc f then [f.sc] else [])).filter isPort

/-- Whether the ports that an instruction names have neighbours (R10, R143). -/
def portsOk (s : State) (op : Op) (f : Fields) : Bool :=
  (Op.portCodes op f).all (fun c => s.portOk s.cur (c.toNat - 0x70))

/-- Whether the guard of an instruction holds (R141). -/
def Ctx.guard (x : Ctx) (f : Fields) : Bool :=
  x.p (f.guard.extractLsb' 0 3).toNat != f.guard.getLsbD 3

/-- The fields with which an instruction executes: alone, its LA is taken as 0 (R341). -/
def Ctx.aloneFields (x : Ctx) (f : Fields) : Fields := if x.lone.isSome then { f with la := 0 } else f

/-- The state after an instruction of the current thread: checks 3 to 5 of R153, the body, and
how the instruction ends. -/
def State.issue (s : State) (op : Op) (body : Fields → M Ctl) (f : Fields) : State :=
  let t := s.cur
  let x := s.ctx t
  if !(op.instr f).operandsOk || !portsOk s op f then
    s.takeExact t { cause := cOperand, tval := faultValue op f }
  else if !x.guard f then s.modCtx t (fun y => y.retire .seq)
  else
    match body (x.aloneFields f) s with
    | .ok ctl s1 => s1.modCtx t (fun y => y.retire ctl)
    | .error (.exc e) _ => s.takeExact t (fillTval op f e)
    | .error (.excKeep e) s1 =>
      -- what the failure consumed stays until the fault can be taken
      if x.pend.any (fun p => !p.done || x.lateDue p) then s.takeExact t e else s1.takeExact t (fillTval op f e)
    | .error (.excWalk va) _ =>
      (s.takeWalkFault t (s.asidOf t) va.toNat).takeExact t { cause := cTrans, tval := va }
    | .error .late _ =>
      (match x.pend.find? x.lateDue with
       | some p => s.takeLate t p
       | none => s)
    | .error .stall _ => s
    | .error .stallKeep s1 => s1
    | .error (.page p) _ =>
      s.modCore (coreOf t) (fun c => if c.wants.contains (t, p) then c else { c with wants := c.wants ++ [(t, p)] })
    | .error (.walk va) _ => s.askWalk t (s.asidOf t) va.toNat
    | .error (.tenure va) _ =>
      s.modCtx t (fun y => { y with stallAt := some ((y.stallAt.map Prod.fst).getD (s.vclk (fieldOf t)), va) })

/-- Waits until every long-latency instruction of the thread has completed, and lands them all. -/
def landAll : M Unit := do
  let x ← getCtx
  waitFor (x.pend.all (fun p => p.done))
  if x.pend.any x.lateDue then throw .late
  else act (fun s => s.landThese s.cur (fun _ => true))

/-- The meaning of a thread instruction: it always takes a next state. -/
def issue (op : Op) (body : Fields → M Ctl) (f : Fields) (s : State) : Host.Outcome State Fault Refusal :=
  .next (s.issue op body f)

end Sys2Proof.Machine
end

