-- ==== Sys2Proof/Machine/Scalar.lean ====
section
/-! DEFINITION. Scalar arithmetic, moves, compares, thread state registers, address registers
and predicates: OP 0x01 to 0x06 (R161 to R182). Each body acts on the issuing context and
answers how the PC moves. -/

namespace Sys2Proof.Machine

open Sys2Proof

/-- Enters a long-latency instruction whose value is already known: it lands at its landing
point (R150). -/
def pushPend (f : Fields) (r : Result) (fl : Flags) : M Unit :=
  modCtx (fun y => { y with pend := y.pend ++
    [{ pc := y.pc, idx := y.issued, left := f.la.toNat, done := true, result := r, flags := fl,
       fault := none, work := .none, since := none, sup := y.sup }] })

/-- `op.T d, a, b`: reads A and B, writes the result and raises its flags. -/
def scalar2 (f : Fields) (g : Nat → Nat → Nat → Nat × Flags) : M Ctl := do
  let x ← getCtx
  let a ← rd x f.tyN f.imm f.sa
  let b ← rd x f.tyN f.imm f.sb
  let r := g (x.mode f) a b
  bump [f.sa, f.sb, f.dst]
  wr x f.tyN f.imm f.dst r.1
  raiseFlags r.2
  pure .seq

/-- `op.T d, a`. -/
def scalar1 (f : Fields) (g : Nat → Nat → Nat × Flags) : M Ctl := do
  let x ← getCtx
  let a ← rd x f.tyN f.imm f.sa
  let r := g (x.mode f) a
  bump [f.sa, f.dst]
  wr x f.tyN f.imm f.dst r.1
  raiseFlags r.2
  pure .seq

/-- `op.T d, a, b`, long-latency: destination resolved at issue. -/
def scalarLong2 (f : Fields) (g : Nat → Nat → Nat → Nat × Flags) : M Ctl := do
  let x ← getCtx
  let a ← rd x f.tyN f.imm f.sa
  let b ← rd x f.tyN f.imm f.sb
  let r := g (x.mode f) a b
  bump [f.sa, f.sb]
  pushPend f (.scalar (x.slotOf f.dst) (extendTy f.tyN r.1)) r.2
  pure .seq

/-! ## Integer operations (R164) -/

/-- Quotient rounded towards zero. -/
def tdiv (a b : Int) : Int := a.tdiv b

def intAdd (t : Nat) (sat : Bool) (a b : Nat) : Nat := narrowInt t sat (intVal t a + intVal t b)
def intSub (t : Nat) (sat : Bool) (a b : Nat) : Nat := narrowInt t sat (intVal t a - intVal t b)
def intMul (t : Nat) (sat : Bool) (a b : Nat) : Nat := narrowInt t sat (intVal t a * intVal t b)
def intMulh (t : Nat) (a b : Nat) : Nat :=
  narrowInt t false ((intVal t a * intVal t b) / ((2 ^ tyWidth t : Nat) : Int))
def intDiv (t : Nat) (a b : Nat) : Nat :=
  narrowInt t false (if intVal t b = 0 then -1 else tdiv (intVal t a) (intVal t b))
def intRem (t : Nat) (a b : Nat) : Nat :=
  narrowInt t false (if intVal t b = 0 then intVal t a
    else intVal t a - intVal t b * tdiv (intVal t a) (intVal t b))
def intMinOp (t : Nat) (a b : Nat) : Nat := narrowInt t false (min (intVal t a) (intVal t b))
def intMaxOp (t : Nat) (a b : Nat) : Nat := narrowInt t false (max (intVal t a) (intVal t b))

def zextN (t v : Nat) : Nat := v % 2 ^ tyWidth t

def intShl (t : Nat) (sat : Bool) (a b : Nat) : Nat :=
  narrowInt t sat (intVal t a * ((2 ^ (b % 256) : Nat) : Int))
def intShr (t : Nat) (a b : Nat) : Nat := zextN t a / 2 ^ (b % 256)
def intSha (t : Nat) (a b : Nat) : Nat :=
  narrowInt t false (sextI a (tyWidth t) / ((2 ^ (b % 256) : Nat) : Int))
def intRol (t : Nat) (a b : Nat) : Nat :=
  let n := tyWidth t
  let s := b % 256 % n
  (zextN t a * 2 ^ s + zextN t a / 2 ^ (n - s)) % 2 ^ n

/-! ## Floating-point remainder, minimum and maximum (R165) -/

/-- The IEEE 754 remainder: a − b × n, n the integer nearest a / b, ties to even. -/
def frem (t : Fmt) (a b : Nat) : Nat × Flags :=
  let x := unpack t a
  let y := unpack t b
  match firstNan t [x, y] with
  | some n => (n, snanFlag [x, y])
  | none =>
    match x, y with
    | .inf _, _ => (qnan t, fNV)
    | .fin .., .inf _ => (a, 0)
    | .fin s1 m1 e1, .fin _ m2 e2 =>
      if m2 = 0 then (qnan t, fNV)
      else
        let e := min e1 e2
        let p : Int := (m1 * 2 ^ (e1 - e).toNat : Nat)
        let q : Int := (m2 * 2 ^ (e2 - e).toNat : Nat)
        let n0 := p / q
        let r0 := p - q * n0
        let n := if 2 * r0 > q || (2 * r0 == q && n0 % 2 == 1) then n0 + 1 else n0
        let r := p - q * n
        if r = 0 then (packZero t s1, 0)
        else roundTo t 0 (s1 != decide (r < 0)) r.natAbs e
    | _, _ => (qnan t, fNV)

/-- Order of MIN and MAX: −0 below +0. -/
def minLess (a b : FV) : Bool :=
  let c := cmpFv a b
  decide (c < 0) || (decide (c = 0) && a.sign && !b.sign)

/-- MIN and MAX of floating-point values: a single NaN gives the other operand. -/
def fminmax (t : Fmt) (mx : Bool) (a b : Nat) : Nat × Flags :=
  let x := unpack t a
  let y := unpack t b
  let fl := snanFlag [x, y]
  match x.isNan, y.isNan with
  | true, true => ((firstNan t [x, y]).getD 0, fl)
  | true, false => (b, fl)
  | false, true => (a, fl)
  | false, false => (if mx then (if minLess x y then b else a) else (if minLess y x then b else a), fl)

/-! ## The functions of the mnemonics, by TYPE; reused lane by lane -/

/-- An integer function under an integer TYPE, a floating one otherwise. -/
def byType (t : Nat) (i : Nat) (fl : Nat × Flags) : Nat × Flags := if tyInt t then (i, 0) else fl

def fnAdd (t : Nat) (sat : Bool) (rm a b : Nat) : Nat × Flags :=
  byType t (intAdd t sat a b) (fadd (fmtOf t) rm a b)
def fnSub (t : Nat) (sat : Bool) (rm a b : Nat) : Nat × Flags :=
  byType t (intSub t sat a b) (fsub (fmtOf t) rm a b)
def fnMul (t : Nat) (sat : Bool) (rm a b : Nat) : Nat × Flags :=
  byType t (intMul t sat a b) (fmul (fmtOf t) rm a b)
def fnMin (t a b : Nat) : Nat × Flags := byType t (intMinOp t a b) (fminmax (fmtOf t) false a b)
def fnMax (t a b : Nat) : Nat × Flags := byType t (intMaxOp t a b) (fminmax (fmtOf t) true a b)

/-! ## OP 0x01 -/

def bodyAdd (f : Fields) : M Ctl := scalar2 f (fnAdd f.tyN f.sat)
def bodySub (f : Fields) : M Ctl := scalar2 f (fnSub f.tyN f.sat)
def bodyMul (f : Fields) : M Ctl := scalar2 f (fnMul f.tyN f.sat)
def bodyMulh (f : Fields) : M Ctl := scalar2 f (fun _ a b => (intMulh f.tyN a b, 0))
def bodyDiv (f : Fields) : M Ctl := scalarLong2 f (fun rm a b =>
  byType f.tyN (intDiv f.tyN a b) (fdiv (fmtOf f.tyN) rm a b))
def bodyRem (f : Fields) : M Ctl := scalarLong2 f (fun _ a b =>
  byType f.tyN (intRem f.tyN a b) (frem (fmtOf f.tyN) a b))
def bodyMin (f : Fields) : M Ctl := scalar2 f (fun _ a b => fnMin f.tyN a b)
def bodyMax (f : Fields) : M Ctl := scalar2 f (fun _ a b => fnMax f.tyN a b)
def bodyAnd (f : Fields) : M Ctl := scalar2 f (fun _ a b => (a &&& b, 0))
def bodyOr (f : Fields) : M Ctl := scalar2 f (fun _ a b => (a ||| b, 0))
def bodyXor (f : Fields) : M Ctl := scalar2 f (fun _ a b => (a ^^^ b, 0))
/-- A AND NOT B. -/
def bodyAndn (f : Fields) : M Ctl := scalar2 f (fun _ a b => (a &&& (2 ^ tyWidth f.tyN - 1 - b), 0))
/-- A OR NOT B. -/
def bodyOrn (f : Fields) : M Ctl := scalar2 f (fun _ a b => (a ||| (2 ^ tyWidth f.tyN - 1 - b), 0))
def bodyShl (f : Fields) : M Ctl := scalar2 f (fun _ a b => (intShl f.tyN f.sat a b, 0))
def bodyShr (f : Fields) : M Ctl := scalar2 f (fun _ a b => (intShr f.tyN a b, 0))
def bodySha (f : Fields) : M Ctl := scalar2 f (fun _ a b => (intSha f.tyN a b, 0))
def bodyRol (f : Fields) : M Ctl := scalar2 f (fun _ a b => (intRol f.tyN a b, 0))

/-! ## OP 0x02 (R166 to R168) -/

/-- The bits of an N-bit value, lowest first. -/
def bitList (n v : Nat) : List Bool := (List.range n).map (bit v)

/-- Leading zero bits of N. -/
def clz (n v : Nat) : Nat := n - bitLen (v % 2 ^ n)
/-- Trailing zero bits; N for 0. -/
def ctz (n v : Nat) : Nat := ((bitList n v).findIdx? id).getD n
/-- One bits. -/
def popc (n v : Nat) : Nat := (bitList n v).count true
/-- The bits in reverse order. -/
def brev (n v : Nat) : Nat := ((List.range n).map (fun i => if bit v i then 2 ^ (n - 1 - i) else 0)).sum

/-- The sign bit of a floating-point pattern inverted or cleared; NaNs too (R166). -/
def fnNeg (t : Nat) (sat : Bool) (a : Nat) : Nat × Flags :=
  byType t (narrowInt t sat (-(intVal t a))) (fneg (fmtOf t) a, 0)
def fnAbs (t : Nat) (sat : Bool) (a : Nat) : Nat × Flags :=
  byType t (narrowInt t sat (intVal t a).natAbs) (a % 2 ^ ((fmtOf t).w - 1), 0)

def bodyNeg (f : Fields) : M Ctl := scalar1 f (fun _ a => fnNeg f.tyN f.sat a)
def bodyAbs (f : Fields) : M Ctl := scalar1 f (fun _ a => fnAbs f.tyN f.sat a)
def bodyNot (f : Fields) : M Ctl := scalar1 f (fun _ a => (2 ^ tyWidth f.tyN - 1 - a, 0))
def bodyClz (f : Fields) : M Ctl := scalar1 f (fun _ a => (clz (tyWidth f.tyN) a, 0))
def bodyCtz (f : Fields) : M Ctl := scalar1 f (fun _ a => (ctz (tyWidth f.tyN) a, 0))
def bodyPopc (f : Fields) : M Ctl := scalar1 f (fun _ a => (popc (tyWidth f.tyN) a, 0))
def bodyBrev (f : Fields) : M Ctl := scalar1 f (fun _ a => (brev (tyWidth f.tyN) a, 0))

/-- The clipped field of a control word (R167): pos, L. -/
def fieldCtl (n c : Nat) : Nat × Nat :=
  let pos := bits c 5 0
  let len := bits c 14 8
  (pos, Nat.min len (n - pos))

/-- BFX (R167). -/
def bfxVal (t a c : Nat) : Nat :=
  let (pos, l) := fieldCtl (tyWidth t) c
  let fv := zextN t a / 2 ^ pos % 2 ^ l
  if l = 0 then 0 else if tySigned t then narrowInt t false (sextI fv l) else fv

/-- BFI (R167). -/
def bfiVal (t old a c : Nat) : Nat :=
  let (pos, l) := fieldCtl (tyWidth t) c
  zextN t old - zextN t old / 2 ^ pos % 2 ^ l * 2 ^ pos + a % 2 ^ l * 2 ^ pos

def bodyBfx (f : Fields) : M Ctl := do
  let x ← getCtx
  let a ← rd x f.tyN f.imm f.sa
  let c ← rd64 x f.imm f.sb
  bump [f.sa, f.sb, f.dst]
  wr x f.tyN f.imm f.dst (bfxVal f.tyN a c.toNat)
  pure .seq

def bodyBfi (f : Fields) : M Ctl := do
  let x ← getCtx
  let a ← rd x f.tyN f.imm f.sa
  let c ← rd64 x f.imm f.sb
  let old ← rd x f.tyN f.imm f.dst
  bump [f.sa, f.sb, f.dst]
  wr x f.tyN f.imm f.dst (bfiVal f.tyN old a c.toNat)
  pure .seq

/-- SEXT and ZEXT from bit n (R168). -/
def extVal (t : Nat) (signed : Bool) (a n : Nat) : Nat :=
  let m := n % 256
  if m = 0 then 0
  else if m ≥ tyWidth t then a
  else if signed then narrowInt t false (sextI a m) else a % 2 ^ m

def bodySext (f : Fields) : M Ctl := scalar2 f (fun _ a n => (extVal f.tyN true a n, 0))
def bodyZext (f : Fields) : M Ctl := scalar2 f (fun _ a n => (extVal f.tyN false a n, 0))

/-! ## OP 0x03 (R169 to R172) -/

def bodyMov (f : Fields) : M Ctl := scalar1 f (fun _ a => (a, 0))

/-- The register that MOVI and MOVH name, as a value. -/
def Ctx.xa (x : Ctx) (c : BitVec 8) : Word :=
  if isX c then x.x c.toNat else x.a (c.toNat - 0xA0)

def bodyMovi (f : Fields) : M Ctl := do
  let x ← getCtx
  modCtx (fun y => y.setSlot (x.slotOf f.dst) (((x.xa f.dst).extractLsb' 32 32) ++ f.imm))
  pure .seq

def bodyMovh (f : Fields) : M Ctl := do
  let x ← getCtx
  modCtx (fun y => y.setSlot (x.slotOf f.dst) (f.imm ++ (x.xa f.dst).extractLsb' 0 32))
  pure .seq

def bodySel (f : Fields) : M Ctl := do
  let x ← getCtx
  let a ← rd x f.tyN f.imm f.sa
  let b ← rd x f.tyN f.imm f.sb
  let c ← rd64 x f.imm f.sc
  bump [f.sa, f.sb, f.sc, f.dst]
  wr x f.tyN f.imm f.dst (if c ≠ 0 then a else b)
  pure .seq

/-- The truth value of a condition code of R172 and its flags. -/
def cmpVal (t cc a b : Nat) : Bool × Flags :=
  if tyInt t then
    let x := intVal t a
    let y := intVal t b
    (match cc with
      | 0x10 => decide (x = y) | 0x11 => decide (x ≠ y) | 0x12 => decide (x < y)
      | 0x13 => decide (x ≤ y) | 0x14 => decide (x > y) | _ => decide (x ≥ y), 0)
  else
    let x := unpack (fmtOf t) a
    let y := unpack (fmtOf t) b
    let nan := x.isNan || y.isNan
    let c := cmpFv x y
    let s := snanFlag [x, y]
    let q : Flags := if nan then fNV else 0
    match cc with
    | 0x10 => (!nan && decide (c = 0), s)
    | 0x11 => (nan || decide (c ≠ 0), s)
    | 0x12 => (!nan && decide (c < 0), q)
    | 0x13 => (!nan && decide (c ≤ 0), q)
    | 0x14 => (!nan && decide (c > 0), q)
    | 0x15 => (!nan && decide (c ≥ 0), q)
    | 0x16 => (!nan, s)
    | _ => (nan, s)

/-- Reads A and B, writes a truth value (R172). -/
def truth2 (f : Fields) (g : Nat → Nat → Bool × Flags) : M Ctl := do
  let x ← getCtx
  let a ← rd x f.tyN f.imm f.sa
  let b ← rd x f.tyN f.imm f.sb
  let r := g a b
  bump [f.sa, f.sb]
  modCtx (fun y => y.setSlot (x.slotOf f.dst) (b2w r.1))
  raiseFlags r.2
  pure .seq

def bodyCmp (f : Fields) : M Ctl := truth2 f (cmpVal f.tyN f.sub.toNat)
def bodyTest (f : Fields) : M Ctl :=
  truth2 f (fun a b => ((a &&& b != 0) == (f.sub == 0x18#8), 0))

/-! ## OP 0x04 (R173 to R180) -/

def bodyFma (f : Fields) : M Ctl := do
  let x ← getCtx
  let a ← rd x f.tyN f.imm f.sa
  let b ← rd x f.tyN f.imm f.sb
  let c ← rd x f.tyN f.imm f.sc
  let r := ffma (fmtOf f.tyN) (x.mode f) a b c
  bump [f.sa, f.sb, f.sc, f.dst]
  wr x f.tyN f.imm f.dst r.1
  raiseFlags r.2
  pure .seq

def bodySqrt (f : Fields) : M Ctl := do
  let x ← getCtx
  let a ← rd x f.tyN f.imm f.sa
  let r := fsqrt (fmtOf f.tyN) (x.mode f) a
  bump [f.sa]
  pushPend f (.scalar (x.slotOf f.dst) (extendTy f.tyN r.1)) r.2
  pure .seq

/-- CVT from type S in SB (R175). -/
def bodyCvt (f : Fields) : M Ctl := do
  let x ← getCtx
  let a ← rd x f.sb.toNat f.imm f.sa
  let r := convert f.sb.toNat f.tyN f.sat (x.mode f) a
  bump [f.sa, f.dst]
  wr x f.tyN f.imm f.dst r.1
  raiseFlags r.2
  pure .seq

def bodyFclass (f : Fields) : M Ctl := do
  let x ← getCtx
  let a ← rd x f.tyN f.imm f.sa
  bump [f.sa, f.dst]
  wr64 x f.imm f.dst (w64 (2 ^ classOf (fmtOf f.tyN) a))
  pure .seq

/-- round_int in the same format (R177). -/
def rndi (t : Fmt) (rm : Nat) (a : Nat) : Nat × Flags :=
  match unpack t a with
  | .nan s q p => (packNan t s p, if q then 0 else fNV)
  | .inf _ => (a, 0)
  | .fin s m e =>
    let (k, inexact) := roundAt rm s m e 0
    ((roundTo t 1 s k 0).1, if inexact then fNX else 0)

def bodyRndi (f : Fields) : M Ctl := scalar1 f (fun rm a => rndi (fmtOf f.tyN) rm a)

/-- A thread state register as MOVS reads it (R179). -/
def Ctx.movs (x : Ctx) (n : Nat) : Word :=
  if n = 0x000 then x.fpst
  else if n = 0x001 then (x.preds ||| 1#8).zeroExtend 64
  else if 0x010 ≤ n ∧ n ≤ 0x015 then (look x.bfmt (n - 0x010) 0).zeroExtend 64
  else if n = 0x020 then x.mhnd
  else if n = 0x030 then w64 x.wb
  else if n = 0x040 then x.vcnf
  else if n = 0x041 then x.vcyc
  else if n = 0x042 then x.vins
  else x.vlaw

/-- Whether a MOVS write takes a value (R47, R76, R178, R247). -/
def movsOk (n : Nat) (v : Word) : Bool :=
  if n = 0x000 then fpstOk v.toNat
  else if 0x010 ≤ n ∧ n ≤ 0x015 then bfmtLegal (v.toNat % 128)
  else if n = 0x020 then v.extractLsb' 4 3 == 0#3 && v.extractLsb' 0 4 ≤ 9#4
  else true

/-- The write. DESIGN CHOICE, that FPST leaves FLAGOR as it is: log 127. -/
def Ctx.setMovs (x : Ctx) (n : Nat) (v : Word) : Ctx :=
  if n = 0x000 then { x with fpst := v &&& fpstMask }
  else if n = 0x001 then { x with preds := v.truncate 8 ||| 1#8 }
  else if 0x010 ≤ n ∧ n ≤ 0x015 then { x with bfmt := put x.bfmt (n - 0x010) ((v.truncate 8) &&& 0x7F#8) }
  else if n = 0x020 then { x with mhnd := v }
  else if n = 0x040 then { x with vcnf := v }
  else if n = 0x041 then { x with vcyc := v }
  else if n = 0x042 then { x with vins := v }
  else { x with vlaw := v }

def bodyMovsRead (f : Fields) : M Ctl := do
  let x ← getCtx
  bump [f.dst]
  wr64 x 0 f.dst (x.movs f.imm.toNat)
  pure .seq

def bodyMovsWrite (f : Fields) : M Ctl := do
  let x ← getCtx
  let v ← rd64 x 0 f.sa
  needOp (movsOk f.imm.toNat v)
  bump [f.sa]
  modCtx (fun y => y.setMovs f.imm.toNat v)
  pure .seq

/-! ## OP 0x05 (R181) -/

/-- The number of the address register in DST. -/
def dstA (f : Fields) : Nat := f.dst.toNat - 0xA0

def bodyAmov (f : Fields) : M Ctl := do
  let x ← getCtx
  let a ← rd64 x f.imm f.sa
  let b ← rd64 x f.imm f.sb
  bump [f.sa, f.sb]
  modCtx (fun y => (y.setA (dstA f) a).setD (dstA f) (b.truncate 32))
  pure .seq

def bodyAstr (f : Fields) : M Ctl := do
  let x ← getCtx
  let a ← rd64 x f.imm f.sa
  bump [f.sa]
  modCtx (fun y => y.setD (dstA f) ((a * w64 (tyBytes f.tyN)).truncate 32))
  pure .seq

def bodyAadv (f : Fields) : M Ctl := do
  let x ← getCtx
  let a ← rd64 x f.imm f.sa
  bump [f.sa]
  modCtx (fun y => y.setA (dstA f) (y.a (dstA f) + a * (x.d (dstA f)).signExtend 64))
  pure .seq

def bodyLea (f : Fields) : M Ctl := do
  let x ← getCtx
  let a ← rd64 x f.imm f.sa
  let b ← rd64 x f.imm f.sb
  bump [f.sa, f.sb, f.dst]
  wr64 x f.imm f.dst (a + b * w64 (tyBytes f.tyN))
  pure .seq

/-! ## OP 0x06 (R182) -/

def predOf (x : Ctx) (c : BitVec 8) : Bool := x.p (c.toNat - 0xB0)

/-- A predicate operation. -/
def pred2 (f : Fields) (g : Bool → Bool → Bool) : M Ctl := do
  let x ← getCtx
  modCtx (fun y => y.setP (f.dst.toNat - 0xB0) (g (predOf x f.sa) (predOf x f.sb)))
  pure .seq

def bodyPand (f : Fields) : M Ctl := pred2 f (fun a b => a && b)
def bodyPor (f : Fields) : M Ctl := pred2 f (fun a b => a || b)
def bodyPxor (f : Fields) : M Ctl := pred2 f (fun a b => a != b)
def bodyPnot (f : Fields) : M Ctl := pred2 f (fun a _ => !a)

def bodyPmov (f : Fields) : M Ctl := do
  let x ← getCtx
  let a ← rd64 x f.imm f.sa
  bump [f.sa]
  modCtx (fun y => y.setP (f.dst.toNat - 0xB0) (a != 0))
  pure .seq

/-! ## The meanings -/

def execAdd (f : Fields) (s : State) : Host.Outcome State Fault Refusal := issue .add bodyAdd f s
def execSub (f : Fields) (s : State) : Host.Outcome State Fault Refusal := issue .sub bodySub f s
def execMul (f : Fields) (s : State) : Host.Outcome State Fault Refusal := issue .mul bodyMul f s
def execMulh (f : Fields) (s : State) : Host.Outcome State Fault Refusal := issue .mulh bodyMulh f s
def execDiv (f : Fields) (s : State) : Host.Outcome State Fault Refusal := issue .div bodyDiv f s
def execRem (f : Fields) (s : State) : Host.Outcome State Fault Refusal := issue .rem bodyRem f s
def execMin (f : Fields) (s : State) : Host.Outcome State Fault Refusal := issue .min bodyMin f s
def execMax (f : Fields) (s : State) : Host.Outcome State Fault Refusal := issue .max bodyMax f s
def execAnd (f : Fields) (s : State) : Host.Outcome State Fault Refusal := issue .and bodyAnd f s
def execOr (f : Fields) (s : State) : Host.Outcome State Fault Refusal := issue .or bodyOr f s
def execXor (f : Fields) (s : State) : Host.Outcome State Fault Refusal := issue .xor bodyXor f s
def execAndn (f : Fields) (s : State) : Host.Outcome State Fault Refusal := issue .andn bodyAndn f s
def execOrn (f : Fields) (s : State) : Host.Outcome State Fault Refusal := issue .orn bodyOrn f s
def execShl (f : Fields) (s : State) : Host.Outcome State Fault Refusal := issue .shl bodyShl f s
def execShr (f : Fields) (s : State) : Host.Outcome State Fault Refusal := issue .shr bodyShr f s
def execSha (f : Fields) (s : State) : Host.Outcome State Fault Refusal := issue .sha bodySha f s
def execRol (f : Fields) (s : State) : Host.Outcome State Fault Refusal := issue .rol bodyRol f s
def execNeg (f : Fields) (s : State) : Host.Outcome State Fault Refusal := issue .neg bodyNeg f s
def execAbs (f : Fields) (s : State) : Host.Outcome State Fault Refusal := issue .abs bodyAbs f s
def execNot (f : Fields) (s : State) : Host.Outcome State Fault Refusal := issue .not bodyNot f s
def execClz (f : Fields) (s : State) : Host.Outcome State Fault Refusal := issue .clz bodyClz f s
def execCtz (f : Fields) (s : State) : Host.Outcome State Fault Refusal := issue .ctz bodyCtz f s
def execPopc (f : Fields) (s : State) : Host.Outcome State Fault Refusal := issue .popc bodyPopc f s
def execBrev (f : Fields) (s : State) : Host.Outcome State Fault Refusal := issue .brev bodyBrev f s
def execBfx (f : Fields) (s : State) : Host.Outcome State Fault Refusal := issue .bfx bodyBfx f s
def execBfi (f : Fields) (s : State) : Host.Outcome State Fault Refusal := issue .bfi bodyBfi f s
def execSext (f : Fields) (s : State) : Host.Outcome State Fault Refusal := issue .sext bodySext f s
def execZext (f : Fields) (s : State) : Host.Outcome State Fault Refusal := issue .zext bodyZext f s
def execMov (f : Fields) (s : State) : Host.Outcome State Fault Refusal := issue .mov bodyMov f s
def execMovi (f : Fields) (s : State) : Host.Outcome State Fault Refusal := issue .movi bodyMovi f s
def execMovh (f : Fields) (s : State) : Host.Outcome State Fault Refusal := issue .movh bodyMovh f s
def execSel (f : Fields) (s : State) : Host.Outcome State Fault Refusal := issue .sel bodySel f s
def execCmp (f : Fields) (s : State) : Host.Outcome State Fault Refusal := issue .cmp bodyCmp f s
def execTest (f : Fields) (s : State) : Host.Outcome State Fault Refusal := issue .test bodyTest f s
def execFma (f : Fields) (s : State) : Host.Outcome State Fault Refusal := issue .fma bodyFma f s
def execSqrt (f : Fields) (s : State) : Host.Outcome State Fault Refusal := issue .sqrt bodySqrt f s
def execCvt (f : Fields) (s : State) : Host.Outcome State Fault Refusal := issue .cvt bodyCvt f s
def execFclass (f : Fields) (s : State) : Host.Outcome State Fault Refusal := issue .fclass bodyFclass f s
def execRndi (f : Fields) (s : State) : Host.Outcome State Fault Refusal := issue .rndi bodyRndi f s
def execMovsRead (f : Fields) (s : State) : Host.Outcome State Fault Refusal := issue .movsRead bodyMovsRead f s
def execMovsWrite (f : Fields) (s : State) : Host.Outcome State Fault Refusal := issue .movsWrite bodyMovsWrite f s
def execAmov (f : Fields) (s : State) : Host.Outcome State Fault Refusal := issue .amov bodyAmov f s
def execAstr (f : Fields) (s : State) : Host.Outcome State Fault Refusal := issue .astr bodyAstr f s
def execAadv (f : Fields) (s : State) : Host.Outcome State Fault Refusal := issue .aadv bodyAadv f s
def execLea (f : Fields) (s : State) : Host.Outcome State Fault Refusal := issue .lea bodyLea f s
def execPand (f : Fields) (s : State) : Host.Outcome State Fault Refusal := issue .pand bodyPand f s
def execPor (f : Fields) (s : State) : Host.Outcome State Fault Refusal := issue .por bodyPor f s
def execPxor (f : Fields) (s : State) : Host.Outcome State Fault Refusal := issue .pxor bodyPxor f s
def execPnot (f : Fields) (s : State) : Host.Outcome State Fault Refusal := issue .pnot bodyPnot f s
def execPmov (f : Fields) (s : State) : Host.Outcome State Fault Refusal := issue .pmov bodyPmov f s

end Sys2Proof.Machine
end

