-- ==== Sys2Proof/Machine/Vector.lean ====
section
/-! DEFINITION. Vector instructions: OP 0x10 to 0x15 (R191 to R213). -/

namespace Sys2Proof.Machine

open Sys2Proof

/-! ## Lanes (R191 to R193) -/

/-- Lanes of a width. -/
def lanesOf (n : Nat) : Nat := 512 / n

/-- Lane i of a 512-bit value. -/
def laneOf (n v i : Nat) : Nat := v / 2 ^ (n * i) % 2 ^ n

/-- The value whose lanes are listed, lane 0 first. -/
def joinLanes (n : Nat) : List Nat → Nat
  | [] => 0
  | x :: t => x % 2 ^ n + 2 ^ n * joinLanes n t

/-- Whether a lane is enabled by the MASK of an instruction. -/
def Ctx.laneOn (x : Ctx) (f : Fields) (i : Nat) : Bool := (x.e f.mask).getLsbD i

/-- Reads a vector source VV: the register, one port entry, or 64 local bytes (R192). -/
def rdV (x : Ctx) (imm : BitVec 32) (c : BitVec 8) : M Nat := do
  if isPort c then
    let v ← portRead (c.toNat - 0x70)
    pure v.toNat
  else if isLocal c then localRead (x.localAddr imm c) 64
  else pure (x.v (c.toNat - 0x40)).toNat

/-- Reads an operand from VV or VB as the lanes of a TYPE: a broadcast value stands in every
lane. -/
def rdLanes (x : Ctx) (t : Nat) (imm : BitVec 32) (c : BitVec 8) : M (Nat → Nat) := do
  if vv c then
    let v ← rdV x imm c
    pure (laneOf (tyWidth t) v)
  else
    let b ← rd x t imm c
    pure (fun _ => b)

/-- Writes lanes of n bits to a local destination: only the bytes of enabled lanes. -/
def State.storeLanes (s : State) (core off n : Nat) (on : Nat → Bool) (res : Nat → Nat) : State :=
  (List.range 8).foldl (fun s w =>
    let per := 64 / n
    let mine := (List.range per).map (fun j => w * per + j)
    if mine.all on then s.writeVault core (off + 8 * w) 8 (joinLanes n (mine.map res))
    else mine.foldl (fun s i => if on i then s.writeVault core (off + n / 8 * i) (n / 8) (res i) else s) s) s

/-- A register's value after a write of its enabled lanes. -/
def mergeLanes (n old : Nat) (on : Nat → Bool) (res : Nat → Nat) : Vec :=
  BitVec.ofNat 512 (joinLanes n ((List.range (lanesOf n)).map (fun i =>
    if on i then res i else laneOf n old i)))

/-- Writes a vector destination VW (R193). DESIGN CHOICE, a port takes zeros in the lanes not written: log 132. -/
def wrV (x : Ctx) (imm : BitVec 32) (c : BitVec 8) (n : Nat) (on : Nat → Bool) (res : Nat → Nat) : M Unit := do
  if isPort c then
    portWrite (c.toNat - 0x70) (mergeLanes n 0 on res)
  else if isLocal c then
    let l ← localLoc (x.localAddr imm c) 64 true
    act (fun s => s.storeLanes (coreOf s.cur) (l % 65536) n on res)
  else
    let k := c.toNat - 0x40
    modCtx (fun y => y.setV k (mergeLanes n (x.v k).toNat on res))

/-- The flags of the enabled lanes, ORed. -/
def laneFlags (l : Nat) (on : Nat → Bool) (g : Nat → Nat × Flags) : Flags :=
  (List.range l).foldl (fun fl i => if on i then fl ||| (g i).2 else fl) 0

/-- Ends an element-wise instruction: post-increments, the result, its flags. -/
def vecEnd (x : Ctx) (f : Fields) (n : Nat) (codes : List (BitVec 8)) (on : Nat → Bool)
    (g : Nat → Nat × Flags) : M Ctl := do
  bump codes
  wrV x f.imm f.dst n on (fun i => (g i).1)
  raiseFlags (laneFlags (lanesOf n) on g)
  pure .seq

/-- Ends a long-latency vector instruction: the whole result lands at once (R213). -/
def vecLong (x : Ctx) (f : Fields) (codes : List (BitVec 8)) (g : Nat → Nat × Flags) : M Ctl := do
  let n := tyWidth f.tyN
  let k := f.dst.toNat - 0x40
  bump codes
  pushPend f (.vector k (BitVec.allOnes 512) (mergeLanes n (x.v k).toNat (x.laneOn f) (fun i => (g i).1)))
    (laneFlags (lanesOf n) (x.laneOn f) g)
  pure .seq

/-- `vop.T vd, va, vb`. -/
def vec2 (f : Fields) (g : Nat → Nat → Nat → Nat × Flags) : M Ctl := do
  let x ← getCtx
  let a ← rdV x f.imm f.sa
  let b ← rdLanes x f.tyN f.imm f.sb
  let n := tyWidth f.tyN
  vecEnd x f n [f.sa, f.sb, f.dst] (x.laneOn f) (fun i => g (x.mode f) (laneOf n a i) (b i))

/-- `vop.T vd, va`. -/
def vec1 (f : Fields) (g : Nat → Nat → Nat × Flags) : M Ctl := do
  let x ← getCtx
  let a ← rdV x f.imm f.sa
  let n := tyWidth f.tyN
  vecEnd x f n [f.sa, f.dst] (x.laneOn f) (fun i => g (x.mode f) (laneOf n a i))

/-! ## OP 0x10: element-wise arithmetic (R195) -/

def bodyVadd (f : Fields) : M Ctl := vec2 f (fnAdd f.tyN f.sat)
def bodyVsub (f : Fields) : M Ctl := vec2 f (fnSub f.tyN f.sat)
def bodyVmul (f : Fields) : M Ctl := vec2 f (fnMul f.tyN f.sat)
def bodyVmin (f : Fields) : M Ctl := vec2 f (fun _ a b => fnMin f.tyN a b)
def bodyVmax (f : Fields) : M Ctl := vec2 f (fun _ a b => fnMax f.tyN a b)
def bodyVand (f : Fields) : M Ctl := vec2 f (fun _ a b => (a &&& b, 0))
def bodyVor (f : Fields) : M Ctl := vec2 f (fun _ a b => (a ||| b, 0))
def bodyVxor (f : Fields) : M Ctl := vec2 f (fun _ a b => (a ^^^ b, 0))
def bodyVshl (f : Fields) : M Ctl := vec2 f (fun _ a b => (intShl f.tyN f.sat a b, 0))
def bodyVshr (f : Fields) : M Ctl := vec2 f (fun _ a b => (intShr f.tyN a b, 0))
def bodyVsha (f : Fields) : M Ctl := vec2 f (fun _ a b => (intSha f.tyN a b, 0))

def bodyVfma (f : Fields) : M Ctl := do
  let x ← getCtx
  let a ← rdV x f.imm f.sa
  let b ← rdLanes x f.tyN f.imm f.sb
  let c ← rdLanes x f.tyN f.imm f.sc
  let n := tyWidth f.tyN
  vecEnd x f n [f.sa, f.sb, f.sc, f.dst] (x.laneOn f)
    (fun i => ffma (fmtOf f.tyN) (x.mode f) (laneOf n a i) (b i) (c i))

def bodyVdiv (f : Fields) : M Ctl := do
  let x ← getCtx
  let a ← rdV x f.imm f.sa
  let b ← rdLanes x f.tyN f.imm f.sb
  vecLong x f [f.sa, f.sb] (fun i => fdiv (fmtOf f.tyN) (x.mode f) (laneOf (tyWidth f.tyN) a i) (b i))

/-! ## Dot products (R196) -/

/-- The class of a product: 0 finite, 1 infinite, 2 invalid, 3 not a number. -/
def prodKind (a b : FV) : Nat :=
  if a.isNan || b.isNan then 3
  else if (a.isZero && b.isInf) || (a.isInf && b.isZero) then 2
  else if a.isInf || b.isInf then 1 else 0

/-- The significand and exponent of a finite value. -/
def FV.mant : FV → Nat | .fin _ m _ => m | _ => 0
def FV.expo : FV → Int | .fin _ _ e => e | _ => 0

/-- A NaN of a format as a quiet binary32 NaN (R50). -/
def nanTo32 (t : Fmt) (v : Nat) : Nat := (floatToFloat t (fmtOf 10) 0 v).1

/-- c + a0 × b0 + a1 × b1 with one rounding to binary32. -/
def fdot (t : Fmt) (rm : Nat) (c a0 b0 a1 b1 : Nat) : Nat × Flags :=
  let r := fmtOf 10
  let x0 := unpack t a0
  let y0 := unpack t b0
  let x1 := unpack t a1
  let y1 := unpack t b1
  let z := unpack r c
  let s0 := x0.sign != y0.sign
  let s1 := x1.sign != y1.sign
  let infs := (if prodKind x0 y0 = 1 then [s0] else []) ++ (if prodKind x1 y1 = 1 then [s1] else []) ++
    (if z.isInf then [z.sign] else [])
  if prodKind x0 y0 = 2 || prodKind x1 y1 = 2 || (infs.contains true && infs.contains false) then (qnan r, fNV)
  else
    let sn := snanFlag [x0, y0, x1, y1, z]
    if x0.isNan then (nanTo32 t a0, sn)
    else if y0.isNan then (nanTo32 t b0, sn)
    else if x1.isNan then (nanTo32 t a1, sn)
    else if y1.isNan then (nanTo32 t b1, sn)
    else if z.isNan then (nanTo32 r c, sn)
    else
      match infs with
      | s :: _ => (packInf r s, 0)
      | [] =>
        let m0 := x0.mant * y0.mant
        let m1 := x1.mant * y1.mant
        let e := min (min (x0.expo + y0.expo) (x1.expo + y1.expo)) z.expo
        let term : Bool → Nat → Int → Int := fun s m x =>
          (if s then -1 else 1) * ((m * 2 ^ (x - e).toNat : Nat) : Int)
        let sum := term s0 m0 (x0.expo + y0.expo) + term s1 m1 (x1.expo + y1.expo) + term z.sign z.mant z.expo
        if sum = 0 then
          let zeros := m0 = 0 && m1 = 0 && z.mant = 0
          (packZero r (if zeros && s0 == s1 && s1 == z.sign then s0 else rm == 3), 0)
        else roundTo r rm (decide (sum < 0)) sum.natAbs e

/-- An integer lane of VDOT: the accumulator's TYPE is i32 or n32. -/
def idot (t : Nat) (sat : Bool) (c : Nat) (ab : List (Nat × Nat)) : Nat :=
  let r := if tySigned t then 2 else 6
  narrowInt r sat (intVal r c + (ab.map (fun p => intVal t p.1 * intVal t p.2)).foldl (· + ·) 0)

def bodyVdot (f : Fields) : M Ctl := do
  let x ← getCtx
  let a ← rdV x f.imm f.sa
  let b ← rdLanes x f.tyN f.imm f.sb
  let c ← rdV x f.imm f.sc
  let n := tyWidth f.tyN
  let per := 32 / n
  vecEnd x f 32 [f.sa, f.sb, f.sc, f.dst] (x.laneOn f) (fun i =>
    let acc := laneOf 32 c i
    if tyInt f.tyN then
      (idot f.tyN f.sat acc ((List.range per).map (fun j => (laneOf n a (per * i + j), b (per * i + j)))), 0)
    else
      fdot (fmtOf f.tyN) (x.mode f) acc (laneOf n a (2 * i)) (b (2 * i)) (laneOf n a (2 * i + 1)) (b (2 * i + 1)))

/-! ## OP 0x11 -/

def bodyVabs (f : Fields) : M Ctl := vec1 f (fun _ a => fnAbs f.tyN f.sat a)
def bodyVneg (f : Fields) : M Ctl := vec1 f (fun _ a => fnNeg f.tyN f.sat a)

/-- A long-latency form with one source. -/
def vecLong1 (f : Fields) (g : Nat → Nat → Nat × Flags) : M Ctl := do
  let x ← getCtx
  let a ← rdLanes x f.tyN f.imm f.sa
  vecLong x f [f.sa] (fun i => g (x.mode f) (a i))

def bodyVsqrt (f : Fields) : M Ctl := vecLong1 f (fun rm a => fsqrt (fmtOf f.tyN) rm a)

/-! ## Approximations (R197, R198) -/

/-- The significand M of R197: |x| × 2^(23 − u). -/
def mant24 (m : Nat) : Nat := m * 2 ^ (24 - bitLen m)

/-- u of R197. -/
def expU (m : Nat) (e : Int) : Int := e + bitLen m - 1

/-- v converted to binary32 with RTZ; above the range it is infinite (R198). -/
def truncTo32 (s : Bool) (q : Nat) (e : Int) : Nat × Flags :=
  let r := roundTo (fmtOf 10) 1 s q e
  if r.2 &&& fOF != 0 then (packInf (fmtOf 10) s, r.2) else r

/-- q of VRCP. -/
def rcpQ (mm : Nat) : Nat :=
  let d := 257 + 2 * ((mm - 2 ^ 23) / 2 ^ 16)
  let r := (2 * 2 ^ 24 + d) / (2 * d)
  r * (2 ^ 40 - mm * r) / 2 ^ 31

/-- VRCP of a binary32 value that is no NaN. -/
def rcp32 : FV → Nat × Flags
  | .inf s => (packZero (fmtOf 10) s, 0)
  | .fin s m e =>
    if m = 0 then (packInf (fmtOf 10) s, fDZ)
    else truncTo32 s (rcpQ (mant24 m)) (-24 - expU m e)
  | .nan .. => (0, 0)

/-- q of VRSQ. -/
def rsqQ (mm o : Nat) : Nat :=
  let j := (mm - 2 ^ 23) / 2 ^ 17
  let s := (isqrt (2 ^ 34 * 128 / ((129 + 2 * j) * 2 ^ o)) + 1) / 2
  s * (3 * 2 ^ 55 - mm * 2 ^ o * (s * s)) / 2 ^ 48

/-- VRSQ of a binary32 value that is no NaN. -/
def rsq32 : FV → Nat × Flags
  | .inf s => if s then (qnan (fmtOf 10), fNV) else (0, 0)
  | .fin s m e =>
    if m = 0 then (packInf (fmtOf 10) s, fDZ)
    else if s then (qnan (fmtOf 10), fNV)
    else
      let u := expU m e
      let o := u % 2
      truncTo32 false (rsqQ (mant24 m) o.toNat) (-24 - (u - o) / 2)
  | .nan .. => (0, 0)

/-- The table entry X of VEXP2: 2^(23 + i/128) rounded to the nearest integer. -/
def exp2X (i : Nat) : Nat :=
  (isqrt (isqrt (isqrt (isqrt (isqrt (isqrt (isqrt (2 ^ (3072 + i)))))))) + 1) / 2

/-- q of VEXP2. -/
def exp2Q (rho : Nat) : Nat :=
  let i := rho / 2 ^ 17
  let d := rho - i * 2 ^ 17
  let p := 2 ^ 24 + d * 11629080 / 2 ^ 24 + d * d * 4030332 / 2 ^ 48
  exp2X i * p / 2 ^ 24

/-- VEXP2 of a binary32 value that is no NaN. -/
def exp232 : FV → Nat × Flags
  | .inf s => if s then (0, 0) else (packInf (fmtOf 10) false, 0)
  | .fin s m e =>
    if cmpFin s m e false 128 0 ≥ 0 then (packInf (fmtOf 10) false, fOF ||| fNX)
    else if cmpFin s m e true 150 0 ≤ 0 then (0, fUF ||| fNX)
    else
      let k := (-e).toNat
      let x : Int := (if s then -1 else 1) * ((m * 2 ^ e.toNat : Nat) : Int)
      let n := x / ((2 ^ k : Nat) : Int)
      let rho := ((x - n * ((2 ^ k : Nat) : Int)).toNat * 2 ^ 24) / 2 ^ k
      truncTo32 false (exp2Q rho) (n - 23)
  | .nan .. => (0, 0)

/-- An approximation under a TYPE: 16-bit operands are widened exactly, and the binary32 result
is rounded to TYPE in the effective mode. -/
def approx (g : FV → Nat × Flags) (t rm a : Nat) : Nat × Flags :=
  let x := unpack (fmtOf t) a
  match firstNan (fmtOf t) [x] with
  | some n => (n, snanFlag [x])
  | none =>
    let r := g x
    if t = 10 then r
    else
      let y := floatToFloat (fmtOf 10) (fmtOf t) rm r.1
      (y.1, r.2 ||| y.2)

def bodyVrcp (f : Fields) : M Ctl := vecLong1 f (approx rcp32 f.tyN)
def bodyVrsq (f : Fields) : M Ctl := vecLong1 f (approx rsq32 f.tyN)
def bodyVexp2 (f : Fields) : M Ctl := vecLong1 f (approx exp232 f.tyN)

/-! ## OP 0x12: compares, selects and masks (R199 to R202) -/

/-- Bits of the lanes, as a lane-enable value. -/
def laneBits (l : Nat) (p : Nat → Bool) : BitVec 64 :=
  BitVec.ofNat 64 ((List.range l).map (fun i => if p i then 2 ^ i else 0)).sum

def bodyVcmp (f : Fields) : M Ctl := do
  let x ← getCtx
  let a ← rdV x f.imm f.sa
  let b ← rdLanes x f.tyN f.imm f.sb
  let n := tyWidth f.tyN
  let g := fun i => cmpVal f.tyN f.sub.toNat (laneOf n a i) (b i)
  bump [f.sa, f.sb]
  modCtx (fun y => y.setE f.dst.toNat (laneBits (lanesOf n) (fun i => x.laneOn f i && (g i).1)))
  raiseFlags (laneFlags (lanesOf n) (x.laneOn f) (fun i => (0, (g i).2)))
  pure .seq

def bodyVsel (f : Fields) : M Ctl := do
  let x ← getCtx
  let a ← rdV x f.imm f.sa
  let b ← rdLanes x f.tyN f.imm f.sb
  let n := tyWidth f.tyN
  vecEnd x f n [f.sa, f.sb, f.dst] (fun _ => true)
    (fun i => (if x.laneOn f i then laneOf n a i else b i, 0))

/-- VMASK on two lane-enable registers (R201). -/
def vmask2 (f : Fields) (g : BitVec 64 → BitVec 64 → BitVec 64) : M Ctl := do
  modCtx (fun x => x.setE f.dst.toNat (g (x.e f.sa.toNat) (x.e f.sb.toNat)))
  pure .seq

def bodyVmaskAnd (f : Fields) : M Ctl := vmask2 f (fun a b => a &&& b)
def bodyVmaskOr (f : Fields) : M Ctl := vmask2 f (fun a b => a ||| b)
def bodyVmaskXor (f : Fields) : M Ctl := vmask2 f (fun a b => a ^^^ b)
def bodyVmaskAndn (f : Fields) : M Ctl := vmask2 f (fun a b => a &&& ~~~b)
def bodyVmaskNot (f : Fields) : M Ctl := vmask2 f (fun a _ => ~~~a)

def bodyVmaskSet (f : Fields) : M Ctl := do
  let x ← getCtx
  let a ← rd64 x f.imm f.sa
  modCtx (fun y => y.setE f.dst.toNat a)
  pure .seq

def bodyVmaskGet (f : Fields) : M Ctl := do
  let x ← getCtx
  bump [f.dst]
  wr64 x f.imm f.dst (x.e f.sa.toNat)
  pure .seq

/-- Enabled lanes below a lane. -/
def lanesBelow (on : Nat → Bool) (i : Nat) : Nat := ((List.range i).filter on).length

def bodyViota (f : Fields) : M Ctl := do
  let x ← getCtx
  let a ← rd x f.tyN f.imm f.sa
  vecEnd x f (tyWidth f.tyN) [f.dst] (x.laneOn f) (fun i => (a + lanesBelow (x.laneOn f) i, 0))

/-! ## OP 0x13: lane moves (R203) -/

def bodyVmov (f : Fields) : M Ctl := vec1 f (fun _ a => (a, 0))

def bodyVbcast (f : Fields) : M Ctl := do
  let x ← getCtx
  let a ← rd x f.tyN f.imm f.sa
  vecEnd x f (tyWidth f.tyN) [f.dst] (x.laneOn f) (fun _ => (a, 0))

def bodyVext (f : Fields) : M Ctl := do
  let x ← getCtx
  let a ← rdV x f.imm f.sa
  let k ← rd x f.tyN f.imm f.sb
  let n := tyWidth f.tyN
  bump [f.sa, f.dst]
  wr x f.tyN f.imm f.dst (laneOf n a (k % 256 % lanesOf n))
  pure .seq

def bodyVins (f : Fields) : M Ctl := do
  let x ← getCtx
  let a ← rd x f.tyN f.imm f.sa
  let k ← rd x f.tyN f.imm f.sb
  let n := tyWidth f.tyN
  vecEnd x f n [] (fun i => i == k % 256 % lanesOf n && x.laneOn f i) (fun _ => (a, 0))

def bodyVshuf (f : Fields) : M Ctl := do
  let x ← getCtx
  let a ← rdV x f.imm f.sa
  let b ← rdV x f.imm f.sb
  let c ← rdV x f.imm f.sc
  let n := tyWidth f.tyN
  let l := lanesOf n
  vecEnd x f n [f.sa, f.sb, f.sc, f.dst] (x.laneOn f) (fun i =>
    let j := laneOf n c i % (2 * l)
    (if j < l then laneOf n a j else laneOf n b (j - l), 0))

def bodyVrot (f : Fields) : M Ctl := do
  let x ← getCtx
  let a ← rdV x f.imm f.sa
  let k ← rd x f.tyN f.imm f.sb
  let n := tyWidth f.tyN
  vecEnd x f n [f.sa, f.dst] (x.laneOn f) (fun i => (laneOf n a ((i + k % 256) % lanesOf n), 0))

/-! ## OP 0x14: reductions and scans (R68, R204, R205) -/

/-- One pass of the tree: the lower half against the upper half. -/
def treeStep (op : Nat → Nat → Nat × Flags) (l : List Nat) : List Nat × Flags :=
  let h := l.length / 2
  let rs := List.zipWith op (l.take h) (l.drop h)
  (rs.map Prod.fst, rs.foldl (fun fl r => fl ||| r.2) 0)

/-- The passes of R68, as many as given. -/
def treeSum (op : Nat → Nat → Nat × Flags) : Nat → List Nat → Nat × Flags
  | 0, l => (l.getD 0 0, 0)
  | p + 1, l =>
    let r := treeStep op l
    let q := treeSum op p r.1
    (q.1, r.2 ||| q.2)

/-- A reduction of the enabled lanes, the others entering as a given value. -/
def reduce (f : Fields) (fill : Nat) (op : Nat → Nat → Nat → Nat × Flags) : M Ctl := do
  let x ← getCtx
  let a ← rdV x f.imm f.sa
  let n := tyWidth f.tyN
  let r := treeSum (op (x.mode f)) (lanesOf n).log2
    ((List.range (lanesOf n)).map (fun i => if x.laneOn f i then laneOf n a i else fill))
  bump [f.sa, f.dst]
  wr x f.tyN f.imm f.dst r.1
  raiseFlags r.2
  pure .seq

def bodyVreds (f : Fields) : M Ctl := reduce f 0 (fun rm a b =>
  byType f.tyN (intAdd f.tyN f.sat a b) (fadd51 (fmtOf f.tyN) rm a b))

/-- The identity of VREDM. -/
def redIdentity (t : Nat) (mx : Bool) : Nat :=
  if tyInt t then wrapN (if mx then intMin t else intMax t) (tyWidth t) else packInf (fmtOf t) mx

def bodyVredmMin (f : Fields) : M Ctl := reduce f (redIdentity f.tyN false) (fun _ a b => fnMin f.tyN a b)
def bodyVredmMax (f : Fields) : M Ctl := reduce f (redIdentity f.tyN true) (fun _ a b => fnMax f.tyN a b)

/-- The first enabled lane of a scan as it is written: a NaN is quietened. -/
def scanFirst (t a : Nat) : Nat × Flags :=
  if tyInt t then (a, 0)
  else
    match unpack (fmtOf t) a with
    | .nan s q p => (packNan (fmtOf t) s p, if q then 0 else fNV)
    | _ => (a, 0)

/-- The running sums of R205 over (enabled, value) lanes. -/
def scanLanes (t : Nat) (sat : Bool) (rm : Nat) : Option Nat → List (Bool × Nat) → List Nat × Flags
  | _, [] => ([], 0)
  | acc, (false, _) :: l =>
    let r := scanLanes t sat rm acc l
    (0 :: r.1, r.2)
  | acc, (true, a) :: l =>
    let v := match acc with
      | none => scanFirst t a
      | some s => fnAdd t sat rm s a
    let r := scanLanes t sat rm (some v.1) l
    (v.1 :: r.1, v.2 ||| r.2)

def bodyVscan (f : Fields) : M Ctl := do
  let x ← getCtx
  let a ← rdV x f.imm f.sa
  let n := tyWidth f.tyN
  let r := scanLanes f.tyN f.sat (x.mode f) none
    ((List.range (lanesOf n)).map (fun i => (x.laneOn f i, laneOf n a i)))
  bump [f.sa, f.dst]
  wrV x f.imm f.dst n (x.laneOn f) (fun i => r.1.getD i 0)
  raiseFlags r.2
  pure .seq

/-! ## OP 0x15: conversions (R206 to R210) -/

def bodyVcvt (f : Fields) : M Ctl :=
  vec1 f (fun rm a => convert f.sb.toNat f.tyN f.sat rm a)

def bodyVwidn (f : Fields) : M Ctl := do
  let x ← getCtx
  let a ← rdV x f.imm f.sa
  let n := tyWidth f.tyN
  let hf := if f.imm.getLsbD 0 then lanesOf n else 0
  vecEnd x f n [f.sa, f.dst] (x.laneOn f)
    (fun i => convert f.sb.toNat f.tyN f.sat (x.mode f) (laneOf (n / 2) a (i + hf)))

/-- A value divided exactly by 2^sh. -/
def FV.shrink (x : FV) (sh : Nat) : FV :=
  match x with
  | .fin s m e => .fin s m (e - sh)
  | y => y

/-- One lane of VNARR (R208). -/
def narrow1 (src t : Nat) (sat : Bool) (rm sh a : Nat) : Nat × Flags :=
  let y := (valOf src a).shrink sh
  if tyInt t then
    if tyInt src then
      (match y with
       | .fin s m e => narrowInt t sat (roundInt rm s m e).1
       | _ => 0, 0)
    else floatToInt t rm y
  else
    match y with
    | .fin s m e => roundTo (fmtOf t) rm s m e
    | _ => floatToFloat (fmtOf src) (fmtOf t) rm a

def bodyVnarr (f : Fields) : M Ctl := do
  let x ← getCtx
  let a ← rdV x f.imm f.sa
  let n := tyWidth f.tyN
  let ls := lanesOf (2 * n)
  let lo := if f.imm.getLsbD 8 then ls else 0
  let sh := bits f.imm.toNat 7 0
  vecEnd x f n [f.sa, f.dst] (fun j => decide (lo ≤ j) && decide (j < lo + ls) && x.laneOn f j)
    (fun j => narrow1 f.sb.toNat f.tyN f.sat (x.mode f) sh (laneOf (2 * n) a (j - lo)))

/-! ## Blocks in the vault (R57, R76, R77) -/

/-- BFMTn of a context. -/
def Ctx.bank (x : Ctx) (n : Nat) : BitVec 8 := look x.bfmt n 0

/-- Element width of a block format. -/
def fmtWidth (b : BitVec 8) : Nat := (wcodeWidth (bits b.toNat 3 0)).getD 16
/-- KIND is block. -/
def fmtIsBlock (b : BitVec 8) : Bool := bits b.toNat 6 5 == 1
/-- PLANE. -/
def fmtPlane (b : BitVec 8) : Bool := b.getLsbD 4

/-- The number of the block at a local address; none when it is no block address. -/
def blockNo (w a : Nat) : Option Nat :=
  let o := a % 8192
  if o % (4 * w) = 0 && o / (4 * w) < blkCapacity w then some (o / (4 * w)) else none

/-- Vault places of consecutive bytes of one local range: faults, page, scoreboard, array reads
ahead of a store. -/
def localRange (a : Word) (n : Nat) (store : Bool) : M Nat := do
  let s ← get
  let t := s.cur
  match s.localFault t a.toNat n 1 with
  | some c => raise c a
  | none =>
    let pages := (List.range ((a.toNat + n - 1) / 4096 - a.toNat / 4096 + 1)).map (fun i => a.toNat / 4096 + i)
    match pages.find? (fun p => (s.frameOf? t p).isNone) with
    | some p => throw (.page p)
    | none =>
      waitFor (!(List.range n).any (fun i => match s.vaultOff? t (a.toNat + i) with
        | some o => s.sbHit (coreOf t) o 1
        | none => false))
      waitFor (!(store && (s.ctx t).arrHit a.toNat n))
      if !store && (List.range n).any (fun i => match s.vaultOff? t (a.toNat + i) with
        | some o => s.vaultBad (s.vaultLoc (coreOf t) o) 1
        | none => false)
      then raise cData a else pure a.toNat

/-- A byte of a context's local space. -/
def State.localByte (s : State) (t a : Nat) : Byte :=
  match s.vaultOff? t a with
  | some o => s.mem.byte (s.vaultLoc (coreOf t) o)
  | none => 0

/-- The little-endian value of n bytes of a context's local space. -/
def State.localVal (s : State) (t a n : Nat) : Nat :=
  leNat ((List.range n).map (fun i => s.localByte t (a + i)))

/-- Writes bytes of a context's local space, by aligned 8-byte words where they are whole. -/
def State.setLocal (s : State) (t a n v : Nat) : State :=
  if a % 8 = 0 && n % 8 = 0 then
    (List.range (n / 8)).foldl (fun s i =>
      match s.vaultOff? t (a + 8 * i) with
      | some o => s.writeVault (coreOf t) o 8 (v / 2 ^ (64 * i) % 2 ^ 64)
      | none => s) s
  else
    (List.range n).foldl (fun s i =>
      match s.vaultOff? t (a + i) with
      | some o => s.writeVault (coreOf t) o 1 (v / 2 ^ (8 * i) % 256)
      | none => s) s

/-- The place of the block at a local address of the issuing thread: its format and number. -/
def blockAt (x : Ctx) (a : Word) : M (BitVec 8 × Nat) := do
  need (a.toNat < 0xC000) cProt a
  let b := x.bank (a.toNat / 8192)
  needOp (fmtIsBlock b)
  match blockNo (fmtWidth b) a.toNat with
  | none => raise cAlign a
  | some n => pure (b, n)

/-- The local address of the exponent byte of block n of the bank that an address lies in. -/
def expAddr (a : Word) (n : Nat) : Word := w64 (a.toNat / 8192 * 8192 + 7936 + n)

/-- Reads the block at a local address. -/
def readBlock (x : Ctx) (a : Word) : M (Nat × Blk) := do
  let (b, n) ← blockAt x a
  let w := fmtWidth b
  let p ← localRange a (4 * w) false
  let q ← localRange (expAddr a n) 1 false
  let s ← get
  pure (w, { e := s.localVal s.cur q 1, m := blkDecode w (fmtPlane b) (s.localVal s.cur p (4 * w)) })

/-- Writes a block at a local address: its mantissas and its exponent byte. -/
def writeBlock (a : Word) (b : BitVec 8) (n : Nat) (k : Blk) : M Unit := do
  let w := fmtWidth b
  let p ← localRange a (4 * w) true
  let q ← localRange (expAddr a n) 1 true
  act (fun s => (s.setLocal s.cur p (4 * w) (blkEncode w (fmtPlane b) k.m)).setLocal s.cur q 1 k.e)

/-- VQNT (R209). -/
def bodyVqnt (f : Fields) : M Ctl := do
  let x ← getCtx
  let n := tyWidth f.tyN
  let a ← rdV x f.imm f.sa
  let b ← if n = 32 then rdV x f.imm f.sb else pure 0
  let el := fun e =>
    if x.laneOn f e then (if n = 32 && e ≥ 16 then laneOf 32 b (e - 16) else laneOf n a e) else 0
  let addr := x.localAddr f.imm f.dst
  let (fmt, k) ← blockAt x addr
  let r := quantiseTy (fmtWidth fmt) (x.mode f) f.tyN ((List.range 32).map el)
  bump (if n = 32 then [f.sa, f.sb, f.dst] else [f.sa, f.dst])
  writeBlock addr fmt k r.1
  raiseFlags r.2
  pure .seq

/-- VDQT (R210). -/
def bodyVdqt (f : Fields) : M Ctl := do
  let x ← getCtx
  let n := tyWidth f.tyN
  let (w, b) ← readBlock x (x.localAddr f.imm f.sa)
  let lo := if f.imm.getLsbD 0 then 16 else 0
  vecEnd x f n [f.sa] (x.laneOn f) (fun i => dequantTy w (x.mode f) f.tyN b (i + lo))

/-! ## Sparsity (R67, R211, R212) -/

/-- The ranking key of R67. -/
def rankKey (t v : Nat) : Nat :=
  if tyInt t then (intVal t v).natAbs
  else
    match unpack (fmtOf t) v with
    | .nan .. => 2 ^ tyWidth t
    | _ => v % 2 ^ (tyWidth t - 1)

/-- The indices kept of a group of four. -/
def keptOf (key : Nat → Nat) : List Nat :=
  (List.range 4).filter (fun i =>
    decide (((List.range 4).filter (fun j =>
      decide (key j > key i) || (key j == key i && decide (j < i)))).length < 2))

def bodyVsprs (f : Fields) : M Ctl := do
  let x ← getCtx
  let a ← rdV x f.imm f.sa
  let n := tyWidth f.tyN
  let kept := (List.range (lanesOf n / 4)).flatMap (fun g =>
    (keptOf (fun i => rankKey f.tyN (laneOf n a (4 * g + i)))).map (fun i => (laneOf n a (4 * g + i), i)))
  let v := joinLanes n (kept.map Prod.fst) + 2 ^ 256 * joinLanes 2 (kept.map Prod.snd)
  bump [f.sa]
  modCtx (fun y => y.setV (f.dst.toNat - 0x40) (BitVec.ofNat 512 v))
  pure .seq

def bodyVxpnd (f : Fields) : M Ctl := do
  let x ← getCtx
  let a ← rdV x f.imm f.sa
  let n := tyWidth f.tyN
  let idx := fun k => a / 2 ^ (256 + 2 * k) % 4
  vecEnd x f n [f.sa] (x.laneOn f) (fun i =>
    let g := i / 4
    (if idx (2 * g + 1) = i % 4 then laneOf n a (2 * g + 1)
     else if idx (2 * g) = i % 4 then laneOf n a (2 * g) else 0, 0))

/-! ## The meanings -/

def execVadd (f : Fields) (s : State) : Host.Outcome State Fault Refusal := issue .vadd bodyVadd f s
def execVsub (f : Fields) (s : State) : Host.Outcome State Fault Refusal := issue .vsub bodyVsub f s
def execVmul (f : Fields) (s : State) : Host.Outcome State Fault Refusal := issue .vmul bodyVmul f s
def execVfma (f : Fields) (s : State) : Host.Outcome State Fault Refusal := issue .vfma bodyVfma f s
def execVmin (f : Fields) (s : State) : Host.Outcome State Fault Refusal := issue .vmin bodyVmin f s
def execVmax (f : Fields) (s : State) : Host.Outcome State Fault Refusal := issue .vmax bodyVmax f s
def execVdiv (f : Fields) (s : State) : Host.Outcome State Fault Refusal := issue .vdiv bodyVdiv f s
def execVand (f : Fields) (s : State) : Host.Outcome State Fault Refusal := issue .vand bodyVand f s
def execVor (f : Fields) (s : State) : Host.Outcome State Fault Refusal := issue .vor bodyVor f s
def execVxor (f : Fields) (s : State) : Host.Outcome State Fault Refusal := issue .vxor bodyVxor f s
def execVshl (f : Fields) (s : State) : Host.Outcome State Fault Refusal := issue .vshl bodyVshl f s
def execVshr (f : Fields) (s : State) : Host.Outcome State Fault Refusal := issue .vshr bodyVshr f s
def execVsha (f : Fields) (s : State) : Host.Outcome State Fault Refusal := issue .vsha bodyVsha f s
def execVdot (f : Fields) (s : State) : Host.Outcome State Fault Refusal := issue .vdot bodyVdot f s
def execVabs (f : Fields) (s : State) : Host.Outcome State Fault Refusal := issue .vabs bodyVabs f s
def execVneg (f : Fields) (s : State) : Host.Outcome State Fault Refusal := issue .vneg bodyVneg f s
def execVsqrt (f : Fields) (s : State) : Host.Outcome State Fault Refusal := issue .vsqrt bodyVsqrt f s
def execVrcp (f : Fields) (s : State) : Host.Outcome State Fault Refusal := issue .vrcp bodyVrcp f s
def execVrsq (f : Fields) (s : State) : Host.Outcome State Fault Refusal := issue .vrsq bodyVrsq f s
def execVexp2 (f : Fields) (s : State) : Host.Outcome State Fault Refusal := issue .vexp2 bodyVexp2 f s
def execVcmp (f : Fields) (s : State) : Host.Outcome State Fault Refusal := issue .vcmp bodyVcmp f s
def execVsel (f : Fields) (s : State) : Host.Outcome State Fault Refusal := issue .vsel bodyVsel f s
def execVmaskAnd (f : Fields) (s : State) : Host.Outcome State Fault Refusal := issue .vmaskAnd bodyVmaskAnd f s
def execVmaskOr (f : Fields) (s : State) : Host.Outcome State Fault Refusal := issue .vmaskOr bodyVmaskOr f s
def execVmaskXor (f : Fields) (s : State) : Host.Outcome State Fault Refusal := issue .vmaskXor bodyVmaskXor f s
def execVmaskAndn (f : Fields) (s : State) : Host.Outcome State Fault Refusal := issue .vmaskAndn bodyVmaskAndn f s
def execVmaskNot (f : Fields) (s : State) : Host.Outcome State Fault Refusal := issue .vmaskNot bodyVmaskNot f s
def execVmaskSet (f : Fields) (s : State) : Host.Outcome State Fault Refusal := issue .vmaskSet bodyVmaskSet f s
def execVmaskGet (f : Fields) (s : State) : Host.Outcome State Fault Refusal := issue .vmaskGet bodyVmaskGet f s
def execViota (f : Fields) (s : State) : Host.Outcome State Fault Refusal := issue .viota bodyViota f s
def execVmov (f : Fields) (s : State) : Host.Outcome State Fault Refusal := issue .vmov bodyVmov f s
def execVbcast (f : Fields) (s : State) : Host.Outcome State Fault Refusal := issue .vbcast bodyVbcast f s
def execVext (f : Fields) (s : State) : Host.Outcome State Fault Refusal := issue .vext bodyVext f s
def execVins (f : Fields) (s : State) : Host.Outcome State Fault Refusal := issue .vins bodyVins f s
def execVshuf (f : Fields) (s : State) : Host.Outcome State Fault Refusal := issue .vshuf bodyVshuf f s
def execVrot (f : Fields) (s : State) : Host.Outcome State Fault Refusal := issue .vrot bodyVrot f s
def execVreds (f : Fields) (s : State) : Host.Outcome State Fault Refusal := issue .vreds bodyVreds f s
def execVredmMin (f : Fields) (s : State) : Host.Outcome State Fault Refusal := issue .vredmMin bodyVredmMin f s
def execVredmMax (f : Fields) (s : State) : Host.Outcome State Fault Refusal := issue .vredmMax bodyVredmMax f s
def execVscan (f : Fields) (s : State) : Host.Outcome State Fault Refusal := issue .vscan bodyVscan f s
def execVcvt (f : Fields) (s : State) : Host.Outcome State Fault Refusal := issue .vcvt bodyVcvt f s
def execVwidn (f : Fields) (s : State) : Host.Outcome State Fault Refusal := issue .vwidn bodyVwidn f s
def execVnarr (f : Fields) (s : State) : Host.Outcome State Fault Refusal := issue .vnarr bodyVnarr f s
def execVqnt (f : Fields) (s : State) : Host.Outcome State Fault Refusal := issue .vqnt bodyVqnt f s
def execVdqt (f : Fields) (s : State) : Host.Outcome State Fault Refusal := issue .vdqt bodyVdqt f s
def execVsprs (f : Fields) (s : State) : Host.Outcome State Fault Refusal := issue .vsprs bodyVsprs f s
def execVxpnd (f : Fields) (s : State) : Host.Outcome State Fault Refusal := issue .vxpnd bodyVxpnd f s

end Sys2Proof.Machine
end

