-- ==== Sys2Proof/Machine/Memory.lean ====
section
/-! DEFINITION. Loads, stores, maintenance and atomics: OP 0x20 and 0x21 (R214 to R227), with
the order that fences and releases give (R129, R130). -/

namespace Sys2Proof.Machine

open Sys2Proof

/-! ## Addresses (R215, R216) -/

/-- Whether an aperture or scratch address lies outside a context's partition (R81, R86). -/
def State.outsidePart (s : State) (t pa : Nat) : Bool :=
  if bits pa 47 36 ≠ s.cubeid then true
  else if paSpace pa = 0xF then (s.field (fieldOfCore (bits pa 35 16))).fpart != s.partOf t
  else bits pa 35 20 ≥ 1024 || (s.field (bits pa 35 20)).fpart != s.partOf t

/-- What the STATE copy of the issuing core says of a scratch address of its own field (R86): nothing;
a stall; a cause. -/
def State.ownScratch (s : State) (t pa : Nat) : Option (Option Nat) :=
  if paSpace pa = 0xE && bits pa 35 20 = fieldOf t then
    (match (s.field (fieldOf t)).l2state with
     | 2 => none
     | 1 => some none
     -- one that has waited since 0b01 was free to go at 0b10 (R86, R297)
     | _ => if (s.ctx t).scratchAt == some (s.ctx t).issued then none else some (some cScratch))
  else none

/-- The physical address of a naturally aligned global access of n bytes: alignment, translation and
the partition of an aperture or scratch address. -/
def pagePa (space : Nat) (va : Word) (n : Nat) (nd : Need) : M Nat := do
  need (va.toNat % n = 0) cAlign va
  let pa ← if space = 2 then do
      need (va.toNat < 2 ^ 52 && paSpace va.toNat ≥ 0xE) cTrans va
      pure va.toNat
    else translate va nd
  if paSpace pa ≥ 0xE then
    let me ← ask State.cur
    need (!(← ask (fun s => s.outsidePart me pa))) cProt va
  pure pa

/-- The same for an access that the core performs itself: its copy of its own field's STATE is
checked too. A copy's STATE is checked by the engine (R233). -/
def globalPa (space : Nat) (va : Word) (n : Nat) (nd : Need) : M Nat := do
  let pa ← pagePa space va n nd
  let me ← ask State.cur
  match ← ask (fun s => s.ownScratch me pa) with
  | some (some c) => raise c va
  | some none =>
    modCtx (fun y => { y with scratchAt := some y.issued })
    throw .stallKeep
  | none => pure pa

/-! ## Open accesses of the thread (R124) -/

/-- Whether a work is a load or an atomic. -/
def Work.isAccess : Work → Bool
  | .load .. | .vload .. | .atomic .. => true
  | _ => false

/-- Whether an access of the thread that is not performed names a byte of [pa, pa + n). -/
def Ctx.openOver (x : Ctx) (pa n : Nat) : Bool :=
  x.pend.any (fun p => !p.done && p.work.els.any (fun e => decide (e.pa < pa + n) && decide (pa < e.pa + e.bytes)))

/-- Whether an acquire atomic of the thread is still to be performed: it orders every later access
after its read (R130). -/
def Ctx.openAcquire (x : Ctx) : Bool :=
  x.pend.any (fun p => !p.done && (match p.work with
    | .atomic _ _ ord _ _ _ _ _ => ord % 2 == 1
    | _ => false))

/-- Whether tenure is what an access waits for (R113). -/
def State.tenureHeld (s : State) (t pa n : Nat) (store : Bool) : Bool :=
  paSpace pa < 0xE && (match s.home? pa with
    | some h => s.excluded t (s.dirAt h) pa n store
    | none => false)

/-! ## Performing accesses -/

/-- What comes of an access: its values, a wait (whether for tenure), a fault. -/
inductive Got where
  | done (vs : List Nat) (s : State)
  | wait (tenure : Bool)
  | bad (e : Exc)

/-- Reads the elements of a load, all at one moment. -/
def State.loadEls (s : State) (t cls : Nat) : List Elem → Got
  | [] => .done [] s
  | el :: els =>
    if s.homeHolds t cls el.pa false then .wait false
    else
    match s.load t cls el.pa el.bytes with
    | .ok v s1 =>
      (match s1.loadEls t cls els with
       | .done vs s2 => .done (v :: vs) s2
       | r => r)
    | .stall _ => .wait (s.tenureHeld t el.pa el.bytes false)
    | .fault c => .bad { cause := c, tval := el.named }

/-- The new value of an atomic and the flags of ATFADD; none where only the read is performed
(R225, R227). -/
def atomicFn (sub ty : Nat) (b old m : Nat) : Option (Nat × Flags) :=
  match sub with
  | 0 => some (narrowInt ty false (intVal ty m + intVal ty b), 0)
  | 1 => some (narrowInt ty false (intVal ty m - intVal ty b), 0)
  | 2 => some (intMinOp ty m b, 0)
  | 3 => some (intMaxOp ty m b, 0)
  | 4 => some (m &&& b, 0)
  | 5 => some (m ||| b, 0)
  | 6 => some (m ^^^ b, 0)
  | 7 => some (b, 0)
  | 8 => if m = old then some (b, 0) else none
  | 9 => some (fadd51 (fmtOf ty) 0 m b)
  | _ => some (if m ≥ b then 0 else m + 1, 0)

/-- A long-latency access after a wait. -/
def Pend.waits (s : State) (t : Nat) (p : Pend) (ten : Bool) : Pend :=
  { p with since := if ten then some (p.since.getD (s.vclk (fieldOf t))) else none }

/-- The result of an access that writes nothing: it names the register alone. -/
def Work.blank (w : Work) : Result :=
  match w with
  | .load _ _ d _ | .atomic _ _ _ _ d _ _ _ => .scalar d 0
  | .vload _ _ n _ => .vector n 0 0
  | _ => .none

/-- A long-latency access that has faulted: its register is unchanged, but the order of landing still knows it (R150,
rule 8; R151). -/
def Pend.fails (p : Pend) (e : Exc) : Pend :=
  { p with done := true, work := .none, result := p.work.blank, fault := some e, since := none }

/-- A long-latency access that has been performed. -/
def Pend.has (p : Pend) (r : Result) (fl : Flags) : Pend :=
  { p with done := true, work := .none, result := r, flags := fl, since := none }

/-- The lanes' values put together, and the bits they cover. -/
def gatherLanes (n : Nat) (ls : List (Nat × Nat)) : Vec × Vec :=
  (BitVec.ofNat 512 (ls.map (fun e => e.2 % 2 ^ n * 2 ^ (n * e.1))).sum,
   BitVec.ofNat 512 (ls.map (fun e => (2 ^ n - 1) * 2 ^ (n * e.1))).sum)

/-- Performs a long-latency access if nothing keeps it waiting. -/
def State.performNow (s : State) (t : Nat) (p : Pend) : State × Pend :=
  match p.work with
  | .load ty cls dst el =>
    (match s.loadEls t cls [el] with
     | .done vs s1 => (s1, p.has (.scalar dst (extendTy ty (vs.getD 0 0))) 0)
     | .wait ten => (s, p.waits s t ten)
     | .bad e => (s, p.fails e))
  | .vload lane cls n els =>
    (match s.loadEls t cls els with
     | .done vs s1 =>
       let r := gatherLanes (8 * lane) (List.zip (els.map Elem.lane) vs)
       (s1, p.has (.vector n r.2 r.1) 0)
     | .wait ten => (s, p.waits s t ten)
     | .bad e => (s, p.fails e))
  | .atomic sub ty ord scope dst b old el =>
    if s.homeHolds t 2 el.pa true then (s, p.waits s t false)
    else
    (match s.rmw t el.pa el.bytes (fun m => (atomicFn sub ty b.toNat old.toNat m).map Prod.fst) with
     | .ok m s1 =>
       let fl := ((atomicFn sub ty b.toNat old.toNat m).map Prod.snd).getD 0
       let s2 := if ord % 2 = 1 then s1.acquire t scope (fun _ => true) else s1
       (s2, p.has (.scalar dst (extendTy ty m)) fl)
     | .stall _ => (s, p.waits s t (s.tenureHeld t el.pa el.bytes true))
     | .fault c => (s, p.fails { cause := c, tval := el.named }))
  | _ => (s, p)

/-- Performs a long-latency access. One whose packet to another cube was reported undeliverable or refused has the
physical-address fault (R376). -/
def State.perform (s : State) (t : Nat) (p : Pend) : State × Pend :=
  if s.isLost p.e2e then
    (s.settled p.e2e, { p with e2e := [] }.fails { cause := cPhys, tval := (p.work.els.head?.map Elem.named).getD 0 })
  else
    let r := s.performNow t p
    if r.2.done then (r.1.settled p.e2e, { r.2 with e2e := [] }) else r

/-- Enters a long-latency access and performs it at once if it can be; one that is delayed is performed by
a later event, so that accesses to different places need not be performed in order (R124). -/
def pushWork (f : Fields) (w : Work) : M Unit := fun s =>
  let t := s.cur
  let y := s.ctx t
  let sent := s.sendAll (s.workPackets t w)
  let p : Pend :=
    { pc := y.pc, idx := y.issued, left := f.la.toNat, done := false, result := .none, flags := 0,
      fault := none, work := w, since := none, sup := y.sup, e2e := sent.1 }
  let r := if y.delay then (sent.2, p) else sent.2.perform t p
  .ok () (r.1.modCtx t (fun c => { c with pend := c.pend ++ [r.2] }))

/-- An access waits for the thread's earlier accesses to the same bytes (R124). -/
def inOrder (els : List Elem) : M Unit := do
  let me ← ask State.cur
  let x ← getCtx
  waitFor (els.all (fun e => !x.openOver e.pa e.bytes))
  waitFor (!(← ask (fun s => els.any (fun e => s.postedOver me e.pa e.bytes))))

/-! ## Global stores (R216, R218) -/

/-- One piece of a store: place, bytes, byte mask, data, address as named. -/
structure Piece where
  pa    : Nat
  n     : Nat
  mask  : Nat
  data  : Nat
  named : Word

/-- A piece as it is posted. -/
def Piece.posted (q : Piece) (member : Option Nat) : ToPost :=
  { pa := q.pa, n := q.n, mask := q.mask, data := BitVec.ofNat 512 q.data, named := q.named, member := member }

/-- What a piece posts: itself, or the replicas of a store to a multicast window homed here (R380). -/
def State.postsOf (s : State) (space : Nat) (q : Piece) : List ToPost :=
  if s.isPosted (space == 2) q.pa then [q.posted none]
  else
    match s.windowOf q.pa with
    | some (_, g) =>
      if groupOpr g = 4 then
        ((List.range 256).filter (fun c => groupMember g c && c != s.cubeid)).map (fun c => q.posted (some c))
      else []
    | none => []

/-- One piece that is not posted: performed before the instruction completes. -/
def storePiece (space cls : Nat) (q : Piece) : M Unit := do
  let me ← ask State.cur
  if ← ask (fun s => s.isPosted (space == 2) q.pa) then pure ()
  else
    let s ← get
    waitFor (!s.homeHolds me cls q.pa true)
    match s.store me cls q.pa q.n q.mask q.data with
    | .ok _ s1 => set s1
    | .stall _ => if s.tenureHeld me q.pa q.n true then throw (.tenure q.named) else throw .stall
    | .fault c => raise c q.named

/-- The pieces of one store instruction, in order; an exact fault performs none. What is posted goes to
the log once the rest is performed. A piece that is not posted waits for the thread's posted stores to its bytes
(R124); a posted one enters the log, which performs them in order (R218). -/
def globalStore (space cls : Nat) (qs : List Piece) : M Unit := do
  let me ← ask State.cur
  let x ← getCtx
  waitFor (qs.all (fun q => !x.openOver q.pa q.n))
  waitFor (!(← ask (fun s => qs.any (fun q => !s.isPosted (space == 2) q.pa && s.storedOver me q.pa q.n))))
  let ps ← ask (fun s => qs.flatMap (s.postsOf space))
  for q in qs do storePiece space cls q
  postStores ps

def needLoad : Need := { r := true, near := true }
def needStore : Need := { w := true, stores := true }
def needAtomic : Need := { r := true, w := true, stores := true }

/-! ## LD and ST (R217) -/

def bodyLd (f : Fields) : M Ctl := do
  let x ← getCtx
  let n := tyBytes f.tyN
  if f.space = 0 then
    let v ← localRead (x.localAddr f.imm f.sa) n
    bump [f.sa]
    modCtx (fun y => y.setSlot (x.slotOf f.dst) (extendTy f.tyN v))
  else
    let va := x.globalAddr f
    let pa ← globalPa f.space va n needLoad
    let el : Elem := { lane := 0, pa := pa, bytes := n, named := va }
    inOrder [el]
    pushWork f (.load f.tyN f.clsM (x.slotOf f.dst) el)
  pure .seq

def bodySt (f : Fields) : M Ctl := do
  let x ← getCtx
  let n := tyBytes f.tyN
  if f.space = 0 then
    let b ← rd x f.tyN f.imm f.sb
    bump [f.sa, f.sb]
    localWrite (x.localAddr f.imm f.sa) n b
  else
    let va := x.globalAddr f
    let pa ← globalPa f.space va n needStore
    let b ← rd x f.tyN f.imm f.sb
    bump [f.sb]
    globalStore f.space f.clsM [{ pa := pa, n := n, mask := 2 ^ n - 1, data := b, named := va }]
  pure .seq

/-! ## Vector memory access (R219 to R221) -/

/-- The enabled lanes of an instruction. -/
def Ctx.lanes (x : Ctx) (f : Fields) : List Nat := (List.range (lanesOf (tyWidth f.tyN))).filter (x.laneOn f)

/-- A register takes the values of some lanes. -/
def setLanes (k n : Nat) (ls : List (Nat × Nat)) : M Unit :=
  let r := gatherLanes n ls
  modCtx (fun y => y.setV k ((y.v k &&& ~~~r.2) ||| r.1))

/-- The byte mask of enabled lanes in a 64-byte access. -/
def laneMask (bytes : Nat) (ls : List Nat) : Nat := (ls.map (fun i => (2 ^ bytes - 1) * 2 ^ (bytes * i))).sum

/-- `ldv.k` (R219). -/
def loadBlockLanes (x : Ctx) (f : Fields) : M Unit := do
  let (w, b) ← readBlock x (x.localAddr f.imm f.sa)
  let lo := if f.sb.getLsbD 0 then 16 else 0
  bump [f.sa]
  setLanes (f.dst.toNat - 0x40) 32 (((List.range 16).filter (x.laneOn f)).map (fun i => (i, (dequant w 0 10 b (i + lo)).1)))

def bodyLdv (f : Fields) : M Ctl := do
  let x ← getCtx
  let k := f.dst.toNat - 0x40
  if f.tyN = 12 then loadBlockLanes x f
  else
    let n := tyWidth f.tyN
    if f.space = 0 then
      let v ← localRead (x.localAddr f.imm f.sa) 64
      bump [f.sa]
      setLanes k n ((x.lanes f).map (fun i => (i, laneOf n v i)))
    else
      let va := x.globalAddr f
      let pa ← globalPa f.space va 64 needLoad
      let els : List Elem := (x.lanes f).map (fun i =>
        { lane := i, pa := pa + n / 8 * i, bytes := n / 8, named := va })
      inOrder els
      pushWork f (.vload (n / 8) f.clsM k els)
  pure .seq

/-- `stv.k` (R219). -/
def storeBlockLanes (x : Ctx) (f : Fields) : M Unit := do
  let a := (x.v (f.sb.toNat - 0x40)).toNat
  let b := (x.v (f.sc.toNat - 0x40)).toNat
  let el := fun e => if x.laneOn f e then (if e < 16 then laneOf 32 a e else laneOf 32 b (e - 16)) else 0
  let addr := x.localAddr f.imm f.sa
  let (fmt, n) ← blockAt x addr
  let r := quantiseTy (fmtWidth fmt) x.rm 10 ((List.range 32).map el)
  bump [f.sa]
  writeBlock addr fmt n r.1
  raiseFlags r.2

def bodyStv (f : Fields) : M Ctl := do
  let x ← getCtx
  if f.tyN = 12 then storeBlockLanes x f
  else
    let n := tyWidth f.tyN
    if f.space = 0 then
      let v ← rdV x f.imm f.sb
      let l ← localLoc (x.localAddr f.imm f.sa) 64 true
      bump [f.sa, f.sb]
      act (fun s => s.storeLanes (coreOf s.cur) (l % 65536) n (x.laneOn f) (laneOf n v))
    else
      let va := x.globalAddr f
      let pa ← globalPa f.space va 64 needStore
      let v ← rdV x f.imm f.sb
      bump [f.sb]
      let mask := laneMask (n / 8) (x.lanes f)
      if mask ≠ 0 then
        globalStore f.space f.clsM [{ pa := pa, n := 64, mask := mask, data := v, named := va }]
  pure .seq

/-- The vclk cycles that an access of n bytes at each of some vault offsets waits for sub-banks: one less
than the most words that one sub-bank of a physical bank is asked for (R72, R79). -/
def bankWaits (n : Nat) (offs : List Nat) : Nat :=
  let words := (offs.flatMap (fun o => (List.range ((n + 3) / 4)).map (fun i => o / 4 + i))).eraseDups
  let same := fun (a b : Nat) => a / 2048 == b / 2048 && a % 16 == b % 16
  (words.map (fun w => (words.filter (same w)).length)).foldl Nat.max 1 - 1

/-- A local access of n bytes per lane counts the waits that its own lanes cause (R79, R221). -/
def countBanks (n : Nat) (addrs : List Word) : M Unit := do
  let t ← ask State.cur
  let offs ← ask (fun s => addrs.filterMap (fun a => s.vaultOff? t a.toNat))
  modCtx (fun y => { y with vcnf := y.vcnf + w64 (bankWaits n offs) })

/-- Loads of one element per enabled lane, lane i at `addr i`. -/
def loadLanes (x : Ctx) (f : Fields) (addr : Nat → Word) : M Ctl := do
  let n := tyWidth f.tyN
  let k := f.dst.toNat - 0x40
  if f.space = 0 then
    let vs ← (x.lanes f).mapM (fun i => do
      let v ← localRead (addr i) (n / 8)
      pure (i, v))
    countBanks (n / 8) ((x.lanes f).map addr)
    bump [f.sa]
    setLanes k n vs
  else
    let els ← (x.lanes f).mapM (fun i => do
      let pa ← globalPa f.space (addr i) (n / 8) needLoad
      let el : Elem := { lane := i, pa := pa, bytes := n / 8, named := addr i }
      pure el)
    inOrder els
    pushWork f (.vload (n / 8) f.clsM k els)
  pure .seq

/-- Stores of one element per enabled lane, in ascending lane order. -/
def storeEachLane (x : Ctx) (f : Fields) (addr : Nat → Word) : M Ctl := do
  let n := tyWidth f.tyN
  let c := (x.v (f.sc.toNat - 0x40)).toNat
  if f.space = 0 then
    let ls ← (x.lanes f).mapM (fun i => do
      let l ← localLoc (addr i) (n / 8) true
      pure (i, l))
    countBanks (n / 8) ((x.lanes f).map addr)
    bump [f.sa]
    act (fun s => ls.foldl (fun s e => s.writeVault (coreOf s.cur) (e.2 % 65536) (n / 8) (laneOf n c e.1)) s)
  else
    let qs ← (x.lanes f).mapM (fun i => do
      let pa ← globalPa f.space (addr i) (n / 8) needStore
      let q : Piece := { pa := pa, n := n / 8, mask := 2 ^ (n / 8) - 1, data := laneOf n c i, named := addr i }
      pure q)
    globalStore f.space f.clsM qs
  pure .seq

/-- The base address of a memory instruction. -/
def Ctx.baseAddr (x : Ctx) (f : Fields) : Word :=
  if f.space = 0 then x.localAddr f.imm f.sa else x.globalAddr f

/-- A strided address (R220). -/
def stridedAt (a s : Word) (i : Nat) : Word := a + w64 i * s

/-- An indexed address (R221). -/
def indexedAt (a : Word) (n b i : Nat) : Word := a + w64i (sextI (laneOf n b i) n * ((n / 8 : Nat) : Int))

def bodyVlds (f : Fields) : M Ctl := do
  let x ← getCtx
  let s ← rd64 x f.imm f.sb
  loadLanes x f (stridedAt (x.baseAddr f) s)

def bodyVsts (f : Fields) : M Ctl := do
  let x ← getCtx
  let s ← rd64 x f.imm f.sb
  storeEachLane x f (stridedAt (x.baseAddr f) s)

def bodyVgath (f : Fields) : M Ctl := do
  let x ← getCtx
  loadLanes x f (indexedAt (x.baseAddr f) (tyWidth f.tyN) (x.v (f.sb.toNat - 0x40)).toNat)

def bodyVscat (f : Fields) : M Ctl := do
  let x ← getCtx
  storeEachLane x f (indexedAt (x.baseAddr f) (tyWidth f.tyN) (x.v (f.sb.toNat - 0x40)).toNat)

/-! ## Prefetch, write-back, invalidate (R222, R223) -/

/-- What a prefetch of a physical address does: a plain one enters a miss of the slice. -/
def State.prefetch (s : State) (t cls pa : Nat) : State :=
  if s.wrap ≠ 0 || paSpace pa ≥ 0xE then s
  else
    match s.home? pa with
    | none => s
    | some h =>
      let ln := pa / 128
      let fi := fieldOf t
      let own := h.cube == s.cubeid
      let cls := if cls = 0 && !own then 1 else cls
      if !s.reachable h.cube || (s.held? fi ln).isSome || s.excluded t (s.dirAt h) pa 1 false then s
      else
        match cls with
        | 0 =>
          if (look? (s.field fi).miss ln).isSome then s
          else s.modField fi (fun f => { f with miss := put f.miss ln {} })
        | 1 => (if own then s.recallOwners h.stack ln else s).streamFill h.loc fi ln
        | _ => s

/-- PREF never faults: an address that does not translate drops the prefetch. -/
def bodyPref (f : Fields) : M Ctl := do
  let x ← getCtx
  if f.space = 1 then
    act (fun s => match s.translateFor s.cur (x.globalAddr f) needLoad with
      | .ok (pa, _) => s.prefetch s.cur f.clsM pa
      | .error _ => s)
  pure .seq

/-- INVL on one line of the issuing field's slice. -/
def State.invalLine (s : State) (fi ln : Nat) : State :=
  match look? (s.field fi).l2 ln with
  | some l => (if l.dirty then s.writeHome ln l else s).unhold fi ln
  | none => s

/-- Translates every page of a range; the physical address of each page. -/
def pagesOf (first : Nat) : Nat → M (List Nat)
  | 0 => pure []
  | n + 1 => do
    let pa ← translate (w64 (first * 4096)) needLoad
    let rest ← pagesOf (first + 1) n
    pure (pa :: rest)

/-- WBK and INVL (R223). -/
def maintain (f : Fields) (g : State → Nat → Nat → State) : M Ctl := do
  let x ← getCtx
  let n ← rd64 x f.imm f.sb
  needOp (n.toNat ≤ 2 ^ 20)
  if f.space = 1 && n ≠ 0 then
    let a := (x.globalAddr f).toNat
    let last := a + n.toNat - 1
    let ps ← pagesOf (a / 4096) (last / 4096 - a / 4096 + 1)
    -- no hub writes back during the pause of a wrap (R117)
    waitFor (← ask (fun s => s.wrap == 0))
    act (fun s => (List.range (last / 128 - a / 128 + 1)).foldl (fun s i =>
      let ln := a / 128 + i
      g s (fieldOf s.cur) (ps.getD (ln / 32 - a / 4096) 0 / 128 + ln % 32)) s)
  pure .seq

def bodyWbk (f : Fields) : M Ctl := maintain f State.cleanLine
def bodyInvl (f : Fields) : M Ctl := maintain f State.invalLine

/-! ## Fences (R129) -/

/-- What a release waits for: earlier loads and atomics returned, posted stores acknowledged. A
refusal found raises the posted-store trap against the release; in a handler it is held until SRET (R353). -/
def releaseWaits : M Unit := do
  let x ← getCtx
  -- an instruction that re-executes alone has waited at its first issue; what stands since came after it (R341)
  if x.lone.isSome then return
  let me ← ask State.cur
  waitFor (x.pend.all (fun p => p.done || !p.work.isAccess))
  match x.refusal, x.sup with
  | some r, false => throw (.exc { cause := cPosted, tval := r.addr, loge := r.entry })
  | _, _ => pure ()
  waitFor (!(← ask (fun s => (s.core (coreOf me)).log.any (fun e => e.2.tid == me && e.2.act == x.act))))

/-- The same wait for the other events that release (R128): a refusal found is delivered at the
next instruction boundary (R343). -/
def releaseOrder : M Unit := do
  let x ← getCtx
  let me ← ask State.cur
  waitFor (x.pend.all (fun p => p.done || !p.work.isAccess))
  waitFor (!(← ask (fun s => (s.core (coreOf me)).log.any (fun e => e.2.tid == me && e.2.act == x.act))))

def bodyFence (f : Fields) : M Ctl := do
  let x ← getCtx
  let me ← ask State.cur
  waitFor (x.pend.all (fun p => p.done || !p.work.isAccess))
  if f.ord ≥ 2 then releaseWaits
  -- core scope: the ordering of the alias and aperture views (R82)
  if f.scope = 0 then waitFor (!(← ask (fun s => s.ownVaultPosted me)))
  if f.ord % 2 = 1 then act (fun s => s.acquire me f.scope (fun _ => true))
  pure .seq

/-! ## Atomics (R225 to R227) -/

/-- The common form of the atomics. -/
def atomic (f : Fields) : M Ctl := do
  let x ← getCtx
  let n := tyBytes f.tyN
  let va := x.x f.sa.toNat + sextImm f.imm
  let pa ← globalPa f.space va n needAtomic
  let b ← rd x f.tyN f.imm f.sb
  bump [f.sb]
  if f.ord ≥ 2 then releaseWaits
  let el : Elem := { lane := 0, pa := pa, bytes := n, named := va }
  inOrder [el]
  pushWork f (.atomic f.sub.toNat f.tyN f.ord f.scope (x.slotOf f.dst) (w64 b)
    (w64 ((x.x f.dst.toNat).toNat % 2 ^ tyWidth f.tyN)) el)
  pure .seq

def bodyAtadd (f : Fields) : M Ctl := atomic f
def bodyAtsub (f : Fields) : M Ctl := atomic f
def bodyAtmin (f : Fields) : M Ctl := atomic f
def bodyAtmax (f : Fields) : M Ctl := atomic f
def bodyAtand (f : Fields) : M Ctl := atomic f
def bodyAtor (f : Fields) : M Ctl := atomic f
def bodyAtxor (f : Fields) : M Ctl := atomic f
def bodyAtswp (f : Fields) : M Ctl := atomic f
def bodyAtcas (f : Fields) : M Ctl := atomic f
def bodyAtfadd (f : Fields) : M Ctl := atomic f
def bodyAtinc (f : Fields) : M Ctl := atomic f

/-! ## The meanings -/

def execLd (f : Fields) (s : State) : Host.Outcome State Fault Refusal := issue .ld bodyLd f s
def execSt (f : Fields) (s : State) : Host.Outcome State Fault Refusal := issue .st bodySt f s
def execLdv (f : Fields) (s : State) : Host.Outcome State Fault Refusal := issue .ldv bodyLdv f s
def execStv (f : Fields) (s : State) : Host.Outcome State Fault Refusal := issue .stv bodyStv f s
def execVlds (f : Fields) (s : State) : Host.Outcome State Fault Refusal := issue .vlds bodyVlds f s
def execVsts (f : Fields) (s : State) : Host.Outcome State Fault Refusal := issue .vsts bodyVsts f s
def execVgath (f : Fields) (s : State) : Host.Outcome State Fault Refusal := issue .vgath bodyVgath f s
def execVscat (f : Fields) (s : State) : Host.Outcome State Fault Refusal := issue .vscat bodyVscat f s
def execPref (f : Fields) (s : State) : Host.Outcome State Fault Refusal := issue .pref bodyPref f s
def execWbk (f : Fields) (s : State) : Host.Outcome State Fault Refusal := issue .wbk bodyWbk f s
def execInvl (f : Fields) (s : State) : Host.Outcome State Fault Refusal := issue .invl bodyInvl f s
def execFence (f : Fields) (s : State) : Host.Outcome State Fault Refusal := issue .fence bodyFence f s
def execAtadd (f : Fields) (s : State) : Host.Outcome State Fault Refusal := issue .atadd bodyAtadd f s
def execAtsub (f : Fields) (s : State) : Host.Outcome State Fault Refusal := issue .atsub bodyAtsub f s
def execAtmin (f : Fields) (s : State) : Host.Outcome State Fault Refusal := issue .atmin bodyAtmin f s
def execAtmax (f : Fields) (s : State) : Host.Outcome State Fault Refusal := issue .atmax bodyAtmax f s
def execAtand (f : Fields) (s : State) : Host.Outcome State Fault Refusal := issue .atand bodyAtand f s
def execAtor (f : Fields) (s : State) : Host.Outcome State Fault Refusal := issue .ator bodyAtor f s
def execAtxor (f : Fields) (s : State) : Host.Outcome State Fault Refusal := issue .atxor bodyAtxor f s
def execAtswp (f : Fields) (s : State) : Host.Outcome State Fault Refusal := issue .atswp bodyAtswp f s
def execAtcas (f : Fields) (s : State) : Host.Outcome State Fault Refusal := issue .atcas bodyAtcas f s
def execAtfadd (f : Fields) (s : State) : Host.Outcome State Fault Refusal := issue .atfadd bodyAtfadd f s
def execAtinc (f : Fields) (s : State) : Host.Outcome State Fault Refusal := issue .atinc bodyAtinc f s

end Sys2Proof.Machine
end

