-- ==== Sys2Proof/Machine/Copy.lean ====
section
/-! DEFINITION. Copies: OP 0x22 (R228 to R234), the range scoreboard (R83) and the copy engine
(R115, R132). -/

namespace Sys2Proof.Machine

open Sys2Proof

/-! ## Ranges of a copy -/

/-- The parts of a range that lie in one page each: first byte and length. -/
def pageParts (a : Nat) : Nat → Nat → List (Nat × Nat)
  | 0, _ => []
  | fuel + 1, n =>
    if n = 0 then []
    else
      let m := Nat.min n (4096 - a % 4096)
      (a, m) :: pageParts (a + m) fuel (n - m)

/-- The page parts of [a, a + n). -/
def partsOf (a n : Nat) : List (Nat × Nat) := pageParts a (n / 4096 + 2) n

/-- Translates the parts of a global range; the physical address of each. -/
def globalParts (space : Nat) (va : Word) (n : Nat) (nd : Need) : M (List (Nat × Nat)) :=
  (partsOf va.toNat n).mapM (fun p => do
    let pa ← pagePa space (w64 p.1) 1 nd
    pure (pa, p.2))

/-- The physical vault parts of a local range: protection, pages that are not resident, and array
reads ahead of a write (R73, R75, R83). -/
def localParts (a : Word) (n : Nat) (store : Bool) : M (List (Nat × Nat)) := do
  let s ← get
  let t := s.cur
  match s.localFault t a.toNat n 1 with
  | some c => raise c a
  | none =>
    waitFor (!(store && (s.ctx t).arrHit a.toNat n))
    (partsOf a.toNat n).mapM (fun p =>
      match s.vaultOff? t p.1 with
      | some o => pure (o, p.2)
      | none => throw (.page (p.1 / 4096)))

/-- The two sides of a copy cut into pieces that are contiguous on both. -/
def zipParts : Nat → List (Nat × Nat) → List (Nat × Nat) → List Seg
  | 0, _, _ => []
  | fuel + 1, (a, n) :: s, (b, m) :: d =>
    let k := Nat.min n m
    { src := a, dst := b, n := k } ::
      zipParts fuel (if k = n then s else (a + k, n - k) :: s) (if k = m then d else (b + k, m - k) :: d)
  | _, _, _ => []

/-- Segments of one pair of ranges. -/
def segsOf (s d : List (Nat × Nat)) : List Seg := zipParts (s.length + d.length) s d

/-- The range [lo, hi) of a scoreboard entry: the physical extent that encloses every local byte (R83). -/
def rangesOf (ps : List (Nat × Nat)) : List (Nat × Nat) :=
  match ps with
  | [] => []
  | p :: _ => [(ps.foldl (fun m q => Nat.min m q.1) p.1, ps.foldl (fun m q => Nat.max m (q.1 + q.2)) 0)]

/-! ## Issue -/

/-- The tag of a context's copy (R229). -/
def copyTag (t seq : Nat) : Word := w64 (ctxIx t * 2 ^ 28 + seq)

/-- The sequence that follows. -/
def nextSeq (x : Ctx) : Nat := (x.copySeq + 1) % 2 ^ 28

/-- The engine of a context's field takes ownership of a line for a copy, if the home grants it now
(R96, R115): a line in conflicting tenure, one that another copy has taken, and every line during a wrap
have to wait. -/
def State.ownFor (s : State) (t ln : Nat) : State × Bool :=
  let fi := fieldOf t
  if s.wrap ≠ 0 || paSpace (128 * ln) ≥ 0xE then (s, false)
  else
    match s.home? (128 * ln) with
    | none => (s, false)
    | some h =>
      if h.cube ≠ s.cubeid || s.excluded t h.stack (128 * ln) 128 true || s.engineOwns ln (fun _ => true) then (s, false)
      else
        let s0 := match look? (s.field fi).l2 ln with
          | some l => if l.st == LineSt.l then s.unhold fi ln else s
          | none => s
        let r := s0.ownLine h.stack h.loc fi ln
        (r.2, r.1)

/-- The lines of a copy's global destination. -/
def destLines (segs : List Seg) : List Nat :=
  (segs.flatMap (fun g => (List.range ((g.dst + g.n - 1) / 128 + 1 - g.dst / 128)).map (fun i => g.dst / 128 + i))).eraseDups

/-- At the issue of a plain copy to global bytes: the lines that the engine has taken (R115). -/
def State.ownAll (s : State) (t : Nat) (lines : List Nat) : State × List Nat :=
  lines.foldl (fun (a : State × List Nat) ln =>
    let r := a.1.ownFor t ln
    (r.1, if r.2 then a.2 ++ [ln] else a.2)) (s, [])

/-- A copy enters its core's engine with its scoreboard entries and the lines it has taken. -/
def State.enterCopy (s : State) (k : Copy) (es : List SbEnt) : State :=
  let o := s.ownAll k.tid (if k.gdst && k.cls == 0 then destLines k.segs else [])
  o.1.modCore (coreOf k.tid) (fun c => { c with copies := c.copies ++ [{ k with owned := o.2 }], sb := c.sb ++ es })

/-- The record of a retired copy, posted while its context's copy events are enabled (R280). -/
def State.copyRecord (s : State) (t act seq : Nat) (fail : Bool) : State :=
  let x := s.ctx t
  if x.cevon && x.act == act && x.st != .free then
    s.postEvent t (w64 (2 * 2 ^ 60 + (if fail then 2 ^ 59 else 0) + (copyTag t seq).toNat % 2 ^ 32))
  else s

/-- Enters a copy: it takes its scoreboard entries and its sequence, its engine takes ownership of its
plain destination lines, and its tag is written. It stalls while the entries it needs are not free, and one
that needs none while all 16 are in use (R83). -/
def pushCopy (x : Ctx) (f : Fields) (kind : CopyKind) (cls : Nat) (segs : List Seg) (gsrc gdst : Bool)
    (ents : List (List (Nat × Nat))) (srcs dsts : List (Nat × Nat) := []) : M Unit := do
  let me ← ask State.cur
  let c ← getCore
  waitFor (c.sb.length + Nat.max 1 ents.length ≤ 16)
  let seq := nextSeq x
  let k : Copy := { tid := me, act := x.act, seq := seq, cls := cls, kind := kind, segs := segs, gsrc := gsrc,
                    gdst := gdst, idx := x.issued, lord := c.nextOrder, srcs := srcs, dsts := dsts }
  let es : List SbEnt := ents.map (fun r => { rs := r, tid := me, seq := seq })
  act (fun s => s.enterCopy k es)
  act (fun s => s.modCtx me (fun y => ({ y with copySeq := seq }).setX f.dst.toNat (copyTag me seq)))

/-- A copy of nothing: its tag is retired at once. -/
def emptyCopy (x : Ctx) (f : Fields) : M Unit := do
  let me ← ask State.cur
  modCtx (fun y => ({ y with copySeq := nextSeq x }).setX f.dst.toNat (copyTag me (nextSeq x)))
  act (fun s => s.copyRecord me x.act (nextSeq x) false)

/-- Multiples of 4, or the alignment fault with an address (R230). -/
def need4 (a : Word) (vs : List Nat) : M Unit := need (vs.all (fun v => v % 4 = 0)) cAlign a

/-- What a copy needs of its source and destination pages (R328). -/
def needSrc : Need := { r := true, near := true }
def needDst : Need := { w := true, stores := true }

/-- CPY between local and global bytes (R230). -/
def cpyLocal (f : Fields) (inward : Bool) : M Ctl := do
  let x ← getCtx
  let n := (← rd64 x f.imm f.sb).toNat
  let g := x.x f.sa.toNat
  let a := x.localAddr f.imm f.sc
  need4 g [g.toNat, n]
  need4 a [a.toNat]
  if n = 0 then
    bump [f.sc]
    emptyCopy x f
  else
    match (← get).localFault (← get).cur a.toNat n 1 with
    | some c => raise c a
    | none => pure ()
    let gp ← globalParts f.space g n (if inward then needSrc else needDst)
    let lp ← localParts a n inward
    bump [f.sc]
    if inward then pushCopy x f .bytes f.clsM (segsOf gp lp) true false [rangesOf lp]
    else pushCopy x f .bytes f.clsM (segsOf lp gp) false true [rangesOf lp]
  pure .seq

def bodyCpyIn (f : Fields) : M Ctl := cpyLocal f true
def bodyCpyOut (f : Fields) : M Ctl := cpyLocal f false

def bodyCpyGlobal (f : Fields) : M Ctl := do
  let x ← getCtx
  let n := (← rd64 x f.imm f.sb).toNat
  let d := x.x f.sa.toNat
  let s := x.x f.sc.toNat
  need4 d [d.toNat, n]
  need4 s [s.toNat]
  needOp (n ≤ 2 ^ 20 && !meets d.toNat n s.toNat n)
  if n = 0 then emptyCopy x f
  else
    let dp ← globalParts f.space d n needDst
    let sp ← globalParts f.space s n needSrc
    pushCopy x f .bytes f.clsM (segsOf sp dp) true true []
  pure .seq

/-- CPY2D (R231). -/
def cpy2d (f : Fields) (inward : Bool) : M Ctl := do
  let x ← getCtx
  let sh := (← rd64 x f.imm f.sb).toNat
  let b := bits sh 15 0
  let r := bits sh 31 16
  let gp : Int := sextI (sh / 2 ^ 32) 32
  let k := f.sc.toNat - 0x80
  let a := x.a k
  let lp : Int := (x.d k).toInt
  let g := x.x f.sa.toNat
  need4 g [g.toNat, b, gp.natAbs]
  need4 a [a.toNat, lp.natAbs]
  need (!(b = 0 && r ≠ 0)) cAlign g
  needOp (r * b ≤ 2 ^ 20)
  if r = 0 then emptyCopy x f
  else
    let rowL := fun (j : Nat) => a + w64i (lp * j)
    let rowG := fun (j : Nat) => g + w64i (gp * j)
    let s ← get
    match (List.range r).find? (fun j => (s.localFault s.cur (rowL j).toNat b 1).isSome) with
    | some j => raise ((s.localFault s.cur (rowL j).toNat b 1).getD cProt) (rowL j)
    | none => pure ()
    let gs ← (List.range r).mapM (fun j => globalParts f.space (rowG j) b (if inward then needSrc else needDst))
    let lo := Nat.min a.toNat (rowL (r - 1)).toNat
    let hi := Nat.max a.toNat (rowL (r - 1)).toNat + b
    let ext ← localParts (w64 lo) (hi - lo) inward
    let ls ← (List.range r).mapM (fun j => localParts (rowL j) b inward)
    if inward then
      pushCopy x f .bytes f.clsM ((List.zipWith segsOf gs ls).flatten) true false [rangesOf ext]
    else
      pushCopy x f .bytes f.clsM ((List.zipWith segsOf ls gs).flatten) false true [rangesOf ext]
  pure .seq

def bodyCpy2dIn (f : Fields) : M Ctl := cpy2d f true
def bodyCpy2dOut (f : Fields) : M Ctl := cpy2d f false

/-- The local extent of one side of CPYL: first byte and length. A raw side of a conversion has
the raw elements of n blocks; a block side runs from its first mantissa byte to its last exponent
byte. The side lies within one bank, a block side's blocks below the capacity (R232). -/
def sideExtent (fmt : BitVec 8) (a : Word) (raw n : Nat) : M (Nat × Nat) := do
  if fmtIsBlock fmt then
    let w := fmtWidth fmt
    match blockNo w a.toNat with
    | none => raise cAlign a
    | some b =>
      needOp (b + n ≤ blkCapacity w)
      pure (a.toNat, a.toNat / 8192 * 8192 + 7936 + b + n - a.toNat)
  else
    need4 a [a.toNat]
    needOp (a.toNat % 8192 + raw ≤ 8192)
    pure (a.toNat, raw)

/-- CPYL (R232). -/
def bodyCpyl (f : Fields) : M Ctl := do
  let x ← getCtx
  let n := (← rd64 x f.imm f.sb).toNat
  let d := x.localAddr f.imm f.sa
  let s := x.localAddr f.imm f.sc
  need (d.toNat < 0xC000) cProt d
  need (s.toNat < 0xC000) cProt s
  let df := x.bank (d.toNat / 8192)
  let sf := x.bank (s.toNat / 8192)
  let both := fmtIsBlock df == fmtIsBlock sf
  needOp (!both || f.ty == 0)
  let raw := if both then n else n * 32 * tyBytes f.tyN
  let codes := [f.sa, f.sc]
  needOp (fmtIsBlock df || fmtIsBlock sf || n % 4 = 0)
  let de ← sideExtent df d raw n
  let se ← sideExtent sf s raw n
  if n = 0 then
    bump codes
    emptyCopy x f
  else
    needOp (!meets de.1 de.2 se.1 se.2)
    let sp ← localParts (w64 se.1) se.2 false
    let dp ← localParts (w64 de.1) de.2 true
    bump codes
    let kind : CopyKind := if !fmtIsBlock df && !fmtIsBlock sf then .bytes
      else .convert sf df f.tyN (x.mode f) n s.toNat d.toNat
    pushCopy x f kind 0 (segsOf sp dp) false false [rangesOf sp, rangesOf dp] sp dp
  pure .seq

/-! ## CWAIT (R234) -/

/-- Whether a tag's sequence covers another. -/
def covers (tag s : Nat) : Bool := decide ((tag + 2 ^ 28 - s % 2 ^ 28) % 2 ^ 28 < 2 ^ 27)

/-- Raises the oldest pending failure among some of the context's copies; raising it consumes
it. -/
def raiseFailure (tag : Nat) : M Unit := do
  let x ← getCtx
  let mine := x.copyErr.filter (fun e => covers tag e.1)
  match leastBy (fun (e : Nat × Exc) => 2 ^ 28 - (tag + 2 ^ 28 - e.1 % 2 ^ 28) % 2 ^ 28) mine with
  | none => pure ()
  | some e =>
    modCtx (fun y => { y with copyErr := y.copyErr.erase e })
    throw (.excKeep e.2)

def bodyCwait (f : Fields) : M Ctl := do
  let x ← getCtx
  let me ← ask State.cur
  let tag := (x.x f.sa.toNat).toNat
  needOp (tag / 2 ^ 32 = 0 && tag / 2 ^ 28 == ctxIx me)
  let seq := tag % 2 ^ 28
  let c ← getCore
  waitFor (!c.copies.any (fun y => y.tid == me && covers seq y.seq))
  raiseFailure seq
  pure .seq

/-! ## The copy engine (R115, R132, R233) -/

/-- Bytes until the end of a 128-byte line. -/
def lineRest (a : Nat) : Nat := 128 - a % 128

/-- What comes of a copy's work: the pieces that still wait, the failure that ended it. -/
structure Moved where
  st   : State
  rest : List Seg
  fail : Option Nat

/-- The check of an aperture or scratch place that the engine makes when it gets there (R233). -/
def State.engineCheck (s : State) (t pa : Nat) : Option (Option Nat) :=
  if paSpace pa ≥ 0xE then s.specialCheck t pa else none

/-- Reads n bytes of the source side of a copy. A line that another engine has taken is waited for (R115). -/
def State.copyRead (s : State) (k : Copy) (a n : Nat) : Acc Nat :=
  if k.gsrc then
    match s.engineCheck k.tid a with
    | some (some c) => .fault c
    | some none => .stall s
    | none => 
      if s.homeHolds k.tid k.cls a false then .stall s
      else
        match s.load k.tid k.cls a n with
        | .ok v s1 => .ok v (s1.passFar kRead a (leBytes 1 n))
        | r => r
  else
    let loc := s.vaultLoc (coreOf k.tid) a
    if s.vaultBad loc n then .fault cData else .ok (s.mem.val loc n) s

/-- Writes n bytes of the destination side of a copy. -/
def State.copyWrite (s : State) (k : Copy) (a n v : Nat) : Acc Unit :=
  if k.gdst then
    match s.engineCheck k.tid a with
    | some (some c) => .fault c
    | some none => .stall s
    | none => 
      if s.homeHolds k.tid k.cls a true then .stall s
      else
        match s.store k.tid k.cls a n (2 ^ n - 1) v with
        | .ok _ s1 => .ok () (s1.passFar kWrite a (writePayload (2 ^ n - 1) n v))
        | r => r
  else .ok () (s.writeVault (coreOf k.tid) a n v)

/-- A segment in pieces that stay inside one line on both sides. -/
def cutLines (src dst : Nat) : Nat → Nat → List Seg
  | 0, _ => []
  | fuel + 1, n =>
    if n = 0 then []
    else
      let m := Nat.min n (Nat.min (lineRest src) (lineRest dst))
      { src := src, dst := dst, n := m } :: cutLines (src + m) (dst + m) fuel (n - m)

/-- The pieces of a copy's segments. -/
def linePieces (segs : List Seg) : List Seg := segs.flatMap (fun g => cutLines g.src g.dst (g.n + 1) g.n)

/-- Bytes moved before a failure stay moved (R233): the longest run of pieces that succeeds. -/
def State.moveSome (s : State) (k : Copy) : List (Nat × Nat × Nat) → State
  | [] => s
  | (a, d, n) :: ps =>
    match s.copyRead k a n with
    | .ok v s1 => (match s1.copyWrite k d n v with
      | .ok _ s2 => s2.moveSome k ps
      | _ => s)
    | _ => s

/-- A segment in pieces of 4 bytes. -/
def Seg.words (g : Seg) : List (Nat × Nat × Nat) :=
  (List.range (g.n / 4)).map (fun i => (g.src + 4 * i, g.dst + 4 * i, 4))

/-- Moves the pieces that can be moved, in order, each line by itself (R114, R115). A piece that has to wait
is kept, and so is a later one with bytes of its destination. -/
def State.movePieces (s : State) (k : Copy) (kept : List Seg) : List Seg → Moved
  | [] => { st := s, rest := kept, fail := none }
  | g :: gs =>
    if kept.any (fun q => meets g.dst g.n q.dst q.n) then s.movePieces k (kept ++ [g]) gs
    else
      match s.copyRead k g.src g.n with
      | .ok v s1 =>
        (match s1.copyWrite k g.dst g.n v with
         | .ok _ s2 => s2.movePieces k kept gs
         | .stall _ => s.movePieces k (kept ++ [g]) gs
         | .fault c => { st := s.moveSome k g.words, rest := [], fail := some c })
      | .stall _ => s.movePieces k (kept ++ [g]) gs
      | .fault c => { st := s.moveSome k g.words, rest := [], fail := some c }

/-- The values of the block at a local address of a context. -/
def State.blockOf (s : State) (t : Nat) (fmt : BitVec 8) (a : Nat) : Blk :=
  let w := fmtWidth fmt
  let b := a % 8192 / (4 * w)
  { e := s.localVal t (a / 8192 * 8192 + 7936 + b) 1, m := blkDecode w (fmtPlane fmt) (s.localVal t a (4 * w)) }

/-- Writes the block at a local address of a context. -/
def State.setBlock (s : State) (t : Nat) (fmt : BitVec 8) (a : Nat) (k : Blk) : State :=
  let w := fmtWidth fmt
  let b := a % 8192 / (4 * w)
  (s.setLocal t a (4 * w) (blkEncode w (fmtPlane fmt) k.m)).setLocal t (a / 8192 * 8192 + 7936 + b) 1 k.e

/-- The value of a block's element; a NaN block has NaN elements (R53). -/
def blkFV (w : Nat) (k : Blk) (i : Nat) : FV :=
  if k.e = 255 then .nan false true 0 else blkVal w k.e (k.m.getD i 0)

/-- One block of a converting CPYL, and its flags. -/
def State.convertBlock (s : State) (t : Nat) (sf df : BitVec 8) (ty rm src dst i : Nat) : State × Flags :=
  let n := tyBytes ty
  if fmtIsBlock sf then
    let w := fmtWidth sf
    let b := s.blockOf t sf (src + 4 * w * i)
    if fmtIsBlock df && fmtWidth df == w then
      -- the same width: the exponent and the mantissa bits are copied, transposed where PLANE differs
      (s.setBlock t df (dst + 4 * w * i) b, 0)
    else if fmtIsBlock df then
      let r := quantise (fmtWidth df) rm ((List.range 32).map (blkFV w b))
      (s.setBlock t df (dst + 4 * fmtWidth df * i) r.1, r.2)
    else
      (List.range 32).foldl (fun (a : State × Flags) j =>
        let r := dequantTy w rm ty b j
        (a.1.setLocal t (dst + (32 * i + j) * n) n r.1, a.2 ||| r.2)) (s, 0)
  else
    let r := quantiseTy (fmtWidth df) rm ty ((List.range 32).map (fun j => s.localVal t (src + (32 * i + j) * n) n))
    (s.setBlock t df (dst + 4 * fmtWidth df * i) r.1, r.2)

/-- The local bytes that a converting copy reads: the mantissa and exponent bytes of n blocks, or raw
elements. -/
def convertReads (sf : BitVec 8) (ty n src : Nat) : List (Nat × Nat) :=
  if fmtIsBlock sf then
    let w := fmtWidth sf
    [(src, 4 * w * n), (src / 8192 * 8192 + 7936 + src % 8192 / (4 * w), n)]
  else [(src, 32 * n * tyBytes ty)]

/-- Whether a local byte of a context that a copy reads is poisoned (R233, R350). -/
def State.localBad (s : State) (t a n : Nat) : Bool :=
  (partsOf a n).any (fun p => match s.vaultOff? t p.1 with
    | some o => s.vaultBad (s.vaultLoc (coreOf t) o) p.2
    | none => false)

/-- The work of a copy. -/
def State.moveCopy (s : State) (k : Copy) : Moved :=
  match k.kind with
  | .bytes => s.movePieces k [] (linePieces k.segs)
  | .convert sf df ty rm n src dst =>
    if (convertReads sf ty n src).any (fun p => s.localBad k.tid p.1 p.2) then { st := s, rest := [], fail := some cData }
    else
      let r := (List.range n).foldl (fun (a : State × Flags) i =>
        let q := a.1.convertBlock k.tid sf df ty rm src dst i
        (q.1, a.2 ||| q.2)) (s, 0)
      { st := r.1.raiseFlags k.tid r.2, rest := [], fail := none }

/-- Whether an access of the thread that came before a copy and is not performed names a byte of
[pa, pa + n): a load or an atomic, or a posted store. -/
def State.copyAfter (s : State) (k : Copy) (pa n : Nat) : Bool :=
  let x := s.ctx k.tid
  (x.act == k.act && x.pend.any (fun p => !p.done && decide (p.idx < k.idx) &&
    p.work.els.any (fun e => meets e.pa e.bytes pa n))) ||
  (s.core (coreOf k.tid)).log.any (fun e => e.2.tid == k.tid && e.2.act == k.act && decide (e.2.order < k.lord) &&
    meets e.2.pa e.2.size pa n)

/-- Whether an accepted query of the thread that came before a copy has still to be answered into local
bytes of it. -/
def Core.queryBefore (c : Core) (k : Copy) (o n : Nat) : Bool :=
  (c.sb.takeWhile (fun e => !(e.tid == k.tid && e.seq == k.seq && e.ticket == 0))).any (fun e =>
    e.tid == k.tid && e.ticket != 0 && e.rs.any (fun r => decide (r.1 < o + n) && decide (o < r.2)))

/-- The bytes that a copy has still to read. -/
def Copy.reads (k : Copy) : List (Nat × Nat) :=
  match k.kind with
  | .bytes => k.segs.map (fun g => (g.src, g.n))
  | .convert .. => k.srcs

/-- The bytes that a copy has still to write. -/
def Copy.writes (k : Copy) : List (Nat × Nat) :=
  match k.kind with
  | .bytes => k.segs.map (fun g => (g.dst, g.n))
  | .convert .. => k.dsts

/-- Whether two lists of ranges share a byte. -/
def anyMeets (l r : List (Nat × Nat)) : Bool := l.any (fun a => r.any (fun b => meets a.1 a.2 b.1 b.2))

/-- Whether an earlier access of the thread keeps a copy waiting: a load or an atomic not
performed, a posted store, an earlier copy, a query's answer, to its bytes (R124, R132). -/
def State.copyBlocked (s : State) (k : Copy) : Bool :=
  let c := s.core (coreOf k.tid)
  let before := c.copies.takeWhile (fun y => y != k)
  k.reads.any (fun g => if k.gsrc then s.copyAfter k g.1 g.2 else c.queryBefore k g.1 g.2) ||
  k.writes.any (fun g => if k.gdst then s.copyAfter k g.1 g.2 else c.queryBefore k g.1 g.2) ||
  before.any (fun y => y.tid == k.tid &&
    ((k.gsrc == y.gdst && anyMeets k.reads y.writes) || (k.gdst == y.gdst && anyMeets k.writes y.writes) ||
     (k.gdst == y.gsrc && anyMeets k.writes y.reads)))

/-- A copy's tag and scoreboard entries retire. -/
def State.dropCopy (s : State) (k : Copy) : State :=
  s.modCore (coreOf k.tid) (fun c => { c with
    copies := c.copies.erase k
    sb := c.sb.filter (fun e => !(e.tid == k.tid && e.seq == k.seq && e.ticket == 0)) })

/-- A copy goes on with what it has still to move; its engine keeps the lines that it has not written (R115). -/
def State.keepCopy (s : State) (k : Copy) (rest : List Seg) : State :=
  s.modCore (coreOf k.tid) (fun c => { c with copies := c.copies.map (fun y =>
    if y.tid == k.tid && y.seq == k.seq then
      { y with segs := rest, owned := y.owned.filter (fun ln => (destLines rest).contains ln) } else y) })

/-- COPY_RETIRE: the engine moves what it can; once all reads and writes of the copy are performed, it
retires. -/
def State.copyRetire (s : State) (tid seq : Nat) : State :=
  match (s.core (coreOf tid)).copies.find? (fun k => k.tid == tid && k.seq == seq) with
  | none => s
  | some k =>
    if (s.field (fieldOf tid)).frozen || s.copyBlocked k then s
    else
      let m := s.moveCopy k
      match m.fail with
      | some c =>
        let e : Exc := { cause := c, tval := copyTag tid seq, eng := true }
        ((m.st.dropCopy k).modCtx tid (fun x =>
          if x.act == k.act then { x with copyErr := x.copyErr ++ [(seq, e)] } else x)).copyRecord tid k.act seq true
      | none =>
        if m.rest.isEmpty then (m.st.dropCopy k).copyRecord tid k.act seq false else m.st.keepCopy k m.rest

/-! ## The meanings -/

def execCopyRetire (tid seq : Nat) (s : State) : Host.Outcome State Fault Refusal := .next (s.copyRetire tid seq)
def execCpyIn (f : Fields) (s : State) : Host.Outcome State Fault Refusal := issue .cpyIn bodyCpyIn f s
def execCpyOut (f : Fields) (s : State) : Host.Outcome State Fault Refusal := issue .cpyOut bodyCpyOut f s
def execCpyGlobal (f : Fields) (s : State) : Host.Outcome State Fault Refusal := issue .cpyGlobal bodyCpyGlobal f s
def execCpy2dIn (f : Fields) (s : State) : Host.Outcome State Fault Refusal := issue .cpy2dIn bodyCpy2dIn f s
def execCpy2dOut (f : Fields) (s : State) : Host.Outcome State Fault Refusal := issue .cpy2dOut bodyCpy2dOut f s
def execCpyl (f : Fields) (s : State) : Host.Outcome State Fault Refusal := issue .cpyl bodyCpyl f s
def execCwait (f : Fields) (s : State) : Host.Outcome State Fault Refusal := issue .cwait bodyCwait f s

end Sys2Proof.Machine
end

