-- ==== Sys2Proof/Machine/Tile.lean ====
section
/-! DEFINITION. Tile instructions: OP 0x23 (R235 to R242), with the checks of R99 to R107, and
the events of the directory. -/

namespace Sys2Proof.Machine

open Sys2Proof

/-! ## Records as words (R94) -/

/-- The twelve bits of an exact sharer (R97). -/
def sharerWord (x : Option Sharer) : Nat :=
  match x with
  | some e => 2 ^ 11 + (if e.own then 2 ^ 10 else 0) + e.fi % 1024
  | none => 0

/-- The requests that wait in a record's queue: its own, and those that the record blocks by
overlapping (R102). -/
def Stack.queueOf (k : Stack) (slot : Nat) : List Waiter :=
  k.waiters.filter (fun v => v.slot == slot ||
    (match look? k.dir slot with
     | some r => r.against v.write && (k.pieces v.slot).any (k.slotsOverlap slot)
     | none => false))

/-- A list of 16-bit indices as a word. -/
def indexWord (l : List Nat) : Nat := ((List.range 4).map (fun d => l.getD d 0 % 2 ^ 16 * 2 ^ (16 * d))).sum

/-- Word w of a record. A free slot shows its generation (R94, R100). -/
def State.recWord (s : State) (k slot w : Nat) : Word :=
  let st := s.stack k
  match look? st.dir slot with
  | none => if w = 0 then w64 (st.gen slot % 2 ^ 24 * 2 ^ 30) else 0
  | some r =>
    let q := st.queueOf slot
    let name := fun (v : Option Waiter) => match v with | some v => (s.holdName v.tid).toNat | none => 0
    let span := r.kind != .box
    w64 (match w with
      | 0 => (match r.kind with | .box => 1 | .span => 2 | .region => 3) * 2 ^ 62 + (if r.piece then 2 ^ 61 else 0) +
          r.part * 2 ^ 54 + r.gen * 2 ^ 30 + r.lid * 2 ^ 14
      | 1 => r.gseq * 2 ^ 48 + r.ten * 2 ^ 46 + r.rcnt * 2 ^ 22 + r.next
      | 2 => r.whold.toNat * 2 ^ 32 + name q.head?
      | 3 => name q.getLast? * 2 ^ 32 + (if q.isEmpty then 0 else 2) + (if r.whv then 1 else 0)
      | 4 => sharerWord r.sh0 + sharerWord r.sh1 * 2 ^ 12 + sharerWord r.sh2 * 2 ^ 24 + sharerWord r.sh3 * 2 ^ 36 +
          (if r.coarse then 2 ^ 48 else 0) + (if r.zs then 2 ^ 49 else 0) + (if r.zown then 2 ^ 50 else 0)
      | 5 => r.cvec.toNat
      | 6 => (if span then r.base % 2 ^ 45 * 2 ^ 7 + r.len * 2 ^ 54 else r.didx)
      | 7 => indexWord r.lo
      | 8 => indexWord r.hi
      | _ => 0)

/-! ## TOBJ (R236) -/

/-- Translates an address and answers the leaf's size as well. -/
def translateLeaf (va : Word) (nd : Need) : M (Nat × Nat) := fun s =>
  match s.translateFor s.cur va nd with
  | .ok (pa, e) => .ok (pa, e.size) (s.keepLeaf s.cur e)
  | .error x => .error x s

/-- Reads n bytes at a local address aligned to n. -/
def localAligned (a : Word) (n : Nat) : M Nat := localRead a n

/-- Whether n bytes from an address lie in one page of 2^size bytes. -/
def inOnePage (va n size : Nat) : Bool := va / 2 ^ size == (va + n - 1) / 2 ^ size

/-- The descriptor with other bases. -/
def descWith (d : BitVec 256) (base ebase : Nat) : BitVec 256 :=
  BitVec.ofNat 256 (d.toNat - descBase d - descEbase d * 2 ^ 192 + base + ebase * 2 ^ 192)

def bodyTobj (f : Fields) : M Ctl := do
  let x ← getCtx
  let d := BitVec.ofNat 256 (← localAligned (x.localAddr f.imm f.sa) 32)
  let _ ← localLoc (x.localAddr f.imm f.dst) 32 true
  needOp (descLegal d)
  let nd : Need := { r := true, tile := true }
  let (pa, sz) ← translateLeaf (w64 (descBase d)) nd
  needOp (inOnePage (descBase d) (2 ^ descTop d) sz)
  let plane := 2 ^ descTop d / 2 ^ descPitch d 0
  let eb ← if fmtBlock (descFmt d) then do
      let (e, esz) ← translateLeaf (w64 (descEbase d)) nd
      needOp (inOnePage (descEbase d) plane esz)
      pure e
    else pure 0
  bump [f.sa, f.dst]
  localWrite (x.localAddr f.imm f.dst) 32 (descWith d pa eb).toNat
  pure .seq

/-! ## TDEF (R99, R237) -/

/-- The home stack of a set of lines: all in one stack of one cube, outside the aperture and the
scratch space. -/
def State.homeOfLines (s : State) (ls : List Nat) : Option (Nat × Nat) :=
  match ls with
  | [] => none
  | l :: _ =>
    match s.home? (128 * l) with
    | none => none
    | some h =>
      if ls.all (fun m => paSpace (128 * m) < 0xE && (match s.home? (128 * m) with
        | some g => g.cube == h.cube && g.stack == h.stack
        | none => false))
      then some (h.cube, h.stack) else none

/-- The descriptor table entry of a descriptor, or the lowest free one. DESIGN CHOICE, which free entry: log 129. -/
def Stack.descSlot (k : Stack) (d : BitVec 256) : Option Nat :=
  match k.descs.find? (fun e => e.2.1 == d) with
  | some e => some e.1
  | none => if firstGap 0 k.descs < 65536 then some (firstGap 0 k.descs) else none

/-- The sharers that a new record lists: every slice that a record it overlaps lists (R99). -/
def Stack.inherit (k : Stack) (r : DirRec) : DirRec :=
  { (k.dir.filter (fun e => recsOverlap k e.2 r)).foldl (fun q e => q.joinSharers e.2) r with gseq := 0 }

/-- Creates a record for the issuing task in a directory; the handle, or 0 when the home has no room. -/
def State.define (s : State) (t : Nat) (k : Nat) (d : Option (BitVec 256)) (r : DirRec) : Word × State :=
  let st := s.stack k
  let r := { r with part := s.partOf t, lid := s.lidOf t, owner := some (t, (s.ctx t).act), quiet := s.dirClock }
  match st.freeSlot? with
  | none => (0, s)
  | some n =>
    if !s.quotaOk k r.part then (0, s)
    else
      let add : Option (Stack × DirRec) :=
        match d with
        | none => some (st, r)
        | some d =>
          match st.descSlot d with
          | none => none
          | some i =>
            let u := look st.descs i (d, 0)
            some ({ st with descs := put st.descs i (d, u.2 + 1) }, { r with didx := i })
      match add with
      | none => (0, s)
      | some (st1, r1) =>
        let s1 := (s.setStack k st1).spareOwners k ((st1.dir.filter (fun e => recsOverlap st1 e.2 r1)).map Prod.fst)
        let r2 := { (s1.stack k).inherit r1 with gen := st.gen n }
        let h := mkHandle (st.gen n) (s.dirCube k) (k % 4) n
        (h, (s1.modStack k (fun st => st.setRec n r2)).modCtx t (fun x => { x with made := x.made ++ [h] }))

/-- The probe line of a record: of the element at a box's lowest corner, or the first line of a
span (R316). -/
def State.probeLine (s : State) (k slot : Nat) : Nat :=
  match (s.stack k).hull slot with
  | some h => if h.kind == .box then descElem (look (s.stack k).descs h.didx (0, 0)).1 h.lo / 128 else h.base
  | none => 0

/-- Makes or refreshes the entry of a handle in a field's handle table of 256 entries; the one made
longest ago is replaced (R316). -/
def State.noteHandle (s : State) (fi : Nat) (h : Word) : State :=
  match s.handleSlot h with
  | none => s
  | some (k, slot, _) =>
    let ln := s.probeLine k slot
    s.modField fi (fun f =>
      let old := if f.htab.length ≥ 256 then f.htab.drop 1 else f.htab
      let tab : List (Word × Nat) :=
        if f.htab.any (fun e => e.1 == h) then f.htab.map (fun e => if e.1 == h then (h, ln) else e)
        else old ++ [(h, ln)]
      { f with htab := tab })

/-- Enters a record whose lines are known, and writes its handle. -/
def defineRec (x : Ctx) (f : Fields) (d : Option (BitVec 256)) (r : DirRec) (ls : List Nat) : M Unit := do
  let me ← ask State.cur
  -- a re-stripe of the entry that the lines lie under holds the definition (R335)
  waitFor (!(← ask (fun s => s.trans.busy && ls.any (fun ln => s.entryOf (128 * ln) == some s.trans.ent))))
  match ← ask (fun s => s.homeOfLines ls) with
  | none => opFault
  | some (cube, stack) =>
    let h ← (fun s => let p := s.define me (s.dirNo cube stack) d r; EStateM.Result.ok p.1 p.2 : M Word)
    act (fun s => s.noteHandle (fieldOf me) h)
    modCtx (fun y => y.setSlot (x.slotOf f.dst) h)

/-- Lines of a box of a descriptor. -/
def boxLines (d : BitVec 256) (lo hi : List Nat) : List Nat :=
  let first := descElem d lo / 128
  let last := (descElem d hi + 2 ^ descPitch d 0 - 1) / 128
  ((List.range (last - first + 1)).map (fun i => first + i)).filter (fun ln =>
    (List.range 128).any (fun o => inBox d lo hi (128 * ln + o)))

def bodyTdefBox (f : Fields) : M Ctl := do
  let x ← getCtx
  let d := BitVec.ofNat 256 (← localAligned (x.localAddr f.imm f.sa) 32)
  let b ← localAligned (x.localAddr f.imm f.sb) 16
  needOp (descLegal d)
  let nd := descNdim d
  let lo := (List.range (nd + 1)).map (fun i => bits b (16 * i + 15) (16 * i))
  let hi := (List.range (nd + 1)).map (fun i => bits b (64 + 16 * i + 15) (64 + 16 * i))
  needOp ((List.range (nd + 1)).all (fun i =>
    decide (lo.getD i 0 ≤ hi.getD i 0) && decide (hi.getD i 0 ≤ descExt d i)))
  bump [f.sa, f.sb]
  defineRec x f (some d) { kind := .box, part := 0, gen := 0, lo := lo, hi := hi } (boxLines d lo hi)
  pure .seq

def bodyTdefSpan (f : Fields) : M Ctl := do
  let x ← getCtx
  let n := (← rd64 x f.imm f.sb).toNat
  let va := x.globalAddr f
  let pa ← translate va { r := true, tile := true }
  needOp (pa % 128 = 0 && n % 128 = 0 && 128 ≤ n && n ≤ 65536 && pa / 65536 == (pa + n - 1) / 65536)
  let base := pa / 128
  let len := n / 128 - 1
  defineRec x f none { kind := .span, part := 0, gen := 0, base := base, len := len }
    ((List.range (len + 1)).map (fun i => base + i))
  pure .seq

/-! ## Tenure requests (R102, R103, R238) -/

/-- The check of a handle at its home (R101): stale, or of another launch. -/
def handleAt (h : Word) : M (Nat × Nat × DirRec) := do
  let me ← ask State.cur
  match ← ask (fun s => s.handleSlot h) with
  | none => raise cStale h
  | some p =>
    need (p.2.2.lid = (← ask (fun s => s.lidOf me))) cCap h
    pure p

/-- Enters a TACQ as a long-latency instruction. -/
def pushTacq (f : Fields) (h : Word) (write done : Bool) (flt : Option Exc) : M Unit :=
  modCtx (fun y => { y with pend := y.pend ++
    [{ pc := y.pc, idx := y.issued, left := f.la.toNat, done := done, result := .none, flags := 0, fault := flt,
       work := if done then .none else .tacq h write f.scope, since := none, sup := y.sup }] })

/-- Requests of a context that wait for a grant. DESIGN CHOICE, that they count as tenures (R103): log 130. -/
def Ctx.asked (x : Ctx) : Nat :=
  (x.pend.filter (fun p => match p.work with | .tacq .. => true | _ => false)).length

/-- Whether a request of a context on a handle waits for its grant. -/
def Ctx.asks (x : Ctx) (h : Word) : Bool :=
  x.pend.any (fun p => !p.done && (match p.work with | .tacq g _ _ => g == h | _ => false))

/-- The waiter that a request makes. -/
def State.waiterFor (s : State) (t k slot : Nat) (h : Word) (write : Bool) (scope : Nat) : Waiter :=
  { tid := t, act := (s.ctx t).act, slot := slot, handle := h, write := write, scope := scope,
    stamp := (s.stack k).stamp }

/-- A request arrives at its home: granted at once, or entered as a waiter; the records it meets in
incompatible state are split either way (R109). -/
def State.requestTenure (s : State) (t k slot : Nat) (h : Word) (write : Bool) (scope : Nat) (w : Waiter) : Bool × State :=
  let s1 := s.modStack k (fun st => { st with stamp := st.stamp + 1 })
  if s.mayGrant k w then (true, s1.grantTenure t k slot h write scope)
  else (false, (s1.splitAll k slot write).modStack k (fun st => { st with waiters := st.waiters ++ [w] }))

def bodyTacq (f : Fields) : M Ctl := do
  let x ← getCtx
  let me ← ask State.cur
  let h := x.x f.sa.toNat
  let write := f.xbits == 1
  match x.tens.find? (fun y => y.handle == h) with
  | some y =>
    needOp (y.write || !write)
    act (fun s => s.noteHandle (fieldOf me) h)
    pushTacq f h write true none
  | none =>
    -- a second request on a handle waits until the first is answered: what it does depends on that (R103)
    waitFor (!x.asks h)
    needOp (x.tens.length + x.asked < 16)
    match ← ask (fun s => s.handleSlot h) with
    | none => pushTacq f h write true (some { cause := cStale, tval := h })
    | some (k, slot, r) =>
      need (r.lid = (← ask (fun s => s.lidOf me))) cCap h
      let w ← ask (fun s => s.waiterFor me k slot h write f.scope)
      let ok ← (fun s => let p := s.requestTenure me k slot h write f.scope w
                         EStateM.Result.ok p.1 p.2 : M Bool)
      act (fun s => s.noteHandle (fieldOf me) h)
      pushTacq f h write ok none
  pure .seq

/-- TTRY: granted only when the request is grantable at arrival and the record's queue is
empty. -/
def bodyTtry (f : Fields) : M Ctl := do
  let x ← getCtx
  let me ← ask State.cur
  let h := x.x f.sa.toNat
  let write := f.xbits == 1
  let (k, slot, _) ← handleAt h
  needOp (x.tens.length + x.asked < 16)
  let w ← ask (fun s => s.waiterFor me k slot h write f.scope)
  let ok ← ask (fun s => (s.stack k).ripe w && ((s.stack k).queueOf slot).isEmpty)
  -- a grant waits for the recalls that it makes (R114)
  waitFor (!ok || (← ask (fun s => s.mayGrant k w)))
  act (fun s => if ok then s.grantTenure me k slot h write f.scope else s.splitAll k slot write)
  modCtx (fun y => y.setSlot (x.slotOf f.dst) (b2w ok))
  pure .seq

/-- TREL (R105, R239). -/
def bodyTrel (f : Fields) : M Ctl := do
  let x ← getCtx
  let me ← ask State.cur
  let h := x.x f.sa.toNat
  let _ ← handleAt h
  match x.tens.find? (fun y => y.handle == h) with
  | none => opFault
  | some y =>
    releaseWaits
    act (fun s => s.releaseTenure me y f.scope)
  pure .seq

/-- Whether every store that the holders of a handle's record have posted to lines of it is performed: its
end makes their releases (R101, R105). -/
def State.storesDone (s : State) (h : Word) : Bool :=
  match s.handleSlot h with
  | none => true
  | some (k, slot, _) => s.mayEnd k slot

/-- TDROP (R240). -/
def bodyTdrop (f : Fields) : M Ctl := do
  let x ← getCtx
  let me ← ask State.cur
  let h := x.x f.sa.toNat
  needOp (h != 0)
  let (k, slot, r) ← handleAt h
  needOp (r.owner == some (me, x.act))
  if x.tens.any (fun y => y.handle == h) then releaseWaits
  waitFor (← ask (fun s => s.storesDone h))
  act (fun s => (s.endRecord k slot).modCtx me (fun y => { y with made := y.made.filter (fun m => m != h) }))
  pure .seq

/-- TQRY (R241): a record of another partition gives the capability fault (R304). -/
def bodyTqry (f : Fields) : M Ctl := do
  let x ← getCtx
  let me ← ask State.cur
  let h := x.x f.sa.toNat
  let w := (← rd64 x f.imm f.sb).toNat
  needOp (w ≤ 9)
  let (k, slot, r) ← handleAt h
  need (r.part = (← ask (fun s => s.partOf me))) cCap h
  let v ← ask (fun s => s.recWord k slot w)
  modCtx (fun y => y.setSlot (x.slotOf f.dst) (if !x.sup && 2 ≤ w && w ≤ 5 then 0 else v))
  pure .seq

/-! ## TSPLT (R107, R242) -/

/-- The two parts of a record cut at index i of dimension d, if that is possible. -/
def cutRec (n : Nat) (r : DirRec) (d i : Nat) : Option (DirRec × DirRec) :=
  if r.kind == .box then
    if d ≤ n && decide (r.lo.getD d 0 < i) && decide (i ≤ r.hi.getD d 0) then
      some ({ r with hi := r.hi.set d (i - 1) }, { r with lo := r.lo.set d i })
    else none
  else if d = 0 && 1 ≤ i && i ≤ r.len then
    some ({ r with len := i - 1 }, { r with base := r.base + i, len := r.len - i })
  else none

/-- Performs the split: the old slot goes on under GEN + 1, or retires; the parts' handles. -/
def State.splitTenure (s : State) (t k slot : Nat) (h : Word) (scope : Nat) (lo up : DirRec) : Word × Word × State :=
  let st := s.stack k
  let old := look? st.dir slot
  let isBox := lo.kind == .box
  let own := fun (r : DirRec) (g : Nat) => { r with gen := g, next := 0, owner := some (t, (s.ctx t).act), quiet := s.dirClock }
  let g0 := (old.map DirRec.gen).getD 1
  -- one user of the descriptor for each part
  let st1 := if isBox then st.useDesc lo.didx else st
  let retire := decide (g0 ≥ 2 ^ 24 - 1)
  let stA := if retire then { st1 with dir := drop st1.dir slot, retired := slot :: st1.retired }
    else { st1 with gens := put st1.gens slot (g0 + 1) }
  let loSlot := if retire then (stA.freeSlot?).getD 0 else slot
  let stB := stA.setRec loSlot (own lo (stA.gen loSlot))
  let upSlot := (stB.freeSlot?).getD 0
  let stC := stB.setRec upSlot (own up (stB.gen upSlot))
  let h1 := mkHandle (stA.gen loSlot) (s.dirCube k) (k % 4) loSlot
  let h2 := mkHandle (stB.gen upSlot) (s.dirCube k) (k % 4) upSlot
  -- the queue moves to the lower part, where each request becomes stale when it resumes
  let stD := { stC with waiters := stC.waiters.map (fun w => if w.slot == slot then { w with slot := loSlot } else w) }
  let s1 := (s.setStack k stD).modCtx t (fun x => { x with
    tens := x.tens.filter (fun y => y.handle != h) ++
      [{ handle := h1, write := true, scope := scope }, { handle := h2, write := true, scope := scope }]
    made := x.made.filter (fun m => m != h) ++ [h1, h2] })
  (h1, h2, s1)

def bodyTsplt (f : Fields) : M Ctl := do
  let x ← getCtx
  let me ← ask State.cur
  needOp (f.dst != f.sa)
  let h := x.x f.sa.toNat
  let i := (← rd64 x f.imm f.sb).toNat
  let (k, slot, _) ← handleAt h
  match x.tens.find? (fun y => y.handle == h && y.write) with
  | none => opFault
  | some y =>
    act (fun s => s.spareOwners k ((s.stack k).pieces slot))
    let st0 ← ask (fun s => s.stack k)
    let st := st0.rejoin slot
    match look? st.dir slot with
    | none => raise cStale h
    | some r =>
      match cutRec (recNdim st r) r f.xbits i with
      | none => opFault
      | some (lo, up) =>
        needOp (x.tens.length + x.asked < 16)
        let slots := if r.gen ≥ 2 ^ 24 - 1 then 2 else 1
        let fetches ← ask (fun s => s.fetchRecs k r.part)
        let quota ← ask (fun s => (s.part r.part).pquota)
        need (slots ≤ st.freeSlots && st.precs r.part + fetches + 1 ≤ quota) cDirFull h
        let (h1, h2) ← (fun s =>
          let p := (s.setStack k st).splitTenure me k slot h y.scope lo up
          EStateM.Result.ok (p.1, p.2.1) p.2.2 : M (Word × Word))
        modCtx (fun c => (c.setX f.sa.toNat h1).setX f.dst.toNat h2)
  pure .seq

/-! ## Events of the directory -/

/-- TENURE_GRANT: records that were to end do so, and the home serves a waiting request. -/
def State.tenureGrant (s : State) (k : Nat) : State := (s.finishEnds k).serveWaiters k

/-- TENURE_STALL_RESUME: the accesses of a context that wait are tried again in order. -/
def State.resumeAccess (s : State) (t : Nat) : State :=
  if (s.field (fieldOf t)).frozen then s
  else
    match (s.ctx t).pend.find? (fun p => !p.done && p.work.isAccess) with
    | none => s
    | some p =>
      let r := s.perform t p
      r.1.modCtx t (fun x => { x with pend := x.pend.map (fun q => if q == p then r.2 else q) })

/-- The address of an access that waits. -/
def Work.named (w : Work) : Word := (w.els.head?.map Elem.named).getD 0

/-- The address of the element that tenure stalls, of an access that waits (R337). -/
def State.stalledAt (s : State) (t : Nat) (w : Work) : Word :=
  let store := match w with | .atomic .. => true | _ => false
  match w.els.find? (fun e => s.tenureHeld t e.pa e.bytes store) with
  | some e => e.named
  | none => w.named

/-- TENURE_WAIT_TRAP: after 2^16 vclk cycles an access that still waits raises the replayable
trap: a late fault of a load or an atomic, an exact one of a store (R113, R216). -/
def State.tenureWaitTrap (s : State) (t : Nat) : State :=
  let fi := fieldOf t
  let x := s.ctx t
  let old := fun (v : Nat) => decide (v + 2 ^ 16 ≤ s.vclk fi)
  if (s.field fi).frozen || s.wrap ≠ 0 then s
  else
    match x.pend.find? (fun p => !p.done && p.since.any old) with
    | some p =>
      s.modCtx t (fun x => { x with pend := x.pend.map (fun q =>
        if q == p then q.fails { cause := cTenure, tval := s.stalledAt t p.work } else q) })
    | none =>
      match x.stallAt with
      | some (v, a) => if x.st == .issuing && old v then s.takeExact t { cause := cTenure, tval := a } else s
      | none => s

/-- Whether write tenure keeps a prefetched line from a field: some record of the line is in write tenure
that no context of the field holds (R113). -/
def State.fieldExcluded (s : State) (k fi ln : Nat) : Bool :=
  (s.stack k).dir.any (fun e => e.2.ten == 2 && recCovers (s.stack k) e.2 ln &&
    !s.ctxs.any (fun c => fieldOf c.1 == fi && s.holds c.1 k e.1))

/-- READ_FILL: the home serves a miss of a field's slice: owners are recalled, the slice becomes
a sharer, and the fill is sent with the record's sequence (R96, R120). A line that cannot be
tracked is served as direct; one in write tenure that the field does not hold is given up. -/
def State.readFillEvent (s : State) (fi ln : Nat) : State :=
  let f := s.field fi
  let forget := s.modField fi (fun f => { f with miss := drop f.miss ln })
  if f.frozen || s.wrap ≠ 0 || (look? f.miss ln).isNone || f.fills.any (fun m => m.line == ln) then s
  else if (look? f.l2 ln).isSome || paSpace (128 * ln) ≥ 0xE then forget
  else
    match s.home? (128 * ln) with
    | none => forget
    | some h =>
      if h.cube ≠ s.cubeid then forget
      else
        if s.fieldExcluded h.stack fi ln then forget
        else if s.seqHeld ln then s
        else
        let s1 := s.recallForFill h.stack ln (some fi) false
        let (ok, s2) := s1.ensureCovered h.stack ln f.fpart
        let (seq, s3) := s2.bumpSeq h.stack ln
        if !ok then s3.modField fi (fun f => { f with miss := drop f.miss ln })
        else
          let l := s3.lineAt h.loc
          let m : LineMsg := { line := ln, seq := seq, data := l.data, tags := l.tags, syn := l.syn, bad := l.bad }
          (s3.modCovering h.stack ln (fun r => r.addSharer fi)).modField fi (fun f =>
            { f with fills := f.fills ++ [m] })

/-- The oldest copy of a field with a plain-class destination in a line that it has not taken (R115). -/
def State.copyWants (s : State) (fi ln : Nat) : Option Copy :=
  ((s.cores.filter (fun e => fieldOfCore e.1 == fi)).flatMap (fun e => e.2.copies)).find? (fun k =>
    k.gdst && k.cls == 0 && !k.owned.contains ln && k.segs.any (fun g => meets g.dst g.n (128 * ln) 128))

/-- OWNERSHIP_REQUEST: the copy engine of a field takes ownership of a destination line of one of
its copies that had to wait for it at issue (R96, R115). -/
def State.ownershipEvent (s : State) (fi ln : Nat) : State :=
  if (s.field fi).frozen then s
  else
    match s.copyWants fi ln with
    | some k =>
      let r := s.ownFor k.tid ln
      if r.2 then
        r.1.modCore (coreOf k.tid) (fun c => { c with copies := c.copies.map (fun y =>
          if y.tid == k.tid && y.seq == k.seq then { y with owned := y.owned ++ [ln] } else y) })
      else s
    | none => s

/-- WRITE_BACK of a line that a slice holds dirty (R96). -/
def State.writeBackEvent (s : State) (fi ln : Nat) : State :=
  if (s.field fi).frozen then s else s.cleanLine fi ln

/-- LEASE_EXPIRY (R116). -/
def State.leaseExpiry (s : State) (fi ln : Nat) : State :=
  match look? (s.field fi).l2 ln with
  | some l => if s.leaseOver l && !(s.field fi).frozen then s.unhold fi ln else s
  | none => s

/-- INVALIDATION_ARRIVAL (R120): a slice answers it, a frozen one too (R114, R351). -/
def State.invalidationArrival (s : State) (fi ln seq : Nat) : State := s.arriveInval fi ln seq

/-- The tenure mark that a fill of a line carries into a slice (R97, R104). -/
def State.markFor (s : State) (fi ln : Nat) : Bool :=
  match s.home? (128 * ln) with
  | some h => h.cube == s.cubeid && s.fillMark h.stack ln fi
  | none => false

/-- FILL_ARRIVAL: the oldest fill of a line in flight to a slice with a pending miss is installed
in state S, unless a recorded invalidation is not older (R120). -/
def State.fillArrival (s : State) (fi ln : Nat) : State :=
  let f := s.field fi
  if f.frozen then s
  else
    match look? f.miss ln, f.fills.find? (fun m => m.line == ln) with
    | some m, some x =>
      let s1 := s.modField fi (fun f => { f with miss := drop f.miss ln, fills := f.fills.erase x })
      let keep : Bool := match m.inval with
        | some i => !seqGe i x.seq
        | none => true
      if keep && (look? f.l2 ln).isNone then s1.install fi ln .s { data := x.data, tags := x.tags, syn := x.syn, bad := x.bad } (s.markFor fi ln) 0
      else s1
    | _, _ => s

/-! ## The meanings -/

def execTenureGrant (k : Nat) (s : State) : Host.Outcome State Fault Refusal := .next (s.tenureGrant k)
def execTenureStallResume (t : Nat) (s : State) : Host.Outcome State Fault Refusal := .next (s.resumeAccess t)
def execTenureWaitTrap (t : Nat) (s : State) : Host.Outcome State Fault Refusal := .next (s.tenureWaitTrap t)
def execReadFill (fi ln : Nat) (s : State) : Host.Outcome State Fault Refusal := .next (s.readFillEvent fi ln)
def execOwnershipRequest (fi ln : Nat) (s : State) : Host.Outcome State Fault Refusal := .next (s.ownershipEvent fi ln)
def execWriteBack (fi ln : Nat) (s : State) : Host.Outcome State Fault Refusal := .next (s.writeBackEvent fi ln)
def execLeaseExpiry (fi ln : Nat) (s : State) : Host.Outcome State Fault Refusal := .next (s.leaseExpiry fi ln)
def execInvalidationArrival (fi ln seq : Nat) (s : State) : Host.Outcome State Fault Refusal :=
  .next (s.invalidationArrival fi ln seq)
def execFillArrival (fi ln : Nat) (s : State) : Host.Outcome State Fault Refusal := .next (s.fillArrival fi ln)
def execPieceRejoin (k slot : Nat) (s : State) : Host.Outcome State Fault Refusal := .next (s.rejoinPieces k slot)
def execRegionRecordMerge (k slot : Nat) (s : State) : Host.Outcome State Fault Refusal := .next (s.mergeRegion k slot)
def execTobj (f : Fields) (s : State) : Host.Outcome State Fault Refusal := issue .tobj bodyTobj f s
def execTdefBox (f : Fields) (s : State) : Host.Outcome State Fault Refusal := issue .tdefBox bodyTdefBox f s
def execTdefSpan (f : Fields) (s : State) : Host.Outcome State Fault Refusal := issue .tdefSpan bodyTdefSpan f s
def execTacq (f : Fields) (s : State) : Host.Outcome State Fault Refusal := issue .tacq bodyTacq f s
def execTtry (f : Fields) (s : State) : Host.Outcome State Fault Refusal := issue .ttry bodyTtry f s
def execTrel (f : Fields) (s : State) : Host.Outcome State Fault Refusal := issue .trel bodyTrel f s
def execTdrop (f : Fields) (s : State) : Host.Outcome State Fault Refusal := issue .tdrop bodyTdrop f s
def execTqry (f : Fields) (s : State) : Host.Outcome State Fault Refusal := issue .tqry bodyTqry f s
def execTsplt (f : Fields) (s : State) : Host.Outcome State Fault Refusal := issue .tsplt bodyTsplt f s

end Sys2Proof.Machine
end

