-- ==== Sys2Proof/Machine/Matrix.lean ====
section
/-! DEFINITION. The bit-plane array: OP 0x28 (R243, R245 to R260) and the events
ARRAY_ENTRY_COMPLETE and MCMD_ACCEPT. -/

namespace Sys2Proof.Machine

open Sys2Proof

/-! ## The array queue (R246) -/

/-- First row and count of a rows field. -/
def rowsOf (f : Fields) : Nat × Nat := (f.dst.toNat % 16, f.dst.toNat / 16 + 1)

/-- A rows field that goes beyond row 15 faults (R243). -/
def needRows (f : Fields) : M (Nat × Nat) := do
  let r := rowsOf f
  needOp (r.1 + r.2 ≤ 16)
  pure r

/-- Enters an operation of the issuing thread; a full queue stalls it. -/
def pushArray (op : ArrOp) : M Nat := do
  let x ← getCtx
  let me ← ask State.cur
  waitFor (x.arrQ.length < 8)
  modCtx (fun y => { y with
    arrQ := y.arrQ ++ [{ op := op, owner := me, act := y.act, cmd := false, seq := y.arrSeq }]
    arrSeq := y.arrSeq + 1 })
  pure x.arrSeq

/-- Rows that an operation names. -/
def ArrOp.rows : ArrOp → List Nat
  | .mmaLocal r c _ _ _ => (List.range c).map (fun i => r + i)
  | .mmaTile r c _ _ _ => (List.range c).map (fun i => r + i)
  | .mclr r c => (List.range c).map (fun i => r + i)
  | _ => []

/-! ## Loading B and streaming A (R249, R250, R252) -/

/-- Column j of the B buffer takes a block: its mantissas sign-extended to 16 bits, its
exponent. -/
def Ctx.loadColumn (x : Ctx) (w j : Nat) (b : Blk) : Ctx :=
  { x with
    bMant := (List.range 32).foldl (fun m e =>
      put m (8 * e + j) (BitVec.ofInt 16 (sextI (b.m.getD e 0) w))) x.bMant
    bExp := BitVec.ofNat 64 (x.bExp.toNat - bits x.bExp.toNat (8 * j + 7) (8 * j) * 2 ^ (8 * j) +
      b.e % 256 * 2 ^ (8 * j)) }

/-- The whole B buffer. -/
def Ctx.loadB (x : Ctx) (fmt : BitVec 8) (bs : List Blk) : Ctx :=
  let y := bs.zipIdx.foldl (fun y b => y.loadColumn (fmtWidth fmt) b.2 b.1) x
  { y with bWidth := fmt.extractLsb' 0 4, bValid := true }

/-- The width of the elements of B. -/
def Ctx.bW (x : Ctx) : Nat := (wcodeWidth x.bWidth.toNat).getD 16

/-- Column j of an accumulator row. -/
def Ctx.acc (x : Ctx) (r j : Nat) : Nat := ((look x.accRows r 0).extractLsb' (32 * j) 32).toNat

/-- One row accumulated: the columns, the counter afterwards, the flags (R60 to R66). -/
def Ctx.accumulateRow (x : Ctx) (core r wa : Nat) (a : Blk) (k : BitVec 32) : Ctx × Flags :=
  let cnt := look x.kcount r 0
  let cols := (List.range 8).map (fun j =>
    accumulate core cnt (x.acc r j) wa a.e a.m x.bW (bits x.bExp.toNat (8 * j + 7) (8 * j))
      ((List.range 32).map (fun e => (look x.bMant (8 * e + j) 0).toNat)) k.toNat)
  ({ x with accRows := put x.accRows r (BitVec.ofNat 256 (joinLanes 32 (cols.map Prod.fst)))
            kcount := put x.kcount r ((cnt + 1) % 4096) },
   cols.foldl (fun fl c => fl ||| c.2) 0)

/-- Rows set to +0 with their counters 0. -/
def Ctx.clearRows (x : Ctx) (rs : List Nat) : Ctx :=
  { x with accRows := rs.foldl drop x.accRows, kcount := rs.foldl drop x.kcount }

/-- How the array comes by a block. -/
inductive BlockGot where
  | ok (b : Blk) (s : State)
  /-- a scoreboard entry, tenure or the sidereal wrap keeps it waiting -/
  | wait
  | page (p : Nat)
  | bad (cause : Nat)

/-- A block of a context's vault, at a block address (R251). -/
def State.localBlock (s : State) (t a : Nat) (fmt : BitVec 8) : BlockGot :=
  let w := fmtWidth fmt
  let e := a / 8192 * 8192 + 7936 + a % 8192 / (4 * w)
  let places := (List.range (4 * w)).map (fun i => a + i) ++ [e]
  match places.find? (fun p => (s.vaultOff? t p).isNone) with
  | some p => .page (p / 4096)
  | none =>
    let offs := places.filterMap (s.vaultOff? t)
    if offs.any (fun o => s.sbHit (coreOf t) o 1) then .wait
    else if offs.any (fun o => s.vaultBad (s.vaultLoc (coreOf t) o) 1) then .bad cData
    else .ok { e := s.localVal t e 1, m := blkDecode w (fmtPlane fmt) (s.localVal t a (4 * w)) } s

/-- The lines that the elements of a tile form lie in, with their stacks. -/
def State.pinLines (s : State) (els : List (Nat × Nat)) : List (Nat × Nat) :=
  (els.flatMap (fun e => [e.1 / 128, e.2 / 128])).eraseDups.filterMap (fun ln =>
    (s.home? (128 * ln)).bind (fun h => if h.cube = s.cubeid then some (h.stack, ln) else none))

/-- Whether an entry of a context's queue holds its pins on the lines of some elements (R115). -/
def State.pinned (s : State) (t seq : Nat) (els : List (Nat × Nat)) : Bool :=
  (s.pinLines els).all (fun p => (s.stack p.1).pins.contains (p.2, t, seq))

/-- A record of a tensor object and its exponent, by the tile fetch unit, once it holds its pins
(R115, R252). -/
def State.tileBlock (s : State) (t seq : Nat) (el : Nat × Nat) (fmt : BitVec 8) : BlockGot :=
  let w := fmtWidth fmt
  if !s.pinned t seq [el] || s.homeHolds t 0 el.1 false || s.homeHolds t 0 el.2 false then .wait
  else match s.load t 0 el.1 (4 * w) with
  | .stall _ => .wait
  | .fault c => .bad c
  | .ok v s1 =>
    match s1.load t 0 el.2 1 with
    | .stall _ => .wait
    | .fault c => .bad c
    | .ok e s2 => .ok { e := e, m := blkDecode w (fmtPlane fmt) v } s2

/-- The eight columns of an MLDB. -/
def gatherBlocks (get : State → Nat → BlockGot) (s : State) : Nat → Option (List Blk × State) × Option BlockGot
  | 0 => (some ([], s), none)
  | n + 1 =>
    match gatherBlocks get s n with
    | (some (bs, s1), none) =>
      (match get s1 n with
       | .ok b s2 => (some (bs ++ [b], s2), none)
       | g => (none, some g))
    | r => r

/-! ## Pins of the tile fetch unit (R115) -/

/-- Whether the read tenure of an entry on a line needs an internal record of its own: the entry holds none in
the stack, and the context holds no tenure that covers the line (R115). -/
def State.needsRec (s : State) (t seq k ln : Nat) : Bool :=
  !(s.stack k).pins.any (fun p => p.2 == (t, seq)) &&
  !(s.ctx t).tens.any (fun x => s.hDir x.handle == k && (match look? (s.stack k).dir (hSlot x.handle) with
    | some r => recCovers (s.stack k) r ln
    | none => false))

/-- The unit takes read tenure on its lines and pins them: at issue, or once no tenure stands against it
and the record that it needs may be made. -/
def State.addPins (s : State) (t seq : Nat) (els : List (Nat × Nat)) : State :=
  (s.pinLines els).foldl (fun s p =>
    if (s.stack p.1).pins.contains (p.2, t, seq) || s.excluded t p.1 (128 * p.2) 128 false ||
      (s.needsRec t seq p.1 p.2 && !s.quotaOk p.1 (s.partOf t)) then s
    else s.modStack p.1 (fun k => { k with pins := k.pins ++ [(p.2, t, seq)] })) s

/-- Releases the pins of an entry but for lines still to be read, and serves who waited. -/
def State.releasePins (s : State) (t seq : Nat) (left : List (Nat × Nat)) : State :=
  let keep := (s.pinLines left).map Prod.snd
  { s with stks := s.stks.map (fun e =>
      (e.1, { e.2 with pins := e.2.pins.filter (fun p => p.2 != (t, seq) || keep.contains p.1) })) }

/-! ## The array at work -/

/-- Elements of a tile form that are still to be read. -/
def ArrEntry.left (e : ArrEntry) : List (Nat × Nat) :=
  match e.op with
  | .mldbTile els _ => els
  | .mmaTile _ _ _ els _ => els.drop e.done
  | _ => []

/-- MSTAT's snapshot (R257). -/
def Ctx.mstatWord (x : Ctx) (sel : Nat) : Word :=
  if sel = 0 then
    let pend := (x.arrQ.filter ArrEntry.cmd).flatMap (fun e => e.op.rows)
    w64 (((List.range 16).map (fun r => if pend.contains r then 2 ^ (32 + r) else 0)).sum +
      x.drain.toNat * 2 ^ 16 + x.bWidth.toNat * 2 ^ 5 + (if x.bValid then 16 else 0) + x.arrQ.length)
  else w64 (look x.kcount (sel - 1) 0)

/-- An MSTAT completes once the context's own entries before it have. -/
def Ctx.settleMstat (x : Ctx) : Ctx :=
  { x with pend := x.pend.map (fun p =>
      match p.work with
      | .mstat sel dst after =>
        if x.arrQ.any (fun e => !e.cmd && decide (e.seq < after)) then p
        else { p with done := true, work := .none, result := .scalar dst (x.mstatWord sel) }
      | _ => p) }

/-- The flags of an entry go to its owner, or only to the FLAGOR of its owner's field once that
activation has ended (R62, R259). -/
def State.arrayFlags (s : State) (e : ArrEntry) (fl : Flags) : State :=
  if fl = 0 then s
  else if (s.ctx e.owner).act == e.act && (s.ctx e.owner).st != .free then s.raiseFlags e.owner fl
  else s.post (.flagorSet (fieldOf e.owner) fl)

/-- The head entry completes. -/
def State.finishEntry (s : State) (t : Nat) (e : ArrEntry) : State :=
  ((s.modCtx t (fun x => { x with arrQ := x.arrQ.drop 1 }.settleMstat)).releasePins t e.seq []).arrayFlags e e.fl

/-- An engine failure of a tile fetch, kept for MWAIT or DONE (R252, R256). -/
def State.arrayFailure (s : State) (t cause row : Nat) : State :=
  s.modCtx t (fun x => { x with arrErr := x.arrErr ++ [{ cause := cause, tval := w64 row, eng := true }] })

/-- An access to a local page that is not resident asks for its fill (R75). -/
def State.wantPage (s : State) (t p : Nat) : State :=
  s.modCore (coreOf t) (fun c => if c.wants.contains (t, p) then c else { c with wants := c.wants ++ [(t, p)] })

/-- One row of an MMA, from the way its block comes. -/
def State.mmaRow (s : State) (t : Nat) (e : ArrEntry) (row cnt : Nat) (k : BitVec 32) (fmt : BitVec 8) (g : BlockGot) :
    State × Bool :=
  let step := fun (s : State) (fl : Flags) =>
    let e' := { e with done := e.done + 1, fl := e.fl ||| fl }
    let s1 := s.modCtx t (fun x => { x with arrQ := e' :: x.arrQ.drop 1 })
    if e'.done = cnt then (s1.finishEntry t e', false) else (s1.releasePins t e.seq e'.left, true)
  match g with
  | .ok b s1 =>
    let r := (s1.ctx t).accumulateRow (coreOf t) (row + e.done) (fmtWidth fmt) b k
    step (s1.setCtx t r.1) r.2
  | .wait => (s, false)
  | .page p => (s.wantPage t p, false)
  | .bad c => step (s.arrayFailure t c (row + e.done)) 0

/-- Rows of the head entry in ascending order, until it is complete or has to wait. -/
def State.mmaRows (s : State) (t : Nat) : Nat → State
  | 0 => s
  | n + 1 =>
    match (s.ctx t).arrQ with
    | [] => s
    | e :: _ =>
      match e.op with
      | .mmaLocal row cnt k addr fmt =>
        let r := s.mmaRow t e row cnt k fmt (s.localBlock t (addr + 4 * fmtWidth fmt * e.done) fmt)
        if r.2 then r.1.mmaRows t n else r.1
      | .mmaTile row cnt k els fmt =>
        let r := s.mmaRow t e row cnt k fmt (s.tileBlock t e.seq (els.getD e.done (0, 0)) fmt)
        if r.2 then r.1.mmaRows t n else r.1
      | _ => s

/-- An MLDB takes its eight blocks or none. -/
def State.mldb (s : State) (t : Nat) (e : ArrEntry) (fmt : BitVec 8) (get : State → Nat → BlockGot) : State :=
  match gatherBlocks get s 8 with
  | (some (bs, s1), _) => (s1.modCtx t (fun x => x.loadB fmt bs)).finishEntry t e
  | (none, some (.page p)) => s.wantPage t p
  | (none, some (.bad c)) => (s.arrayFailure t c 0xFF).finishEntry t e
  | _ => s

/-- Whether the array serves a context's queue (R246); a quiesce waits for the window of an MSTAT
(R260), and a DONE that has issued completes (R322). -/
def Ctx.served (x : Ctx) : Bool :=
  x.st == .issuing || (x.st == .quiescing && x.ending) || (x.st == .quiescing && x.pend.any (fun p => match p.work with | .mstat .. => true | _ => false))

/-- ARRAY_ENTRY_COMPLETE: the array performs the head entry of a context's queue. -/
def State.arrayStep (s : State) (t : Nat) : State :=
  let x := s.ctx t
  if (s.field (fieldOf t)).frozen || !x.served then s
  else
    match x.arrQ with
    | [] => s
    | e :: _ =>
      if e.op.rows.any (fun r => x.drain.getLsbD r) then s
      else
        match e.op with
        | .mclr r c => (s.modCtx t (fun x => x.clearRows ((List.range c).map (fun i => r + i)))).finishEntry t e
        | .mldbLocal a fmt => s.mldb t e fmt (fun s j => s.localBlock t (a + 4 * fmtWidth fmt * j) fmt)
        | .mldbTile els fmt =>
          (s.addPins t e.seq els).mldb t e fmt (fun s j => s.tileBlock t e.seq (els.getD j (0, 0)) fmt)
        | .mmaLocal .. => s.mmaRows t 16
        | .mmaTile .. => (s.addPins t e.seq e.left).mmaRows t 16

/-! ## Faults at issue (R249, R250, R252) -/

/-- Whether the bytes of n consecutive blocks lie in the thread's valid pages (R73). -/
def State.blocksOk (s : State) (t a w n : Nat) : Bool :=
  (s.localFault t a (4 * w * n) 1).isNone &&
  (s.localFault t (a / 8192 * 8192 + 7936 + a % 8192 / (4 * w)) n 1).isNone

/-- Whether n blocks from a block number lie within the capacity of their bank. -/
def blocksFit (w b n : Nat) : Bool := decide (b + n ≤ blkCapacity w)

def bodyMldbLocal (f : Fields) : M Ctl := do
  let x ← getCtx
  let a := x.localAddr f.imm f.sa
  let (fmt, b) ← blockAt x a
  needOp (blocksFit (fmtWidth fmt) b 8)
  need (← ask (fun s => s.blocksOk s.cur a.toNat (fmtWidth fmt) 8)) cProt a
  bump [f.sa]
  let _ ← pushArray (.mldbLocal a.toNat fmt)
  pure .seq

/-- The scale register of an MMA. -/
def Ctx.scale (x : Ctx) (f : Fields) : BitVec 32 := x.k (f.sb.toNat - 0x98)

def bodyMmaLocal (f : Fields) : M Ctl := do
  let (r, c) ← needRows f
  let x ← getCtx
  let a := x.localAddr f.imm f.sa
  need (a.toNat < 0xC000) cProt a
  let fmt := x.bank (a.toNat / 8192)
  needOp (fmtIsBlock fmt && fmtPlane fmt && x.bValid)
  let (_, b) ← blockAt x a
  needOp (blocksFit (fmtWidth fmt) b c)
  need (← ask (fun s => s.blocksOk s.cur a.toNat (fmtWidth fmt) c)) cProt a
  bump [f.sa]
  let _ ← pushArray (.mmaLocal r c (x.scale f) a.toNat fmt)
  pure .seq

/-- The records that a tile form names, and their format (R252). -/
def tileEls (x : Ctx) (f : Fields) (n : Nat) : M (List (Nat × Nat) × BitVec 8) := do
  let (k, slot, r) ← handleAt (x.x f.sa.toNat)
  needOp (r.kind == .box)
  let d ← ask (fun s => (look (s.stack k).descs r.didx (0, 0)).1)
  needOp (fmtBlock (descFmt d))
  let cur := (x.x (f.imm.toNat % 256)).toNat
  let ix := fun (i : Nat) => [bits cur 15 0, bits cur 31 16 + i, bits cur 47 32, bits cur 63 48]
  match ← ask (fun s => (s.stack k).hull slot) with
  | none => opFault
  | some h =>
    needOp ((List.range n).all (fun i => (List.range 4).all (fun q =>
      if q ≤ descNdim d then decide (h.lo.getD q 0 ≤ (ix i).getD q 0) && decide ((ix i).getD q 0 ≤ h.hi.getD q 0)
      else (ix i).getD q 0 == 0)))
    let els := (List.range n).map (fun i =>
      let a := descElem d (ix i)
      (a, descEbase d + (a - descBase d) / 2 ^ descPitch d 0))
    pure (els, BitVec.ofNat 8 (descFmt d))

/-- A tile fetch is performed after the thread's earlier accesses to its bytes (R124). -/
def fetchOrder (els : List (Nat × Nat)) (fmt : BitVec 8) : M Unit :=
  inOrder (els.flatMap (fun e =>
    [{ lane := 0, pa := e.1, bytes := 4 * fmtWidth fmt, named := 0 }, { lane := 0, pa := e.2, bytes := 1, named := 0 }]))

def bodyMldbTile (f : Fields) : M Ctl := do
  let x ← getCtx
  let me ← ask State.cur
  let (els, fmt) ← tileEls x f 8
  fetchOrder els fmt
  let seq ← pushArray (.mldbTile els fmt)
  act (fun s => (s.addPins me seq els).noteHandle (fieldOf me) (x.x f.sa.toNat))
  pure .seq

def bodyMmaTile (f : Fields) : M Ctl := do
  let (r, c) ← needRows f
  let x ← getCtx
  let me ← ask State.cur
  let (els, fmt) ← tileEls x f c
  needOp x.bValid
  fetchOrder els fmt
  let seq ← pushArray (.mmaTile r c (x.scale f) els fmt)
  act (fun s => (s.addPins me seq els).noteHandle (fieldOf me) (x.x f.sa.toNat))
  pure .seq

def bodyMclr (f : Fields) : M Ctl := do
  let (r, c) ← needRows f
  let _ ← pushArray (.mclr r c)
  pure .seq

/-! ## Draining (R247, R248, R254, R255) -/

/-- `mhnd label`. -/
def bodyMhnd (f : Fields) : M Ctl := do
  modCtx (fun x => { x with mhnd := relPc x.pc f.imm.toInt })
  pure .seq

/-- The record of a drain handler: the issuing task's, as an ordinary task that is not
restartable. -/
def drainRecord (ws : List Word) : List Word :=
  let w := tw ws 0
  w64 (w - bits w 35 34 * 2 ^ 34 - bits w 57 56 * 2 ^ 56) :: ws.drop 1

/-- Dispatches the drain handler of row r on a context (R255). -/
def State.startDrain (s : State) (t u r : Nat) : State :=
  let x := s.ctx t
  match x.task with
  | none => s
  | some k =>
    let k' : Task := { k with words := drainRecord k.words, rst := false, staged := false, retries := 0,
                              handler := none, retained := [] }
    let row : Vec := (look x.accRows r 0).zeroExtend 512
    let s1 := (s.activate u k').modCtx u (fun y => { y with
      pc := x.mhnd, vs := [(0, row)], drainOf := some (t, x.act, r),
      xs := (1, w64 r) :: (List.range 5).map (fun i => (i + 2, x.x (i + 2))) ++ [(7, s.taskWord u k' true)] })
    s1.modCtx t (fun y => { y.clearRows [r] with drain := y.drain ||| (1#16 <<< r) })

/-- Whether the launch of a context has more than one context on each core. -/
def State.mayDrain (s : State) (t : Nat) : Bool := (s.ctxLaunch? t).any (fun l => l.ctxN != 1)

/-- MDRN: each execution dispatches at most one row; the slot is held until the last. -/
def bodyMdrn (f : Fields) : M Ctl := do
  let (r, c) ← needRows f
  let x ← getCtx
  let me ← ask State.cur
  if x.drained = 0 then
    needOp (x.mhnd != 0)
    needOp (← ask (fun s => s.mayDrain me))
    releaseOrder
  let ahead := x.ticket.getD x.arrSeq
  let row := r + x.drained
  modCtx (fun y => { y with ticket := some ahead })
  if x.arrQ.any (fun e => decide (e.seq < ahead)) || x.drain.getLsbD row then throw .stallKeep
  match ← ask (fun s => s.freeCtx? (coreOf me)) with
  | none => throw .stallKeep
  | some u =>
    act (fun s => s.startDrain me u row)
    if x.drained + 1 = c then
      modCtx (fun y => { y with drained := 0, ticket := none })
      pure .seq
    else
      modCtx (fun y => { y with drained := x.drained + 1 })
      throw .stallKeep

/-! ## Waiting and status (R256, R257) -/

/-- Whether a context's own tile fetch pins remain. -/
def State.hasPins (s : State) (t : Nat) : Bool := s.stks.any (fun e => e.2.pins.any (fun p => p.2.1 == t))

/-- The first kept tile fetch error is raised and forgotten. -/
def raiseArrErr : M Unit := do
  let x ← getCtx
  match x.arrErr with
  | [] => pure ()
  | e :: es =>
    modCtx (fun y => { y with arrErr := es })
    throw (.excKeep e)

def bodyMwait (_ : Fields) : M Ctl := do
  let x ← getCtx
  let me ← ask State.cur
  waitFor (x.arrQ.isEmpty && x.drain == 0)
  waitFor (!(← ask (fun s => s.hasPins me)))
  raiseArrErr
  act (fun s => s.acquire me 0 (fun _ => true))
  pure .seq

def bodyMstat (f : Fields) : M Ctl := do
  let x ← getCtx
  let sel := f.imm.toNat % 32
  needOp (sel ≤ 16)
  let p : Pend :=
    { pc := x.pc, idx := x.issued, left := f.la.toNat, done := false, result := .none, flags := 0,
      fault := none, work := .mstat sel (x.slotOf f.dst) x.arrSeq, since := none, sup := x.sup }
  modCtx (fun y => { y with pend := y.pend ++ [p] }.settleMstat)
  pure .seq

/-! ## Commands to another core's array (R258, R259) -/

/-- The 64 bytes at a 64-byte aligned local address, as eight words. -/
def localRecord (a : Word) : M (List Word) := do
  let v ← localRead a 64
  pure ((List.range 8).map (fun i => w64 (v / 2 ^ (64 * i))))

/-- MCMD: sends its command and holds its slot until the target has answered. -/
def bodyMcmd (f : Fields) : M Ctl := do
  let x ← getCtx
  match x.mcmd with
  | none =>
    let ws ← localRecord (x.localAddr f.imm f.sb)
    let t := x.x f.sa.toNat
    bump [f.sb]
    modCtx (fun y => { y with mcmd := some (t, ws, none) })
    throw .stallKeep
  | some (_, _, none) => throw .stallKeep
  | some (_, _, some v) =>
    modCtx (fun y => { y with mcmd := none }.setX f.dst.toNat (w64 v))
    pure .seq

/-- The fields of a command. -/
structure Cmd where
  opc  : Nat
  tctx : Nat
  row  : Nat
  cnt  : Nat
  addr : Nat
  k    : BitVec 32
  clid : Nat
  lo   : Nat
  hi   : Nat
  exp  : Nat
  wrap : Nat
  rsvd : Bool

def cmdOf (ws : List Word) : Cmd :=
  let w := tw ws
  let hi := bits (w 2) 47 32
  { opc := bits (w 0) 3 0, tctx := bits (w 0) 7 4, row := bits (w 0) 11 8, cnt := bits (w 0) 15 12 + 1,
    addr := bits (w 0) 31 16, k := BitVec.ofNat 32 (w 1), clid := bits (w 2) 15 0, lo := bits (w 2) 31 16,
    hi := if hi = 0 then 0x10000 else hi, exp := bits (w 3) 39 0, wrap := bits (w 3) 47 40,
    rsvd := bits (w 0) 63 32 != 0 || bits (w 1) 63 32 != 0 || bits (w 2) 63 48 != 0 || bits (w 3) 63 48 != 0 ||
      (List.range 4).any (fun i => w (4 + i) != 0) }

/-- Blocks that a command reads. -/
def Cmd.blocks (c : Cmd) : Nat := if c.opc = 1 then 8 else if c.opc = 2 then c.cnt else 0

/-- Whether the target's BFMT makes the local form fault, or B is not valid for an MMA. -/
def Cmd.formFaults (c : Cmd) (y : Ctx) : Bool :=
  let fmt := y.bank (c.addr / 8192)
  c.opc != 3 && (!fmtIsBlock fmt || (c.opc == 2 && (!fmtPlane fmt || !y.bValid)) ||
    (match blockNo (fmtWidth fmt) c.addr with
     | none => true
     | some b => !blocksFit (fmtWidth fmt) b c.blocks))

/-- Whether the bytes of a command's blocks lie in [CLO, CHI) and in the target's valid pages. -/
def State.cmdReads (s : State) (u : Nat) (c : Cmd) : Bool :=
  let fmt := (s.ctx u).bank (c.addr / 8192)
  let w := fmtWidth fmt
  let e := c.addr / 8192 * 8192 + 7936 + c.addr % 8192 / (4 * w)
  let inside := fun (a n : Nat) => decide (c.lo ≤ a) && decide (a + n ≤ c.hi) && (s.localFault u a n 1).isNone
  c.blocks == 0 ||
    (if fmtIsBlock fmt then inside c.addr (4 * w * c.blocks) && inside e c.blocks else inside c.addr 1)

/-- The status of a command: the first check of R259 that fails, 0 when all hold. -/
def State.cmdStatus (s : State) (t : Nat) (target : Word) (ws : List Word) : Nat :=
  let c := cmdOf ws
  let v := target.toNat
  let core := bits v 19 0
  let u := core * 16 + c.tctx
  let lid := s.lidOf t
  if v / 2 ^ 28 ≠ 0 || bits v 27 20 ≠ s.cubeid ||
      !((s.ctxLaunch? t).any (fun l => l.fields.contains (fieldOfCore core))) then 1
  else if c.opc = 0 || c.opc > 3 || c.rsvd || c.row + c.cnt > 16 then 2
  else if c.clid ≠ lid || ((s.ctx u).task.any (fun k => k.lid != c.clid)) then 3
  else if (s.ctx u).st == .free then 4
  else if s.wrapn.toNat ≠ c.wrap || s.sid ≥ c.exp then 5
  else if !s.cmdReads u c then 6
  else if c.formFaults (s.ctx u) then 7
  else 0

/-- MCMD_ACCEPT: the target checks the command of a sender and takes it into the context's queue
once an entry is free. -/
def State.mcmdAccept (s : State) (t : Nat) : State :=
  match (s.ctx t).mcmd with
  | some (target, ws, none) =>
    let c := cmdOf ws
    let u := bits target.toNat 19 0 * 16 + c.tctx
    let answer := fun (s : State) (v : Nat) => s.modCtx t (fun x => { x with mcmd := some (target, ws, some v) })
    let st := s.cmdStatus t target ws
    if (s.field (fieldOf t)).frozen then s
    else if st ≠ 0 then answer s st
    else if (s.field (fieldOf u)).frozen || (s.ctx u).arrQ.length ≥ 8 then s
    else
      let fmt := (s.ctx u).bank (c.addr / 8192)
      let op : ArrOp := if c.opc = 1 then .mldbLocal c.addr fmt
        else if c.opc = 2 then .mmaLocal c.row c.cnt c.k c.addr fmt else .mclr c.row c.cnt
      let owner := (s.ctx t).act
      answer (s.modCtx u (fun y => { y with
        arrQ := y.arrQ ++ [{ op := op, owner := t, act := owner, cmd := true, seq := y.arrSeq }]
        arrSeq := y.arrSeq + 1 })) 0
  | _ => s

/-! ## The meanings -/

def execArrayEntryComplete (t : Nat) (s : State) : Host.Outcome State Fault Refusal := .next (s.arrayStep t)
def execMcmdAccept (t : Nat) (s : State) : Host.Outcome State Fault Refusal := .next (s.mcmdAccept t)
def execMldbLocal (f : Fields) (s : State) : Host.Outcome State Fault Refusal := issue .mldbLocal bodyMldbLocal f s
def execMldbTile (f : Fields) (s : State) : Host.Outcome State Fault Refusal := issue .mldbTile bodyMldbTile f s
def execMmaLocal (f : Fields) (s : State) : Host.Outcome State Fault Refusal := issue .mmaLocal bodyMmaLocal f s
def execMmaTile (f : Fields) (s : State) : Host.Outcome State Fault Refusal := issue .mmaTile bodyMmaTile f s
def execMclr (f : Fields) (s : State) : Host.Outcome State Fault Refusal := issue .mclr bodyMclr f s
def execMdrn (f : Fields) (s : State) : Host.Outcome State Fault Refusal := issue .mdrn bodyMdrn f s
def execMhnd (f : Fields) (s : State) : Host.Outcome State Fault Refusal := issue .mhnd bodyMhnd f s
def execMwait (f : Fields) (s : State) : Host.Outcome State Fault Refusal := issue .mwait bodyMwait f s
def execMcmd (f : Fields) (s : State) : Host.Outcome State Fault Refusal := issue .mcmd bodyMcmd f s
def execMstat (f : Fields) (s : State) : Host.Outcome State Fault Refusal := issue .mstat bodyMstat f s

end Sys2Proof.Machine
end

