-- ==== Sys2Proof/Machine/Message.lean ====
section
/-! DEFINITION. Messages and task packets: OP 0x29 (R244, R261 to R265), and the event
HANDLER_ACTIVATION. -/

namespace Sys2Proof.Machine

open Sys2Proof

/-! ## SEND and SENDV (R262) -/

/-- n − 1 and q of a message instruction. -/
def msgCount (f : Fields) : Nat := f.imm.toNat % 16 + 1
def msgQueue (f : Fields) : Nat := f.imm.toNat / 16 % 2

/-- The channel by which a core sends to a queue of another (R35): its number and its slot
allowance. -/
def Launch.channelTo (l : Launch) (src dst q : Nat) : Option (Nat × Nat) :=
  let st := l.stageOfCore src
  if l.kind ≠ 2 then none
  else
    ((List.range 4).find? (fun c =>
      let d := l.chan c
      let np := l.stageCores (chPstg d)
      let nc := l.stageCores (chCstg d)
      chValid d && chPstg d == st && chQ d == q && np != 0 &&
        l.stageCore (chCstg d) (l.stageIndex src * nc / np) == dst)).map (fun c => (c, chAllow (l.chan c)))

/-- Takes the place of a sender among those that wait for a slot of a queue; whether it is its
turn. -/
def State.queueFor (s : State) (t core q : Nat) : Bool × State :=
  let c := s.core core
  let s1 := if c.sendQ.contains (t, q) then s
    else s.setCore core { c with sendQ := c.sendQ ++ [(t, q)] }
  (((s1.core core).sendQ.find? (fun e => e.2 == q)) == some (t, q), s1)

/-- Leaves that place with the slot. -/
def State.unqueue (s : State) (t core q : Nat) : State :=
  s.modCore core (fun c => { c with sendQ := c.sendQ.filter (fun e => e != (t, q)) })

/-- Whether the producer's slots of a channel are used up (R35). -/
def Launch.channelFull (l : Launch) (ch : Option (Nat × Nat)) (core : Nat) : Bool :=
  match ch with
  | some (c, allow) => decide (look l.used (c * 2 ^ 20 + core) 0 ≥ allow)
  | none => false

/-- A message is written into a slot, which becomes queued. -/
def State.sendMsg (s : State) (t core q k : Nat) (l : Launch) (ch : Option (Nat × Nat)) (words : List Word) : State :=
  let me := coreOf t
  let m : MsgSlot := { sender := BitVec.ofNat 32 (s.ctxName t), n := words.length, words := words,
                       chan := ch.map (fun c => (c.1, me)) }
  let s1 := (s.unqueue t core q).queueMsg core q k m
  match ch with
  | some (c, _) => s1.modLaunch l.lid (fun l =>
      { l with used := put l.used (c * 2 ^ 20 + me) (look l.used (c * 2 ^ 20 + me) 0 + 1) })
  | none => s1

/-- The common form: checks of the target, the channel's allowance, the reservation, the write. -/
def sendWords (f : Fields) (words : List Word) : M Ctl := do
  let x ← getCtx
  let me ← ask State.cur
  let v := x.x f.sa.toNat
  let core := bits v.toNat 19 0
  let q := msgQueue f
  needOp (v.toNat / 2 ^ 28 = 0 && bits v.toNat 27 20 = (← ask State.cubeid))
  match ← ask (fun s => s.ctxLaunch? me) with
  | none => raise cProt v
  | some l =>
    need (l.fields.contains (fieldOfCore core)) cProt v
    let ch := l.channelTo (coreOf me) core q
    waitFor (!l.channelFull ch (coreOf me))
    waitFor (!(← ask (fun s => (s.field (fieldOfCore core)).frozen)))
    let first ← (fun s => let p := s.queueFor me core q
                          EStateM.Result.ok p.1 p.2 : M Bool)
    match ← ask (fun s => (s.core core).freeMsg? q) with
    | none => throw .stallKeep
    | some k =>
      if !first then throw .stallKeep
      act (fun s => s.sendMsg me core q k l ch words)
      pure .seq

def bodySend (f : Fields) : M Ctl := do
  let x ← getCtx
  let a := f.sb.toNat
  needOp (a + msgCount f - 1 ≤ 63)
  sendWords f ((List.range (msgCount f)).map (fun i => x.x (a + i)))

def bodySendv (f : Fields) : M Ctl := do
  let x ← getCtx
  let a := f.sb.toNat - 0x40
  needOp (a + (msgCount f - 1) / 8 ≤ 31)
  sendWords f ((List.range (msgCount f)).map (fun i => (x.v (a + i / 8)).extractLsb' (64 * (i % 8)) 64))

/-! ## POLL, WAITQ, RLS (R263, R264) -/

/-- The word that reports a claimed message. -/
def claimWord (m : MsgSlot) : Word := w64 (2 ^ 36 + (m.n - 1) % 16 * 2 ^ 32 + m.sender.toNat)

/-- Claims the oldest message of a queue. A message that a soft error discarded frees its slot and
raises the uncorrectable data error (R350). -/
def claim (f : Fields) : M Bool := do
  let x ← getCtx
  let me ← ask State.cur
  let q := f.imm.toNat % 2
  let c ← getCore
  needOp (x.held.isNone && (c.hand q).isNone)
  if x.lost then
    modCtx (fun y => { y with lost := false })
    throw (.excKeep { cause := cData })
  match c.oldest q with
  | none => pure false
  | some k =>
    let m := c.msg q k
    if m.bad then
      act (fun s => s.freeMsg (coreOf me) q k)
      throw (.excKeep { cause := cData })
    modCore (fun c => { c with msgs := put c.msgs (msgKey q k) { m with st := .held } })
    modCtx (fun y => { y with held := some (q, k) }.setX f.dst.toNat (claimWord m))
    pure true

def bodyPoll (f : Fields) : M Ctl := do
  if !(← claim f) then modCtx (fun y => y.setX f.dst.toNat 0)
  pure .seq

/-- WAITQ parks until a message is queued, and then executes again. -/
def bodyWaitq (f : Fields) : M Ctl := do
  if !(← claim f) then
    modCtx (fun y => { y with st := .parked, wait := .msg (f.imm.toNat % 2) })
    throw .stallKeep
  pure .seq

def bodyRls (_ : Fields) : M Ctl := do
  let x ← getCtx
  let me ← ask State.cur
  match x.held with
  | none => opFault
  | some (q, k) =>
    act (fun s => s.freeMsg (coreOf me) q k)
    modCtx (fun y => { y with held := none })
    pure .seq

/-! ## SENDT (R265) -/

/-- What a home answers to a task packet: status, and the field whose queue takes the task. -/
def State.taskAnswer (s : State) (part stack lid : Nat) (ws : List Word) : Nat × Option Nat :=
  match s.launch? lid with
  | none => (2, none)
  | some l =>
    if !l.bound || l.binding || l.completing then (2, none)
    else if l.part ≠ part then (3, none)
    else if !taskLegal l.lpg ws then (4, none)
    else (0, s.sendtField stack l)

/-- Queues an accepted task; a range task that is empty counts as done at once (R31). -/
def State.acceptTask (s : State) (fi lid : Nat) (ws : List Word) : State :=
  match s.launch? lid with
  | none => s
  | some l =>
    if taskRng ws && taskLo ws == taskHi ws then s else s.enqueue fi (l.mkTask (l.stageOfCore (fi * 1024)) ws)

/-- Bytes of words, little-endian. -/
def wordBytes (ws : List Word) : List Byte := ws.flatMap (fun w => leBytes 8 w.toNat)

/-- A task packet: record, launch, partition. -/
def State.taskPacket (s : State) (part dst pa lid : Nat) (ws : List Word) : Packet :=
  s.mkPacket dst 0 kTask pa 0 (wordBytes ws ++ leBytes 2 lid ++ leBytes 1 part)

/-- Sends the task packet of a SENDT to another cube and keeps what its status is for. One that is issued again to
the home of a moved status says so in GRP. -/
def State.sendTask (s : State) (t act dst pa lid : Nat) (ws : List Word) (again : Bool := false) : State :=
  let o : TaskOut := { cube := dst, seq := look s.zen.e2eTx dst 0 % 2 ^ 16, tid := t, act := act, pa := pa, lid := lid,
                       words := ws }
  let p := s.taskPacket (s.partOf t) dst pa lid ws
  let s1 := s.sendPacket (if again then { p with grp := 63 } else p)
  { s1 with zen := { s1.zen with tasksOut := s1.zen.tasksOut ++ [o] } }

/-- A task packet that waits at a hub is answered, if it can be (R315); none while no queue has room. -/
def State.placeSendt (s : State) (w : SendtWait) : Option State :=
  match s.taskAnswer w.part w.stack w.lid w.words with
  | (0, some fi) => some ((s.acceptTask fi w.lid w.words).answerTo w.tid w.act 0)
  | (0, none) => none
  | (v, _) => some (s.answerTo w.tid w.act v)

/-- The hubs place the task packets that wait, oldest first. -/
def State.deliverSendts (s : State) : State :=
  s.sched.sendts.foldl (fun s w =>
    match s.placeSendt w with
    | some s1 => { s1 with sched := { s1.sched with sendts := s1.sched.sendts.erase w } }
    | none => s) s

/-- SENDT holds its slot until the home has answered. -/
def bodySendt (f : Fields) : M Ctl := do
  let x ← getCtx
  let me ← ask State.cur
  let finish := fun (v : Nat) => do
    modCtx (fun y => { y with answer := none }.setX f.dst.toNat (w64 v))
    pure Ctl.seq
  match x.answer with
  | some (some v) => finish v
  | some none => throw .stallKeep
  | none =>
    let ws ← localRecord (x.localAddr 0 f.sb)
    let va := x.x f.sa.toNat
    let pa ← if f.space = 2 then pure va.toNat else translate va { r := true }
    releaseOrder
    bump [f.sb]
    match ← ask (fun s => s.home? pa) with
    | none => finish 1
    | some h =>
      let lid := f.imm.toNat % 2 ^ 16
      if h.cube ≠ (← ask State.cubeid) then
        if !(← ask (fun s => s.reachable h.cube)) then finish 5
        else
          act (fun s => (s.sendTask me x.act h.cube pa lid ws).modCtx me (fun y => { y with answer := some none }))
          throw .stallKeep
      else
        let (v, place) ← ask (fun s => s.taskAnswer (s.partOf me) h.stack lid ws)
        if v ≠ 0 then finish v
        else
          match place with
          | none =>
            -- the packet waits at the hub
            act (fun s => { s with sched := { s.sched with sendts := s.sched.sendts ++
              [{ tid := me, act := x.act, part := s.partOf me, stack := h.stack, lid := lid, words := ws }] } })
            modCtx (fun y => { y with answer := some none })
            throw .stallKeep
          | some fi =>
            act (fun s => s.acceptTask fi lid ws)
            finish 0

/-! ## The meanings -/

/-- HANDLER_ACTIVATION: a message at the head of a queue starts the handler bound to it. -/
def execHandlerActivation (core q : Nat) (s : State) : Host.Outcome State Fault Refusal :=
  .next (if (s.field (fieldOfCore core)).frozen then s else s.startHandler core q)
def execSend (f : Fields) (s : State) : Host.Outcome State Fault Refusal := issue .send bodySend f s
def execSendv (f : Fields) (s : State) : Host.Outcome State Fault Refusal := issue .sendv bodySendv f s
def execSendt (f : Fields) (s : State) : Host.Outcome State Fault Refusal := issue .sendt bodySendt f s
def execRls (f : Fields) (s : State) : Host.Outcome State Fault Refusal := issue .rls bodyRls f s
def execPoll (f : Fields) (s : State) : Host.Outcome State Fault Refusal := issue .poll bodyPoll f s
def execWaitq (f : Fields) (s : State) : Host.Outcome State Fault Refusal := issue .waitq bodyWaitq f s

end Sys2Proof.Machine
end

