-- ==== Sys2Proof/Machine/Slice.lean ====
section
/-! DEFINITION. The two states of an L2 slice's upper ways (R84, R85) and the emptying of a slice
(R303). -/

namespace Sys2Proof.Machine

open Sys2Proof

/-- L2CFG as it reads. While a write of SURR is held, SURR reads the value that is in effect, not the held
one: the manual does not say which (DESIGN CHOICE, log entry 102). -/
def Field.l2cfg (f : Field) : Word := w64 (f.l2state * 4 + if f.surr then 1 else 0)

/-- Zeroes the field's scratch bytes. -/
def State.zeroScratch (s : State) (fi : Nat) : State :=
  let lo := s.scratchLoc fi 0
  { s with mem := s.mem.filter (fun e => !(decide (lo ≤ e.1) && decide (e.1 < lo + 2 ^ 20))) }

/-- Whether an access of a field's own contexts to its scratch bytes has passed its check and is not performed: it
keeps the bytes until it is (R86, R297). -/
def State.scratchOpen (s : State) (fi : Nat) : Bool :=
  s.ctxs.any (fun e => fieldOf e.1 == fi && ((e.2.inSlot && e.2.scratchAt == some e.2.issued) ||
    e.2.pend.any (fun p => !p.done && p.work.els.any (fun q => paSpace q.pa == 0xE && bits q.pa 35 20 == fi &&
      bits q.pa 47 36 == s.cubeid))))

/-- A write of SURR while no transition is under way: row by row of R85. The scratch bytes go, without write-back,
once no access that passed its check still needs them. -/
def State.applySurr (s : State) (fi : Nat) (b : Bool) : State :=
  let f := s.field fi
  if f.l2state = 0 && b then s.setField fi { f with surr := true, l2state := 1, l2wbc := 0 }
  else if f.l2state = 2 && !b then s.setField fi { f with surr := false, l2state := 3 }
  else s

/-- SURR is written (R85): held during a transition, the last write winning. -/
def State.writeSurr (s : State) (fi : Nat) (b : Bool) : State :=
  let f := s.field fi
  if f.l2state = 1 || f.l2state = 3 then s.setField fi { f with surrHeld := some b }
  else s.applySurr fi b

/-- A transition ends, and a held write is acted on. -/
def State.afterL2 (s : State) (fi : Nat) : State :=
  match (s.field fi).surrHeld with
  | some b => (s.modField fi (fun f => { f with surrHeld := none })).applySurr fi b
  | none => s

/-- Lines of ways 8 to 15. -/
def Field.highLines (f : Field) : List (Nat × L2Line) := f.l2.filter (fun e => e.2.high)

/-- A surrender ends: dirty lines go to their homes and are counted, the ways are invalidated, the
scratch is zeroed. -/
def State.finishSurrender (s : State) (fi : Nat) : State :=
  let hi := (s.field fi).highLines
  let n := (hi.filter (fun e => e.2.dirty)).length
  let s1 := hi.foldl (fun s e => (s.dropLine fi e.1).unhold fi e.1) (hi.foldl (fun s e => s.cleanLine fi e.1) s)
  (s1.zeroScratch fi).modField fi (fun f => { f with l2state := 2, l2wbc := n })

/-- SURRENDER_DONE. -/
def State.surrenderDone (s : State) (fi : Nat) : State :=
  if (s.field fi).l2state = 1 && !(s.field fi).frozen then (s.finishSurrender fi).afterL2 fi else s

/-- WAY_RESTORE_DONE. -/
def State.restoreDone (s : State) (fi : Nat) : State :=
  if (s.field fi).l2state = 3 && !(s.field fi).frozen && !s.scratchOpen fi then
    ((s.zeroScratch fi).modField fi (fun f => { f with l2state := 0 })).afterL2 fi
  else s

/-- What a bind or a change of partition does first (R85): a transition under way ends, held writes
are discarded, SURR is forced to 0 and the ways return to the cache. -/
def State.settleL2 (s : State) (fi : Nat) : State :=
  let s1 := if (s.field fi).l2state = 1 then s.finishSurrender fi else if (s.field fi).l2state = 0 then s else s.zeroScratch fi
  s1.modField fi (fun f => { f with l2state := 0, surr := false, surrHeld := none })

/-- Every dirty line of a slice goes to its home, and the slice is emptied; the field leaves every
directory record as an eviction would take it out (R303). -/
def State.emptySlice (s : State) (fi : Nat) : State :=
  let ls := (s.field fi).l2.map Prod.fst
  let s1 := ls.foldl (fun s ln => (s.dropLine fi ln).unhold fi ln) (ls.foldl (fun s ln => s.cleanLine fi ln) s)
  let leave := fun (r : DirRec) =>
    let g : Option Sharer → Option Sharer := fun e => match e with
      | some x => if x.fi == fi then none else some x
      | none => none
    { r with sh0 := g r.sh0, sh1 := g r.sh1, sh2 := g r.sh2, sh3 := g r.sh3 }
  { s1.modField fi (fun f => { f with miss := [], fills := [] }) with
    stks := s1.stks.map (fun (e : Nat × Stack) =>
      (e.1, { e.2 with dir := e.2.dir.map (fun d => (d.1, leave d.2)) })) }

/-! ## The meanings -/

/-- SURRENDER: SURR written 1. -/
def execSurrender (fi : Nat) (s : State) : Host.Outcome State Fault Refusal := .next (s.writeSurr fi true)
/-- WAY_RESTORE: SURR written 0. -/
def execWayRestore (fi : Nat) (s : State) : Host.Outcome State Fault Refusal := .next (s.writeSurr fi false)
def execSurrenderDone (fi : Nat) (s : State) : Host.Outcome State Fault Refusal := .next (s.surrenderDone fi)
def execWayRestoreDone (fi : Nat) (s : State) : Host.Outcome State Fault Refusal := .next (s.restoreDone fi)

end Sys2Proof.Machine
end

