-- ==== Sys2Proof/Machine/Launch.lean ====
section
/-! DEFINITION. Launches: judging a block (R34 to R37), acceptance (R310), the launch queue
(R309), binding (R311 to R313), buffer actions (R36), initial tasks and stage release (R38, R39),
completion and unbinding (R40, R314). -/

namespace Sys2Proof.Machine

open Sys2Proof

/-! ## Judging a block (R37) -/

/-- The words of a block in a byte range are zero. -/
def Launch.zeros (l : Launch) (lo hi : Nat) : Bool :=
  (List.range ((hi - lo) / 8)).all (fun i => l.word (lo + 8 * i) == 0)

/-- Stages of a staged launch. -/
def Launch.stages (l : Launch) : Nat := l.nstg + 1

/-- Status 1: the form of the block, with what its kind does not use. -/
def Launch.formOk (l : Launch) : Bool :=
  bits (l.word 0) 3 0 == 1 && l.kind != 3 && l.pmode != 3 && bits (l.word 0) 63 62 == 0 &&
  bits (l.word 8) 63 48 == 0 &&
  bits (l.word 0x10) 63 52 == 0 && bits (l.word 0x10) 6 0 == 0 &&
  bits (l.word 0x18) 63 52 == 0 && bits (l.word 0x18) 11 0 == 0 &&
  bits (l.word 0x20) 63 52 == 0 && bits (l.word 0x20) 11 0 == 0 &&
  bits (l.word 0x28) 2 0 == 0 && bits (l.word 0x30) 63 53 == 0 && l.zeros 0xE8 0x100 &&
  (List.range 4).all (fun c => bits (l.chan c) 15 9 == 0) &&
  (if l.kind = 2 then
    (List.range 4).all (fun s => decide (s < l.stages) ||
      (l.sfld s == 0 && l.zeros (0x48 + 40 * s) (0x48 + 40 * s + 40)))
  else l.nstg == 0 && l.word 0x38 == 0 && l.word 0x40 == 0 && l.zeros 0x88 0xE8)

/-- Fields of a rectangle (R34). -/
def Launch.rect (l : Launch) : List Nat :=
  (List.range (l.ph + 1)).flatMap (fun r => (List.range (l.pw + 1)).map (fun c =>
    l.pstk * 256 + (l.prow0 + r) * 16 + l.pcol0 + c))

/-- Whether a launch may place fields outside its rectangle, in other stacks: its partition has FXL and its block
came from the launch queue (R302). -/
def State.outsideRect (s : State) (l : Launch) : Bool := l.qsrc && bit (s.part l.part).pctl 4

/-- Whether a field meets the rectangle of a launch, or lies in another stack where FXL permits that. -/
def Launch.inRect (l : Launch) (fxl : Bool) (f : Nat) : Bool :=
  l.rect.contains f || (fxl && stackOfField f != l.pstk)

/-- Status 2: membership alone decides (R310). -/
def State.placeable (s : State) (l : Launch) : Bool :=
  let mine := fun (f : Nat) => (s.field f).fpart == l.part
  match l.pmode with
  | 2 =>
    decide (l.prow0 + l.ph ≤ 15) && decide (l.pcol0 + l.pw ≤ 15) && l.nfld == (l.ph + 1) * (l.pw + 1) &&
      (if s.outsideRect l then
        decide (((List.range 1024).filter (fun f => mine f && l.inRect true f)).length ≥ l.nfld)
      else l.rect.all mine)
  | 1 => decide (((List.range 256).filter (fun f => mine (l.pstk * 256 + f))).length ≥ l.nfld)
  | _ => decide (((List.range 1024).filter mine).length ≥ l.nfld)

/-- Status 5. -/
def Launch.policiesOk (l : Launch) : Bool :=
  (l.rst || (List.range 5).all (fun v => l.cpol v != 1)) && l.cpol 4 != 3

/-- Capability i of the buffer list. -/
def Launch.buffer (l : Launch) (i : Nat) : Cap := { w0 := l.word (0x100 + 16 * i), w1 := l.word (0x108 + 16 * i) }

/-- Status 6: the buffer list (R307). -/
def Launch.buffersOk (l : Launch) (tags : List Bool) : Bool :=
  decide (l.bcnt ≤ 16) && (List.range l.bcnt).all (fun i =>
    match l.bmode i with
    | 0 => true
    | 1 | 3 => capCheck (tags.getD i false) (l.buffer i) useBufferR == 0
    | 2 | 4 => capCheck (tags.getD i false) (l.buffer i) useBufferRW == 0
    | _ => false)

/-- The valid channels of a block. -/
def Launch.channels (l : Launch) : List Nat := ((List.range 4).map l.chan).filter chValid

/-- Stages reached from a stage along channels, with fuel. -/
def Launch.reach (l : Launch) (st : Nat) : Nat → List Nat
  | 0 => []
  | n + 1 => (l.channels.filter (fun c => chPstg c == st)).flatMap (fun c => chCstg c :: l.reach (chCstg c) n)

/-- Allowances that sum on a queue of consumer core j of a stage (R35). -/
def Launch.allowed (l : Launch) (st q j : Nat) : Nat :=
  ((l.channels.filter (fun c => chCstg c == st && chQ c == q)).map (fun c =>
    chAllow c * producersOf (l.stageCores (chPstg c)) (l.stageCores st) j)).sum

/-- Status 7. -/
def Launch.channelsOk (l : Launch) : Bool :=
  l.kind != 2 ||
  (l.channels.all (fun c => decide (chPstg c < l.stages) && decide (chCstg c < l.stages) && chPstg c != chCstg c) &&
   (List.range 4).all (fun st => !(l.reach st 4).contains st) &&
   (List.range 4).all (fun st => (List.range 2).all (fun q =>
     (List.range (l.stageCores st)).all (fun j => decide (l.allowed st q j ≤ 8)))))

/-- Status 9. -/
def Launch.recordsOk (l : Launch) : Bool :=
  if l.kind = 2 then
    (List.range l.stages).all (fun st =>
      let ws := l.withHeader (l.stageRecord st)
      taskLegal l.lpg ws && !taskRng ws && l.sfld st != 0) &&
    ((List.range l.stages).map l.sfld).sum == l.nfld
  else
    let ws := l.withHeader l.record
    taskLegal l.lpg ws && taskRng ws == (l.kind == 1)

/-- The status of a block (R37); `space` says whether its partition is enabled and its address
space lies in the partition's range. -/
def State.judge (s : State) (l : Launch) (tags : List Bool) (space : Bool) : Nat :=
  if !l.formOk then 1
  else if !space || !s.placeable l then 2
  else if l.ctxN = 0 || l.lpg > 12 || l.nfld = 0 then 3
  else if l.ctxN > 16 then 3
  else if !rqLegal (l.word 8 % 2 ^ 48) then 4
  else if !l.policiesOk then 5
  else if !l.buffersOk tags then 6
  else if !l.channelsOk then 7
  else if !s.floorsFit [{ l with request := w64 (l.word 8 % 2 ^ 48) }.grant] then 8
  else if !l.recordsOk then 9
  else 0

/-- Whether a partition is in use. -/
def State.partEn (s : State) (p : Nat) : Bool := bit (s.part p).pctl 0

/-- Whether an address space lies in a partition's range. -/
def State.asidOk (s : State) (p asid : Nat) : Bool :=
  let w := (s.part p).pasid.toNat
  decide (bits w 15 0 ≤ asid) && decide (asid < bits w 15 0 + bits w 31 16)

/-! ## Acceptance (R310) -/

/-- Launches not yet bound. -/
def State.pending (s : State) : List Launch := s.sched.launches.filter (fun l => !l.bound)

/-- The next identifier: it skips 0 and every one in use. -/
def State.nextLid (s : State) : Nat :=
  ((List.range (s.sched.launches.length + 2)).map (fun i => (s.sched.lastLid + 1 + i) % 2 ^ 16)).find? (fun v =>
    v != 0 && (s.launch? v).isNone) |>.getD 0

/-- An accepted launch takes its identifier and its sequence number. -/
def State.accept (s : State) (l : Launch) : State :=
  let lid := s.nextLid
  { s with sched := { s.sched with
      lastLid := lid
      launches := s.sched.launches ++ [{ l with lid := lid, request := w64 (l.word 8 % 2 ^ 48) }] } }

/-- The status word (R272). -/
def statusWord272 (seq lid st : Nat) : Word := w64 (seq % 2 ^ 32 * 2 ^ 32 + lid * 2 ^ 16 + st)

/-! ## The launch queue (R309) -/

/-- The 512 bytes of a block and the tags of its 16 buffer granules, read at home. -/
def State.readBlock (s : State) (pa : Nat) : Acc (List Word × List Bool) :=
  match s.readWords pa 64 with
  | .ok ws s1 =>
    let tags := (List.range 16).map (fun i =>
      match s1.home? (pa + 0x100 + 16 * i) with
      | some h => (s1.lineAt h.loc).tags.getLsbD ((pa + 0x100 + 16 * i) % 128 / 16)
      | none => false)
    .ok (ws, tags) s1
  | .stall s1 => .stall s1
  | .fault c => .fault c

/-- A judged entry: STAT is written, then LQHEAD advances and an accepted launch is kept. -/
def State.finishEntryLQ (s : State) (pa : Nat) (l : Launch) (st : Nat) : State :=
  let seq := s.sched.qseq + 1
  let word := if st = 0 then statusWord272 seq s.nextLid 0 else statusWord272 0 0 st
  match s.writeDirect (pa + 8) 8 word.toNat with
  | .ok _ s1 =>
    let s2 : State := { s1 with sched := { s1.sched with lqhead := (s1.sched.lqhead + 1) % 2 ^ s1.sched.logn } }
    if st ≠ 0 then s2
    else
      let s3 := s2.accept { l with seq := w64 seq }
      { s3 with sched := { s3.sched with qseq := seq } }
  | _ => { s with sched := { s.sched with rerr := true } }

/-- The next sequence number of a core's launches (R40). -/
def State.lnchSeq (s : State) (t : Nat) : Nat := (s.core (coreOf t)).lseq + 1

/-- An LNCH of a context is judged (R310): its status word, and the state after. -/
def State.judgeLnch (s : State) (t : Nat) (l : Launch) (tags : List Bool) : Word × State :=
  let seq := s.lnchSeq t
  let l := { l with seq := w64 seq }
  let st := s.judge l tags (s.partEn l.part && s.asidOk l.part l.asid)
  if st = 0 then
    (statusWord272 seq s.nextLid 0, (s.accept l).modCore (coreOf t) (fun c => { c with lseq := seq }))
  else (statusWord272 0 0 st, s)

/-- Whether an entry of the launch queue is there to be taken: judging stops at 1,024 pending launches. -/
def State.entryDue (s : State) : Bool :=
  let q := s.sched
  q.en && !q.cerr && !q.rerr && q.lqhead != q.lqtail % 2 ^ q.logn && decide (s.pending.length < 1024)

/-- The oldest LNCH request is judged once it may be: one that comes together with a queue entry after
that (R324). -/
def State.judgeFirst (s : State) : Option State :=
  match s.sched.reqs with
  | [] => none
  | r :: rest =>
    if s.pending.length ≥ 1024 || (r.at_ == s.time && s.entryDue) then none
    else
      let s1 := { s with sched := { s.sched with reqs := rest } }
      let (w, s2) := s1.judgeLnch r.tid r.launch r.tags
      some (s2.answerTo r.tid r.act w.toNat)

/-- The cube reads the next entry, judges it, writes STAT and advances. -/
def State.takeEntry (s : State) : State :=
  let q := s.sched
  let cap : Cap := { w0 := (q.lqcap.extractLsb' 0 64).toNat, w1 := (q.lqcap.extractLsb' 64 64).toNat }
  if !s.entryDue then s
  else if capCheck q.lqtag cap useLaunchQ ≠ 0 || !cap.holdsExtent (32 * 2 ^ q.logn) then
    { s with sched := { q with cerr := true } }
  else
    let pa := cap.addr + 32 * q.lqhead
    match s.readWords pa 4 with
    | .ok ws s1 =>
      let w := tw ws
      let blk := bits (w 0) 51 9 * 512
      let part := bits (w 0) 63 58
      let asid := bits (w 2) 15 0
      let rsvd := bits (w 0) 8 0 != 0 || bits (w 0) 57 52 != 0 || bits (w 2) 63 16 != 0 || w 3 != 0
      let mk := fun (b : List Word) =>
        ({ lid := 0, seq := 0, qsrc := true, name := 0, part := part, asid := asid, block := b } : Launch)
      (match s1.readBlock blk with
       | .ok (b, tags) s2 =>
         let st := if rsvd then 1 else s2.judge (mk b) tags (s2.partEn part && s2.asidOk part asid)
         s2.finishEntryLQ pa (mk b) st
       | _ => s1.finishEntryLQ pa (mk []) 10)
    | .stall _ => s
    | .fault _ => { s with sched := { q with rerr := true } }

/-- LAUNCH_QUEUE_ENTRY: the scheduler unit judges the next arrival (R310). -/
def State.launchQueueEntry (s : State) : State := (s.judgeFirst).getD s.takeEntry

/-! ## Buffer actions (R36) -/

/-- Lines of a table of held lines that lie in the bounds of a capability. DESIGN CHOICE, that these are physical
addresses (R36): log 125. -/
def linesIn {α : Type} (c : Cap) (m : Map α) : List Nat :=
  (m.map Prod.fst).filter (fun ln => decide (c.lo ≤ 128 * ln) && decide (128 * ln < c.hi))

/-- The indices of the buffer list with one of some modes. -/
def Launch.buffersWith (l : Launch) (p : Nat → Bool) : List Nat := (List.range l.bcnt).filter (fun i => p (l.bmode i))

/-- The actions before any task. -/
def State.beforeActions (s : State) (l : Launch) : State :=
  (l.buffersWith (fun m => m == 1 || m == 2)).foldl (fun s i =>
    let c := l.buffer i
    if l.bmode i = 1 then (linesIn c s.zen.cache).foldl State.zRecall s
    else
      let s1 := (linesIn c s.zen.cache).foldl State.zDrop s
      l.fields.foldl (fun s f =>
        s.dropLeases f (fun ln => decide (c.lo ≤ 128 * ln) && decide (128 * ln < c.hi))) s1) s

/-- The actions after the last DONE. -/
def State.afterActions (s : State) (l : Launch) : State :=
  (l.buffersWith (fun m => m == 3 || m == 4)).foldl (fun s i =>
    l.fields.foldl (fun s f =>
      (linesIn (l.buffer i) (s.field f).l2).foldl (fun s ln =>
        let s1 := s.cleanLine f ln
        if l.bmode i = 4 then s1.dropLine f ln else s1) s) s) s

/-! ## Binding (R311 to R313) -/

/-- Whether fields meet PMODE, PSTK and the rectangle. -/
def Launch.meets (l : Launch) (fxl : Bool) (fs : List Nat) : Bool :=
  match l.pmode with
  | 1 => fs.all (fun f => stackOfField f == l.pstk)
  | 2 => if fxl then fs.all (l.inRect true) else fs == l.rect
  | _ => true

/-- The initial tasks of a launch (R38). -/
def Launch.initialTasks (l : Launch) : List (Nat × Task) :=
  let ws := l.withHeader l.record
  match l.kind with
  | 0 => [(l.fields.getD 0 0 * 1024, l.mkTask 0 ws)]
  | 1 =>
    let g := 2 ^ taskGrain ws
    let lo := taskLo ws
    let hi := taskHi ws
    let n := (hi - lo + g - 1) / g
    let c := l.fields.length * 1024
    (List.range c).filterMap (fun i =>
      let a := lo + i * n / c * g
      let b := Nat.min hi (lo + (i + 1) * n / c * g)
      if i * n / c < (i + 1) * n / c then
        some (l.fields.getD (i / 1024) 0 * 1024 + i % 1024, l.mkTask 0 (ws.take 7 ++ [w64 (b * 2 ^ 32 + a)]))
      else none)
  | _ => []

/-- A context at a bind: FREE, with its notify word and event queue empty. -/
def Ctx.atBind (x : Ctx) : Ctx :=
  { x with st := .free, task := none, wait := .none, notify := 0, events := [], evDrop := 0, pend := [] }

/-- A core at a bind: no block cached, every queue empty. -/
def Core.atBind (c : Core) : Core :=
  { c with icache := [], msgs := [], hand0 := none, hand1 := none, hrun0 := none, hrun1 := none, ports := [],
           sendQ := [], copies := [], sb := [], frames := [], wants := [], regs := [], back := [] }

/-- Blocks of poisoned instructions in the instruction caches of a field: as these are emptied, 10 instructions of
each are discarded unissued (R346). -/
def State.poisoned (s : State) (fi : Nat) : Nat :=
  ((s.cores.filter (fun e => fieldOfCore e.1 == fi)).map (fun e => (e.2.icache.filter IBlock.poison).length)).sum

/-- Step 1 of R313 on one field. -/
def State.bindField (s : State) (lid fi : Nat) : State :=
  let s1 := s.settleL2 fi
  let s2 : State := { s1 with
    ctxs := s1.ctxs.map (fun (e : Nat × Ctx) => if fieldOf e.1 = fi then (e.1, e.2.atBind) else e)
    cores := s1.cores.map (fun (e : Nat × Core) => if fieldOfCore e.1 = fi then (e.1, e.2.atBind) else e) }
  s2.modField fi (fun f => { f with
    flid := lid, flagor := 0, tasks := [], htab := [], dists := [], queries := [], maxRng := 0, mfaults := [],
    tqvalid := 0, tqovf := false, tqwait := [], tqgo := [],
    pdisc := f.pdisc + BitVec.ofNat 32 (10 * s.poisoned fi) })

/-- The launch whose bind waits for its grant run. -/
def State.bindingLaunch (s : State) : Option Launch := s.sched.launches.find? Launch.binding

/-- BSTAT of a bind (R312). -/
def State.bindStatus (s : State) (lid : Nat) (fs : List Nat) : Nat :=
  match s.launch? lid with
  | none => 1
  | some l =>
    if l.bound then 1
    else if fs.length ≠ l.nfld then 2
    else if fs.any (fun f => (s.field f).fpart != l.part || (s.field f).flid != 0) then 3
    else if !l.meets (s.outsideRect l) fs then 4
    else if fs.any (fun f => (coresOfField f).any (fun c => (s.core c).ctxb == 0)) then 7
    else if !s.floorsFit [l.grant] then 5
    else if s.bindingLaunch.isSome then 6
    else 0

/-- The first step of a successful bind: the fields, and the grant run that the bind waits for (R313). -/
def State.bindLaunch (s : State) (l : Launch) (fs : List Nat) : State :=
  let s1 := fs.foldl (fun s f => s.bindField l.lid f) s
  (s1.setLaunch { l with bound := true, binding := true, fields := fs, bars := [], used := [], staged := [] }).askRun

/-- The steps after the run: the "before" actions, then the activations (R313, R38). -/
def State.finishBind (s : State) (l : Launch) : State :=
  (s.beforeActions l).modLaunch l.lid (fun x => { x with binding := false, initial := x.initialTasks })

/-- BINDC (R312). -/
def State.bindc (s : State) (v : Word) : State :=
  let lid := bits v.toNat 15 0
  if bits v.toNat 17 16 ≠ 1 then s
  else
    let fs := (List.range 1024).filter (fun i => s.sched.bindf.getLsbD i)
    let st := s.bindStatus lid fs
    let s1 := match s.launch? lid with
      | some l => if st = 0 then s.bindLaunch l fs else s
      | none => s
    { s1 with sched := { s1.sched with bstat := st } }

/-! ## Initial tasks and stages (R38, R39) -/

/-- ACTIVATION: an initial task of a bound launch starts on its core. -/
def State.startInitial (s : State) (core : Nat) (k : Task) : State :=
  match s.launch? k.lid with
  | none => s
  | some l =>
    if !l.bound || !l.initial.contains (core, k) then s
    else
      match s.freeCtx? core with
      | none => s
      | some t => (s.modLaunch l.lid (fun l => { l with initial := l.initial.erase (core, k) })).activate t k

/-- The cores of a stage. -/
def Launch.coresOfStage (l : Launch) (st : Nat) : List Nat := (l.stageFields st).flatMap coresOfField

/-- Whether a stage has an activation or a bound handler on each of its cores. -/
def Launch.stageUp (l : Launch) (st : Nat) : Bool :=
  l.staged.contains st && l.initial.all (fun e => e.2.stage != st)

/-- STAGE_RELEASE: once every consuming stage is up, each core receives its activation or its
handler. -/
def State.releaseStage (s : State) (lid st : Nat) : State :=
  match s.launch? lid with
  | none => s
  | some l =>
    if !l.bound || l.binding || l.completing || l.kind ≠ 2 || st ≥ l.stages || l.staged.contains st ||
        !(l.channels.all (fun c => chPstg c != st || l.stageUp (chCstg c))) then s
    else
      let qb := taskQb (l.stageRecord st)
      let cores := l.coresOfStage st
      let s1 := s.modLaunch lid (fun l => { l with staged := l.staged ++ [st] })
      if qb = 0 then
        s1.modLaunch lid (fun x => { x with initial := x.initial ++ cores.map (fun c => (c, s.stageTask l st c)) })
      else
        cores.foldl (fun s1 c => s1.modCore c (fun k => k.setHand (qb - 2) (some (s.stageTask l st c)))) s1

/-! ## Completion (R40, R314) -/

/-- Whether a message waits for the handler that is bound to its queue: its activation is in flight
(R30, R40). -/
def Core.handlerDue (c : Core) (q : Nat) : Bool := (c.hand q).isSome && (c.oldest q).isSome

/-- Whether a launch has work left: a task, an activation, a split remainder, a handler activation
in flight, a stage to release, a store that its home has not answered. -/
def State.workLeft (s : State) (l : Launch) : Bool :=
  !l.initial.isEmpty || (l.kind == 2 && decide (l.staged.length < l.stages)) ||
  s.ctxs.any (fun e => e.2.st != .free && (e.2.task.any (fun k => k.lid == l.lid))) ||
  s.fields.any (fun e => e.2.tasks.any (fun q => q.task.lid == l.lid)) ||
  s.cores.any (fun e => l.fields.contains (fieldOfCore e.1) &&
    (!e.2.log.isEmpty || e.2.handlerDue 0 || e.2.handlerDue 1))

/-- The completion store; whether it was performed. -/
def State.completionStore (s : State) (l : Launch) : Bool × State :=
  match s.hubTranslate l.asid l.cmpl { w := true, stores := true } with
  | (none, s1) => (false, s1)
  | (some pa, s1) =>
    if paSpace pa ≥ 0xE then (false, s1)
    else
      match s1.home? pa with
      | none => (false, s1)
      | some h =>
        if !s1.reachable h.cube then (false, s1)
        else
          match s1.writeDirect pa 8 l.seq.toNat with
          | .ok _ s2 => (true, s2)
          | _ => (false, s1)

/-- A core once its field is unbound: messages, handler bindings gone. -/
def Core.atUnbind (c : Core) : Core :=
  { c with msgs := [], hand0 := none, hand1 := none, hrun0 := none, hrun1 := none, sendQ := [],
           frames := c.frames.filter (fun e => e.2.owner == namedOwner) }

/-- Unbinding (R314): the fields return to 4/4/4/4 (R281). -/
def State.unbind (s : State) (l : Launch) : State :=
  let mine := fun (core : Nat) => l.fields.contains (fieldOfCore core)
  let s1 : State := { s with
    cores := s.cores.map (fun (e : Nat × Core) => if mine e.1 then (e.1, e.2.atUnbind) else e)
    ctxs := s.ctxs.map (fun (e : Nat × Ctx) => if mine (coreOf e.1) then
      (e.1, { e.2 with events := [], evDrop := 0 }) else e) }
  let s2 := l.fields.foldl (fun s fi => s.modField fi (fun f =>
    { f with flid := 0, ratio := {}, gen := f.gen + 1, target := none, switching := false, again := none,
             vclk := s.vclk fi, vclkAt := s.counted })) s1
  ({ s2 with
      sched := { s2.sched with launches := s2.sched.launches.filter (fun x => x.lid != l.lid) }
      mer := { s2.mer with busy := s2.switchesLeft } }).askRun

/-- LAUNCH_COMPLETION: actions, completion store, interrupt, unbinding. Named regions leave their
frames for their backing when the fields are unbound. -/
def State.complete (s : State) (lid : Nat) (writeBack : State → Launch → State) : State :=
  match s.launch? lid with
  | none => s
  | some l =>
    if !l.bound || l.binding || s.workLeft l || l.fields.any (fun f => (s.field f).frozen) || s.wrap ≠ 0 then s
    else
      let s1 := writeBack (s.afterActions { l with completing := true }) l
      let r := s1.completionStore l
      let s2 : State := if r.1 then r.2
        else { r.2 with sched := { r.2.sched with cmplfV := true, cmplf := lid } }
      let s3 := if l.irqen then s2.raiseIid l.iid else s2
      s3.unbind l

/-! ## The meanings -/

def execLaunchQueueEntry (s : State) : Host.Outcome State Fault Refusal := .next s.launchQueueEntry
def execBindc (v : Word) (s : State) : Host.Outcome State Fault Refusal := .next (s.bindc v)
def execActivation (core : Nat) (k : Task) (s : State) : Host.Outcome State Fault Refusal :=
  .next (if (s.field (fieldOfCore core)).frozen then s else s.startInitial core k)
def execStageRelease (lid st : Nat) (s : State) : Host.Outcome State Fault Refusal := .next (s.releaseStage lid st)

end Sys2Proof.Machine
end

