-- ==== Sys2Proof/Machine/Task.lean ====
section
/-! DEFINITION. Tasks and work: OP 0x2A (R267, R269 to R275) and the event WQRY_ANSWER. -/

namespace Sys2Proof.Machine

open Sys2Proof

/-! ## SPAWN, SPAWNR, RNEXT (R269, R270) -/

/-- The launch of the issuing thread. -/
def myLaunch : M Launch := do
  let me ← ask State.cur
  match ← ask (fun s => s.ctxLaunch? me) with
  | some l => pure l
  | none => throw .stall

/-- A request that its hub cannot take yet holds the issue slot; a quiesce waits for it (R289). -/
def holdSlot {α : Type} : M α := do
  modCtx (fun y => { y with answer := some none })
  throw .stallKeep

/-- The exchange with the hub is over. -/
def exchanged : M Unit := modCtx (fun y => { y with answer := none })

/-- The record of SPAWN and SPAWNR, checked. -/
def spawnRecord (x : Ctx) (f : Fields) (l : Launch) (range : Bool) : M (List Word) := do
  let ws ← localRecord (x.localAddr f.imm f.sa)
  needOp (taskLegal l.lpg ws && taskRng ws == range && (!range || taskQb ws == 0))
  pure ws

/-- The task of a record in the issuing task's launch and stage. -/
def State.spawned (s : State) (t : Nat) (l : Launch) (ws : List Word) : Task :=
  l.mkTask (((s.ctx t).task.map Task.stage).getD 0) ws

/-- Places a task in a field queue; without room anywhere the instruction waits (R315). -/
def placeTask (l : Launch) (ws : List Word) : M Unit := do
  let me ← ask State.cur
  match ← ask (fun s => s.spawnField (fieldOf me) l) with
  | none => holdSlot
  | some fi => act (fun s => s.enqueue fi (s.spawned me l ws))

def bodySpawn (f : Fields) : M Ctl := do
  let x ← getCtx
  let me ← ask State.cur
  let l ← myLaunch
  let ws ← spawnRecord x f l false
  releaseOrder
  if taskQb ws = 0 then placeTask l ws
  else
    let k ← ask (fun s => s.spawned me l ws)
    modCore (fun c => c.setHand (taskQb ws - 2) (some k))
  bump [f.sa]
  exchanged
  pure .seq

def bodySpawnr (f : Fields) : M Ctl := do
  let x ← getCtx
  let l ← myLaunch
  let ws ← spawnRecord x f l true
  releaseOrder
  if taskLo ws ≠ taskHi ws then placeTask l ws
  bump [f.sa]
  exchanged
  pure .seq

def bodyRnext (f : Fields) : M Ctl := do
  let x ← getCtx
  match x.rng with
  | none => opFault
  | some r =>
    if r.c ≥ r.hi then modCtx (fun y => y.setX f.dst.toNat 0)
    else
      let e := Nat.min (r.c + r.g) r.hi
      modCtx (fun y => { y with rng := some { r with c := e } }.setX f.dst.toNat (w64 (e * 2 ^ 32 + r.c)))
    pure .seq

/-! ## DONE (R28, R271) -/

/-- Step 2 of R28 with R271: copies retired, query answers written; a failure that no CWAIT has
taken is raised. -/
def doneCopies : M Unit := do
  let me ← ask State.cur
  let x ← getCtx
  let c ← getCore
  waitFor (!c.copies.any (fun y => y.tid == me) && !c.sb.any (fun y => y.tid == me))
  raiseFailure x.copySeq

/-- A DONE that waits has issued: a quiesce lets it complete (R322). -/
def markEnding (m : M Ctl) : M Ctl := fun s =>
  match m s with
  | .error .stall _ => .error .stallKeep (s.modCtx s.cur (fun x => { x with ending := true }))
  | r => r

/-- The steps of DONE. -/
def doneSteps : M Ctl := do
  let me ← ask State.cur
  landAll
  doneCopies
  let x ← getCtx
  waitFor x.arrQ.isEmpty
  raiseArrErr
  -- a release at core scope (R28, R128), and the releases of step 4
  if x.tens.isEmpty then releaseOrder else releaseWaits
  waitFor (← ask (fun s => x.made.all s.storesDone))
  -- the image goes out, but for the pause of a wrap (R71, R117)
  waitFor (← ask (fun s => s.wrap == 0 || (s.core (coreOf me)).ctxb == 0))
  act (fun s => s.endActivation me)
  -- a refusal still pending has no boundary left (R343)
  match x.refusal with
  | some r => act (fun s => s.fatalEnded me ((x.task.map Task.lid).getD 0) x.task { cause := cPosted, tval := r.addr, loge := r.entry } (some r))
  | none => pure ()
  pure .stay

def bodyDone (_ : Fields) : M Ctl := markEnding doneSteps

/-! ## LNCH (R272) -/

/-- The tag of a granule as a thread of a field sees it. -/
def State.granuleTag (s : State) (fi pa : Nat) : Bool :=
  match s.held? fi (pa / 128) with
  | some l => l.tags.getLsbD (pa % 128 / 16)
  | none =>
    match s.home? pa with
    | some h => (s.lineAt h.loc).tags.getLsbD (pa % 128 / 16)
    | none => false

/-- The block is read once, as a plain-class global read. -/
def lnchBlock (va : Word) (pa : Nat) : M (List Word × List Bool) := do
  let me ← ask State.cur
  let els : List Elem := (List.range 64).map (fun i => { lane := i, pa := pa + 8 * i, bytes := 8, named := va })
  inOrder els
  let s ← get
  match s.loadEls me 0 els with
  | .done vs s1 =>
    set s1
    pure (vs.map w64, (List.range 16).map (fun i => paSpace pa < 0xE && s1.granuleTag (fieldOf me) (pa + 0x100 + 16 * i)))
  | .wait _ => throw .stall
  | .bad e => throw (.exc e)

/-- LNCH ends with its status word. -/
def lnchEnd (f : Fields) (w : Word) : M Ctl := do
  modCtx (fun y => { y with answer := none }.setX f.dst.toNat w)
  pure .seq

/-- Sends the request: its block is read once, and it is judged in its order of arrival. -/
def lnchSend (f : Fields) : M Ctl := do
  let x ← getCtx
  let me ← ask State.cur
  let va := x.x f.sa.toNat + sextImm f.imm
  let part ← ask (fun s => s.partOf me)
  need (va.toNat % 512 = 0) cAlign va
  need (bit (← ask (fun s => (s.part part).pctl)) 1) cProt va
  let pa ← translate va { r := true, near := true }
  releaseOrder
  let (ws, tags) ← lnchBlock va pa
  let asid ← ask (fun s => s.asidOf me)
  let name ← ask (fun s => s.ctxName me)
  let l : Launch := { lid := 0, seq := 0, qsrc := false, name := BitVec.ofNat 32 name, part := part,
                      asid := asid, block := ws }
  if ← ask (fun s => s.sched.reqs.isEmpty && decide (s.pending.length < 1024) && !s.entryDue) then
    let (w, s1) ← ask (fun s => s.judgeLnch me l tags)
    set s1
    lnchEnd f w
  else
    act (fun s => { s with sched := { s.sched with
      reqs := s.sched.reqs ++ [{ tid := me, act := x.act, launch := l, tags := tags, at_ := s.time }] } })
    holdSlot

def bodyLnch (f : Fields) : M Ctl := do
  let x ← getCtx
  match x.answer with
  | some (some v) => lnchEnd f (w64 v)
  | some none => throw .stallKeep
  | none => lnchSend f

/-! ## Work distributors (R273 to R275) -/

def bodyWcfg (f : Fields) : M Ctl := do
  let x ← getCtx
  let e := (x.x f.sa.toNat).toNat
  needOp (e / 2 ^ 48 = 0)
  let d : Dist := { x := bits e 15 0, y := bits e 31 16, z := bits e 47 32, order := f.imm.toNat / 16 % 4, n := 0 }
  modField (fun y => { y with dists := put y.dists (f.imm.toNat % 16) d })
  pure .seq

/-- Length of the part of [0, x) in a cell of side m at a. -/
def cellLen (x a m : Nat) : Nat := Nat.min (x - a) m

/-- The first child of a Morton cell, from number c on, that holds grid point n: its corner and the
points before it. -/
def childOf (d : Dist) (m : Nat) (p : Nat × Nat × Nat) (c n : Nat) : Nat → (Nat × Nat × Nat) × Nat
  | 0 => (p, n)
  | k + 1 =>
    let q := (p.1 + c % 2 * m, p.2.1 + c / 2 % 2 * m, p.2.2 + c / 4 * m)
    let here := cellLen d.x q.1 m * cellLen d.y q.2.1 m * cellLen d.z q.2.2 m
    if n < here then (q, n) else childOf d m p (c + 1) (n - here) k

/-- Grid point n in ascending Morton code, inside the cell of side 2^k at a corner (R274). -/
def mortonPoint (d : Dist) (p : Nat × Nat × Nat) (n : Nat) : Nat → Nat × Nat × Nat
  | 0 => p
  | k + 1 =>
    let r := childOf d (2 ^ k) p 0 n 8
    mortonPoint d r.1 r.2 k

/-- The item for a counter value; none is the end token. -/
def Dist.item (d : Dist) (n : Nat) : Option (Nat × Nat × Nat) :=
  if n ≥ d.x * d.y * d.z then none
  else
    match d.order with
    | 0 => some (n % d.x, n / d.x % d.y, n / (d.x * d.y))
    | 1 => some (n / d.y % d.x, n % d.y, n / (d.x * d.y))
    | _ => some (mortonPoint d (0, 0, 0) n 16)

/-- The 16 bytes of an answer (R275). -/
def Dist.answer (d : Dist) : BitVec 128 :=
  match d.item d.n with
  | none => BitVec.allOnes 128
  | some (x, y, z) => BitVec.ofNat 128 (x + y * 2 ^ 32 + z * 2 ^ 64 + d.n % 2 ^ 32 * 2 ^ 96)

/-- A distributor after handing out an item. -/
def Dist.advance (d : Dist) : Dist := if d.n < d.x * d.y * d.z then { d with n := d.n + 1 } else d

def bodyWqry (f : Fields) : M Ctl := do
  let x ← getCtx
  let me ← ask State.cur
  let a := x.localAddr f.imm f.dst
  need (a.toNat % 16 = 0) cAlign a
  let ps ← localParts a 16 true
  waitFor ((← getCore).sb.length < 16)
  let fl ← getField
  let w := f.sb.toNat % 16
  let d := look fl.dists w {}
  let tk := fl.queries.foldl (fun m q => Nat.max m q.ticket) 0 + 1
  let lo := ((ps.head?).map Prod.fst).getD 0
  let q : Query := { tid := me, ticket := tk, core := coreOf me, lo := lo, item := d.answer }
  let e : SbEnt := { rs := rangesOf ps, tid := me, seq := 0, ticket := tk }
  modField (fun y => { y with dists := put y.dists w d.advance, queries := y.queries ++ [q] })
  modCore (fun c => { c with sb := c.sb ++ [e] })
  bump [f.dst]
  let p : Pend :=
    { pc := x.pc, idx := x.issued, left := f.la.toNat, done := true, result := .none, flags := 0,
      fault := none, work := .none, since := none, sup := x.sup }
  modCtx (fun y => { y with pend := y.pend ++ [p] })
  pure .seq

/-- Whether an earlier copy of the thread has still to read or write bytes of a query's answer (R124). -/
def Core.copyBefore (c : Core) (q : Query) : Bool :=
  (c.sb.takeWhile (fun e => !(e.tid == q.tid && e.ticket == q.ticket))).any (fun e =>
    e.tid == q.tid && e.ticket == 0 && e.rs.any (fun r => decide (r.1 < q.lo + 16) && decide (q.lo < r.2)))

/-- WQRY_ANSWER: the hub writes its oldest answer into the vault and retires its scoreboard
entry. -/
def State.wqryAnswer (s : State) (fi : Nat) : State :=
  let f := s.field fi
  match f.queries with
  | [] => s
  | q :: qs =>
    if f.frozen || (s.core q.core).copyBefore q then s
    else
      ((s.setField fi { f with queries := qs }).writeVault q.core q.lo 16 q.item.toNat).modCore q.core (fun c =>
        { c with sb := c.sb.filter (fun e => !(e.tid == q.tid && e.ticket == q.ticket)) })

/-! ## The meanings -/

def execWqryAnswer (fi : Nat) (s : State) : Host.Outcome State Fault Refusal := .next (s.wqryAnswer fi)
def execSpawn (f : Fields) (s : State) : Host.Outcome State Fault Refusal := issue .spawn bodySpawn f s
def execSpawnr (f : Fields) (s : State) : Host.Outcome State Fault Refusal := issue .spawnr bodySpawnr f s
def execRnext (f : Fields) (s : State) : Host.Outcome State Fault Refusal := issue .rnext bodyRnext f s
def execDone (f : Fields) (s : State) : Host.Outcome State Fault Refusal := issue .done bodyDone f s
def execLnch (f : Fields) (s : State) : Host.Outcome State Fault Refusal := issue .lnch bodyLnch f s
def execWcfg (f : Fields) (s : State) : Host.Outcome State Fault Refusal := issue .wcfg bodyWcfg f s
def execWqry (f : Fields) (s : State) : Host.Outcome State Fault Refusal := issue .wqry bodyWqry f s

end Sys2Proof.Machine
end

