-- ==== Sys2Proof/Machine/Sync.lean ====
section
/-! DEFINITION. Barriers, wakes, sleep, events and ratio requests: OP 0x2B and 0x2C (R276 to
R282), and the events WAKE_ARRIVAL, NOTIFY_LATCH_DELIVERY and SLEEP_TIMEOUT. -/

namespace Sys2Proof.Machine

open Sys2Proof

/-! ## Barriers (R276, R277) -/

/-- The instance of a scope level that contains a context (R20, R125). -/
def scopeInst (scope t : Nat) : Nat :=
  match scope with
  | 0 => coreOf t
  | 1 => fieldOf t
  | 2 => stackOf t
  | _ => 0

/-- The key of barrier b of a scope instance. -/
def barKey (scope inst b : Nat) : Nat := (scope * 2 ^ 20 + inst) * 4 + b

/-- How many members a barrier has (R276). -/
def Launch.members (l : Launch) (scope inst : Nat) : Nat :=
  match scope with
  | 0 => l.ctxN
  | 1 => 1024
  | 2 => (l.fields.filter (fun f => stackOfField f == inst)).length * 1024
  | _ => l.fields.length * 1024

/-- The member that a context is at a scope: itself at core scope, else its core. -/
def memberOf (scope t : Nat) : Nat := if scope = 0 then t else coreOf t

/-- The barrier of a launch at a key. -/
def Launch.barrier (l : Launch) (scope inst b : Nat) : Barrier := look l.bars (barKey scope inst b) {}

/-- The end of a phase: every waiter departs, with the acquire of its scope (R128, R277). -/
def State.depart (s : State) (lid scope inst b phase : Nat) : State :=
  (s.ctxs.filter (fun e => e.2.wait == .bar scope inst b phase && (e.2.task.any (fun k => k.lid == lid)))).foldl
    (fun s e => (s.acquire e.1 scope (fun _ => true)).makeReady e.1) s

/-- A context arrives: counted once per member and phase; the phase of arrival. The last arrival
ends the phase. -/
def State.arrive (s : State) (t : Nat) (l : Launch) (scope b : Nat) : Nat × State :=
  let inst := scopeInst scope t
  let key := barKey scope inst b
  let bar := l.barrier scope inst b
  let m := memberOf scope t
  let seen := if bar.arrived.contains m then bar.arrived else m :: bar.arrived
  if seen.length ≥ l.members scope inst then
    let s1 := s.modLaunch l.lid (fun l =>
      { l with bars := put l.bars key { phase := (bar.phase + 1) % 2 ^ 16, arrived := [] } })
    (bar.phase, s1.depart l.lid scope inst b bar.phase)
  else
    (bar.phase, s.modLaunch l.lid (fun l => { l with bars := put l.bars key { bar with arrived := seen } }))

/-- Arrives at a barrier of the issuing launch, as a release. -/
def arriveAt (f : Fields) : M (Launch × Nat) := do
  let me ← ask State.cur
  releaseOrder
  let l ← myLaunch
  let ph ← (fun s => let p := s.arrive me l f.scope f.xbits
                     EStateM.Result.ok p.1 p.2 : M Nat)
  pure (l, ph)

/-- Waits for the end of a phase: parks while it is the open one, and acquires on return. -/
def awaitPhase (scope inst b phase : Nat) : M Unit := do
  let me ← ask State.cur
  let l ← myLaunch
  if (l.barrier scope inst b).phase = phase then
    modCtx (fun y => { y with st := .parked, wait := .bar scope inst b phase })
  else act (fun s => s.acquire me scope (fun _ => true))

def bodyBar (f : Fields) : M Ctl := do
  let me ← ask State.cur
  let (_, ph) ← arriveAt f
  awaitPhase f.scope (scopeInst f.scope me) f.xbits ph
  pure .seq

/-- The token of R277. -/
def barToken (scope b phase : Nat) : Word := w64 (2 ^ 20 + scope * 2 ^ 18 + b * 2 ^ 16 + phase)

def bodyBara (f : Fields) : M Ctl := do
  let (_, ph) ← arriveAt f
  modCtx (fun y => y.setX f.dst.toNat (barToken f.scope f.xbits ph))
  pure .seq

def bodyBarw (f : Fields) : M Ctl := do
  let x ← getCtx
  let me ← ask State.cur
  let v := (x.x f.sa.toNat).toNat
  needOp (v / 2 ^ 20 = 1)
  let scope := bits v 19 18
  awaitPhase scope (scopeInst scope me) (bits v 17 16) (bits v 15 0)
  pure .seq

/-! ## Wakes and sleep (R278, R279, R362) -/

/-- A SLEEP returns: its register takes the notify word, which is cleared. -/
def Ctx.wakeSleep (x : Ctx) : Ctx :=
  match x.wait with
  | .sleep _ d => { x.setX d.toNat x.notify with notify := 0 }
  | _ => x

/-- Bits reach the notify word of a context; one parked in SLEEP becomes ready. -/
def State.notifyCtx (s : State) (t : Nat) (v : Word) : State :=
  let s1 := s.modCtx t (fun x => { x with notify := x.notify ||| v })
  match (s1.ctx t).wait with
  | .sleep _ _ => (s1.modCtx t Ctx.wakeSleep).makeReady t
  | _ => s1

/-- Whether a core's notify aperture is stopped: a switch is under way, or the field is frozen. -/
def State.apertureOff (s : State) (t : Nat) : Bool :=
  (s.field (fieldOf t)).frozen || (s.field (fieldOf t)).switching

/-- WAKE_ARRIVAL. -/
def State.wakeArrival (s : State) (t : Nat) (v : Word) : State :=
  if s.apertureOff t then s.modCtx t (fun x => { x with latch := x.latch ||| v })
  else if (s.ctx t).st == .free then s
  else s.notifyCtx t v

/-- NOTIFY_LATCH_DELIVERY. -/
def State.latchDelivery (s : State) (t : Nat) : State :=
  let v := (s.ctx t).latch
  if (s.field (fieldOf t)).frozen || v = 0 then s
  else
    let s1 := s.modCtx t (fun x => { x with latch := 0 })
    if (s.ctx t).st == .free then s1 else s1.notifyCtx t v

/-- SLEEP_TIMEOUT: once its tick is over, since a WAKE that arrives within it goes first (R289). -/
def State.sleepTimeout (s : State) (t : Nat) : State :=
  let x := s.ctx t
  match x.wait with
  | .sleep (some d) _ =>
    if (s.field (fieldOf t)).frozen || s.wrap ≠ 0 || x.latch ≠ 0 || s.sid ≤ d then s
    else (s.modCtx t Ctx.wakeSleep).makeReady t
  | _ => s

def bodyWake (f : Fields) : M Ctl := do
  let x ← getCtx
  let l ← myLaunch
  let t := (x.x f.sa.toNat).toNat
  needOp (t / 2 ^ 32 = 0)
  let core := bits t 19 0
  need (bits t 27 20 = (← ask State.cubeid) && l.fields.contains (fieldOfCore core)) cProt (w64 t)
  let v ← rd64 x f.imm f.sb
  needOp (v != 0)
  act (fun s => s.post (.wakeArrival (core * 16 + bits t 31 28) v))
  pure .seq

def bodySleep (f : Fields) : M Ctl := do
  let x ← getCtx
  let n := (← rd64 x f.imm f.sa).toNat
  needOp (n < 2 ^ 40)
  if x.notify != 0 then
    modCtx (fun y => { y.setX f.dst.toNat x.notify with notify := 0 })
  else
    let now ← ask State.sid
    modCtx (fun y => { y with st := .parked, wait := .sleep (if n = 0 then none else some (now + n)) f.dst })
  pure .seq

/-! ## Events (R280) -/

/-- The oldest record leaves; an overflow record takes the place that a drop had missed. -/
def Ctx.popEvent (x : Ctx) : Ctx :=
  let rest := x.events.drop 1
  if x.evDrop = 0 then { x with events := rest }
  else { x with events := rest ++ [w64 (3 * 2 ^ 60 + x.evDrop % 2 ^ 32)], evDrop := 0 }

def bodyEvq (f : Fields) : M Ctl := do
  let c := f.imm.toNat / 2 % 4
  if c ≥ 2 then modCtx (fun y => { y with cevon := c == 3 })
  let x ← getCtx
  match x.events with
  | [] =>
    if f.imm.getLsbD 0 then
      modCtx (fun y => { y with st := .parked, wait := .event })
      throw .stallKeep
    else modCtx (fun y => y.setX f.dst.toNat 0)
  | r :: _ => modCtx (fun y => y.popEvent.setX f.dst.toNat r)
  pure .seq

/-! ## Ratios (R281, R282) -/

def bodyRatq (f : Fields) : M Ctl := do
  let fl ← getField
  modCtx (fun y => y.setX f.dst.toNat (w64 fl.ratioWord))
  pure .seq

/-- The answer of the arbiter to a request. -/
def State.ratioAnswer (s : State) (l : Launch) (r : Nat) : Nat :=
  if r / 2 ^ 48 ≠ 0 || !rqLegal r then 4
  else if !(s.modLaunch l.lid (fun l => { l with request := w64 r })).floorsFit [] then 8
  else 0

def bodyRatr (f : Fields) : M Ctl := do
  let x ← getCtx
  let l ← myLaunch
  let r := (x.x f.sa.toNat).toNat
  let st ← ask (fun s => s.ratioAnswer l r)
  if st = 0 then act (fun s => (s.modLaunch l.lid (fun l => { l with request := w64 r })).askRun)
  modCtx (fun y => y.setX f.dst.toNat (w64 st))
  pure .seq

/-! ## The meanings -/

def execWakeArrival (t : Nat) (v : Word) (s : State) : Host.Outcome State Fault Refusal := .next (s.wakeArrival t v)
def execNotifyLatchDelivery (t : Nat) (s : State) : Host.Outcome State Fault Refusal := .next (s.latchDelivery t)
def execSleepTimeout (t : Nat) (s : State) : Host.Outcome State Fault Refusal := .next (s.sleepTimeout t)
def execBar (f : Fields) (s : State) : Host.Outcome State Fault Refusal := issue .bar bodyBar f s
def execBara (f : Fields) (s : State) : Host.Outcome State Fault Refusal := issue .bara bodyBara f s
def execBarw (f : Fields) (s : State) : Host.Outcome State Fault Refusal := issue .barw bodyBarw f s
def execWake (f : Fields) (s : State) : Host.Outcome State Fault Refusal := issue .wake bodyWake f s
def execSleep (f : Fields) (s : State) : Host.Outcome State Fault Refusal := issue .sleep bodySleep f s
def execEvq (f : Fields) (s : State) : Host.Outcome State Fault Refusal := issue .evq bodyEvq f s
def execRatq (f : Fields) (s : State) : Host.Outcome State Fault Refusal := issue .ratq bodyRatq f s
def execRatr (f : Fields) (s : State) : Host.Outcome State Fault Refusal := issue .ratr bodyRatr f s

end Sys2Proof.Machine
end

