-- ==== Sys2Proof/Machine/System.lean ====
section
/-! DEFINITION. Control registers (R299 to R302), shootdowns (R288, R333), the service queue's
posting side (R285, R371), and OP 0x30 (R268, R283 to R288). -/

namespace Sys2Proof.Machine

open Sys2Proof

/-! ## Reading control registers (R300) -/

/-- The backing address of a local page of a context (R27). -/
def Launch.pageVa (l : Launch) (t j : Nat) (named : Bool) : Nat :=
  let i := l.indexOf (coreOf t)
  if named then l.nbase + (i * 12 + j) * 4096 else l.lbase + ((i * 16 + ctxIx t) * 12 + j) * 4096

/-- The entry of a context's local page map (R74). -/
def State.lpmapWord (s : State) (t j : Nat) : Word :=
  match s.ctxLaunch? t with
  | none => 0
  | some l =>
    if (s.ctx t).st == .free || j ≥ 12 then 0
    else
      let named := bit (s.nlrOf t) j
      let back := l.pageVa t j named
      let fr := s.frameOf? t j
      let dirty : Bool := match fr with
        | some f => (look? (s.core (coreOf t)).frames f).any Frame.dirty
        | none => false
      -- a range scoreboard entry keeps the page pinned after its context has left the slot (R75)
      let pinned := (s.ctx t).inSlot || fr.any (fun f => s.sbHit (coreOf t) (4096 * f) 4096)
      if j ≥ s.lpgOf t then 0
      else w64 (1 + (if fr.isSome then 2 else 0) + (if dirty then 4 else 0) +
        (if fr.isSome && pinned then 8 else 0) + (if named then 16 else 0) +
        (fr.getD 0) * 2 ^ 8 + bits back 51 12 * 2 ^ 12)

/-- CTXCTL as it reads (R301). -/
def Core.ctxctl (c : Core) : Word :=
  w64 (c.ctxsel + c.lpsel * 2 ^ 8 + (if c.busy then 2 ^ 14 else 0) + (if c.ferr then 2 ^ 15 else 0))

/-- SIDCTL as it reads (R300). -/
def State.sidctl (s : State) : Word :=
  w64 (s.lease + (if s.master then 2 ^ 9 else 0) + (if s.blost then 2 ^ 10 else 0) + s.biid * 2 ^ 16)

/-- A context register. -/
def Ctx.csr (x : Ctx) (n : Nat) : Word :=
  match n with
  | 0 => x.tcause
  | 1 => x.tval
  | 2 => x.tepc
  | 3 => x.tstat
  | _ => x.tscr

/-- A core register. -/
def State.coreCsr (s : State) (core n : Nat) : Word :=
  let c := s.core core
  match n with
  | 0x100 => c.ctxb
  | 0x101 => c.ctxctl
  | 0x102 => s.lpmapWord (core * 16 + c.ctxsel) c.lpsel
  | _ => w64 (s.cubeid * 2 ^ 20 + core)

/-- A register of a field or of its partition. -/
def State.fieldCsr (s : State) (fi n : Nat) : Word :=
  let f := s.field fi
  let p := s.part f.fpart
  match n with
  | 0x200 => w64 f.fpart
  | 0x201 => w64 f.flid
  | 0x202 => f.tvec
  | 0x203 => w64 f.flagor.toNat
  | 0x204 => f.l2cfg
  | 0x205 => w64 f.l2wbc
  | 0x300 => w64 p.pctl
  | 0x301 => w64 p.pquota
  | 0x302 => w64 ((s.stack (stackOfField fi)).precs f.fpart + s.fetchRecs (stackOfField fi) f.fpart)
  | 0x303 => p.pshare
  | 0x304 => p.pasid
  | _ => if 0x340 ≤ n ∧ n ≤ 0x37F then look p.pirq (n - 0x340) 0 else 0

/-- A register of the cube. -/
def State.cubeCsr (s : State) (n : Nat) : Word :=
  match n with
  | 0x400 => w64 (s.sid + s.wrapn.toNat * 2 ^ 40)
  | 0x401 => s.sidctl
  | 0x402 => w64 s.cubeid
  | _ => if 0x800 ≤ n ∧ n ≤ 0x9FF then look s.hmap (n - 0x800) 0 else 0

/-- Control register n as the unit that holds a thread shows it. -/
def State.csr (s : State) (t n : Nat) : Word :=
  if n < 0x100 then (s.ctx t).csr n
  else if n < 0x200 then s.coreCsr (coreOf t) n
  else if n < 0x400 then s.fieldCsr (fieldOf t) n
  else s.cubeCsr n

/-- Whether a level may read a register: the U and S columns of R300. -/
def csrReads (sup : Bool) (n : Nat) : Bool :=
  sup || n == 0x103 || n == 0x200 || n == 0x201 || n == 0x203 || n == 0x204 || n == 0x205 ||
  (decide (0x300 ≤ n) && decide (n ≤ 0x304)) || n == 0x400 || n == 0x402

/-- Whether a level may write a register. -/
def csrWrites (sup : Bool) (n : Nat) : Bool :=
  n == 0x204 || (sup && (decide (n ≤ 4) || n == 0x101 || n == 0x203))

/-! ## Writing control registers -/

/-- Bits of TCAUSE and TSTAT that hold state (R339). -/
def tcauseMask : Word := 0xFFFFFFFF
def tstatMask : Word := 0x1BF01

/-- A write of a context register. -/
def Ctx.setCsr (x : Ctx) (n : Nat) (v : Word) : Ctx :=
  match n with
  | 0 => { x with tcause := v &&& tcauseMask }
  | 1 => { x with tval := v }
  | 2 => { x with tepc := v }
  | 3 => { x with tstat := v &&& tstatMask }
  | _ => { x with tscr := v }

/-- FLUSH of the selected context (R301): refused while it is ISSUING or QUIESCING. -/
def State.flushCtx (s : State) (core : Nat) : State :=
  let t := core * 16 + (s.core core).ctxsel
  let no := (s.ctx t).inSlot
  s.modCore core (fun c => { c with
    ferr := no, flushing := if no || c.flushing.contains t then c.flushing else c.flushing ++ [t] })

/-- RESUME of the selected context (R301): refused unless HALT parks it. -/
def State.resumeCtx (s : State) (core : Nat) : State :=
  let t := core * 16 + (s.core core).ctxsel
  let ok := (s.ctx t).st == .parked && (s.ctx t).wait == .halted
  let s1 := s.modCore core (fun c => { c with ferr := !ok })
  if ok then s1.makeReady t else s1

/-- A write of CTXCTL: the selections, W1C of FERR, then FLUSH, then RESUME. -/
def State.writeCtxctl (s : State) (core : Nat) (v : Nat) : State :=
  let s1 := s.modCore core (fun c =>
    { c with ctxsel := bits v 3 0, lpsel := bits v 11 8, ferr := c.ferr && !bit v 15 })
  let s2 := if bit v 12 then s1.flushCtx core else s1
  if bit v 13 then s2.resumeCtx core else s2

/-- A write by a thread that R300 permits. -/
def State.setCsr (s : State) (t n : Nat) (v : Word) : State :=
  if n < 0x100 then s.modCtx t (fun x => x.setCsr n v)
  else if n = 0x101 then s.writeCtxctl (coreOf t) v.toNat
  else if n = 0x203 then s.modField (fieldOf t) (fun f => { f with flagor := f.flagor &&& ~~~(v.setWidth 5) })
  else if n = 0x204 then s.writeSurr (fieldOf t) (v.getLsbD 0)
  else s

/-! ## Shootdowns (R288, R333) -/

/-- Whether a leaf matches a kind of invalidation: 0 `.va`, 1 `.as`, 2 `.all` of a partition. -/
def State.leafHit (s : State) (kind va who : Nat) (e : TlbEnt) : Bool :=
  match kind with
  | 0 => e.covers who va
  | 1 => e.asid == who
  | _ => let w := (s.part who).pasid.toNat
         decide (bits w 15 0 ≤ e.asid) && decide (e.asid < bits w 15 0 + bits w 31 16)

/-- Moves SDDONE past every shootdown that all hubs have acknowledged, in sequence order. -/
def State.settleShoots (s : State) : State :=
  let done := s.trans.shoots.takeWhile (fun q => q.left.isEmpty)
  match done.getLast? with
  | none => s
  | some q => { s with trans := { s.trans with
      shoots := s.trans.shoots.drop done.length, sddone := BitVec.ofNat 32 q.seq } }

/-- Starts a shootdown; its sequence number. -/
def State.startShoot (s : State) (kind va who : Nat) : Nat × State :=
  let seq := s.trans.sdseq + 1
  let q : Shoot := { seq := seq.toNat, kind := kind, va := va, who := who, left := s.fields.map Prod.fst }
  let s1 : State := { s with trans := { s.trans with sdseq := seq, shoots := s.trans.shoots ++ [q] } }
  (seq.toNat, s1.settleShoots)

/-- Whether a shootdown is complete: the comparison of R333. -/
def State.shootDone (s : State) (seq : Nat) : Bool :=
  decide ((s.trans.sddone - BitVec.ofNat 32 seq).toNat < 2 ^ 31)

/-! ## Levels (R283) -/

/-- The protection fault of an instruction that its level may not execute: it names no address,
and the manual states no TVAL for it, so TVAL is a free value. -/
def levelFault {α : Type} : M α := do
  let n ← freeNat
  raise cProt (Config.freeWord n)

/-- Level S, or the protection fault. -/
def needSup : M Unit := do
  let x ← getCtx
  if x.sup then pure () else levelFault

/-! ## TRAP, BKPT, SRET, HALT, IRQ (R284, R286, R341) -/

def bodyTrap (f : Fields) : M Ctl := throw (.exc { cause := cTrap, code := f.imm.toNat % 2 ^ 16 })

/-- Eclipse is asserted for a partition (R351): the freeze is on its way. -/
def State.assertEclipse (s : State) (p : Nat) : State :=
  s.modPart p (fun x => { x with assert := true, erel := false, ecount := if x.frozen then none else some true })

def bodyBkpt (f : Fields) : M Ctl := do
  let me ← ask State.cur
  let p ← ask (fun s => s.partOf me)
  landAll
  let q ← ask (fun s => s.part p)
  if bit q.pctl 2 then
    if q.frozen || q.ecount.isSome then
      -- one Eclipse serves both of two in one cycle: ESRC names the lower core, then the lower context (R353)
      act (fun s => if !q.frozen && q.bkBy.any (fun b => b.1 == s.time && decide (me < b.2)) then
        s.modPart p (fun x => { x with esrc := BitVec.ofNat 32 (s.ctxName me), bkBy := some (s.time, me) }) else s)
      throw .stallKeep
    act (fun s => (s.assertEclipse p).modPart p (fun x =>
      { x with bkhit := true, esrc := BitVec.ofNat 32 (s.ctxName me), bkBy := some (s.time, me) }))
    pure .stay
  else throw (.exc { cause := cBkpt, code := f.imm.toNat % 2 ^ 16 })

def bodySret (_ : Fields) : M Ctl := do
  needSup
  let x ← getCtx
  let me ← ask State.cur
  needOp (!(bit x.tstat.toNat 16 && !bit x.tstat.toNat 15))
  act (fun s => s.sret me)
  pure (.goto x.tepc)

def bodyHalt (_ : Fields) : M Ctl := do
  needSup
  modCtx (fun y => { y with st := .parked, wait := .halted })
  pure .seq

def bodyIrq (f : Fields) : M Ctl := do
  let x ← getCtx
  let me ← ask State.cur
  let n := f.imm.toNat
  let ok ← ask (fun s => (look (s.part (s.partOf me)).pirq (n / 64) 0).getLsbD (n % 64))
  if !x.sup && !ok then levelFault
  releaseOrder
  act (fun s => s.raiseIid n)
  pure .seq

/-! ## Control register accesses (R287) -/

/-- Whether an array queue still fetches records of tensor objects. -/
def Ctx.tileWork (x : Ctx) : Bool :=
  x.arrQ.any (fun e => match e.op with | .mldbTile .. | .mmaTile .. => true | _ => false)

/-- Every earlier access of the thread is performed: its loads, stores and atomics, and both sides of its copies, its
tile fetches and the answers of its queries (R122, R287). -/
def accessesDone : M Unit := do
  let x ← getCtx
  let me ← ask State.cur
  releaseOrder
  waitFor (!x.tileWork)
  let c ← getCore
  waitFor (c.copies.all (fun k => k.tid != me) && c.sb.all (fun k => k.tid != me))

/-- The accesses that come before are performed, and the level permits this one. -/
def csrAccess (n : Nat) (reads writes : Bool) : M Unit := do
  let x ← getCtx
  if (reads && !csrReads x.sup n) || (writes && !csrWrites x.sup n) then levelFault
  accessesDone

def bodyCsrr (f : Fields) : M Ctl := do
  let me ← ask State.cur
  let n := f.imm.toNat
  csrAccess n true false
  let v ← ask (fun s => s.csr me n)
  modCtx (fun y => y.setX f.dst.toNat v)
  pure .seq

/-- Writes a control register; a write of L2CFG during a transition is held, and the access completes once
it has been acted on (R85, R287). -/
def csrPut (n : Nat) (v old : Word) : M Unit := do
  let me ← ask State.cur
  act (fun s => s.setCsr me n v)
  if n = 0x204 && (← ask (fun s => (s.field (fieldOf me)).surrHeld.isSome)) then
    modCtx (fun y => { y with answer := some (some old.toNat) })
    throw .stallKeep

/-- The end of an access whose write was held: the value that the register had. -/
def csrHeld (old : Nat) : M Word := do
  let me ← ask State.cur
  if ← ask (fun s => (s.field (fieldOf me)).surrHeld.isSome) then throw .stallKeep
  modCtx (fun y => { y with answer := none })
  pure (w64 old)

def bodyCsrw (f : Fields) : M Ctl := do
  let x ← getCtx
  match x.answer with
  | some (some old) => let _ ← csrHeld old
  | _ =>
    csrAccess f.imm.toNat false true
    let v ← rd64 x f.imm f.sa
    bump [f.sa]
    csrPut f.imm.toNat v 0
  pure .seq

def bodyCsrx (f : Fields) : M Ctl := do
  let x ← getCtx
  let me ← ask State.cur
  let n := f.imm.toNat
  let was ← match x.answer with
    | some (some old) => csrHeld old
    | _ =>
      csrAccess n true true
      let v ← rd64 x f.imm f.sa
      let old ← ask (fun s => s.csr me n)
      bump [f.sa]
      csrPut n v old
      pure old
  modCtx (fun y => y.setX f.dst.toNat was)
  pure .seq

/-! ## TLBI (R288) -/

/-- The common form: on the core's own TLB, or as a shootdown that every hub acknowledges. -/
def tlbi (f : Fields) (kind va who : Nat) : M Ctl := do
  let x ← getCtx
  if f.imm.getLsbD 2 then
    match x.answer, x.ticket with
    | some none, some q =>
      if !(← ask (fun s => s.shootDone q)) then throw .stallKeep
      modCtx (fun y => { y with answer := none, ticket := none })
      pure .seq
    | _, _ =>
      accessesDone
      let q ← (fun s => let p := s.startShoot kind va who
                        EStateM.Result.ok p.1 p.2 : M Nat)
      modCtx (fun y => { y with answer := some none, ticket := some q })
      throw .stallKeep
  else
    act (fun s => s.modCore (coreOf s.cur) (fun c => { c with tlb := c.tlb.filter (fun e => !s.leafHit kind va who e) }))
    pure .seq

/-- The address space that an operand names. -/
def spaceOf (v : Word) : M Nat := do
  needOp (v.toNat < 2 ^ 16)
  pure v.toNat

def bodyTlbiVa (f : Fields) : M Ctl := do
  needSup
  let x ← getCtx
  let a ← spaceOf (x.x f.sb.toNat)
  tlbi f 0 (x.x f.sa.toNat).toNat a

def bodyTlbiAs (f : Fields) : M Ctl := do
  needSup
  let x ← getCtx
  let a ← spaceOf (x.x f.sb.toNat)
  tlbi f 1 0 a

def bodyTlbiAll (f : Fields) : M Ctl := do
  needSup
  let me ← ask State.cur
  tlbi f 2 0 (← ask (fun s => s.partOf me))

/-! ## SYSC (R285, R371) -/

/-- SQCAP of a partition. -/
def Part.cap (p : Part) : Cap :=
  { w0 := (p.sqcap.extractLsb' 0 64).toNat, w1 := (p.sqcap.extractLsb' 64 64).toNat }

/-- Whether SQCAP passes R307 for its ring. -/
def Part.capOk (p : Part) : Bool :=
  capCheck p.sqtag p.cap useServiceQ == 0 && p.cap.holdsExtent (64 * 2 ^ p.sqlogn)

/-- Whether the ring is full. -/
def Part.ringFull (p : Part) : Bool := (p.sqtail + 1) % 2 ^ p.sqlogn == p.sqhead % 2 ^ p.sqlogn

/-- Words written at home, in order; none where the home does not take one. -/
def State.writeWords (s : State) (pa : Nat) : List Word → Option State
  | [] => some s
  | w :: ws =>
    match s.writeDirect pa 8 w.toNat with
    | .ok _ s1 => s1.writeWords (pa + 8) ws
    | _ => none

/-- Reserves a slot of the core's own queue for the reply; waits in turn until one is free. -/
def reserveReply (q : Nat) : M Unit := do
  let x ← getCtx
  let me ← ask State.cur
  if x.reserved.isSome then pure ()
  else
    let core := coreOf me
    let first ← (fun s => let p := s.queueFor me core q
                          EStateM.Result.ok p.1 p.2 : M Bool)
    match ← ask (fun s => (s.core core).freeMsg? q) with
    | none => throw .stallKeep
    | some k =>
      if !first then throw .stallKeep
      act (fun s => (s.unqueue me core q).modCore core (fun c =>
        { c with msgs := put c.msgs (msgKey q k) { st := .reply me x.act 0 } }))
      modCtx (fun y => { y with reserved := some (q, k, 0) })

/-- Writes a record into the ring and advances SQTAIL; a ring that cannot take it stops with
CERR. -/
def postRecord (p : Nat) (ws : List Word) : M Unit := do
  let q ← ask (fun s => s.part p)
  if !bit q.pctl 3 || q.sqcerr || q.ringFull then throw .stallKeep
  let stop := fun (s : State) => s.modPart p (fun x => { x with sqcerr := true })
  if !q.capOk then
    act stop
    throw .stallKeep
  let s ← get
  match s.writeWords (q.cap.addr + 64 * (q.sqtail % 2 ^ q.sqlogn)) ws with
  | none =>
    act stop
    throw .stallKeep
  | some s1 => set ((s1.modPart p (fun x => { x with sqtail := (x.sqtail + 1) % 2 ^ x.sqlogn })).raiseIid q.sqiid)

/-- Waits, as releaseOrder does, but keeps what the instruction holds. -/
def releaseKeep : M Unit := fun s =>
  match releaseOrder s with
  | .ok _ s1 => .ok () s1
  | .error _ s1 => .error .stallKeep s1

def bodySysc (f : Fields) : M Ctl := do
  let x ← getCtx
  let me ← ask State.cur
  let q := f.sb.toNat % 2
  let ws ← localRecord (x.localAddr f.imm f.sa)
  let p ← ask (fun s => s.partOf me)
  -- both checks are made once; the request is under way from then on
  if x.answer.isNone then
    needOp ((← getCore).hand q).isNone
    if !bit (← ask (fun s => (s.part p).pctl)) 3 then levelFault
    modCtx (fun y => { y with answer := some none })
  reserveReply q
  releaseKeep
  let lid ← ask (fun s => s.lidOf me)
  let name ← ask (fun s => s.ctxName me)
  postRecord p (ws.take 7 ++ [w64 (name + lid * 2 ^ 48)])
  let y ← getCtx
  let (_, k, _) := y.reserved.getD (q, 0, 0)
  let n ← ask (fun s => (s.part p).sysSeq)
  act (fun s => s.modPart p (fun z =>
    { z with sysSeq := (n + 1) % 2 ^ 32, outst := z.outst ++ [(n, me, x.act, q, k)] }))
  bump [f.sa]
  modCtx (fun y => { y with reserved := none, answer := none }.setX f.dst.toNat (w64 n))
  pure .seq

/-! ## The meanings -/

/-- FLUSH: the command of CTXCTL on the selected context. -/
def execFlush (core : Nat) (s : State) : Host.Outcome State Fault Refusal := .next (s.flushCtx core)
/-- RESUME: the command of CTXCTL on the selected context. -/
def execResume (core : Nat) (s : State) : Host.Outcome State Fault Refusal := .next (s.resumeCtx core)
/-- SDCMD kind `.va`: the page of SDVA. -/
def execSdcmdVa (asid : BitVec 16) (s : State) : Host.Outcome State Fault Refusal :=
  .next (s.startShoot 0 s.trans.sdva.toNat asid.toNat).2
/-- SDCMD kind `.as`. -/
def execSdcmdAs (asid : BitVec 16) (s : State) : Host.Outcome State Fault Refusal :=
  .next (s.startShoot 1 0 asid.toNat).2
/-- SDCMD kind `.all`. -/
def execSdcmdAll (part : BitVec 6) (s : State) : Host.Outcome State Fault Refusal :=
  .next (s.startShoot 2 0 part.toNat).2
def execTrap (f : Fields) (s : State) : Host.Outcome State Fault Refusal := issue .trap bodyTrap f s
def execSysc (f : Fields) (s : State) : Host.Outcome State Fault Refusal := issue .sysc bodySysc f s
def execSret (f : Fields) (s : State) : Host.Outcome State Fault Refusal := issue .sret bodySret f s
def execCsrr (f : Fields) (s : State) : Host.Outcome State Fault Refusal := issue .csrr bodyCsrr f s
def execCsrw (f : Fields) (s : State) : Host.Outcome State Fault Refusal := issue .csrw bodyCsrw f s
def execCsrx (f : Fields) (s : State) : Host.Outcome State Fault Refusal := issue .csrx bodyCsrx f s
def execTlbiVa (f : Fields) (s : State) : Host.Outcome State Fault Refusal := issue .tlbiVa bodyTlbiVa f s
def execTlbiAs (f : Fields) (s : State) : Host.Outcome State Fault Refusal := issue .tlbiAs bodyTlbiAs f s
def execTlbiAll (f : Fields) (s : State) : Host.Outcome State Fault Refusal := issue .tlbiAll bodyTlbiAll f s
def execIrq (f : Fields) (s : State) : Host.Outcome State Fault Refusal := issue .irq bodyIrq f s
def execBkpt (f : Fields) (s : State) : Host.Outcome State Fault Refusal := issue .bkpt bodyBkpt f s
def execHalt (f : Fields) (s : State) : Host.Outcome State Fault Refusal := issue .halt bodyHalt f s

end Sys2Proof.Machine
end

