-- ==== Sys2Proof/Machine/Frames.lean ====
section
/-! DEFINITION. Backing lines (R70 to R75, R401): context images, frames and their fills, and the
completion of a launch, which writes named regions back (R40, R314). -/

namespace Sys2Proof.Machine

open Sys2Proof

/-! ## Hub accesses to backing -/

/-- A read of a hub at home; none where it fails. -/
def State.hubRead (s : State) (pa n : Nat) : Option (Nat × State) :=
  match s.home? pa with
  | none => none
  | some h =>
    if paSpace pa ≥ 0xE || !s.reachable h.cube then none
    else
      match s.readDirect pa n with
      | .ok v s1 => some (v, s1)
      | _ => none

/-- Marks a line poisoned at its home. -/
def State.poisonLine (s : State) (pa : Nat) : State :=
  match s.home? pa with
  | some h => { s with bad := put s.bad (h.loc / 128) true }
  | none => s

/-- Whether a line at home is poisoned. -/
def State.linePoisoned (s : State) (pa : Nat) : Bool :=
  match s.home? pa with
  | some h => look s.bad (h.loc / 128) false
  | none => false

/-- A failure of a backing line: the context-state error of the context that owns it. -/
def State.failBacking (s : State) (t : Nat) : State :=
  if (s.ctx t).st == .free then s else s.fatal t { cause := cContext } false (s.ctx t).pc (s.ctx t).pc none

/-- The same where the task that owned the line may have ended: a fatal record for that task alone (R401). -/
def State.failLine (s : State) (core : Nat) (t : Option Nat) : State :=
  match t with
  | some t => s.failBacking t
  | none => s.fatalEnded (core * 16) (s.field (fieldOfCore core)).flid none { cause := cContext } none

/-! ## Frames (R75) -/

/-- The context charged for a frame: its owner, or for a named region a context that names it; none once the
task that named it has ended. -/
def State.frameCtx (s : State) (core : Nat) (f : Frame) : Option Nat :=
  if f.owner ≠ namedOwner then some f.owner
  else (ctxsOf core).find? (fun t => (s.ctx t).st != .free && bit (s.nlrOf t) f.page)

/-- Moves 4 KiB of the vault to a physical address, line by line, with the poison of its words. -/
def State.pageToMem (s : State) (loc pa : Nat) : Nat → Option State
  | 0 => some s
  | k + 1 =>
    match s.hubWrite pa 128 (s.mem.val loc 128) with
    | some s1 =>
      let s2 := if s.vaultBad loc 128 then s1.poisonLine pa else s1
      s2.pageToMem (loc + 128) (pa + 128) k
    | none => none

/-- Moves 4 KiB to the vault. -/
def State.pageToVault (s : State) (loc pa : Nat) : Nat → Option State
  | 0 => some s
  | k + 1 =>
    match s.hubRead pa 128 with
    | some (v, s1) =>
      ({ s1 with mem := s1.mem.setVal loc 128 v }).pageToVault (loc + 128) (pa + 128) k
    | none => none

/-- Clears the poison of a frame's words. -/
def State.cleanFrame (s : State) (loc : Nat) : State :=
  { s with bad := (List.range 512).foldl (fun m i => drop m (loc / 8 + i)) s.bad }

/-- Writes a frame back to its backing when it differs; a failure is charged to its context. -/
def State.frameOut (s : State) (core k : Nat) : State :=
  match look? (s.core core).frames k, s.launch? (s.field (fieldOfCore core)).flid with
  | some f, some l =>
    if !f.dirty then s
    else
      let clean := fun (s : State) => s.modCore core (fun c => { c with frames := put c.frames k { f with dirty := false } })
      let t := s.frameCtx core f
      let va := l.pageVa (if f.owner = namedOwner then core * 16 else f.owner) f.page (f.owner == namedOwner)
      match s.hubTranslate l.asid va { r := true, w := true } with
      | (some pa, s1) =>
        (match s1.pageToMem (s1.vaultLoc core (4096 * k)) pa 32 with
         | some s2 => clean s2
         | none => (clean s1).failLine core t)
      | (none, s1) => (clean s1).failLine core t
  | _, _ => s

/-- Empties a frame after its write-back. -/
def State.frameDrop (s : State) (core k : Nat) : State :=
  (s.frameOut core k).modCore core (fun c => { c with frames := drop c.frames k })

/-- Whether a frame may not leave: its page is pinned, or a range scoreboard entry keeps it. -/
def State.framePinned (s : State) (core k : Nat) : Bool :=
  match look? (s.core core).frames k with
  | none => false
  | some f =>
    s.sbHit core (4096 * k) 4096 ||
    (if f.owner = namedOwner then (ctxsOf core).any (fun t => (s.ctx t).inSlot && bit (s.nlrOf t) f.page)
     else (s.ctx f.owner).inSlot)

/-- Frames that an ordinary page may take: those that hold nothing, or a page that may leave. -/
def State.frameChoices (s : State) (core : Nat) : List Nat :=
  (List.range 12).filter (fun k => !s.framePinned core k)

/-- Moves what a frame holds to another frame. -/
def State.moveFrame (s : State) (core a b : Nat) : State :=
  match look? (s.core core).frames a with
  | none => s
  | some f =>
    let la := s.vaultLoc core (4096 * a)
    let lb := s.vaultLoc core (4096 * b)
    let s1 := { s with mem := s.mem.setVal lb 4096 (s.mem.val la 4096) }
    let bads := (List.range 512).filter (fun i => look s.bad (la / 8 + i) false)
    let s2 := (s1.cleanFrame la).cleanFrame lb
    { s2 with bad := bads.foldl (fun m i => put m (lb / 8 + i) true) s2.bad }.modCore core
      (fun c => { c with frames := put (drop c.frames a) b f })

/-- Makes a frame free for a page: its occupant is written back; a pinned ordinary page in the frame
of a named one moves to another frame. None: the fill has to wait. -/
def State.freeFrame (s : State) (core k : Nat) : Option State :=
  if !s.framePinned core k then some (s.frameDrop core k)
  else if s.sbHit core (4096 * k) 4096 then none
  else
    match (s.frameChoices core).filter (fun j => j != k) with
    | [] => none
    | j :: _ => some ((s.frameDrop core j).moveFrame core k j)

/-- The frame that a page is to take, chosen where the manual leaves the choice. -/
def State.pickFrame (s : State) (core page : Nat) (named : Bool) : Option Nat × State :=
  if named then (some page, s)
  else
    let cs := s.frameChoices core
    let (n, s1) := s.tick
    (cs[Config.choice n % cs.length]?, s1)

/-- Enters a page into a frame: zeroed on an ordinary page's first access since activation, else
read from its backing (R27, R75, R401). -/
def State.fillFrame (s : State) (t page k : Nat) (named : Bool) (l : Launch) : State :=
  let core := coreOf t
  let loc := s.vaultLoc core (4096 * k)
  let first := !named && !(s.ctx t).touched.getLsbD page
  let f : Frame := { owner := if named then namedOwner else t, page := page, dirty := first }
  let enter := fun (s : State) =>
    (s.modCore core (fun c => { c with frames := put c.frames k f })).modCtx t (fun x =>
      if named then x else { x with touched := x.touched ||| (1#12 <<< page) })
  let s0 := s.cleanFrame loc
  if first then enter { s0 with mem := s0.mem.setVal loc 4096 0 }
  else
    match s0.hubTranslate l.asid (l.pageVa t page named) { r := true, w := true } with
    | (some pa, s1) =>
      (match s1.pageToVault loc pa 32 with
       | some s2 => enter s2
       | none => s1.failBacking t)
    | (none, s1) => s1.failBacking t

/-- PAGE_FILL: the oldest page that an access of the core waits for. -/
def State.pageFill (s : State) (core : Nat) : State :=
  let c := s.core core
  let fi := fieldOfCore core
  match c.wants with
  | [] => s
  | (t, page) :: rest =>
    let answered := s.setCore core { c with wants := rest }
    if (s.field fi).frozen || s.wrap ≠ 0 then s
    else if (s.ctx t).st == .free || (s.frameOf? t page).isSome then answered
    else
      match s.ctxLaunch? t with
      | none => answered
      | some l =>
        let named := bit (s.nlrOf t) page
        match answered.pickFrame core page named with
        | (some k, s1) =>
          (match s1.freeFrame core k with
           | some s2 => s2.fillFrame t page k named l
           | none => s)
        | (none, _) => s

/-- FLUSH_COMPLETE: the image and the local pages of the contexts that CTXCTL flushes (R301). -/
def State.flushComplete (s : State) (core : Nat) : State :=
  let c := s.core core
  if c.flushing.isEmpty || (s.field (fieldOfCore core)).frozen || s.wrap ≠ 0 then s
  else
    let s1 := c.flushing.foldl (fun (s : State) t =>
      let s1 := match s.writeImage t with
        | some s1 => s1
        | none => s.failBacking t
      let mine := (s1.core core).frames.filter (fun e =>
        e.2.owner == t || (e.2.owner == namedOwner && bit (s1.nlrOf t) e.2.page))
      mine.foldl (fun s e => s.frameOut core e.1) s1) s
    s1.modCore core (fun c => { c with flushing := [] })

/-- Named regions of a launch return to their backing. -/
def State.namedOut (s : State) (l : Launch) : State :=
  (s.cores.filter (fun e => l.fields.contains (fieldOfCore e.1))).foldl (fun s e =>
    e.2.frames.foldl (fun s f => s.frameDrop e.1 f.1) s) s

/-! ## The register cache and the system region (R71, R72) -/

/-- LINE_DROWSY: a line that no instruction has touched for 64 vclk cycles goes drowsy (R71). -/
def State.lineDrowsy (s : State) (t n : Nat) : State :=
  s.modCore (coreOf t) (fun c => { c with regs := c.regs.map (fun r =>
    if r.ctx == ctxIx t && r.line == n && decide (r.at_ + 64 ≤ s.vclk (fieldOf t)) then { r with drowsy := true } else r) })

/-- The image line in which a register code lies (R70). -/
def Ctx.linesOf (x : Ctx) (c : BitVec 8) : List Nat :=
  if isV c then [8 + (c.toNat - 0x40)]
  else if isLocal c then [3, 5]
  else
    match x.slotOf c with
    | .none => []
    | .x n => [if n < 64 then 0 else 64 + (n - 64) / 8]
    | .a _ => [3]
    | .d _ | .k _ => [4]
    | .p _ => [1]

/-- The lines that an instruction of a context touches: that of its PC, and those of its operands. -/
def Ctx.touches (x : Ctx) (i : Instr) : List Nat :=
  (1 :: (match i.thread? with
    | some (_, f) => [f.dst, f.sa, f.sb].flatMap x.linesOf
    | none => [])).eraseDups

/-- A gated line enters the system region; one that has to make room there is written to the image in memory. -/
def State.toRegion (s : State) (core ctx line : Nat) : State :=
  let b := (ctx, line) :: (s.core core).back
  -- nothing is written during the pause of a wrap (R117)
  let out := if s.wrap = 0 then b.drop 384 else []
  out.foldl (fun s e =>
    let t := core * 16 + e.1
    if (s.core core).ctxb = 0 || (s.ctx t).st == .free then s
    else (s.hubWrite ((s.core core).ctxb.toNat + e.1 * 8192 + 64 * e.2) 64 ((s.ctx t).imageLine e.2)).getD (s.failBacking t))
    (s.modCore core (fun c => { c with back := b.take (b.length - out.length) }))

/-- An instruction of a context touches a line: it becomes active; a line whose entry of the register cache it
needs is gated. -/
def State.touchLine (s : State) (t n : Nat) : State :=
  let core := coreOf t
  let rest := (s.core core).regs.filter (fun r => !(r.ctx == ctxIx t && r.line == n))
  let s1 := s.modCore core (fun c => { c with
    regs := ({ ctx := ctxIx t, line := n, at_ := s.vclk (fieldOf t) } :: rest).take 32
    back := c.back.filter (fun e => e != (ctxIx t, n)) })
  match rest[31]? with
  | some r => s1.toRegion core r.ctx r.line
  | none => s1

/-- An instruction touches its lines as it comes to issue. -/
def State.touch (s : State) (t : Nat) (i : Instr) : State := ((s.ctx t).touches i).foldl (fun s n => s.touchLine t n) s

/-! ## The meanings -/

def execPageFill (core : Nat) (s : State) : Host.Outcome State Fault Refusal := .next (s.pageFill core)
def execFlushComplete (core : Nat) (s : State) : Host.Outcome State Fault Refusal := .next (s.flushComplete core)
def execLineDrowsy (t n : Nat) (s : State) : Host.Outcome State Fault Refusal := .next (s.lineDrowsy t n)
/-- LAUNCH_COMPLETION. -/
def execLaunchCompletion (lid : Nat) (s : State) : Host.Outcome State Fault Refusal :=
  .next (s.complete lid State.namedOut)

end Sys2Proof.Machine
end

