-- ==== Sys2Proof/Machine/Hub.lean ====
section
/-! DEFINITION. Events of cores and field hubs: landing (R150, R151), posted stores (R343),
queues and slots (R315 to R321), splits (R32, R318), walks and shootdowns (R331 to R333), the
re-stripe engine (R335, R336), the scrub of a field that changes its partition (R303). -/

namespace Sys2Proof.Machine

open Sys2Proof

/-- Whether the field of a core is frozen. -/
def State.stopped (s : State) (core : Nat) : Bool := (s.field (fieldOfCore core)).frozen

/-! ## Landing (R150, R151) -/

/-- LANDING: the instructions whose windows have ended land, once all of them have completed. -/
def State.landing (s : State) (t : Nat) : State :=
  let x := s.ctx t
  let ps := x.pend
  let due := ps.filter (dueNow ps)
  if s.stopped (coreOf t) || due.isEmpty || due.any (fun p => !p.done || x.lateDue p) then s
  else s.landThese t (dueNow ps)

/-- The late fault that a context is to take now: its window has ended, or the context quiesces. -/
def Ctx.lateNow (x : Ctx) : Option Pend :=
  x.pend.find? (fun p => x.lateDue p && (dueNow x.pend p || x.st == .quiescing))

/-- LATE_FAULT_DELIVERY. -/
def State.lateFault (s : State) (t : Nat) : State :=
  let x := s.ctx t
  if s.stopped (coreOf t) || !x.inSlot || x.exchanging then s
  else
    match x.lateNow with
    | some p => s.takeLate t p
    | none => s

/-! ## Posted stores (R122, R343, R380) -/

/-- An earlier posted store of the same thread to some of the same bytes (R124). -/
def Core.earlierLog (c : Core) (e : LogEnt) : Bool :=
  c.log.any (fun o => o.2.tid == e.tid && decide (o.2.order < e.order) &&
    decide (o.2.pa < e.pa + e.size) && decide (e.pa < o.2.pa + o.2.size))

/-- What another cube has made of the packets of a posted store: performed once each is acknowledged (R376, R380). -/
def State.packetsDone (s : State) (c : Nat) (e : LogEnt) : Acc Unit :=
  if !s.reachable c then .fault cPhys else if s.isOut e.e2e then .stall s else .ok () s

/-- What comes of a posted store at its home, during a wrap too (R117). A replica, or a contribution to a window of
another cube, is performed there and changes nothing in this cube. -/
def State.tryPosted (s : State) (core : Nat) (e : LogEnt) : Acc Unit :=
  if s.stopped core then .stall s
  else if s.isLost e.e2e then .fault cPhys
  else
    match e.member with
    | some c => s.packetsDone c e
    | none =>
      if (s.core core).earlierLog e || s.homeHolds e.tid 1 e.pa true then .stall s
      else
        match s.farCube? e.pa, s.windowOf e.pa with
        | some c, some (_, w) =>
          if groupOpr w = 4 then s.storeNow e.tid 1 e.pa e.size e.mask.toNat e.data.toNat
          else if !wholeWords e.pa e.size e.mask.toNat || !groupMember w s.cubeid then .fault cPhys
          else s.packetsDone c e
        | _, _ => s.storeNow e.tid 1 e.pa e.size e.mask.toNat e.data.toNat

/-- A log entry is free again, and nothing is kept for the packets that carried it. -/
def State.freeLog (s : State) (core k : Nat) : State :=
  (s.settled (((look? (s.core core).log k).map LogEnt.e2e).getD [])).modCore core (fun c => { c with log := drop c.log k })

/-- POSTED_STORE_ACK: the home has performed the store. -/
def State.postedAck (s : State) (core k : Nat) : State :=
  match look? (s.core core).log k with
  | none => s
  | some e =>
    match s.tryPosted core e with
    | .ok _ s1 => s1.freeLog core k
    | _ => s

/-- A refusal reaches the activation that issued the store, or writes a fatal record when that has
ended. -/
def State.refuse (s : State) (k : Nat) (e : LogEnt) : State :=
  let x := s.ctx e.tid
  let r : Pending := { cause := cPosted, addr := e.named, entry := k, size := e.size, mask := e.mask,
                       data := e.data.extractLsb' 0 64, count := 1 }
  if x.act == e.act && x.st != .free then
    s.modCtx e.tid (fun x => { x with refusal := match x.refusal with
      | none => some r
      | some o => some { o with count := o.count + 1 } })
  else s.fatalEnded e.tid ((e.task.map Task.lid).getD (s.field (fieldOf e.tid)).flid) e.task { cause := cPosted, tval := e.named, loge := k } (some r)

/-- POSTED_STORE_REFUSAL: the store is discarded. -/
def State.postedRefusal (s : State) (core k : Nat) : State :=
  match look? (s.core core).log k with
  | none => s
  | some e =>
    match s.tryPosted core e with
    | .fault _ => (s.freeLog core k).refuse k e
    | _ => s

/-- POSTED_STORE_TRAP: a pending refusal is delivered at an instruction boundary. -/
def State.postedTrap (s : State) (t : Nat) : State :=
  let x := s.ctx t
  if s.stopped (coreOf t) || x.st != .issuing || x.lone.isSome || x.exchanging then s else s.takeRefusal t

/-- FLAGOR_SET (R49). -/
def State.flagorSet (s : State) (fi : Nat) (fl : BitVec 5) : State :=
  if (s.field fi).frozen then s.post (.flagorSet fi fl)
  else s.modField fi (fun f => { f with flagor := f.flagor ||| fl })

/-! ## Queues and slots -/

/-- AGING: a queued task moves up one level, and its count restarts (R316). -/
def State.ageTask (s : State) (fi stamp : Nat) : State :=
  if (s.field fi).frozen then s
  else
    s.modField fi (fun f => { f with tasks := f.tasks.map (fun q =>
      if q.stamp == stamp && !q.retry && decide (q.level < 3) && decide (q.since + 2 ^ 20 ≤ s.vclk fi) then
        { q with level := q.level + 1, since := q.since + 2 ^ 20 }
      else q) })

/-- SLOT_PRIORITY_RISE (R319). -/
def State.slotRise (s : State) (t : Nat) : State :=
  let x := s.ctx t
  if s.stopped (coreOf t) || x.st != .ready || x.slotPri ≥ 3 || x.readyV + 2 ^ 20 > s.vclk (fieldOf t) then s
  else s.modCtx t (fun x => { x with slotPri := x.slotPri + 1, readyV := x.readyV + 2 ^ 20 })

/-- ISSUE_SLOT_FILL. -/
def State.slotFill (s : State) (core : Nat) : State := if s.stopped core then s else s.fillSlot core

/-- QUIESCE_START. -/
def State.quiesceStart (s : State) (core : Nat) : State := if s.stopped core then s else s.startQuiesce core

/-- QUIESCE_COMPLETE: every window lands, and the context becomes DORMANT (ready); one whose TACQ
still waits for its grant becomes DORMANT (parked) (R238, R322). -/
def State.quiesceEnd (s : State) (core : Nat) : State :=
  match (ctxsOf core).find? (fun t => (s.ctx t).st == .quiescing) with
  | none => s
  | some t =>
    let x := s.ctx t
    let open_ := x.pend.filter (fun p => !p.done)
    if s.stopped core || x.exchanging || x.ending then s
    else
      match x.lateNow with
      | some p => s.takeLate t p
      | none =>
        if open_.isEmpty then ((s.landThese t (fun _ => true)).forgetFaults t).endQuiesce t
        else if open_.all (fun p => match p.work with | .tacq _ _ _ => true | _ => false) then
          (((s.landThese t Pend.done).leaveQueues t).forgetFaults t).modCtx t (fun x =>
            { x with st := .parked, wait := .tenure, ticket := none })
        else s

/-- RANGE_SPLIT. -/
def State.rangeSplit (s : State) (core : Nat) : State := if s.stopped core then s else s.trySplit core

/-- SPLIT_PUBLISH. -/
def State.splitPublish (s : State) (fi : Nat) : State := if (s.field fi).frozen then s else s.publish fi

/-- TQFREE: each 1 frees a slot (R345). -/
def State.tqfree (s : State) (fi : Nat) (v : Word) : State :=
  ((List.range 64).filter (fun k => v.getLsbD k)).foldl (fun s k => s.freeTqSlot fi k) s

/-- FETCH_POISON_REFETCH: the poisoned block of the instruction that comes to issue leaves the
instruction cache, so that it is fetched again from memory; its other instructions are discarded, never
issued (R346). -/
def State.refetch (s : State) (t : Nat) : State :=
  if s.stopped (coreOf t) || (s.ctx t).st != .issuing then s
  else
    let out := fun (b : IBlock) => b.poison && b.asid == s.asidOf t && b.va == (s.ctx t).pc.toNat / 128
    let n := ((s.core (coreOf t)).icache.filter out).length
    (s.modCore (coreOf t) (fun c => { c with icache := c.icache.filter (fun b => !out b) })).modField (fieldOf t)
      (fun f => { f with pdisc := f.pdisc + BitVec.ofNat 32 (9 * n) })

/-! ## Walks (R331) -/

/-- TLB_MISS_WALK: a walker takes the oldest request that no walk serves. -/
def State.startWalk (s : State) (fi : Nat) : State :=
  let f := s.field fi
  if f.frozen then s
  else
    match f.misses.find? (fun m => m.walk.isNone) with
    | none => s
    | some m =>
      let put := fun (v : Nat) => f.misses.map (fun q => if q == m then { q with walk := some v } else q)
      if f.tlb.any (fun e => e.covers m.asid (m.va * 4096)) then
        s.setField fi { f with misses := f.misses.erase m }
      else
        match f.walks.find? (fun w => w.asid == m.asid && w.va == m.va) with
        | some w => s.setField fi { f with misses := put w.id }
        | none =>
          if f.walks.length ≥ 8 then s
          else
            let id := f.walks.foldl (fun n w => Nat.max n (w.id + 1)) 0
            let w : Walk := { id := id, asid := m.asid, va := m.va }
            s.setField fi { f with walks := f.walks ++ [w], misses := put id }

/-- WALK_COMPLETE: one of the walks in progress returns a leaf, which answers every request of its
page, or a fault, which answers the requests merged into it. -/
def State.endWalk (s : State) (fi : Nat) : State :=
  let f := s.field fi
  if f.frozen || s.wrap ≠ 0 then s
  else
    let (n, s0) := s.tick
    match f.walks[Config.choice n % f.walks.length]? with
    | none => s
    | some w =>
      let (r, s1) := s0.walk w.asid (w.va * 4096)
      s1.modField fi (fun f =>
        let rest := f.walks.erase w
        match r with
        | some e => { f with walks := rest, tlb := tlbInsert 16384 f.tlb e,
                             misses := f.misses.filter (fun m => !e.covers m.asid (m.va * 4096)) }
        | none =>
          let mine := f.misses.filter (fun m => m.walk == some w.id)
          { f with walks := rest, misses := f.misses.filter (fun m => m.walk != some w.id)
                   mfaults := f.mfaults ++ mine.map (fun m => { core := m.core, tid := m.tid, asid := m.asid, va := m.va, pc := m.pc, idx := m.idx }) })

/-! ## Shootdowns (R333) -/

/-- Whether a field has a translated access that is not performed. -/
def State.fieldBusy (s : State) (fi : Nat) : Bool :=
  s.ctxs.any (fun e => fieldOf e.1 == fi && (e.2.tileWork || !e.2.toPost.isEmpty ||
    e.2.pend.any (fun p => !p.done && p.work.isAccess))) ||
  s.zen.tasksOut.any (fun o => fieldOf o.tid == fi) || s.sched.sendts.any (fun w => fieldOf w.tid == fi) ||
  s.cores.any (fun e => fieldOfCore e.1 == fi && (!e.2.log.isEmpty || !e.2.copies.isEmpty))

/-- Drops the leaves that a shootdown matches from a field's TLBs, and its walks, which are made
again. -/
def State.dropLeaves (s : State) (fi : Nat) (q : Shoot) : State :=
  let keep := fun (e : TlbEnt) => !s.leafHit q.kind q.va q.who e
  let s1 : State := { s with cores := s.cores.map (fun (e : Nat × Core) =>
    if fieldOfCore e.1 = fi then (e.1, { e.2 with tlb := e.2.tlb.filter keep }) else e) }
  s1.modField fi (fun f => { f with
    tlb := f.tlb.filter keep, walks := [], mfaults := [], misses := f.misses.map (fun m => { m with walk := none }) })

/-- SHOOTDOWN_ACK: a hub handles the oldest shootdown that it has not acknowledged. -/
def State.shootAck (s : State) (fi : Nat) : State :=
  match s.trans.shoots.find? (fun q => q.left.contains fi) with
  | none => s
  | some q =>
    if (s.field fi).frozen || s.fieldBusy fi then s
    else
      let s1 := s.dropLeaves fi q
      let left := s1.trans.shoots.map (fun (p : Shoot) =>
        if p.seq == q.seq then { p with left := p.left.filter (fun g => g != fi) } else p)
      ({ s1 with trans := { s1.trans with shoots := left } }).settleShoots

/-! ## Re-striping (R335, R336) -/

/-- Word w of RSNEW. -/
def State.rsWord (s : State) (w : Nat) : Nat := (look s.trans.rsnew w 0).toNat

/-- Whether the size, the granule and the alignment of an entry are legal (R87). -/
def hmapOk (w : Nat → Nat) : Bool :=
  let size := bits (w 0) 15 10
  let gran := bits (w 0) 9 5
  decide (30 ≤ size) && decide (size ≤ 47) && decide (12 ≤ gran) && decide (gran ≤ 20) &&
    bits (w 0) 51 30 * 2 ^ 30 % 2 ^ size == 0

/-- Granules of an entry. -/
def granules (w : Nat → Nat) : Nat := 2 ^ (bits (w 0) 15 10 - bits (w 0) 9 5)

/-- The first byte of a granule. -/
def granPa (w : Nat → Nat) (g : Nat) : Nat := bits (w 0) 51 30 * 2 ^ 30 + g * 2 ^ bits (w 0) 9 5

/-- Whether the home or the channel address of a physical address differs between two entries. -/
def homeMoves (old new : Nat → Nat) (pa : Nat) : Bool := entryHome old pa != entryHome new pa

/-- Whether the homes of an entry can be reached. -/
def State.homesReach (s : State) (w : Nat → Nat) : Bool :=
  (List.range (Nat.min (bits (w 0) 3 0 + 1) (granules w))).all (fun g => s.reachable (entryHome w (granPa w g)).cube)

/-- Whether a channel address of an entry reaches 6 GiB. -/
def reaches6G (w : Nat → Nat) : Bool :=
  decide (bits (w 5) 32 12 * 2 ^ 12 + (granules w - 1) / (bits (w 0) 3 0 + 1) * 2 ^ bits (w 0) 9 5 + 2 ^ bits (w 0) 9 5 >
    6 * 2 ^ 30)

/-- Whether a live box or span record covers a line that moves. -/
def State.recordMoves (s : State) (e : Nat) (new : Nat → Nat) : Bool :=
  s.stks.any (fun k => k.2.dir.any (fun r => r.2.kind != .region && (recLines k.2 r.2).any (fun ln =>
    s.entryOf (128 * ln) == some e && homeMoves (s.hmapWord e) new (128 * ln))))

/-- The STATUS of a re-stripe request, by the first check that fails. -/
def State.rsStatus (s : State) (e : Nat) : Nat :=
  let old := s.hmapWord e
  let new := s.rsWord
  if s.trans.busy || s.trans.fwd then 4
  else if !bit (old 0) 63 then 5
  else if !bit (new 0) 63 || !hmapOk new || bits (new 0) 51 30 != bits (old 0) 51 30 ||
      bits (new 0) 15 10 != bits (old 0) 15 10 || reaches6G new then 2
  else if !s.homesReach new then 3
  else if s.recordMoves e new then 1
  else 0

/-- RSCTL_GO. -/
def State.rsctlGo (s : State) (e : Nat) : State :=
  let st := s.rsStatus e
  if st = 0 then
    let image := (List.range 8).map (fun w => (w, look s.hmap (8 * e + w) 0))
    let before := if s.trans.old.isEmpty then s.trans.olds else (s.trans.ent, s.trans.old) :: s.trans.olds
    { s with trans := { s.trans with busy := true, ent := e, gran := 0, moved := [], old := image, olds := before } }
  else { s with trans := { s.trans with status := st } }

/-- Step 1 at the old home: owned lines return, the region records of the lines are freed. -/
def State.quietRegions (s : State) (k lo n : Nat) : State :=
  let slots := ((s.stack k).dir.filter (fun e => e.2.kind == .region && decide (e.2.base < lo + n) &&
    decide (lo ≤ e.2.base + e.2.len))).map Prod.fst
  slots.foldl (fun s c =>
    match look? (s.stack k).dir c with
    | some r => s.purgeRegion k c r.sharers true none false
    | none => s) s

/-- Copies the lines of a granule with their checks and tags. -/
def State.copyLines (s : State) (a b : Nat) : Nat → State
  | 0 => s
  | n + 1 => (s.setLineAt b (s.lineAt a)).copyLines (a + 128) (b + 128) n

/-- RESTRIPE_GRANULE: the next granule of the entry; the last one ends the re-stripe. -/
def State.restripe (s : State) : State :=
  if !s.trans.busy then s
  else
    let e := s.trans.ent
    let old := s.hmapWord e
    let new := s.rsWord
    let g := s.trans.gran
    if g ≥ granules old then
      let hmap := (List.range 8).foldl (fun m w => put m (8 * e + w) (look s.trans.rsnew w 0)) s.hmap
      { s with hmap := hmap, trans := { s.trans with busy := false, fwd := true, status := 0 } }
    else
      -- both entries may stripe by granules of their own: a granule is one of the smaller of the two
      let n := 2 ^ bits (old 0) 9 5
      let pa := granPa old g
      let size := Nat.min n (2 ^ bits (new 0) 9 5)
      let parts := (List.range (n / size)).filter (fun i => homeMoves old new (pa + i * size))
      let next := fun (s : State) => { s with trans := { s.trans with gran := g + 1 } }
      if parts.isEmpty then next s
      else
        let h := entryHome old pa
        let s1 := if h.cube = s.cubeid then s.quietRegions h.stack (pa / 128) (n / 128) else s
        let s2 := (List.range (n / size)).foldl (fun s i =>
          s.copyLines (entryHome old (pa + i * size)).loc (entryHome new (pa + i * size)).loc (size / 128)) s1
        next { s2 with trans := { s2.trans with moved := g :: s2.trans.moved } }

/-- RSRET: the forwarding records are dropped. -/
def State.rsret (s : State) : State :=
  { s with trans := { s.trans with fwd := false, moved := if s.trans.busy then s.trans.moved else [] } }

/-! ## A field changes its partition (R303) -/

/-- Zeroes the vaults of a field, the system regions with them. -/
def State.zeroVaults (s : State) (fi : Nat) : State :=
  let lo := s.vaultLoc (fi * 1024) 0
  let hi := lo + 1024 * 2 ^ 16
  { s with
    mem := s.mem.filter (fun e => !(decide (lo ≤ e.1) && decide (e.1 < hi)))
    bad := s.bad.filter (fun e => !(decide (lo / 8 ≤ e.1) && decide (e.1 < hi / 8))) }

/-- A core after the scrub: its control registers and its launch count stay. -/
def Core.scrubbed (c : Core) : Core := { ctxb := c.ctxb, lpsel := c.lpsel, ctxsel := c.ctxsel, ferr := c.ferr, lseq := c.lseq }

/-- What is still on its way into a field or a context of it. -/
def intoField (fi : Nat) (i : Instr) : Bool :=
  match i with
  | .wakeArrival t _ => fieldOf t == fi
  | .flagorSet f _ => f == fi
  | _ => false

/-- FPART_WRITE: ignored while the field is bound. Nothing of the old partition reaches the new one: what is on
its way into the field, and fatal records not yet written, are dropped. -/
def State.fpartWrite (s : State) (fi : Nat) (v : Word) : State :=
  if (s.field fi).flid ≠ 0 then s
  else
    let s1 := ((s.settleL2 fi).emptySlice fi).zeroVaults fi
    let s2 : State := { s1 with
      agenda := s1.agenda.filter (fun i => !intoField fi i)
      ctxs := s1.ctxs.map (fun (e : Nat × Ctx) => if fieldOf e.1 = fi then (e.1, { act := e.2.act }) else e)
      cores := s1.cores.map (fun (e : Nat × Core) => if fieldOfCore e.1 = fi then (e.1, e.2.scrubbed) else e) }
    s2.modField fi (fun f => { f with
      fpart := bits v.toNat 5 0, tlb := [], misses := [], walks := [], mfaults := [], flagor := 0, trec := [], tqvalid := 0,
      tqovf := false, tqwait := [], tqgo := [], orphans := [], fatals := (0, []),
      pdisc := f.pdisc + BitVec.ofNat 32 (10 * s.poisoned fi) })

/-! ## The meanings -/

def execLanding (t : Nat) (s : State) : Host.Outcome State Fault Refusal := .next (s.landing t)
def execLateFaultDelivery (t : Nat) (s : State) : Host.Outcome State Fault Refusal := .next (s.lateFault t)
def execPostedStoreAck (core k : Nat) (s : State) : Host.Outcome State Fault Refusal := .next (s.postedAck core k)
def execPostedStoreRefusal (core k : Nat) (s : State) : Host.Outcome State Fault Refusal := .next (s.postedRefusal core k)
def execPostedStoreTrap (t : Nat) (s : State) : Host.Outcome State Fault Refusal := .next (s.postedTrap t)
def execFlagorSet (fi : Nat) (fl : BitVec 5) (s : State) : Host.Outcome State Fault Refusal := .next (s.flagorSet fi fl)
def execIssueSlotFill (core : Nat) (s : State) : Host.Outcome State Fault Refusal := .next (s.slotFill core)
/-- TAKE (R317). -/
def execTake (fi : Nat) (s : State) : Host.Outcome State Fault Refusal := .next (s.takeTask fi)
def execAging (fi stamp : Nat) (s : State) : Host.Outcome State Fault Refusal := .next (s.ageTask fi stamp)
def execSlotPriorityRise (t : Nat) (s : State) : Host.Outcome State Fault Refusal := .next (s.slotRise t)
def execQuiesceStart (core : Nat) (s : State) : Host.Outcome State Fault Refusal := .next (s.quiesceStart core)
def execQuiesceComplete (core : Nat) (s : State) : Host.Outcome State Fault Refusal := .next (s.quiesceEnd core)
def execRangeSplit (core : Nat) (s : State) : Host.Outcome State Fault Refusal := .next (s.rangeSplit core)
def execSplitPublish (fi : Nat) (s : State) : Host.Outcome State Fault Refusal := .next (s.splitPublish fi)
def execTqfree (fi : Nat) (v : Word) (s : State) : Host.Outcome State Fault Refusal := .next (s.tqfree fi v)
def execFetchPoisonRefetch (t : Nat) (s : State) : Host.Outcome State Fault Refusal := .next (s.refetch t)
def execTlbMissWalk (fi : Nat) (s : State) : Host.Outcome State Fault Refusal := .next (s.startWalk fi)
def execWalkComplete (fi : Nat) (s : State) : Host.Outcome State Fault Refusal := .next (s.endWalk fi)
def execShootdownAck (fi : Nat) (s : State) : Host.Outcome State Fault Refusal := .next (s.shootAck fi)
def execRsctlGo (e : BitVec 6) (s : State) : Host.Outcome State Fault Refusal := .next (s.rsctlGo e.toNat)
def execRestripeGranule (s : State) : Host.Outcome State Fault Refusal := .next s.restripe
def execRsret (s : State) : Host.Outcome State Fault Refusal := .next s.rsret
def execFpartWrite (fi : Nat) (v : Word) (s : State) : Host.Outcome State Fault Refusal := .next (s.fpartWrite fi v)

end Sys2Proof.Machine
end

