-- ==== Sys2Proof/Machine/Clocks.lean ====
section
/-! DEFINITION. Events of the arbiter (R354 to R364), of the sidereal clock (R117 to R119) and the
field timers (R367), and the judged writes of partition registers (R304). -/

namespace Sys2Proof.Machine

open Sys2Proof

/-! ## The arbiter -/

/-- GRANT_RUN: a run that an event has asked for, at least 10 µs after the last one (R357). A bind that waits
for the run goes on (R313). -/
def State.runGrant (s : State) : State :=
  if s.mer.due && (!s.mer.ran || decide (s.mer.runAt + 20000 ≤ s.time)) then
    match s.bindingLaunch with
    | some l => (s.grantRun (some l.lid)).finishBind l
    | none => s.grantRun none
  else s

/-- RAISED_SWITCH_START (R360, step 3). -/
def State.raisedStart (s : State) : State := s.startRaised

/-- TCAP_STEP: once every 1 ms (R363). -/
def State.tcapStep (s : State) : State :=
  let m := s.mer
  if m.tcapAt + 2000000 > s.time then s
  else
    let t := if m.temp ≥ m.thot then Nat.max 1200 (m.tcap - 100)
      else if m.temp ≤ m.tok then Nat.min 3600 (m.tcap + 100) else m.tcap
    { s with mer := { m with tcap := t, tcapAt := s.time, due := m.due || t != m.tcap } }

/-- TEMPERATURE_CHANGE: the highest of the sensors. -/
def State.tempChange (s : State) (sensors : List (BitVec 8)) : State :=
  s.setTemp (sensors.foldl (fun m t => Nat.max m t.toNat) 0)

/-- CRITICAL_TEMPERATURE: CRIT is set again where software has cleared it while the part is still that hot. -/
def State.tempCritical (s : State) : State := if s.mer.temp ≥ 105 && !(s.mer.cold && s.mer.crit) then s.goCold else s

/-- Keeps a change of the arbiter's registers that is accepted, and asks for a run. -/
def State.setMer (s : State) (ok : Bool) (m : Meridian) : State :=
  if ok then { s with mer := { m with due := true } } else s

/-- CAP_WRITE. -/
def State.capWrite (s : State) (v : Word) : State :=
  let c := bits v.toNat 11 0
  s.setMer (decide (1200 ≤ c) && decide (c ≤ 3600)) { s.mer with cap := c }

/-- COEF_WRITE. -/
def State.coefWrite (s : State) (d n : Nat) (v : Word) : State :=
  let m := { s.mer with coef := put s.mer.coef (32 * d + n) (bits v.toNat 15 0) }
  s.setMer (decide (d < 4) && decide (4 ≤ n) && decide (n ≤ 16) && m.rowOk d && m.boundOk) m

/-- LEAK_WRITE. -/
def State.leakWrite (s : State) (v : Word) : State :=
  let m := { s.mer with leak := bits v.toNat 19 0 }
  s.setMer m.boundOk m

/-- A write of IDLE. -/
def State.idleWrite (s : State) (v : Word) : State := s.setMer true { s.mer with idle := bits v.toNat 15 0 }

/-- THOT_TOK_WRITE: judged as a whole; HOT follows the new limit. -/
def State.thotTok (s : State) (v : Word) : State :=
  let thot := bits v.toNat 15 8
  let tok := bits v.toNat 23 16
  if thot > 104 || thot ≤ tok then s
  else (s.setMer true { s.mer with thot := thot, tok := tok }).setTemp s.mer.temp

/-! ## Partitions (R302, R304) -/

/-- The partitions in use. -/
def State.partsOn (s : State) : List Nat := (List.range 64).filter s.partEn

/-- The sum of the floor shares of the partitions in use. -/
def State.shareSum (s : State) : Nat := (s.partsOn.map (fun p => bits (s.part p).pshare.toNat 9 0)).sum

/-- PSHARE_WRITE: ignored whole where the floors would exceed 1,000. -/
def State.pshareWrite (s : State) (p : Nat) (v : Word) : State :=
  let s1 := s.modPart p (fun x => { x with pshare := v &&& 0xFF03FF })
  if s1.shareSum > 1000 then s else s1.askRun

/-- PCTL_WRITE: ignored whole where enabling would break the bound. -/
def State.pctlWrite (s : State) (p : Nat) (v : Word) : State :=
  let s1 := s.modPart p (fun x => { x with pctl := bits v.toNat 4 0 })
  if s1.shareSum > 1000 then s else s1

/-! ## Eclipse at a tick (R118, R351) -/

/-- Whether the period and the tick of an aligned assertion have come. -/
def State.tickCome (s : State) (p : Nat) : Bool :=
  let w := (s.part p).etick.toNat
  s.wrapn.toNat == bits w 47 40 && decide (s.sid ≥ bits w 39 0)

/-- ECLIPSE_ALIGN_TICK. -/
def State.eclipseTick (s : State) (p : Nat) : State :=
  if (s.part p).earmed && s.tickCome p then (s.modPart p (fun x => { x with earmed := false })).assertEclipse p else s

/-! ## The sidereal clock (R117 to R119) -/

/-- The last tick of a period. -/
def sidMax : Nat := 2 ^ 40 - 1

/-- The fields that are listed or have a listed context. -/
def State.liveFields (s : State) : List Nat := (s.fields.map Prod.fst ++ s.ctxs.map (fun e => fieldOf e.1)).eraseDups

/-- The pause of a wrap begins: from now on no hub issues a new global access (R117, step 1). -/
def State.beginWrap (s : State) (w : Nat) : State :=
  { s.liveFields.foldl (fun s fi => s.modField fi (fun f => { f with pauseV := s.vclk fi })) s with wrap := w }

/-- WRAP_ANNOUNCE: the master's counter has come near the end; another cube hears of it within the
beacon skew, unless the beacons are lost (R119). -/
def State.wrapAnnounce (s : State) : State :=
  if s.wrap = 0 && (s.master || !s.blost) && decide (s.sid + (if s.master then 0 else 4) ≥ 0xFFFFFFF000)
  then s.beginWrap 1 else s

/-- FWRAP: the procedure begins at once, whatever the count. -/
def State.fwrap (s : State) : State := if s.wrap = 0 then s.beginWrap 3 else s

/-- A field timer that is due (R367). -/
def State.fireTimer (s : State) (fi : Nat) : State :=
  let w := (s.field fi).ftcmp.toNat
  (s.modField fi (fun f => { f with ftcmp := w64 (w % 2 ^ 63), ftdue := false })).raiseIid (bits w 51 40)

/-- An armed compare at step 2 of a wrap, when the counter stands at its end: it fires; in a frozen field
it has fallen due, and fires on release (R118, R351). -/
def State.wrapTimer (s : State) (fi : Nat) : State :=
  if !bit (s.field fi).ftcmp.toNat 63 then s
  else if (s.field fi).frozen then s.modField fi (fun f => { f with ftdue := true })
  else s.fireTimer fi

/-- Every slice sets its state-L lines to I. -/
def State.dropAllLeases (s : State) : State :=
  { s with fields := s.fields.map (fun (e : Nat × Field) =>
      (e.1, { e.2 with l2 := e.2.l2.filter (fun l => l.2.st != .l) })) }

/-- A SLEEP's deadline in the period that begins; ticks of the hold are not counted. -/
def Ctx.rebase (x : Ctx) (sid : Nat) : Ctx :=
  match x.wait with
  | .sleep (some d) r => { x with wait := .sleep (some (d - sid)) r }
  | _ => x

/-- Whether a posted store of a core can still be performed now. -/
def State.inFlight (s : State) (core : Nat) (e : LogEnt) : Bool :=
  match s.tryPosted core e with
  | .stall _ => false
  | _ => true

/-- Step 2 of a wrap: nothing that the cube's hubs have issued is still to be performed. What waits for
tenure, or stands in a frozen field, is held back as new accesses are (R114, R351). -/
def State.wrapDrained (s : State) : Bool :=
  s.cores.all (fun e => !e.2.log.any (fun l => s.inFlight e.1 l.2)) &&
  s.fields.all (fun e => e.2.frozen || e.2.fills.isEmpty)

/-- A count of vclk cycles that a pause does not lengthen. -/
def afterPause (now pause v : Nat) : Nat := Nat.min now (v + (now - pause))

/-- The tenure waits of a context after a pause of its field: the cycles of the pause are not counted (R113). -/
def Ctx.unpause (x : Ctx) (now pause : Nat) : Ctx :=
  { x with pend := x.pend.map (fun p => { p with since := p.since.map (afterPause now pause) })
           stallAt := x.stallAt.map (fun a => (afterPause now pause a.1, a.2)) }

/-- Step 3 of a wrap, after what step 2 makes due: aligned assertions of the period and compares that
are still armed (R118). The counter becomes 0, WRAPN rises and every lease ends. -/
def State.endWrap (s : State) : State :=
  let s0 := (s.parts.map Prod.fst).foldl State.eclipseTick s
  let s1 := (s0.fields.map Prod.fst).foldl State.wrapTimer s0
  let s2 := s1.dropAllLeases
  { s2 with sid := 0, sidHold := 0, wrapn := s2.wrapn + 1, wrap := 0, beaconAt := s2.time
            ctxs := s2.ctxs.map (fun (e : Nat × Ctx) =>
              let fi := fieldOf e.1
              (e.1, (e.2.rebase s2.sid).unpause (s2.vclk fi) (s2.field fi).pauseV)) }

/-- The beacon of the next period ends the wrap with its count, once every access in flight has been performed. -/
def State.wrapBeacon (s : State) (n : Nat) : State :=
  if s.wrapDrained then
    { ({ s with sid := if s.wrap = 3 then s.sid else sidMax }).endWrap with sid := n, wrapNext := none }
  else { s with wrapNext := some n }

/-- WRAP_COMPLETE at the master: the counter stands at its end, or the wrap is forced, and every access
in flight has been performed. Another cube ends the wrap at the master's beacon (R117, R119). -/
def State.wrapComplete (s : State) : State :=
  match s.wrapNext with
  | some n => s.wrapBeacon n
  | none =>
  if !s.master || s.wrap = 0 || (s.wrap ≠ 3 && s.sid < sidMax) || !s.wrapDrained then s else s.endWrap

/-- BEACON: a cube that is not the master follows the master's count and wrap number, never
backwards within a period; a beacon of the next period ends a wrap that was announced, and one that the cube hears of
only so is gone through from its first step. A cube that joins takes the master's values (R117). -/
def State.beacon (s : State) (count : BitVec 40) (wrapn : BitVec 8) : State :=
  let n := count.toNat
  if s.master then s
  else
    let s0 := { s with beaconAt := s.time, joined := true }
    if wrapn = s.wrapn then
      if n ≥ s.sid then { s0 with sid := n, sidHold := 0 } else { s0 with sidHold := s.sid - n }
    else if wrapn = s.wrapn + 1 && (s.wrap ≠ 0 || s.joined) then
      (if s.wrap = 0 then s0.beginWrap 3 else s0).wrapBeacon n
    else { s0 with sid := n, wrapn := wrapn, sidHold := 0 }

/-- BEACON_LOSS: 64 µs without a beacon on any link that carries them. -/
def State.beaconLoss (s : State) : State :=
  if s.master || s.blost || !s.zen.links.any (fun e => bit e.2.lctl 1) || s.beaconAt + 128000 > s.time then s
  else ({ s with blost := true }).raiseIid s.biid

/-- FIELD_TIMER_COMPARE: an armed compare whose tick has come; during Eclipse it waits (R351). -/
def State.timerCompare (s : State) (fi : Nat) : State :=
  let w := (s.field fi).ftcmp.toNat
  if (s.field fi).frozen || !bit w 63 || (!(s.field fi).ftdue && s.sid < bits w 39 0) then s else s.fireTimer fi

/-- FTCMP_WRITE. -/
def State.ftcmpWrite (s : State) (fi : Nat) (v : Word) : State :=
  let s1 := s.modField fi (fun f => { f with ftcmp := v &&& 0x800FFFFFFFFFFFFF, ftdue := false })
  if bit v.toNat 63 && decide (bits v.toNat 39 0 ≤ s.sid) then s1.fireTimer fi else s1

/-! ## The meanings -/

def execGrantRun (s : State) : Host.Outcome State Fault Refusal := .next s.runGrant
def execFieldSwitchComplete (fi : Nat) (s : State) : Host.Outcome State Fault Refusal := .next (s.switchField fi)
def execRaisedSwitchStart (s : State) : Host.Outcome State Fault Refusal := .next s.raisedStart
def execTcapStep (s : State) : Host.Outcome State Fault Refusal := .next s.tcapStep
def execTemperatureChange (l : List (BitVec 8)) (s : State) : Host.Outcome State Fault Refusal := .next (s.tempChange l)
def execCriticalTemperature (s : State) : Host.Outcome State Fault Refusal := .next s.tempCritical
def execCapWrite (v : Word) (s : State) : Host.Outcome State Fault Refusal := .next (s.capWrite v)
def execCoefWrite (d n : Nat) (v : Word) (s : State) : Host.Outcome State Fault Refusal := .next (s.coefWrite d n v)
def execLeakWrite (v : Word) (s : State) : Host.Outcome State Fault Refusal := .next (s.leakWrite v)
def execThotTokWrite (v : Word) (s : State) : Host.Outcome State Fault Refusal := .next (s.thotTok v)
def execPshareWrite (p : Nat) (v : Word) (s : State) : Host.Outcome State Fault Refusal := .next (s.pshareWrite p v)
def execPctlWrite (p : Nat) (v : Word) (s : State) : Host.Outcome State Fault Refusal := .next (s.pctlWrite p v)
def execWrapAnnounce (s : State) : Host.Outcome State Fault Refusal := .next s.wrapAnnounce
def execWrapComplete (s : State) : Host.Outcome State Fault Refusal := .next s.wrapComplete
def execFwrap (s : State) : Host.Outcome State Fault Refusal := .next s.fwrap
def execBeacon (n : BitVec 40) (w : BitVec 8) (s : State) : Host.Outcome State Fault Refusal := .next (s.beacon n w)
def execBeaconLoss (s : State) : Host.Outcome State Fault Refusal := .next s.beaconLoss
def execFieldTimerCompare (fi : Nat) (s : State) : Host.Outcome State Fault Refusal := .next (s.timerCompare fi)
def execFtcmpWrite (fi : Nat) (v : Word) (s : State) : Host.Outcome State Fault Refusal := .next (s.ftcmpWrite fi v)

end Sys2Proof.Machine
end

