-- ==== Sys2Proof/Machine/Eclipse.lean ====
section
/-! DEFINITION. Eclipse and the scan path (R351, R352), and soft errors (R350). -/

namespace Sys2Proof.Machine

open Sys2Proof

/-! ## Eclipse (R351) -/

/-- Stops or restarts the clocks of every field of a partition; a field counts no vclk cycle while it
is stopped. A switch that only lowers and has waited for the release begins with it (R361). -/
def State.setFrozen (s : State) (p : Nat) (b : Bool) : State :=
  ((List.range 1024).filter (fun fi => (s.field fi).fpart == p)).foldl (fun s fi =>
    s.modField fi (fun f =>
      let f1 := { f with vclk := s.vclk fi, vclkAt := s.counted, frozen := b }
      { f1 with switching := f.switching || (!b && f.lowersNext) })) s

/-- ECLIPSE_FREEZE: 24 ac cycles after the assertion. -/
def State.eclipseFreeze (s : State) (p : Nat) : State :=
  if (s.part p).ecount != some true then s
  else (s.setFrozen p true).modPart p (fun x => { x with frozen := true, ecount := none })

/-- ECLIPSE_RESTART: 24 ac cycles after the release. -/
def State.eclipseRestart (s : State) (p : Nat) : State :=
  if (s.part p).ecount != some false then s
  else (s.setFrozen p false).modPart p (fun x => { x with frozen := false, ecount := none })

/-- Whether the engine of some stack works on a partition (R384). -/
def State.snapBusy (s : State) (p : Nat) : Bool := s.stks.any (fun e => e.2.snap.busy && e.2.snap.part == p)

/-- ECLIPSE_RELEASE: it waits for a snapshot or a restore of the partition, and takes effect once (R384). -/
def State.eclipseRelease (s : State) (p : Nat) : State :=
  let x := s.part p
  if s.snapBusy p then s.modPart p (fun x => { x with erel := true })
  else if x.ecount == some true then
    (s.eclipseFreeze p).modPart p (fun x => { x with assert := false, ecount := some false, erel := false })
  else if x.frozen then s.modPart p (fun x => { x with assert := false, ecount := some false, erel := false })
  else s.modPart p (fun x => { x with assert := false, erel := false })

/-- Whether its period has passed: one of the 127 periods before the present one. -/
def State.periodPast (s : State) (p : Nat) : Bool :=
  let d := (s.wrapn.toNat + 256 - bits (s.part p).etick.toNat 47 40) % 256
  decide (0 < d) && decide (d < 128)

/-- A write of ALIGN = 1: one whose period and tick have both passed takes effect at once. -/
def State.eclipseArm (s : State) (p : Nat) : State :=
  let s1 := s.modPart p (fun x => { x with ealign := true, earmed := true })
  if s1.tickCome p || s1.periodPast p then (s1.modPart p (fun x => { x with earmed := false })).assertEclipse p else s1

/-- ECLIPSE_ASSERT: a write of ASSERT = 1, at once or, with ALIGN, at ETICK; ASSERT reads as it was
written either way. -/
def State.eclipseAssert (s : State) (p : Nat) : State :=
  if (s.part p).ealign then (s.modPart p (fun x => { x with assert := true })).eclipseArm p
  else s.assertEclipse p

/-- A write of the control register of a partition's Eclipse. -/
def State.eclipseWrite (s : State) (p v : Nat) : State :=
  let s1 := s.modPart p (fun x => { x with bkhit := x.bkhit && !bit v 2, ealign := bit v 3, earmed := false })
  if bit v 0 then s1.eclipseAssert p
  else
    let s2 := if (s.part p).assert then s1.eclipseRelease p else s1
    if bit v 3 then s2.eclipseArm p else s2

/-- The control register as it reads. -/
def Part.eclipseWord (x : Part) : Word :=
  w64 ((if x.assert then 1 else 0) + (if x.frozen then 2 else 0) + (if x.bkhit then 4 else 0) + (if x.ealign then 8 else 0))

/-! ## The scan path (R352) -/

/-- The parts of an array operation: kind, row, count, K blocks, format, local address, elements. -/
def ArrOp.parts : ArrOp → List Nat × List (Nat × Nat)
  | .mldbLocal a m => ([1, 0, 0, 0, m.toNat, a], [])
  | .mldbTile els m => ([2, 0, 0, 0, m.toNat, 0], els)
  | .mmaLocal r c k a m => ([3, r, c, k.toNat, m.toNat, a], [])
  | .mmaTile r c k els m => ([4, r, c, k.toNat, m.toNat, 0], els)
  | .mclr r c => ([5, r, c, 0, 0, 0], [])

/-- The operation that has some parts; none for a kind that is no operation. -/
def arrOpOf (p : List Nat) (els : List (Nat × Nat)) : Option ArrOp :=
  let w := fun i => p.getD i 0
  match w 0 with
  | 1 => some (.mldbLocal (w 5) (BitVec.ofNat 8 (w 4)))
  | 2 => some (.mldbTile els (BitVec.ofNat 8 (w 4)))
  | 3 => some (.mmaLocal (w 1) (w 2) (BitVec.ofNat 32 (w 3)) (w 5) (BitVec.ofNat 8 (w 4)))
  | 4 => some (.mmaTile (w 1) (w 2) (BitVec.ofNat 32 (w 3)) els (BitVec.ofNat 8 (w 4)))
  | 5 => some (.mclr (w 1) (w 2))
  | _ => none

/-- An array queue entry as the scan path shows it. -/
def ArrEntry.scan (e : ArrEntry) (w : Nat) : Nat :=
  let (p, els) := e.op.parts
  let v := fun i => p.getD i 0
  match w with
  | 0 => v 0 + v 1 * 2 ^ 4 + v 2 * 2 ^ 8 + v 4 * 2 ^ 16 + v 3 * 2 ^ 24 + e.fl.toNat * 2 ^ 56 + e.done * 2 ^ 64 +
      (if e.cmd then 2 ^ 72 else 0) + els.length * 2 ^ 80
  | 1 => v 5 + ctxIx e.owner * 2 ^ 32 + coreOf e.owner * 2 ^ 40 + e.act * 2 ^ 64 + e.seq * 2 ^ 128
  | i + 2 => (els.getD i (0, 0)).1 + (els.getD i (0, 0)).2 * 2 ^ 64

/-- An entry after a scan write of one of its words; none when its kind becomes 0. -/
def ArrEntry.setScan (e : ArrEntry) (w v : Nat) : Option ArrEntry :=
  let (p, els) := e.op.parts
  match w with
  | 0 => (arrOpOf [bits v 3 0, bits v 7 4, bits v 15 8, bits v 55 24, bits v 23 16, p.getD 5 0]
      ((List.range (bits v 87 80)).map (fun i => els.getD i (0, 0)))).map (fun o =>
        { e with op := o, fl := BitVec.ofNat 5 (v / 2 ^ 56), done := bits v 71 64, cmd := bit v 72 })
  | 1 => (arrOpOf (p.set 5 (bits v 15 0)) els).map (fun o =>
      { e with op := o, owner := bits v 63 40 * 16 + bits v 35 32, act := bits v 127 64, seq := v / 2 ^ 128 })
  | i + 2 => (arrOpOf p (els.set i (v % 2 ^ 64, v / 2 ^ 64 % 2 ^ 64))).map (fun o => { e with op := o })

/-- An array queue after a scan write: a write of word 0 of the place behind the last entry makes an entry, one of
kind 0 takes it away. -/
def setArrQueue (q : List ArrEntry) (n w v : Nat) : List ArrEntry :=
  match q[n]? with
  | some e => (match e.setScan w v with | some e1 => q.set n e1 | none => q.eraseIdx n)
  | none =>
    if w = 0 then q ++ (ArrEntry.setScan { op := .mclr 0 0, owner := 0, act := 0, cmd := false, seq := 0 } 0 v).toList else q

/-- A register of a context as the scan path shows it. -/
def State.scanReg (s : State) (t : Nat) (r : ScanReg) : Nat :=
  let x := s.ctx t
  match r with
  | .x n => (x.x n).toNat
  | .xSlot n => (look x.xs (64 + n % 512) 0).toNat
  | .v n => (x.v n).toNat
  | .a n => (x.a n).toNat
  | .d n => (x.d n).toNat
  | .e n => (x.e n).toNat
  | .k n => (x.k n).toNat
  | .fpst => x.fpst.toNat
  | .pred => (x.preds ||| 1#8).toNat
  | .bfmt n => (look x.bfmt n 0).toNat
  | .mhnd => x.mhnd.toNat
  | .wbase => x.wb
  | .pc => x.pc.toNat
  | .level => if x.sup then 1 else 0
  | .tcause => x.tcause.toNat
  | .tval => x.tval.toNat
  | .tepc => x.tepc.toNat
  | .tstat => x.tstat.toNat
  | .tscr => x.tscr.toNat
  | .loopStart n => ((x.loops[n]?).map (fun e => e.start.toNat)).getD 0
  | .loopEnd n => ((x.loops[n]?).map (fun e => e.stop.toNat)).getD 0
  | .loopRem n => ((x.loops[n]?).map LoopEnt.rem).getD 0
  | .loopLevel n => if (x.loops[n]?).any LoopEnt.atS then 1 else 0
  | .loopDepth => x.loops.length
  | .acc n => (look x.accRows n 0).toNat
  | .kcount n => look x.kcount n 0
  | .bCol n => joinLanes 16 ((List.range 32).map (fun e => (look x.bMant (8 * e + n) 0).toNat))
  | .bExp => x.bExp.toNat
  | .arrayStatus => x.bWidth.toNat + (if x.bValid then 2 ^ 4 else 0) + x.drain.toNat * 2 ^ 16
  | .arrQueue n w => ((x.arrQ[n]?).map (fun e => e.scan w)).getD 0

/-- Changes one entry of a list. -/
def setAt {α : Type} (l : List α) (n : Nat) (g : α → α) : List α :=
  l.zipIdx.map (fun e => if e.2 = n then g e.1 else e.1)

/-- A context after a scan write of a register. -/
def Ctx.setScan (x : Ctx) (r : ScanReg) (v : Nat) : Ctx :=
  match r with
  | .x n => x.setX n (w64 v)
  | .xSlot n => { x with xs := put x.xs (64 + n % 512) (w64 v) }
  | .v n => x.setV n (BitVec.ofNat 512 v)
  | .a n => x.setA n (w64 v)
  | .d n => x.setD n (BitVec.ofNat 32 v)
  | .e n => x.setE n (BitVec.ofNat 64 v)
  | .k n => x.setK n (BitVec.ofNat 32 v)
  | .fpst => { x with fpst := w64 v &&& fpstMask }
  | .pred => { x with preds := BitVec.ofNat 8 v ||| 1#8 }
  | .bfmt n => { x with bfmt := put x.bfmt n (BitVec.ofNat 8 v &&& 0x7F#8) }
  | .mhnd => { x with mhnd := w64 v &&& ~~~ 0x70#64 }
  | .wbase => { x with wb := v % 512 }
  | .pc => { x with pc := w64 v }
  | .level => { x with sup := bit v 0 }
  | .tcause => { x with tcause := w64 v &&& tcauseMask }
  | .tval => { x with tval := w64 v }
  | .tepc => { x with tepc := w64 v }
  | .tstat => { x with tstat := w64 v &&& tstatMask }
  | .tscr => { x with tscr := w64 v }
  | .loopStart n => { x with loops := setAt x.loops n (fun e => { e with start := w64 v }) }
  | .loopEnd n => { x with loops := setAt x.loops n (fun e => { e with stop := w64 v }) }
  | .loopRem n => { x with loops := setAt x.loops n (fun e => { e with rem := v % 2 ^ 64 }) }
  | .loopLevel n => { x with loops := setAt x.loops n (fun e => { e with atS := bit v 0 }) }
  | .loopDepth =>
      let more : List LoopEnt := List.replicate (Nat.min v 8 - x.loops.length) { start := 0, stop := 0, rem := 0, atS := x.sup }
      { x with loops := x.loops.take v ++ more }
  | .acc n => { x with accRows := put x.accRows n (BitVec.ofNat 256 v) }
  | .kcount n => { x with kcount := put x.kcount n (v % 4096) }
  | .bCol n => { x with bMant := (List.range 32).foldl (fun m e =>
      put m (8 * e + n) (BitVec.ofNat 16 (laneOf 16 v e))) x.bMant }
  | .bExp => { x with bExp := BitVec.ofNat 64 v }
  | .arrayStatus => { x with bWidth := BitVec.ofNat 4 v, bValid := bit v 4, drain := BitVec.ofNat 16 (v / 2 ^ 16) }
  | .arrQueue n w => { x with arrQ := setArrQueue x.arrQ n w v }

/-- The partition whose freeze opens a part of the scan path. -/
def State.scanPart (s : State) (sel : ScanSel) : Nat :=
  match sel with
  | .ctx t _ | .lpmap t _ => s.partOf t
  | .vault c _ | .message c _ _ _ | .scoreboard c _ _ | .storeLog c _ _ | .physicalRow c => (s.field (fieldOfCore c)).fpart
  | .trapQueue fi _ _ | .trapValid fi => (s.field fi).fpart
  | .record k slot _ => ((look? (s.stack k).dir slot).map DirRec.part).getD 0

/-- The physical row of a core (R9): rows from the unused one of its column on move down by one. -/
def physRow (core : Nat) : Nat :=
  let row := core % 1024 / 32
  let unused := Config.spareRow (core / 1024 * 32 + core % 32)
  if row < unused then row else row + 1

/-- A scoreboard entry as the scan path shows it: the context's index, that it is in use, the number of ranges, the
ticket of a query, the sequence; then its ranges. -/
def SbEnt.scan (e : SbEnt) (w : Nat) : Nat :=
  if w = 0 then ctxIx e.tid + 2 ^ 7 + e.rs.length * 2 ^ 8 + e.ticket % 2 ^ 32 * 2 ^ 32 + e.seq * 2 ^ 64
  else
    let r := e.rs.getD (w - 1) (0, 0)
    r.1 + r.2 * 2 ^ 16

def SbEnt.setScan (e : SbEnt) (core w v : Nat) : SbEnt :=
  if w = 0 then
    { e with tid := core * 16 + bits v 3 0, ticket := bits v 63 32, seq := v / 2 ^ 64,
             rs := e.rs.take (bits v 15 8) ++ List.replicate (bits v 15 8 - e.rs.length) (0, 0) }
  else { e with rs := setAt e.rs (w - 1) (fun _ => (bits v 15 0, bits v 31 16)) }

/-- The scoreboard after a scan write: bit 7 of word 0 makes an entry behind the last one, or takes one away. -/
def setScoreboard (l : List SbEnt) (core k w v : Nat) : List SbEnt :=
  if k < l.length then
    if w = 0 && !bit v 7 then l.eraseIdx k else setAt l k (fun e => e.setScan core w v)
  else if w = 0 && bit v 7 && decide (l.length < 16) then l ++ [SbEnt.setScan { rs := [], tid := 0, seq := 0 } core 0 v]
  else l

/-- An entry of the posted-store log as the scan path shows it. -/
def LogEnt.scan (e : LogEnt) (w : Nat) : Nat :=
  match w with
  | 0 => e.data.toNat
  | 1 => e.pa
  | 2 => e.named.toNat
  | 3 => e.mask.toNat
  | _ => ctxIx e.tid + 2 ^ 7 + e.size * 2 ^ 8 + e.tries * 2 ^ 16 + e.act % 2 ^ 32 * 2 ^ 32 + e.order * 2 ^ 64

def LogEnt.setScan (e : LogEnt) (core w v : Nat) : LogEnt :=
  match w with
  | 0 => { e with data := BitVec.ofNat 512 v }
  | 1 => { e with pa := v % 2 ^ 52 }
  | 2 => { e with named := w64 v }
  | 3 => { e with mask := w64 v }
  | _ => { e with tid := core * 16 + bits v 3 0, size := bits v 15 8, tries := bits v 31 16, act := bits v 63 32,
                  order := v / 2 ^ 64 }

/-- The posted-store log after a scan write: bit 7 of word 4 makes an entry or takes it away. -/
def setStoreLog (l : Map LogEnt) (core k w v : Nat) : Map LogEnt :=
  match look? l k with
  | some e => if w ≥ 4 && !bit v 7 then drop l k else put l k (e.setScan core w v)
  | none =>
    if w ≥ 4 && bit v 7 && decide (k < 32) then
      put l k (LogEnt.setScan { tid := 0, act := 0, named := 0, pa := 0, size := 0, mask := 0, data := 0, order := 0 } core w v)
    else l

/-- A message slot as the scan path shows it: its words, then its state, length and sender, its order, and what it
is held for. -/
def MsgSlot.scan (m : MsgSlot) (w : Nat) : Nat :=
  if w < 16 then (m.words[w]?.getD 0).toNat
  else if w = 17 then m.order
  else if w = 18 then (match m.st with | .reply u a n => u + a * 2 ^ 64 + n * 2 ^ 128 | _ => 0)
  else if w = 19 then (match m.chan with | some c => 1 + c.1 * 2 ^ 8 + c.2 * 2 ^ 32 | none => 0)
  else
    let st := match m.st with | .free => 0 | .queued => 1 | .held => 2 | .reply _ _ _ => 3
    st + m.n * 2 ^ 8 + m.sender.toNat * 2 ^ 32

def MsgSlot.setScan (m : MsgSlot) (w v : Nat) : MsgSlot :=
  if w < 16 then
    { m with words := setAt (m.words ++ List.replicate (w + 1 - m.words.length) 0) w (fun _ => w64 v) }
  else if w = 17 then { m with order := v }
  else if w = 18 then
    { m with st := match m.st with | .reply _ _ _ => .reply (v % 2 ^ 64) (bits v 127 64) (v / 2 ^ 128) | st => st }
  else if w = 19 then { m with chan := if bit v 0 then some (bits v 31 8, v / 2 ^ 32) else none }
  else
    let st : MsgSt := match v % 4, m.st with
      | 0, _ => .free | 1, _ => .queued | 2, _ => .held | _, .reply u a n => .reply u a n | _, _ => .reply 0 0 0
    { m with st := st, n := bits v 15 8, sender := BitVec.ofNat 32 (v / 2 ^ 32) }

/-- What a scan read shows. -/
def State.scan (s : State) (sel : ScanSel) : Nat :=
  match sel with
  | .ctx t r => s.scanReg t r
  -- a poisoned word shows the marker above its bits (R353)
  | .vault c o => if s.vaultBad (s.vaultLoc c o) 8 then 2 ^ 64 else s.mem.val (s.vaultLoc c o) 8
  | .lpmap t j => (s.lpmapWord t j).toNat
  | .message c q k w => ((s.core c).msg q k).scan w
  | .scoreboard c k w => (((s.core c).sb[k]?).map (fun e => e.scan w)).getD 0
  | .storeLog c k w => ((look? (s.core c).log k).map (fun e => e.scan w)).getD 0
  | .trapValid fi => (s.field fi).tqvalid.toNat
  | .trapQueue fi k w => ((look (s.field fi).trec k []).getD w 0).toNat
  | .record k slot w => (s.recWord k slot w).toNat
  | .physicalRow c => physRow c

/-- SCAN_READ: the value at the test access port; zeros while the partition is not frozen. -/
def State.scanRead (s : State) (sel : ScanSel) : State :=
  { s with tap := if (s.part (s.scanPart sel)).frozen then s.scan sel else 0 }

/-- A sharer entry from its 12 bits (R97). -/
def sharerOf (w : Nat) : Option Sharer :=
  if bit w 11 then some { own := bit w 10, fi := w % 1024 } else none

/-- A record after a scan write of one of its words (R94). -/
def DirRec.setWord (r : DirRec) (w v : Nat) : DirRec :=
  let span := r.kind != .box
  let kind : RecKind := match bits v 63 62 with | 1 => .box | 2 => .span | 3 => .region | _ => r.kind
  let ix := (List.range 4).map (fun d => bits v (16 * d + 15) (16 * d))
  match w with
  | 0 => { r with kind := kind, piece := bit v 61, part := bits v 59 54, gen := bits v 53 30, lid := bits v 29 14 }
  | 1 => { r with gseq := bits v 63 48, ten := bits v 47 46, rcnt := bits v 45 22, next := bits v 19 0 }
  | 2 => { r with whold := BitVec.ofNat 32 (bits v 63 32) }
  | 3 => { r with whv := bit v 0 }
  | 4 => { r with
      sh0 := sharerOf (bits v 11 0), sh1 := sharerOf (bits v 23 12), sh2 := sharerOf (bits v 35 24),
      sh3 := sharerOf (bits v 47 36), coarse := bit v 48, zs := bit v 49, zown := bit v 50 }
  | 5 => { r with cvec := BitVec.ofNat 64 v }
  | 6 => if span then { r with base := bits v 51 7, len := bits v 62 54 } else { r with didx := bits v 15 0 }
  | 7 => { r with lo := ix }
  | 8 => { r with hi := ix }
  | _ => r

/-- A directory after a scan write of a word of a slot: KIND of word 0 makes a record there or takes it away (R94). -/
def Stack.scanRec (st : Stack) (slot w v : Nat) : Stack :=
  match look? st.dir slot with
  | some _ =>
    if w = 0 && bits v 63 62 == 0 then { st with dir := drop st.dir slot } else st.modRec slot (fun r => r.setWord w v)
  | none =>
    if w = 0 && bits v 63 62 != 0 then st.setRec slot (({ kind := .box, part := 0, gen := 0 } : DirRec).setWord 0 v) else st

/-- A page map entry after a scan write: where the page stands, and whether it differs (R74). -/
def State.setLpmap (s : State) (t j v : Nat) : State :=
  let named := bit (s.nlrOf t) j
  let owner := if named then namedOwner else t
  s.modCore (coreOf t) (fun c =>
    let rest := c.frames.filter (fun e => !(e.2.owner == owner && e.2.page == j))
    let f : Frame := { owner := owner, page := j, dirty := bit v 2 }
    let frames := if bit v 1 && decide (bits v 11 8 < 12) then put rest (bits v 11 8) f else rest
    { c with frames := frames })

/-- What a scan write changes. -/
def State.setScan (s : State) (sel : ScanSel) (v : Nat) : State :=
  match sel with
  | .ctx t r => s.modCtx t (fun x => x.setScan r v)
  | .vault c o => s.writeVault c o 8 (v % 2 ^ 64)
  | .lpmap t j => s.setLpmap t j v
  | .message c q k w => s.modCore c (fun x =>
      { x with msgs := put x.msgs (msgKey q k) ((x.msg q k).setScan w v) })
  | .scoreboard c k w => s.modCore c (fun x => { x with sb := setScoreboard x.sb c k w v })
  | .storeLog c k w => s.modCore c (fun x => { x with log := setStoreLog x.log c k w v })
  | .trapValid fi => s.modField fi (fun f => { f with tqvalid := BitVec.ofNat 64 v })
  | .trapQueue fi k w => s.modField fi (fun f => { f with trec := put f.trec k (setAt (look f.trec k [] ++
      List.replicate (8 - (look f.trec k []).length) 0) w (fun _ => w64 v)) })
  | .record k slot w => s.modStack k (fun st => st.scanRec slot w (v % 2 ^ 64))
  | .physicalRow _ => s

/-- SCAN_WRITE: accepted while the partition is frozen. -/
def State.scanWrite (s : State) (sel : ScanSel) (v : Vec) : State :=
  if (s.part (s.scanPart sel)).frozen then s.setScan sel v.toNat else s

/-! ## Soft errors (R350) -/

/-- The field in which a soft error is counted. -/
def siteField : SoftSite → Option Nat
  | .vaultWord c _ | .icache c _ | .message c _ _ => some (fieldOfCore c)
  | .backing t | .array t => some (fieldOf t)
  | .l2clean f _ | .l2dirty f _ => some f
  -- the stack's lowest field counts for its DRAM
  | .dram k => some (k * 128 / 2 ^ 38 % 4 * 256)

def State.countSoft (s : State) (site : SoftSite) (fixed : Bool) : State :=
  match siteField site with
  | none => s
  | some fi => s.modField fi (fun f => if fixed then { f with secor := f.secor + 1 } else { f with seunc := f.seunc + 1 })

/-- The error that kills: cause 0x14 in the context that owns the line. -/
def State.contextError (s : State) (t : Nat) : State :=
  if (s.ctx t).st == .free then s else s.fatal t { cause := cContext } false (s.ctx t).pc (s.ctx t).pc none

/-- A message slot is struck: a queued message is discarded and its receiver sees that; so does the holder
of one that is held, a handler at once, another thread at its next POLL or WAITQ (R350). -/
def State.loseMessage (s : State) (c q k : Nat) : State :=
  let m := (s.core c).msg q k
  if m.st == .queued then s.modCore c (fun x => { x with msgs := put x.msgs (msgKey q k) { m with bad := true } })
  else if m.st == .held then
    (ctxsOf c).foldl (fun s t =>
      if (s.ctx t).held == some (q, k) then s.modCtx t (fun x =>
        let p : Pend := { pc := x.pc, idx := x.issued, left := 0, done := true, result := .none, flags := 0,
                          fault := some { cause := cData }, work := .none, since := none, sup := x.sup }
        if (x.task.any (fun j => j.handler.isSome)) then { x with held := none, pend := x.pend ++ [p] }
        else { x with held := none, lost := true })
      else s) (s.freeMsg c q k)
  else s

/-- A soft error that cannot be corrected, by its place. -/
def State.softUncorrected (s : State) (site : SoftSite) : State :=
  match site with
  | .vaultWord c o => { s with bad := put s.bad (s.vaultLoc c o / 8) true }
  | .icache c n => s.modCore c (fun x =>
      -- a block only fetched ahead is poisoned (R346); another one is fetched again
      let blocks := if (x.icache[n]?).any IBlock.ahead then setAt x.icache n (fun b => { b with poison := true })
        else x.icache.eraseIdx n
      { x with icache := blocks })
  | .backing t | .array t => s.contextError t
  | .message c q k => s.loseMessage c q k
  | .l2clean f ln | .l2dirty f ln =>
    (match look? (s.field f).l2 ln with
     | some l => if l.dirty then ((s.writeHome ln l).unhold f ln).poisonLine (128 * ln) else s.unhold f ln
     | none => s)
  | .dram k => { s with bad := put s.bad k true }

/-- SOFT_ERROR. In a frozen field an error that kills is taken after the release: it changes nothing
yet. -/
def State.softError (s : State) (site : SoftSite) (corrected : Bool) : State :=
  let clean : Bool := match site with
    | .l2clean f ln | .l2dirty f ln => (look? (s.field f).l2 ln).any (fun l => !l.dirty)
    | _ => false
  let kills : Bool := match site with | .backing _ | .array _ => true | _ => false
  let stopped : Bool := (siteField site).any (fun fi => (s.field fi).frozen)
  if corrected then s.countSoft site true
  else if kills && stopped then s
  else (s.countSoft site clean).softUncorrected site

/-! ## The meanings -/

def execEclipseAssert (p : Nat) (s : State) : Host.Outcome State Fault Refusal := .next (s.eclipseAssert p)
def execEclipseAlignTick (p : Nat) (s : State) : Host.Outcome State Fault Refusal := .next (s.eclipseTick p)
def execEclipseFreeze (p : Nat) (s : State) : Host.Outcome State Fault Refusal := .next (s.eclipseFreeze p)
def execEclipseRelease (p : Nat) (s : State) : Host.Outcome State Fault Refusal := .next (s.eclipseRelease p)
def execEclipseRestart (p : Nat) (s : State) : Host.Outcome State Fault Refusal := .next (s.eclipseRestart p)
def execScanRead (sel : ScanSel) (s : State) : Host.Outcome State Fault Refusal := .next (s.scanRead sel)
def execScanWrite (sel : ScanSel) (v : Vec) (s : State) : Host.Outcome State Fault Refusal := .next (s.scanWrite sel v)
def execSoftError (site : SoftSite) (c : Bool) (s : State) : Host.Outcome State Fault Refusal := .next (s.softError site c)

end Sys2Proof.Machine
end

