-- ==== Sys2Proof/Machine/Sha.lean ====
section
/-! DEFINITION. SHA-256, which the manual names for snapshot hashes (R383) and boot measurements
(R393, R396) and does not lay down: FIPS 180-4 (PRESUMED). -/

namespace Sys2Proof.Machine

open Sys2Proof

/-- The largest r below 2^b, beyond a part already found, whose k-th power does not exceed n. -/
def rootFrom (k n r : Nat) : Nat → Nat
  | 0 => r
  | b + 1 => rootFrom k n (if (r + 2 ^ b) ^ k ≤ n then r + 2 ^ b else r) b

/-- The first 32 bits of the fractional part of the k-th root of a number below 2^12. -/
def rootFraction (k p : Nat) : Nat := rootFrom k (p * 2 ^ (32 * k)) 0 40 % 2 ^ 32

/-- The primes below 312: a number below 18² has a prime divisor below 18, if it has one. -/
def shaPrimes : List Nat :=
  (List.range 312).filter (fun n => decide (2 ≤ n) && (List.range 16).all (fun d => n == d + 2 || n % (d + 2) != 0))

/-- The round constants: one for each of the 64 primes, from its cube root. -/
def shaK : List Nat := shaPrimes.map (rootFraction 3)

/-- The initial hash value: one word for each of the first eight primes, from its square root. -/
def shaH : List Nat := (shaPrimes.take 8).map (rootFraction 2)

/-- Rotation of a 32-bit word to the right. -/
def rotr (n x : Nat) : Nat := x / 2 ^ n + x % 2 ^ n * 2 ^ (32 - n)

/-- The exclusive or of several rotations of a word. -/
def turned (x : Nat) (by_ : List Nat) : Nat := (by_.map (fun n => rotr n x)).foldl Nat.xor 0

/-- Word t ≥ 16 of the message schedule, from the words before it, the newest first. -/
def shaWord (w : List Nat) : Nat :=
  let near := w.getD 1 0
  let far := w.getD 14 0
  (w.getD 15 0 + w.getD 6 0 + Nat.xor (near / 1024) (turned near [17, 19]) + Nat.xor (far / 8) (turned far [7, 18])) % 2 ^ 32

/-- The message schedule, newest word first. -/
def shaSched (w : List Nat) : Nat → List Nat
  | 0 => w
  | n + 1 => shaSched (shaWord w :: w) n

/-- One round on the eight working words. The choice takes f where e has a 1 and g elsewhere; the majority is
what two of a, b, c have. -/
def shaRound (h : List Nat) (kw : Nat × Nat) : List Nat :=
  let v := fun i => h.getD i 0
  let choice := Nat.xor (v 6) (Nat.land (v 4) (Nat.xor (v 5) (v 6)))
  let majority := Nat.lor (Nat.land (v 0) (v 1)) (Nat.land (v 2) (Nat.lor (v 0) (v 1)))
  let t := v 7 + turned (v 4) [6, 11, 25] + choice + kw.1 + kw.2
  (t + turned (v 0) [2, 13, 22] + majority) % 2 ^ 32 :: (h.take 3 ++ (v 3 + t) % 2 ^ 32 :: (h.drop 4).take 3)

/-- Big-endian value of bytes. -/
def beNat (bs : List Byte) : Nat := bs.foldl (fun n b => n * 256 + b.toNat) 0

/-- One block of 64 bytes. -/
def shaBlock (h : List Nat) (bs : List Byte) : List Nat :=
  let w := (List.range 16).map (fun i => beNat ((bs.drop (4 * i)).take 4))
  let ws := (shaSched w.reverse 48).reverse
  let r := (List.zip shaK ws).foldl shaRound h
  List.zipWith (fun a b => (a + b) % 2 ^ 32) h r

/-- The blocks of a padded message. -/
def shaBlocks (h : List Nat) (bs : List Byte) : Nat → List Nat
  | 0 => h
  | n + 1 => shaBlocks (shaBlock h (bs.take 64)) (bs.drop 64) n

/-- The 32 bytes of the hash. -/
def sha256 (bs : List Byte) : List Byte :=
  let n := bs.length
  let pad := bs ++ [0x80#8] ++ List.replicate ((119 - n % 64) % 64) 0#8 ++ (leBytes 8 (8 * n)).reverse
  (shaBlocks shaH pad (pad.length / 64)).flatMap (fun v => (leBytes 4 v).reverse)

end Sys2Proof.Machine
end

