-- ==== Sys2Proof/Machine/Snapshot.lean ====
section
/-! DEFINITION. The snapshot engines of the stacks (R382 to R388). -/

namespace Sys2Proof.Machine

open Sys2Proof

/-! ## Accesses of an engine -/

/-- n bytes read at home, line by line, with the number of lines as fuel; a cause where a line is not to be had. -/
def State.snapReadLines (s : State) (pa n : Nat) : Nat → Except Nat (List Byte × State)
  | 0 => .ok ([], s)
  | k + 1 =>
    if n = 0 then .ok ([], s)
    else
      match s.home? pa with
      | none => .error cPhys
      | some h =>
        if paSpace pa ≥ 0xE || !s.reachable h.cube then .error cPhys
        else
          let m := Nat.min n (128 - pa % 128)
          match s.readDirect pa m with
          | .ok v s1 =>
            (match s1.snapReadLines (pa + m) (n - m) k with
             | .ok (bs, s2) => .ok (leBytes m v ++ bs, s2)
             | .error c => .error c)
          | .stall _ => .error cPhys
          | .fault c => .error c

/-- n bytes read at home. -/
def State.snapRead (s : State) (pa n : Nat) : Except Nat (List Byte × State) := s.snapReadLines pa n (n / 128 + 2)

/-- Bytes written at home, up to the first that the home does not take; whether it took them all. -/
def State.snapWrite (s : State) (pa : Nat) : List Byte → Bool × State
  | [] => (true, s)
  | b :: bs =>
    match s.hubWrite pa 1 b.toNat with
    | some s1 => s1.snapWrite (pa + 1) bs
    | none => (false, s)

/-- A page written line by line, so that every line has a fresh check, up to the first line that the home does not
take; whether it took them all. -/
def State.snapLines (s : State) (pa : Nat) (bs : List Byte) : Nat → Bool × State
  | 0 => (true, s)
  | n + 1 =>
    match s.hubWrite pa 128 (leNat (bs.take 128)) with
    | some s1 => s1.snapLines (pa + 128) (bs.drop 128) n
    | none => (false, s)

/-- Word i of bytes. -/
def wordAt (bs : List Byte) (i : Nat) : Nat := leNat ((bs.drop (8 * i)).take 8)

/-! ## Slots (R383) -/

def snapMagic : Nat := 0x5A31C4E7
/-- Where the manifest and the data of a shard stand. -/
def maniOff : Nat := 0x40
def dataOff : Nat := 0x6010000
/-- Pages that a shard holds at most. -/
def shardPages : Nat := 3145728

/-- The bytes 0 to 15 of a hash, as a number. -/
def hash16 (bs : List Byte) : BitVec 128 := BitVec.ofNat 128 (leNat ((sha256 bs).take 16))

/-- The step for which a slot is valid; an access that fails is an error. -/
def State.slotStep (s : State) (b : Nat) : Except Nat (Option Nat × State) :=
  match s.snapRead b 64 with
  | .error c => if c = cPhys then .error c else .ok (none, s)
  | .ok (bs, s1) =>
    let n := wordAt bs 2 / 2 ^ 32
    if bits (wordAt bs 0) 31 0 ≠ snapMagic || wordAt bs 7 / 2 ^ 32 ≠ (crc32c (bs.take 60)).toNat || n > shardPages then
      .ok (none, s1)
    else
      match s1.snapRead (b + maniOff) (32 * n) with
      | .error c => if c = cPhys then .error c else .ok (none, s1)
      | .ok (ms, s2) =>
        .ok (if (hash16 ms).toNat = leNat ((bs.drop 32).take 16) then some (wordAt bs 1) else none, s2)

/-- The same, with the state that its reads leave, or the state before a read that fails. -/
def State.slotTry (s : State) (b : Nat) : Except Nat (Option Nat) × State :=
  match s.slotStep b with
  | .ok (t, s1) => (.ok t, s1)
  | .error c => (.error c, s)

/-- Whether a slot was read and is valid for a step of n or more. -/
def stepAtLeast (n : Nat) (r : Except Nat (Option Nat)) : Bool :=
  match r with
  | .ok (some t) => decide (n ≤ t)
  | _ => false

/-- Whether a read failed. -/
def failedRead {α : Type} (r : Except Nat α) : Bool :=
  match r with
  | .ok _ => false
  | .error _ => true

/-- A manifest entry's bytes. -/
def maniBytes (e : Nat × Nat × Nat × BitVec 128) : List Byte :=
  leBytes 8 (e.1 + e.2.1) ++ leBytes 8 e.2.2.1 ++ leBytes 16 e.2.2.2.toNat

/-- The commit record's bytes. -/
def commitBytes (step shard npg nwr nref cut : Nat) (mhash : BitVec 128) : List Byte :=
  let b := leBytes 8 snapMagic ++ leBytes 8 step ++ leBytes 8 (shard + npg * 2 ^ 32) ++ leBytes 8 (nwr + nref * 2 ^ 32) ++
    leBytes 16 mhash.toNat ++ leBytes 8 (cut % 2 ^ 40) ++ leBytes 4 0
  b ++ leBytes 4 (crc32c b).toNat

/-! ## Commands -/

/-- A command ends with a status; a release of Eclipse that waited for it takes effect (R384). -/
def State.snapEnd (s : State) (k st : Nat) : State :=
  let p := (s.stack k).snap.part
  let s1 := s.modStack k (fun x => { x with snap := { x.snap with
    busy := false, status := st, begun := false, todo := [], waitAt := none } })
  if (s1.part p).erel then s1.eclipseRelease p else s1

/-- Base of slot i of an engine. -/
def Snap.base (q : Snap) (i : Nat) : Nat := if i = 0 then q.slot0.toNat else q.slot1.toNat

/-- The entries of the range table: base word and length word. -/
def State.rangeTable (s : State) (k : Nat) : Except Nat (List (Nat × Nat) × State) :=
  let w := (s.stack k).snap.list.toNat
  let n := bits w 5 0 + 1
  match s.snapRead (bits w 51 6 * 64) (16 * n) with
  | .error c => .error c
  | .ok (bs, s1) => .ok ((List.range n).map (fun i => (wordAt bs (2 * i), wordAt bs (2 * i + 1))), s1)

/-- The pages of a range table whose first byte is homed in a stack, in order. -/
def State.shardOf (s : State) (k : Nat) (rs : List (Nat × Nat)) : List Nat :=
  (rs.flatMap (fun r => (List.range r.2).map (fun i => r.1 + 65536 * i))).filter (fun pa =>
    match s.home? pa with
    | some h => h.cube == s.cubeid && h.stack == k
    | none => false)

/-- Whether a range may stand in the table. -/
def State.rangeOk (s : State) (r : Nat × Nat) : Bool :=
  r.1 % 65536 == 0 && decide (r.1 < 2 ^ 52) && decide (paSpace r.1 < 0xE) && (s.home? r.1).isSome &&
    decide (1 ≤ r.2) && decide (r.2 ≤ 2 ^ 20)

/-- Whether a slot's base is homed in another cube. -/
def State.slotAway (s : State) (b : Nat) : Bool :=
  paSpace b < 0xE && (match s.home? b with | some h => h.cube != s.cubeid | none => false)

/-- Whether a range table, or the failure to read it, is one of the causes of status 2. -/
def State.tableBad (s : State) (k : Nat) (tab : Except Nat (List (Nat × Nat))) : Bool :=
  match tab with
  | .error c => c == cPhys
  | .ok rs => !rs.all s.rangeOk || decide ((s.shardOf k rs).length > shardPages)

/-- The checks of R387 for a snapshot, in the order of its table, and its pages; the status where one fails. -/
def State.snapChecks (s : State) (k : Nat) : Except Nat (List Nat × State) :=
  let q := (s.stack k).snap
  if !(s.part q.part).frozen then .error 1
  else
    let (tab, s1) : Except Nat (List (Nat × Nat)) × State := match s.rangeTable k with
      | .ok (rs, s1) => (.ok rs, s1)
      | .error c => (.error c, s)
    let (a, s2) := s1.slotTry (q.base 0)
    let (b, s3) := s2.slotTry (q.base 1)
    if s1.tableBad k tab || !s1.slotAway (q.base 0) || !s1.slotAway (q.base 1) || q.step = 0 ||
        stepAtLeast q.step.toNat a || stepAtLeast q.step.toNat b then .error 2
    else if failedRead a || failedRead b then .error 4
    else
      match tab with
      | .error _ => .error 5
      | .ok rs => .ok (s1.shardOf k rs, s3)

/-- What comes of one page. -/
inductive SnapGot where
  /-- its manifest entry -/
  | entry (kind loc : Nat) (h : BitVec 128) (s : State)
  /-- it waits for WRITTEN -/
  | wait
  /-- the command ends with a status; what it has written before stays written -/
  | stop (status : Nat) (s : State)

/-- Where the shard's u-th written page stands. -/
def Snap.place (q : Snap) (u : Nat) : Nat := q.base q.slot + dataOff + 65536 * u

/-- Writes a page's data to the data area as the shard's u-th page. -/
def State.snapData (s : State) (k u : Nat) (bs : List Byte) : Bool × State :=
  s.snapLines ((s.stack k).snap.place u) bs 512

/-- Places a page (R385). `late`: its wait has timed out. -/
def State.snapPlace (s : State) (k : Nat) (bs : List Byte) (late : Bool) : SnapGot :=
  let q := (s.stack k).snap
  let h := hash16 bs
  let u := (q.mani.filter (fun e => e.2.1 == 1)).length
  let own := fun (s : State) => match s.snapData k u bs with
    | (true, s1) => SnapGot.entry 1 (q.place u) h s1
    | (false, s1) => .stop 4 s1
  if !bit q.idx.toNat 0 then own s
  else
    let a := bits q.idx.toNat 51 21 * 2 ^ 21 + 32 * (h.toNat % 65536)
    match s.snapRead a 32 with
    | .error _ => .stop 4 s
    | .ok (es, s1) =>
      let loc := q.place u
      if wordAt es 0 ≠ q.step.toNat then
        match s1.snapWrite a (leBytes 8 q.step.toNat ++ leBytes 8 loc ++ leBytes 16 h.toNat) with
        | (false, s2) => .stop 4 s2
        | (true, s2) =>
          (match s2.snapData k u bs with
           | (false, s3) => .stop 4 s3
           | (true, s3) =>
             match s3.snapWrite (a + 8) (leBytes 8 (loc + 1)) with
             | (true, s4) => .entry 1 loc h s4
             | (false, s4) => .stop 4 s4)
      else if leNat (es.drop 16) ≠ h.toNat then own s1
      else if bit (wordAt es 1) 0 then .entry 2 (bits (wordAt es 1) 51 16 * 65536) h s1
      else if late then own s1
      else .wait

/-- Steps 5 to 7: the manifest, the commit record, the end. -/
def State.snapCommit (s : State) (k : Nat) : State :=
  let q := (s.stack k).snap
  let b := q.base q.slot
  let ms := q.mani.reverse.flatMap maniBytes
  let nwr := (q.mani.filter (fun e => e.2.1 == 1)).length
  let nref := q.mani.length - nwr
  match s.snapWrite (b + maniOff) ms with
  | (false, s1) => s1.snapEnd k 4
  | (true, s1) =>
    let c := commitBytes q.step.toNat (s.cubeid * 4 + k) q.mani.length nwr nref q.cut (hash16 ms)
    match s1.hubWrite b 64 (leNat c) with
    | none => s1.snapEnd k 4
    | some s2 =>
      (s2.modStack k (fun x => { x with snap := { x.snap with
        step := x.snap.step + 1, nwr := BitVec.ofNat 32 nwr, nref := BitVec.ofNat 32 nref } })).snapEnd k 0

/-- Works through the pages that are left, with their number as fuel; it stops at one that waits. -/
def State.snapPages (s : State) (k : Nat) (late : Bool) : Nat → State
  | 0 => s.snapCommit k
  | n + 1 =>
    match (s.stack k).snap.todo with
    | [] => s.snapCommit k
    | pa :: rest =>
      match s.snapRead pa 65536 with
      | .error c => s.snapEnd k (if c = cPhys then 2 else 5)
      | .ok (bs, s1) =>
        match s1.snapPlace k bs late with
        | .entry kind loc h s2 =>
          (s2.modStack k (fun x => { x with snap := { x.snap with
            todo := rest, mani := (pa, kind, loc, h) :: x.snap.mani, waitAt := none } })).snapPages k false n
        | .wait => s1.modStack k (fun x => { x with snap := { x.snap with waitAt := some (x.snap.waitAt.getD s.time) } })
        | .stop st s2 => s2.snapEnd k st

/-- Begins a snapshot: checks, the cleared commit record, the list of pages. -/
def State.snapBegin (s : State) (k : Nat) : State :=
  match s.snapChecks k with
  | .error st => s.snapEnd k st
  | .ok (pages, s1) =>
    let q := (s1.stack k).snap
    let slot := q.step.toNat % 2
    match s1.hubWrite (q.base slot) 64 0 with
    | none => s1.snapEnd k 4
    | some s2 =>
      (s2.modStack k (fun x => { x with snap := { x.snap with
        begun := true, slot := slot, todo := pages, mani := [], cut := s.sid, waitAt := none } })).snapPages k false (pages.length + 1)

/-! ## Restore (R386) -/

/-- SLOT0 and SLOT1 of every shard of the shard table. -/
def State.shardTable (s : State) (k : Nat) : Except Nat (List (Nat × Nat) × State) :=
  let w := (s.stack k).snap.shtab.toNat
  let n := bits w 5 0 + 1
  match s.snapRead (bits w 51 6 * 64) (16 * n) with
  | .error c => .error c
  | .ok (bs, s1) => .ok ((List.range n).map (fun i =>
      (bits (wordAt bs (2 * i)) 51 16 * 65536, bits (wordAt bs (2 * i + 1)) 51 16 * 65536)), s1)

/-- The steps with a valid slot in each shard, or none for a shard that cannot be read. -/
def State.validSteps (s : State) : List (Nat × Nat) → List (Option (List Nat)) × State
  | [] => ([], s)
  | (a, b) :: rest =>
    let (x, s1) := s.slotTry a
    let (y, s2) := s1.slotTry b
    let (vs, s3) := s2.validSteps rest
    ((match x, y with
      | .ok x, .ok y => some (x.toList.filter (fun t => t % 2 == 0) ++ y.toList.filter (fun t => t % 2 == 1))
      | _, _ => none) :: vs, s3)

/-- The largest step that every shard has. -/
def commonStep (vs : List (List Nat)) : Option Nat :=
  (vs.headD []).foldl (fun b t =>
    if vs.all (fun v => v.contains t) then some (Nat.max (b.getD 0) t) else b) none

/-- Writes back the pages of a manifest from entry i on; the status of the end. -/
def State.restorePages (s : State) (bases : List Nat) (b i : Nat) : Nat → Nat × State
  | 0 => (0, s)
  | n + 1 =>
    match s.snapRead (b + maniOff + 32 * i) 32 with
    | .error c => (if c = cPhys then 4 else 5, s)
    | .ok (es, s1) =>
      let loc := bits (wordAt es 1) 51 16 * 65536
      if !bases.any (fun x => decide (x ≤ loc) && decide (loc < x + dataOff + 65536 * shardPages)) then (5, s1)
      else
        match s1.snapRead loc 65536 with
        | .error c => (if c = cPhys then 4 else 5, s1)
        | .ok (bs, s2) =>
          if (hash16 bs).toNat ≠ leNat (es.drop 16) then (5, s2)
          else
            match s2.snapLines (bits (wordAt es 0) 51 16 * 65536) bs 512 with
            | (true, s3) => s3.restorePages bases b (i + 1) n
            | (false, s3) => (4, s3)

/-- A restore, with its checks in the order of R387: no step that every shard can have, a shard that cannot be read. -/
def State.snapRestore (s : State) (k : Nat) : State :=
  let q := (s.stack k).snap
  if !(s.part q.part).frozen then s.snapEnd k 1
  else
    match s.shardTable k with
    | .error c => s.snapEnd k (if c = cPhys then 4 else 5)
    | .ok (sh, s1) =>
      let (vs, s2) := s1.validSteps sh
      let known := vs.filterMap id
      if !known.isEmpty && (commonStep known).isNone then s2.snapEnd k 3
      else if vs.any Option.isNone then s2.snapEnd k 4
      else
        match commonStep known with
        | none => s2.snapEnd k 3
        | some t =>
          let slot := fun (x : Nat × Nat) => if t % 2 = 0 then x.1 else x.2
          let b := slot (sh.getD q.shself (0, 0))
          match s2.snapRead b 64 with
          | .error c => s2.snapEnd k (if c = cPhys then 4 else 5)
          | .ok (bs, s3) =>
            let r := s3.restorePages (sh.map slot) b 0 (wordAt bs 2 / 2 ^ 32)
            if r.1 = 0 then
              (r.2.modStack k (fun x => { x with snap := { x.snap with rstep := w64 t } })).snapEnd k 0
            else r.2.snapEnd k r.1

/-! ## Running a command -/

/-- Goes on with the command of an engine; a wrap pause holds it like other global traffic. -/
def State.snapGo (s : State) (k : Nat) (late : Bool) : State :=
  let q := (s.stack k).snap
  if !q.busy || s.wrap ≠ 0 then s
  else if q.cmd = 2 then s.snapRestore k
  else if q.begun then s.snapPages k late (q.todo.length + 1)
  else s.snapBegin k

/-- A write of CMD (R382). -/
def State.snapCmd (s : State) (k p cmd : Nat) : State :=
  if (s.stack k).snap.busy then s.modStack k (fun x => { x with snap := { x.snap with rej := true } })
  else
    (s.modStack k (fun x => { x with snap := { x.snap with
      busy := true, part := p, cmd := cmd, begun := false, waitAt := none } })).snapGo k false

/-- DEDUP_TIMEOUT: a page whose index entry has been written meanwhile is a reference; after 1 ms the
engine writes its own copy. A command that a wrap pause held begins here. -/
def State.dedupTimeout (s : State) (k : Nat) : State :=
  match (s.stack k).snap.waitAt with
  | some t => s.snapGo k (decide (t + 2000000 ≤ s.time))
  | none => s.snapGo k false

/-! ## The meanings -/

def execSnapshot (k p : Nat) (s : State) : Host.Outcome State Fault Refusal := .next (s.snapCmd k p 1)
def execSnapshotRestore (k p : Nat) (s : State) : Host.Outcome State Fault Refusal := .next (s.snapCmd k p 2)
def execDedupTimeout (k : Nat) (s : State) : Host.Outcome State Fault Refusal := .next (s.dedupTimeout k)

end Sys2Proof.Machine
end

