-- ==== Sys2Proof/Machine/Links.lean ====
section
/-! DEFINITION. What arrives over the links (R374 to R377), the collectives at their home (R378 to
R380), PCIe (R373) and the replies of the service queue (R372). -/

namespace Sys2Proof.Machine

open Sys2Proof

/-! ## Collectives (R378 to R380) -/

/-- Words of a group's window. -/
def groupWords (g : List Word) : Nat := bits (g.getD 2 0).toNat 20 0 / 4

/-- The members of a group, ascending. -/
def groupMembers (g : List Word) : List Nat := (List.range 256).filter (groupMember g)

/-- The first contribution of a member to a word. -/
def firstContrib (cs : List Contrib) (k c w : Nat) : Option Contrib :=
  cs.find? (fun x => x.group == k && x.cube == c && x.word == w)

/-- The contributions of one epoch: for every word, one of every member, of those too that were members when it
began; none while one is missing. -/
def epochOf (cs : List Contrib) (k : Nat) (g : List Word) (began : List Nat) : Option (List Contrib) :=
  let ms := (List.range 256).filter (fun c => groupMember g c || began.contains c)
  let need := (List.range (groupWords g)).flatMap (fun w => ms.map (fun c => firstContrib cs k c w))
  if need.all Option.isSome then some (need.filterMap id) else none

/-- One step of the fold: RNE addition with R51, MAX or MIN with the lower cube as operand A. -/
def groupOp (opr a b : Nat) : Nat :=
  match opr with
  | 1 => (fadd51 (fmtOf 10) 0 a b).1
  | 2 => (fminmax (fmtOf 10) true a b).1
  | _ => (fminmax (fmtOf 10) false a b).1

/-- The left fold of one word's contributions, given in ascending cube number. -/
def foldWord (opr : Nat) (cs : List Contrib) : Nat :=
  match cs with
  | [] => 0
  | c :: rest => rest.foldl (fun r x => groupOp opr r x.value.toNat) c.value.toNat

/-- A word written at home; a home that does not take it keeps what it has. -/
def State.putWord (s : State) (pa n v : Nat) : State := (s.hubWrite pa n v).getD s

/-- A reduction completes when every word has every member's contribution: the window is written,
then the completion word rises by 1. -/
def State.reduce (s : State) (k : Nat) : State :=
  let g := look s.zen.groups k []
  match epochOf s.zen.contribs k g (look s.zen.epochs k []) with
  | none => s
  | some es =>
    if es.isEmpty then s
    else
      let opr := groupOpr g
      let base := (g.getD 1 0).toNat / 64 * 64
      let aux := bits (g.getD 3 0).toNat 51 3 * 8
      let s1 := (List.range (groupWords g)).foldl (fun s w =>
        s.putWord (base + 4 * w) 4 (foldWord opr (es.filter (fun e => e.word == w)))) s
      let s2 := match s1.hubRead aux 8 with
        | some (v, s2) => s2.putWord aux 8 ((v + 1) % 2 ^ 64)
        | none => s1
      let rest := es.foldl (fun l e => l.erase e) s2.zen.contribs
      { s2 with zen := { s2.zen with
          contribs := rest
          epochs := if rest.any (fun c => c.group == k) then put s2.zen.epochs k (groupMembers g)
            else drop s2.zen.epochs k } }

/-- COLLECTIVE_CONTRIBUTION: kept at the window's home; the members that its epoch waits for are fixed with its first
contribution (R381). -/
def State.contribution (s : State) (k cube word : Nat) (v : BitVec 32) : State :=
  let g := look s.zen.groups k []
  let pa := (g.getD 1 0).toNat / 64 * 64 + 4 * word
  if !bit (g.getD 0 0).toNat 0 || groupOpr g = 4 || !groupMember g cube || word ≥ groupWords g then s
  else
    match s.home? pa with
    | none => s
    | some h =>
      if h.cube ≠ s.cubeid then
        if cube ≠ s.cubeid then s
        else s.sendPacket (s.mkPacket h.cube 2 kContribution pa k (leBytes 4 word ++ leBytes 4 v.toNat))
      else
        let c : Contrib := { group := k, cube := cube, word := word, value := v }
        let began := if s.zen.contribs.any (fun c => c.group == k) then s.zen.epochs else put s.zen.epochs k (groupMembers g)
        ({ s with zen := { s.zen with contribs := s.zen.contribs ++ [c], epochs := began } }).reduce k

/-! ## Requests of other cubes -/

/-- A context of another cube: it holds no tenure of this cube's contexts. -/
def foreignCtx : Nat := 2 ^ 40

/-- What comes of a request at its home. -/
inductive Served where
  /-- performed, with the payload of a response -/
  | ok (reply : List Byte) (s : State)
  /-- read from a line that is poisoned or whose check fails: the response is marked poisoned (R350) -/
  | poisoned (reply : List Byte) (s : State)
  /-- refused -/
  | refused
  /-- homed in another cube by a re-stripe: bounced with the moved status, which names the home -/
  | moved (h : HomeAt)
  /-- it waits: it is not acknowledged, and its source sends it again -/
  | wait

/-- What follows from a state in place of the present one. -/
def Served.map (r : Served) (f : State → State) : Served :=
  match r with
  | .ok b s => .ok b (f s)
  | .poisoned b s => .poisoned b (f s)
  | r => r

/-- The last home of an address in this cube before a re-stripe of its entry (R336), with the entry's image. -/
def State.oldHome? (s : State) (pa : Nat) : Option (HomeAt × Map Word) :=
  ((s.trans.ent, s.trans.old) :: s.trans.olds).findSome? (fun e =>
    let w := fun i => (look e.2 i 0).toNat
    if entryCovers w pa && s.entryOf pa == some e.1 && (entryHome w pa).cube == s.cubeid then some (entryHome w pa, e.2)
    else none)

/-- Whether the forwarding record of an address's granule stands (R335). -/
def State.forwards (s : State) (pa : Nat) : Bool :=
  (s.trans.busy || s.trans.fwd) &&
    s.trans.moved.contains (entryGran (fun i => (look s.trans.old i 0).toNat) pa)

/-- The state with the entry of an address as an image has it. -/
def State.underOld (s : State) (pa : Nat) (old : Map Word) : State :=
  { s with hmap := (List.range 8).foldl (fun m i => put m (8 * (s.entryOf pa).getD 0 + i) (look old i 0)) s.hmap }

/-- A request whose home is, by this cube's map, another cube (R121, R336): bounced while the forwarding
record stands; performed at the old home once RSRET has dropped it; where this cube never was the home, it has
come early to a new home and waits. -/
def State.elsewhere (s : State) (pa : Nat) (h : HomeAt) (g : State → HomeAt → Served) : Served :=
  match s.oldHome? pa with
  | none => .wait
  | some o =>
    if s.forwards pa then .moved h
    else if s.trans.busy then .wait
    else (g (s.underOld pa o.2) o.1).map (fun s1 => { s1 with hmap := s.hmap })

/-- Whether a packet is a request that was bounced and issued again: it goes to the home that the status named. GRP,
which its kind does not use, is 63 in one, and a contribution has more bytes (the model's own layout). -/
def reissued (p : Packet) : Bool := if p.kind = 5 then decide (p.payload.length > 8) else p.grp == 63

/-- Whether a request meets the forwarding record of a granule that has moved between stacks of this cube (R336). -/
def State.movedHere (s : State) (p : Packet) (pa : Nat) (h : HomeAt) : Bool :=
  !reissued p && s.forwards pa && (match s.oldHome? pa with | some o => o.1 != h | none => false)

/-- Runs a request of n bytes at the home of its address, if that is this cube. It waits for the line's
exclusions (R113), for a copy engine that owns the line (R115) and for its sequence (R120). -/
def State.atHome (s : State) (p : Packet) (pa n : Nat) (store : Bool) (g : State → HomeAt → Served) : Served :=
  let run := fun (s : State) (h : HomeAt) =>
    if s.wrap ≠ 0 || s.excluded foreignCtx h.stack pa n store || s.engineOwns (pa / 128) (fun _ => true) ||
        s.seqHeld (pa / 128) then Served.wait
    else g s h
  match s.home? pa with
  | none => .refused
  | some h => if h.cube ≠ s.cubeid then s.elsewhere pa h run else if s.movedHere p pa h then .moved h else run s h

/-- The bytes of a read; a whole line carries its check (R92). -/
def readReply (l : HomeLine) (off n : Nat) : List Byte :=
  leBytes n (getInLine l.data off n) ++
    (if n = 128 then leBytes 4 (crc32c (leBytes 128 l.data.toNat) ^^^ l.syn).toNat else [])

/-- A read: the payload names its length. A line that is poisoned, or whose check fails as it leaves, is
sent marked poisoned (R92, R350). -/
def State.serveRead (s : State) (p : Packet) : Served :=
  let n := (p.payload.headD 0).toNat
  s.atHome p p.pa.toNat n false (fun s h =>
    let s1 := s.recallOwners h.stack (p.pa.toNat / 128)
    let l := s1.lineAt h.loc
    let reply := 0#8 :: readReply l (p.pa.toNat % 128) n
    if l.failure.isSome then .poisoned reply s1 else .ok reply s1)

/-- The error that the check sent with a whole line leaves against its bytes (R92): the 4 bytes after them. -/
def carriedSyn (p : Packet) (data : List Byte) : BitVec 32 :=
  if p.chk && decide (data.length = 132) then
    BitVec.ofNat 32 (leNat (data.drop 128)) ^^^ crc32c (data.take 128)
  else 0#32

/-- A write: a byte mask of 16 bytes, then the data, and the check of a whole line where checks are present (R92,
R374). A write marked poisoned leaves its line poisoned. The home of a reduction window takes whole words of a
member as contributions and refuses anything else (R379). -/
def State.serveWrite (s : State) (p : Packet) (pa : Nat) : Served :=
  let mask := leNat (p.payload.take 16)
  let all := p.payload.drop 16
  let data := if p.chk && decide (all.length = 132) then all.take 128 else all
  s.atHome p pa data.length true (fun s h =>
    match s.windowOf pa with
    | some (g, w) =>
      if groupOpr w = 4 then
        (match s.storeDirect h pa data.length mask (leNat data) with
         | .ok _ s1 => .ok [] (if p.pois then s1.poisonLine pa else s1)
         | _ => .refused)
      else if !wholeWords pa data.length mask || !groupMember w p.scube.toNat then .refused
      else .ok [] ((List.range (data.length / 4)).foldl (fun s i =>
        if bit mask (4 * i) then
          s.contribution g p.scube.toNat ((pa - (w.getD 1 0).toNat / 64 * 64) / 4 + i)
            (BitVec.ofNat 32 (leNat data / 2 ^ (32 * i)))
        else s) s)
    | none =>
      match s.storeDirect h pa data.length mask (leNat data) with
      | .ok _ s1 =>
        let l := s1.lineAt h.loc
        let s2 := s1.setLineAt h.loc { l with syn := if data.length = 128 then l.syn ^^^ carriedSyn p all else l.syn }
        .ok [] (if p.pois then s2.poisonLine pa else s2)
      | _ => .refused)

/-- An atomic: minor opcode, TYPE, operand, expected value. One to a reduction window is refused (R379); the response
of a line that is poisoned or whose check fails is marked poisoned (R350). -/
def State.serveAtomic (s : State) (p : Packet) : Served :=
  let sub := (p.payload.headD 0).toNat
  let ty := (p.payload.getD 1 0).toNat
  let b := leNat ((p.payload.drop 2).take 8)
  let old := leNat ((p.payload.drop 10).take 8)
  let n := tyBytes ty
  s.atHome p p.pa.toNat n true (fun s h =>
    if (s.windowOf p.pa.toNat).any (fun w => groupOpr w.2 != 4) then .refused
    else
    let s1 := s.clearCopies h (p.pa.toNat / 128)
    let l := s1.lineAt h.loc
    let m := getInLine l.data (p.pa.toNat % 128) n
    let reply := 0#8 :: leBytes n m
    if l.failure.isSome then .poisoned reply s1
    else
      match atomicFn sub ty b old m with
      | none => .ok reply s1
      | some (v, _) =>
        (match l.store (p.pa.toNat % 128) n (2 ^ n - 1) v with
         | .ok x => .ok reply (s1.setLineAt h.loc x)
         | .error _ => .refused))

/-- A task packet: the status of R265. A queue without room keeps the packet waiting. -/
def State.serveTask (s : State) (p : Packet) : Served :=
  let ws := (List.range 8).map (fun i => w64 (wordAt p.payload i))
  let lid := leNat ((p.payload.drop 64).take 2)
  let part := leNat ((p.payload.drop 66).take 1)
  match s.home? p.pa.toNat with
  | none => .ok [1#8] s
  | some h =>
    let place := fun (s : State) (h : HomeAt) =>
      match s.taskAnswer part h.stack lid ws with
      | (0, some fi) => Served.ok [0#8] (s.acceptTask fi lid ws)
      | (0, none) => .wait
      | (v, _) => .ok [BitVec.ofNat 8 v] s
    if h.cube ≠ s.cubeid then s.elsewhere p.pa.toNat h place
    else if s.movedHere p p.pa.toNat h then .moved h else place s h

/-- A replica: a direct store at this cube's AUX plus the window offset (R380). -/
def State.serveReplica (s : State) (p : Packet) : Served :=
  let g := look s.zen.groups p.grp.toNat []
  let base := (g.getD 1 0).toNat / 64 * 64
  if !bit (g.getD 0 0).toNat 0 || groupOpr g ≠ 4 || p.pa.toNat < base then .refused
  else s.serveWrite p (bits (g.getD 3 0).toNat 51 3 * 8 + (p.pa.toNat - base))

/-- The SENDT that a packet of a cube with an end-to-end sequence was sent for, and the state without it. -/
def State.claimTask (s : State) (c n : Nat) : Option (TaskOut × State) :=
  (s.zen.tasksOut.find? (fun o => o.cube == c && o.seq == n)).map (fun o =>
    (o, { s with zen := { s.zen with tasksOut := s.zen.tasksOut.erase o } }))

/-- Whether some access or log entry of this cube was sent in a packet. -/
def State.sentFor (s : State) (q : Nat × Nat) : Bool :=
  s.ctxs.any (fun e => e.2.pend.any (fun p => p.e2e.contains q)) ||
  s.cores.any (fun e => e.2.log.any (fun l => l.2.e2e.contains q))

/-- A packet of this cube is reported undeliverable or refused: what it was sent for has the physical-address fault
(R376). -/
def State.lose (s : State) (q : Nat × Nat) : State :=
  if s.sentFor q then
    { s with zen := { s.zen with lost := s.zen.lost ++ [q] } }
  else s

/-- A response of a home, named by the request's sequence, with its status: a SENDT that waits takes it; a request
that was refused fails. -/
def State.takeResponse (s : State) (p : Packet) : State :=
  let n := leNat (p.payload.take 4)
  match s.claimTask p.scube.toNat n with
  | some (o, s1) => s1.answerTo o.tid o.act (p.payload.getD 4 0).toNat
  | none => if p.payload.getD 4 0 = 0x0D#8 then s.lose (p.scube.toNat, n) else s

/-- A home as the moved status names it: cube, stack, channel, channel address (R336). -/
def homeBytes (h : HomeAt) : List Byte := leBytes 1 h.cube ++ leBytes 1 h.stack ++ leBytes 1 h.chan ++ leBytes 8 h.addr

/-- A request of this cube, by its packet, names another one in its place. -/
def State.renamePacket (s : State) (q : Nat × Nat) (r : List (Nat × Nat)) : State :=
  let ren := fun (l : List (Nat × Nat)) => l.flatMap (fun x => if x == q then r else [x])
  { s with
    ctxs := s.ctxs.map (fun e => (e.1, { e.2 with pend := e.2.pend.map (fun p => { p with e2e := ren p.e2e }) }))
    cores := s.cores.map (fun e => (e.1, { e.2 with log := e.2.log.map (fun l => (l.1, { l.2 with e2e := ren l.2.e2e })) })) }

/-- A bounced access, store, contribution or replica goes out again, to the cube that the status names; one whose
home is this cube now is performed here. -/
def State.sendAgain (s : State) (q : Nat × Nat) (c : Nat) (pa : Nat) : State :=
  match s.zen.kept.find? (fun e => e.1 == q) with
  | none => s
  | some e =>
    let k := e.2
    let s1 : State := { s with zen := { s.zen with
      kept := s.zen.kept.erase e, unacked := s.zen.unacked.filter (fun u => (u.cube, u.seq) != q) } }
    if c = s.cubeid then
      let s2 := s1.renamePacket q []
      if k.kind = 5 then
        s2.post (.collectiveContribution k.grp.toNat s.cubeid (leNat (k.payload.take 4)) (BitVec.ofNat 32 (leNat ((k.payload.drop 4).take 4))))
      else s2
    else
      let again : Packet := if k.kind = 5 then { k with payload := k.payload.take 8 ++ leBytes 11 0 } else { k with grp := 63 }
      let (r, s2) := s1.sendNamed { again with dcube := BitVec.ofNat 8 c, pa := BitVec.ofNat 52 pa }
      s2.renamePacket q [r]

/-- A request that was bounced is issued again by its requester, to the home that the status names
(R121). -/
def State.takeMoved (s : State) (p : Packet) : State :=
  match s.claimTask p.scube.toNat (leNat (p.payload.take 4)) with
  | none => s.sendAgain (p.scube.toNat, leNat (p.payload.take 4)) (p.payload.getD 4 0).toNat p.pa.toNat
  | some (o, s1) =>
    let c := (p.payload.getD 4 0).toNat
    if c = s.cubeid then
      { s1 with sched := { s1.sched with sendts := s1.sched.sendts ++
        [{ tid := o.tid, act := o.act, part := s1.partOf o.tid, stack := (p.payload.getD 5 0).toNat % 4, lid := o.lid,
           words := o.words }] } }
    else if s1.reachable c then s1.sendTask o.tid o.act c o.pa o.lid o.words true
    else s1.answerTo o.tid o.act 5

/-- A contribution at its home: it is taken as one event; that of a cube which is no member, or for a word that the
window does not have, is refused (R379), and one for a granule that has moved is bounced (R336). -/
def State.serveContribution (s : State) (p : Packet) : Served :=
  let g := look s.zen.groups p.grp.toNat []
  let word := leNat (p.payload.take 4)
  let pa := (g.getD 1 0).toNat / 64 * 64 + 4 * word
  if !bit (g.getD 0 0).toNat 0 || groupOpr g = 4 || !groupMember g p.scube.toNat || word ≥ groupWords g then .refused
  else
    let take := fun (s : State) (_ : HomeAt) =>
      Served.ok [] (s.contribution p.grp.toNat p.scube.toNat word (BitVec.ofNat 32 (leNat ((p.payload.drop 4).take 4))))
    match s.home? pa with
    | none => .refused
    | some h =>
      if h.cube ≠ s.cubeid then s.elsewhere pa h take else if s.movedHere p pa h then .moved h else take s h

/-- A packet to this cube that is neither an acknowledgement nor a duplicate. -/
def State.serve (s : State) (p : Packet) : Served :=
  match p.kind.toNat with
  | 0 => s.serveRead p
  | 1 => s.serveWrite p p.pa.toNat
  | 2 => s.serveAtomic p
  | 3 => .ok [] (s.takeResponse p)
  | 4 => s.serveTask p
  | 5 => s.serveContribution p
  | 6 => s.serveReplica p
  | 7 => .ok [] (s.beacon (BitVec.ofNat 40 (leNat (p.payload.take 5))) (BitVec.ofNat 8 (leNat ((p.payload.drop 5).take 1))))
  | 8 => .ok [] (s.takeMoved p)
  | _ => .ok [] s

/-- The acknowledgement of an end-to-end sequence. -/
def State.ackPacket (s : State) (p : Packet) : State :=
  s.forward { s.mkPacket p.scube.toNat 0 kAck 0 0 [] with e2e := p.e2e } false

/-- The response to a request; that of a whole line carries the line's check. -/
def State.respond (s : State) (p : Packet) (kind : Nat) (payload : List Byte) (pois : Bool) : State :=
  let r := s.mkPacket p.scube.toNat 0 kind p.pa.toNat 0 (leBytes 4 p.e2e.toNat ++ payload)
  s.sendPacket { r with pois := pois, chk := p.kind == 0 && kind == kResponse && decide (payload.length = 133) }

/-- Whether a kind asks for a response. -/
def asksReply (p : Packet) : Bool := p.kind == 0 || p.kind == 2 || p.kind == 4

/-- Whether a packet of a cube must wait behind an earlier one that has not been performed, be it lost or put off:
classes O and T are delivered in issue order, on resend too (R377). It is not acknowledged, and its source
sends it again. -/
def State.behind (s : State) (p : Packet) : Bool := p.cls != 1 && p.e2e.toNat != look s.zen.rxNext p.scube.toNat 0

/-- The first sequence from n on that is not among those performed. -/
def nextE2e (seen : List Nat) (n : Nat) : Nat → Nat
  | 0 => n
  | k + 1 => if seen.contains n then nextE2e seen ((n + 1) % 2 ^ 16) k else n

/-- Performs a packet once and acknowledges it (R376). -/
def State.perform1 (s : State) (p : Packet) : State :=
  let c := p.scube.toNat
  let seen := look s.zen.acked c []
  let now := (p.e2e.toNat :: seen).take (2 ^ 15)
  let note := fun (s : State) =>
    ({ s with zen := { s.zen with
      acked := put s.zen.acked c now
      rxNext := put s.zen.rxNext c (nextE2e now (look s.zen.rxNext c 0) now.length) } }).ackPacket p
  if p.kind = 10 then
    { s with zen := { s.zen with unacked := s.zen.unacked.filter (fun e => !(e.cube == c && e.seq == p.e2e.toNat)) } }
  else if seen.contains p.e2e.toNat then s.ackPacket p
  else if s.behind p then s
  else
    match s.serve p with
    | .ok reply s1 => (if asksReply p then s1.respond p kResponse reply false else s1) |> note
    | .poisoned reply s1 => note (s1.respond p kResponse reply true)
    | .refused => note (s.respond p kResponse [0x0D#8] false)
    | .moved h => note (s.respond p kMoved (homeBytes h) false)
    | .wait => s

/-- PACKET_RECEIVE: reserved values are dropped and counted; a packet for another cube goes on. -/
def State.packetReceive (s : State) (k : Nat) (p : Packet) : State :=
  if p.cls = 3 || p.kind.toNat > 10 then s.countDrop k
  else if p.dcube.toNat ≠ s.cubeid then
    match s.route? p.dcube.toNat false with
    | some l => s.sendOn l p
    | none => s.countDrop k
  else s.perform1 p

/-! ## Flits (R375) -/

def State.modLink (s : State) (k : Nat) (g : Link → Link) : State :=
  { s with zen := { s.zen with links := put s.zen.links k (g (look s.zen.links k {})) } }

/-- Bytes of a flit's payload. -/
def flitBytes (v : BitVec 448) : List Byte := leBytes 56 v.toNat

/-- Flits of the packet whose first payload is given. -/
def flitCount (v : BitVec 448) : Nat := bits v.toNat 25 22 + 1

/-- A packet from its payload bytes. -/
def packetOf (bs : List Byte) : Packet :=
  let w0 := wordAt bs 0
  let w1 := wordAt bs 1
  { dcube := BitVec.ofNat 8 w0, scube := BitVec.ofNat 8 (w0 / 2 ^ 8), cls := BitVec.ofNat 2 (w0 / 2 ^ 16),
    kind := BitVec.ofNat 4 (w0 / 2 ^ 18), flits := BitVec.ofNat 4 (w0 / 2 ^ 22), grp := BitVec.ofNat 6 (w0 / 2 ^ 26),
    e2e := BitVec.ofNat 16 (w0 / 2 ^ 32), pa := BitVec.ofNat 52 w1, pois := bit w1 52, chk := bit w1 53,
    payload := (bs.drop 18).take (leNat ((bs.drop 16).take 2)) }

/-- Whether a flit's trailer holds the check of its bytes. -/
def flitOk (f : Vec) : Bool :=
  (f.extractLsb' 480 32) == crc32c (leBytes 60 (f.extractLsb' 0 480).toNat)

/-- How far a sequence lies ahead of another one; half of the numbers lie behind. -/
def seqAhead (a b : BitVec 12) : Nat := (a - b).toNat

/-- A flit that a link cannot take causes a go-back replay. While one is asked for, flits that were sent before it
began still come, each ahead of the last one; one that fails its check, or a sequence that comes a second time and is
still ahead of the one expected, shows that the replay has failed. After eight failed in a row the link retrains (R375). -/
def Link.refuseFlit (l : Link) (ok : Bool) (seq : BitVec 12) : Link :=
  let fail := fun (hi : BitVec 12) =>
    if l.fails ≥ 7 then { l with fails := 0, hiSeq := none, training := true }
    else { l with replc := l.replc + 1, fails := l.fails + 1, hiSeq := some hi }
  match l.hiSeq with
  | none => { l with replc := l.replc + 1, hiSeq := some (if ok then seq else l.rxSeq) }
  | some hi =>
    if !ok then fail l.rxSeq
    else if seqAhead seq l.rxSeq > seqAhead hi l.rxSeq then { l with hiSeq := some seq }
    else fail seq

/-- FLIT_RECEIVE: a failed check or a gap in the sequence causes a replay; a flit that came before is dropped. What the
flit acknowledges leaves the replay buffer; one that repeats an acknowledgement may ask for a replay, which the
manual does not tell from one that does not. A packet is received with its last flit. -/
def State.flitReceive (s : State) (k : Nat) (f : Vec) : State :=
  let l := look s.zen.links k {}
  let seq := f.extractLsb' 468 12
  if !l.up || l.training || !bit l.lctl 0 then s
  else if !flitOk f then s.modLink k (fun l => l.refuseFlit false seq)
  else if seqAhead seq l.rxSeq ≥ 2 ^ 11 then s
  else if seq != l.rxSeq then s.modLink k (fun l => l.refuseFlit true seq)
  else
    let ps := l.part ++ [f.extractLsb' 0 448]
    let whole := decide (ps.length ≥ flitCount (ps.headD 0))
    let ack := f.extractLsb' 456 12
    let (n, s0) := s.tick
    let asks := ack == l.txAck && Config.evict n
    let s1 := s0.modLink k (fun l =>
      { l with rxSeq := l.rxSeq + 1, fails := 0, hiSeq := none, txAck := ack, part := if whole then [] else ps,
               replay := l.replay.drop (ack - l.txAck).toNat,
               wire := if asks then l.wire ++ l.replay else l.wire }.pump l.queue.length)
    if whole then s1.packetReceive k (packetOf (ps.flatMap flitBytes)) else s1

/-- LINK_TRAINING: a link that comes up starts its sequences; one that retrains sends again what is not
acknowledged; each sends its CUBEID. One that fails goes down, and its routes fail over (R375). -/
def State.linkTrain (s : State) (k : Nat) (up : Bool) (nbr : BitVec 8) : State :=
  s.modLink k (fun l =>
    if up && l.up then
      { l with nbr := nbr.toNat, fails := 0, hiSeq := none, training := false, idSent := s.cubeid,
               wire := l.wire ++ l.replay }
    else
      { l with up := up, nbr := if up then nbr.toNat else 0, fails := 0, training := false,
               idSent := if up then s.cubeid else l.idSent, part := [], hiSeq := none, rxSeq := 0, txSeq := 0, txAck := 0, replay := [],
               queue := [] })

/-- E2E_TIMEOUT: 20 µs without an acknowledgement; after 8 resends the cube is reported unreachable: a SENDT that
waits takes status 5, an access or a posted store the physical-address fault. -/
def State.e2eTimeout (s : State) (c n : Nat) : State :=
  match s.zen.unacked.find? (fun e => e.cube == c && e.seq == n) with
  | none => s
  | some e =>
    if e.sentAt + 40000 > s.time then s
    else
      let others := s.zen.unacked.filter (fun x => x != e)
      if e.tries < 8 then
        let e' := { e with tries := e.tries + 1, sentAt := s.time }
        ({ s with zen := { s.zen with unacked := others ++ [e'] } }).forward e.packet true
      else
        let s1 : State := { s with zen := { s.zen with unacked := others } }
        match s1.claimTask c n with
        | some (o, s2) => s2.answerTo o.tid o.act 5
        | none => s1.lose (c, n)

/-! ## PCIe (R373) -/

/-- Inbound bytes inside one line: four that fall on an interrupt file are an MSI (R366, R373); others are
written at home, where a whole line gets a fresh check and a partial write updates the old one (R92), and the
tags of their granules are cleared; a home that does not take them keeps what it has. -/
def State.pcieLine (s : State) (pa : Nat) (bs : List Byte) : State :=
  match if bs.length = 4 then Config.imsicAt pa else none with
  | some f =>
    let id := leNat bs
    if id = 0 || id > 2047 || f % 16 > 8 then s else s.deliverMsi (f / 16 % 16) (f % 16) id
  | none => (s.hubWrite pa bs.length (leNat bs)).getD s

/-- Where an inbound address falls in the page that the IOMMU names. -/
def inPage (page addr : Word) : Nat := page.toNat / 4096 * 4096 + addr.toNat % 4096

/-- Inbound bytes, line by line; each line is translated. -/
def State.pcieLines (s : State) (k : Nat) (addr : Word) (bs : List Byte) : Nat → State
  | 0 => s
  | fuel + 1 =>
    if bs.isEmpty then s
    else
      let n := Nat.min (128 - addr.toNat % 128) bs.length
      let s1 := match Config.iommu k addr 1 with
        | none => s
        | some page => s.pcieLine (inPage page addr) (bs.take n)
      s1.pcieLines k (addr + w64 n) (bs.drop n) fuel

/-- PCIE_INBOUND_WRITE: translated by the IOMMU. -/
def State.pcieWrite (s0 : State) (addr : Word) (bs : List Byte) : State :=
  let (k, s) := s0.tick
  s.pcieLines k addr bs bs.length

/-- The first n bytes from an inbound address on, each translated, and whether one of them is poisoned. -/
def State.pcieBytes (s : State) (k : Nat) (addr : Word) : Nat → List Byte × Bool × State
  | 0 => ([], false, s)
  | n + 1 =>
    let (bs, bad, s1) := s.pcieBytes k addr n
    match Config.iommu k (addr + BitVec.ofNat 64 n) 0 with
    | none => (bs ++ [0xFF#8], bad, s1)
    | some page =>
      match s1.hubRead (inPage page (addr + BitVec.ofNat 64 n)) 1 with
      | some (v, s2) => (bs ++ [BitVec.ofNat 8 v], bad, s2)
      | none => (bs ++ [0#8], true, s1)

/-- PCIE_INBOUND_READ: the completion holds the bytes, marked poisoned where a line is. -/
def State.pcieRead (s0 : State) (addr : Word) (n : Nat) : State :=
  let (k, s) := s0.tick
  let (bs, bad, s1) := s.pcieBytes k addr n
  { s1 with zen := { s1.zen with pcieOut := s1.zen.pcieOut ++ [(addr, bs, bad)] } }

/-- PCIE_HOT_PLUG: presence, attention and power of a slot. -/
def State.hotPlug (s : State) (k : Nat) (a b c : Bool) : State :=
  { s with zen := { s.zen with pcie := put s.zen.pcie k (a, b, c) } }

/-! ## Replies of the service queue (R285, R372) -/

/-- RPLCTL: the reply words go to the slot that the request reserved. -/
def State.reply (s : State) (p : Nat) (v : Word) : State :=
  let x := s.part p
  let seq := bits v.toNat 31 0
  let n := bits v.toNat 35 32 + 1
  match x.outst.find? (fun o => o.1 == seq) with
  | none => s.modPart p (fun x => { x with rplErr := true })
  | some (_, t, a, q, k) =>
    let s1 := s.modPart p (fun x => { x with outst := x.outst.filter (fun o => o.1 != seq) })
    let m := (s1.core (coreOf t)).msg q k
    if (s1.ctx t).act == a && (s1.ctx t).st != .free && m.st == .reply t a 0 then
      let words := (List.range n).map (fun i => look x.rplw i 0)
      let m' : MsgSlot := { sender := BitVec.ofNat 32 (s1.ctxName t), n := n, words := words }
      (s1.queueMsg (coreOf t) q k m').wakeArrival t (w64 (2 ^ 63))
    else s1.modPart p (fun x => { x with rplGone := true })

/-! ## The meanings -/

def execCollectiveContribution (k c w : Nat) (v : BitVec 32) (s : State) : Host.Outcome State Fault Refusal :=
  .next (s.contribution k c w v)
def execPacketReceive (k : Nat) (p : Packet) (s : State) : Host.Outcome State Fault Refusal := .next (s.packetReceive k p)
def execFlitReceive (k : Nat) (f : Vec) (s : State) : Host.Outcome State Fault Refusal := .next (s.flitReceive k f)
def execLinkTraining (k : Nat) (up : Bool) (n : BitVec 8) (s : State) : Host.Outcome State Fault Refusal :=
  .next (s.linkTrain k up n)
def execE2eTimeout (c : BitVec 8) (n : BitVec 16) (s : State) : Host.Outcome State Fault Refusal :=
  .next (s.e2eTimeout c.toNat n.toNat)
def execPcieInboundWrite (a : Word) (bs : List Byte) (s : State) : Host.Outcome State Fault Refusal := .next (s.pcieWrite a bs)
def execPcieInboundRead (a : Word) (n : Nat) (s : State) : Host.Outcome State Fault Refusal := .next (s.pcieRead a n)
def execPcieHotPlug (k : Nat) (a b c : Bool) (s : State) : Host.Outcome State Fault Refusal := .next (s.hotPlug k a b c)
def execRplctl (p : Nat) (v : Word) (s : State) : Host.Outcome State Fault Refusal := .next (s.reply p v)

end Sys2Proof.Machine
end

