-- ==== Sys2Proof/Machine/Boot.lean ====
section
/-! DEFINITION. Reset (R394, R395), the boot ROM (R396), measurements and reports (R393, R397), loss
of the supplies and the thermal trip (R398, R399). -/

namespace Sys2Proof.Machine

open Sys2Proof

/-! ## Where this cube's bytes stand -/

/-- The cube that a location belongs to. -/
def locCube (a : Nat) : Nat := if a < 2 ^ 48 then a / 2 ^ 40 else a / 2 ^ 36 % 2 ^ 12

/-- The location of the same byte when its cube has another number. -/
def locFor (a c : Nat) : Nat :=
  if a < 2 ^ 48 then c * 2 ^ 40 + a % 2 ^ 40 else a / 2 ^ 48 * 2 ^ 48 + c * 2 ^ 36 + a % 2 ^ 36

/-- A table of units of u bytes after this cube has taken another number. -/
def renumberMap {α : Type} (u a b : Nat) (m : Map α) : Map α :=
  m.foldl (fun (r : Map α) (e : Nat × α) =>
    let c := locCube (e.1 * u)
    if c = a then put r (locFor (e.1 * u) b / u) e.2 else if c = b then r else put r e.1 e.2) []

/-- The poison table, whose keys count lines in DRAM and words in vaults. -/
def renumberBad (a b : Nat) (m : Map Bool) : Map Bool :=
  renumberMap 128 a b (m.filter (fun e => decide (e.1 * 128 < 2 ^ 48))) ++
    renumberMap 8 a b (m.filter (fun e => !decide (e.1 * 128 < 2 ^ 48)))

/-- This cube takes the number n: its bytes keep their values, and what was kept under n is no longer
another cube's. -/
def State.renumber (s : State) (n : Nat) : State :=
  if n = s.cubeid then s
  else
    let a := s.cubeid
    { s with
      cubeid := n
      mem := s.mem.foldl (fun (m : Memory) (e : Host.Cell) =>
        let c := locCube e.1
        if c = a then m.set (locFor e.1 n) e.2 else if c = n then m else m.set e.1 e.2) []
      syn := renumberMap 128 a n s.syn
      tags := renumberMap 128 a n s.tags
      bad := renumberBad a n s.bad
      -- each neighbour is told (R375)
      zen := { s.zen with links := s.zen.links.map (fun (e : Nat × Link) =>
        (e.1, if e.2.up then { e.2 with idSent := n } else e.2)) } }

/-! ## Reset (R394) -/

/-- Whether a location is DRAM of a cube. -/
def dramOf (c a : Nat) : Bool := decide (a < 2 ^ 48) && locCube a == c

/-- Memory after a reset: vaults and scratch are zeroed, DRAM of this cube too unless it is kept. -/
def State.resetMemory (s : State) (keep : Bool) : State :=
  let stays := fun (u : Nat) (k : Nat) =>
    decide (k * u < 2 ^ 48) && (keep || locCube (k * u) != s.cubeid)
  { s with
    mem := s.mem.filter (fun e => stays 1 e.1)
    syn := s.syn.filter (fun e => stays 128 e.1)
    tags := s.tags.filter (fun e => stays 128 e.1)
    bad := s.bad.filter (fun e => stays 128 e.1) }

/-- Everything but memory at its reset value; the sensors, the burnt rollback counter and the model's
own counter of free values stay. -/
def State.clean (s : State) (b : Boot) (harts : Map Hart) (turn : Option Turn) : State :=
  { State.reset with
    turn := turn
    free := s.free
    mem := s.mem
    syn := s.syn
    bad := s.bad
    tags := s.tags
    mer := { temp := s.mer.temp, hot := decide (s.mer.temp ≥ 95) }
    zen := { harts := harts }
    boot := b }

/-- The home map after a reset: a write of RSTCTL during a re-stripe leaves it as it is (R395). -/
def State.hmapKept (s : State) (cause : Nat) : Map Word :=
  if s.trans.busy && (cause == 1 || cause == 2) then s.hmap else []

/-- A reset of the cube with a cause. A spare map that fails its check halts it at step 2. -/
def State.resetCube (s : State) (cause : Nat) : State :=
  let s1 := (s.resetMemory (cause == 1)).renumber 0
  let b : Boot := { rcause := cause, rbcnt := s.boot.rbcnt, tripN := cause == 3 }
  let s2 :=
    if (List.range 1024).all Config.spareMapOk then s1.clean b [(0, { running := true })] (some (.hart 0))
    else s1.clean { b with phase := .halted, fail := 1 } [] none
  { s2 with hmap := s.hmapKept cause }

/-- POWER_LOSS: the rails fall. DRAM loses its contents at the next reset. -/
def State.powerLoss (s : State) : State :=
  s.clean { phase := .off, rbcnt := s.boot.rbcnt } [] none

/-- THERMTRIP: 115 °C at a sensor asserts THERMTRIP_N; reset follows. -/
def State.thermtrip (s : State) : State := if s.mer.temp ≥ 115 then s.resetCube 3 else s

/-! ## The boot ROM (R396) -/

/-- The rollback counter: the fused one, burnt forward. -/
def State.rbCount (s : State) : Nat := Nat.max (Config.fusedRollback % 256) s.boot.rbcnt

/-- Bytes [o, o + n) of an image slot in the boot flash. -/
def flashBytes (slot o n : Nat) : List Byte := (List.range n).map (fun i => Config.flash slot (o + i))

/-- The number that a field of a slot's header holds. -/
def headerNum (slot field n : Nat) : Nat := leNat (flashBytes slot (Config.headerLayout field) n)

/-- The bytes of a header, of its signature and of its body. -/
def imageHeader (slot : Nat) : List Byte := flashBytes slot 0 (Config.headerLayout 5)
def imageSignature (slot : Nat) : List Byte := flashBytes slot (Config.headerLayout 5) 7856
def imageBody (slot : Nat) : List Byte := flashBytes slot (Config.headerLayout 5 + 7856) (headerNum slot 1 8)

/-- The bits of FAIL that a slot sets. -/
def State.slotFail (s : State) (slot : Nat) : Nat :=
  let key := flashBytes slot (Config.headerLayout 4) 32
  (if sha256 key = (List.range 32).map Config.keyHash then 0 else 2) +
  (if Config.slhVerify key (imageHeader slot) (imageSignature slot) then 0 else 4) +
  (if sha256 (imageBody slot) = flashBytes slot (Config.headerLayout 3) 32 then 0 else 8) +
  (if headerNum slot 0 1 ≥ s.rbCount then 0 else 16)

/-- Bytes put into the Zenith cache from a line on. -/
def State.cacheBytes (s : State) (line : Nat) (bs : List Byte) : State :=
  (List.range ((bs.length + 127) / 128)).foldl (fun s i =>
    let l : L2Line := { st := .o, dirty := true, data := lineOf ((bs.drop (128 * i)).take 128), tags := 0, mark := false, exp := 0,
                        high := false, syn := 0, bad := false }
    { s with zen := { s.zen with cache := put s.zen.cache (line + i) l } }) s

/-- A slot is accepted: MEAS0, SLOT, the body in the Zenith cache, DONE, and the jump in M-mode. -/
def State.bootSlot (s : State) (slot : Nat) : State :=
  let base := Config.headerLayout 6 / 128 * 128
  let s1 := s.cacheBytes (base / 128) (imageBody slot)
  ({ s1 with boot := { s1.boot with
      phase := .done, fail := 0, slot := slot, done := true, rbidx := headerNum slot 0 1
      meas0 := BitVec.ofNat 256 (leNat (sha256 (imageHeader slot))) } }).setHart 0
    { s.hart 0 with mode := .m, pc := w64 (base + headerNum slot 2 8) }

/-- The boot ROM, as hart 0 runs it: slot 0, then slot 1. -/
def State.bootRom (s : State) : State :=
  if s.slotFail 0 = 0 then s.bootSlot 0
  else if s.slotFail 1 = 0 then s.bootSlot 1
  else
    ({ s with boot := { s.boot with phase := .failed, fail := s.slotFail 1, errorN := true } }).setHart 0
      { s.hart 0 with running := false }

/-! ## Measurements and reports (R393, R397) -/

/-- The bytes of a measurement register. -/
def measBytes (v : BitVec 256) : List Byte := leBytes 32 v.toNat

/-- RBADV. -/
def State.rbadv (s : State) (v : Nat) : State :=
  if v > s.rbCount && v ≤ s.boot.rbidx then { s with boot := { s.boot with rbcnt := v } } else s

/-- One extension of MEAS1. -/
def State.extend (s : State) (v : BitVec 256) : State :=
  { s with boot := { s.boot with
      meas1 := BitVec.ofNat 256 (leNat (sha256 (measBytes s.boot.meas1 ++ measBytes v))) } }

/-- MEXT: it waits while a report is signed. -/
def State.mext (s : State) (v : BitVec 256) : State :=
  if s.boot.atbusy then { s with boot := { s.boot with mextQ := s.boot.mextQ ++ [v] } } else s.extend v

/-- ATBUSY written 1: refused while a report is being signed or with a buffer not homed in stack 0. -/
def State.startReport (s : State) : State :=
  let home : Bool := match s.home? s.boot.ataddr.toNat with
    | some h => h.cube == s.cubeid && h.stack == 0 && paSpace s.boot.ataddr.toNat < 0xE
    | none => false
  if s.boot.atbusy || !home then { s with boot := { s.boot with aterr := true } }
  else { s with boot := { s.boot with atbusy := true, atat := s.boot.ataddr } }

/-- The device key pair's seed and public key. -/
def deviceSeed : List Byte := (List.range 48).map Config.seed
def deviceKey : List Byte := leBytes 32 (Config.slhPublicKey deviceSeed).toNat

/-- Bytes 32 to 135 of a report. -/
def State.reportBody (s : State) : List Byte :=
  measBytes s.boot.meas0 ++ measBytes s.boot.meas1 ++
    [BitVec.ofNat 8 s.rbCount, BitVec.ofNat 8 s.boot.slot, BitVec.ofNat 8 s.boot.rcause, BitVec.ofNat 8 s.cubeid] ++
    List.replicate 4 0#8 ++ deviceKey

/-- REPORT_SIGNED: the report's contents, key and signature are written, and the extensions that waited are
made. A buffer that cannot be read or written refuses the report. -/
def State.reportSigned (s : State) : State :=
  if !s.boot.atbusy then s
  else
    let a := s.boot.atat.toNat
    let s1 : State := match s.snapRead a 32 with
      | .ok (nonce, s1) =>
        let body := s1.reportBody
        (match s1.snapWrite (a + 32) (body ++ leBytes 7856 (Config.slhSign deviceSeed (nonce ++ body)).toNat) with
         | (true, s2) => s2
         | (false, s2) => { s2 with boot := { s2.boot with aterr := true } })
      | .error _ => { s with boot := { s.boot with aterr := true } }
    s1.boot.mextQ.foldl State.extend { s1 with boot := { s1.boot with atbusy := false, mextQ := [] } }

/-! ## The meanings -/

def execPowerOnReset (s : State) : Host.Outcome State Fault Refusal := .next (s.resetCube 0)
def execResetN (s : State) : Host.Outcome State Fault Refusal := .next (s.resetCube 4)
def execRstctlWarm (s : State) : Host.Outcome State Fault Refusal := .next (s.resetCube 1)
def execRstctlCold (s : State) : Host.Outcome State Fault Refusal := .next (s.resetCube 2)
def execPowerLoss (s : State) : Host.Outcome State Fault Refusal := .next s.powerLoss
def execThermtrip (s : State) : Host.Outcome State Fault Refusal := .next s.thermtrip
def execRbadv (v : BitVec 8) (s : State) : Host.Outcome State Fault Refusal := .next (s.rbadv v.toNat)
def execMext (v : BitVec 256) (s : State) : Host.Outcome State Fault Refusal := .next (s.mext v)
def execAtbusy (s : State) : Host.Outcome State Fault Refusal := .next s.startReport
def execReportSigned (s : State) : Host.Outcome State Fault Refusal := .next s.reportSigned

end Sys2Proof.Machine
end

