-- ==== Sys2Proof/Machine/Control.lean ====
section
/-! DEFINITION. Control: OP 0x08 (R183 to R190). -/

namespace Sys2Proof.Machine

open Sys2Proof

/-- `br label` (R183). -/
def bodyBr (f : Fields) : M Ctl := do
  let x ← getCtx
  pure (.jump (relPc x.pc f.imm.toInt))

/-- `brx a`: the value is used exactly as given. -/
def bodyBrx (f : Fields) : M Ctl := do
  let x ← getCtx
  let t ← rd64 x f.imm f.sa
  pure (.jump t)

/-- The frame size in SB (R184). -/
def frameSize (f : Fields) : Nat := 8 * (f.sb.toNat % 8)

/-- Moves the window forward and writes the link in the callee's window (R184). -/
def callTo (f : Fields) (target : Word) : M Ctl := do
  let x ← getCtx
  let wb := x.wb + frameSize f - 8
  needOp (wb ≤ 456)
  modCtx (fun y => { y with wb := wb }.setX f.dst.toNat (nextPc x.pc))
  pure (.goto target)

def bodyCall (f : Fields) : M Ctl := do
  let x ← getCtx
  callTo f (relPc x.pc f.imm.toInt)

def bodyCallx (f : Fields) : M Ctl := do
  let x ← getCtx
  let t ← rd64 x f.imm f.sa
  callTo f t

/-- `ret a, F` (R185). -/
def bodyRet (f : Fields) : M Ctl := do
  let x ← getCtx
  let t ← rd64 x f.imm f.sa
  needOp (x.wb ≥ frameSize f - 8)
  modCtx (fun y => { y with wb := x.wb - (frameSize f - 8) })
  pure (.jump t)

/-- LOOP and LOOPX with a count (R186). -/
def loopOn (f : Fields) (count : Nat) : M Ctl := do
  let x ← getCtx
  let e : Int := bits f.imm.toNat 15 0
  if count = 0 then pure (.jump (relPc x.pc (e + 1)))
  else
    needOp (x.loops.length < 2)
    modCtx (fun y => { y with loops := y.loops ++
      [{ start := nextPc x.pc, stop := relPc x.pc e, rem := count, atS := x.sup }] })
    pure .seq

def bodyLoop (f : Fields) : M Ctl := loopOn f (bits f.imm.toNat 31 16)

def bodyLoopx (f : Fields) : M Ctl := do
  let x ← getCtx
  let c ← rd64 x f.imm f.sa
  loopOn f c.toNat

/-- NOP has no effect apart from issuing (R190). -/
def bodyNop (_ : Fields) : M Ctl := pure .seq

/-- YIELD: waits as WAITL does, then gives its slot to a ready context whose slot priority is not
below its own priority (R190). -/
def bodyYield (_ : Fields) : M Ctl := do
  landAll
  let me ← ask State.cur
  let x ← getCtx
  let other ← ask (fun s => (ctxsOf (coreOf me)).any (fun t =>
    (s.ctx t).st == .ready && decide ((s.ctx t).slotPri ≥ x.pri)))
  if other then act (fun s => s.toReady me)
  pure .seq

def bodyWaitl (_ : Fields) : M Ctl := do
  landAll
  pure .seq

/-! ## The meanings -/

def execBr (f : Fields) (s : State) : Host.Outcome State Fault Refusal := issue .br bodyBr f s
def execBrx (f : Fields) (s : State) : Host.Outcome State Fault Refusal := issue .brx bodyBrx f s
def execCall (f : Fields) (s : State) : Host.Outcome State Fault Refusal := issue .call bodyCall f s
def execCallx (f : Fields) (s : State) : Host.Outcome State Fault Refusal := issue .callx bodyCallx f s
def execRet (f : Fields) (s : State) : Host.Outcome State Fault Refusal := issue .ret bodyRet f s
def execLoop (f : Fields) (s : State) : Host.Outcome State Fault Refusal := issue .loop bodyLoop f s
def execLoopx (f : Fields) (s : State) : Host.Outcome State Fault Refusal := issue .loopx bodyLoopx f s
def execNop (f : Fields) (s : State) : Host.Outcome State Fault Refusal := issue .nop bodyNop f s
def execYield (f : Fields) (s : State) : Host.Outcome State Fault Refusal := issue .yield bodyYield f s
def execWaitl (f : Fields) (s : State) : Host.Outcome State Fault Refusal := issue .waitl bodyWaitl f s

end Sys2Proof.Machine
end

