-- ==== Sys2Proof/Machine/Registers.lean ====
section
/-! DEFINITION. The control aperture of the Zenith complex (R299): every register window, read and
written by its Access column (R5). -/

namespace Sys2Proof.Machine

open Sys2Proof

/-! ## Where a register lies -/

/-- A register, by the window that holds it. -/
inductive Reg where
  /-- context register n of the context that a core selects (R299) -/
  | ctx (core n : Nat)
  | core (core n : Nat)
  | field (fi n : Nat)
  | cube (n : Nat)
  /-- trap window of a field: offset (R345) -/
  | trap (fi off : Nat)
  /-- scheduler, translation, arbiter, boot windows: offset (R308, R325, R354, R393) -/
  | sched (off : Nat)
  | trans (off : Nat)
  | mer (off : Nat)
  | boot (off : Nat)
  /-- Eclipse of a partition: offset (R351) -/
  | eclipse (p off : Nat)
  /-- the parts of the Zenith window (chapter 20) -/
  | irt (i : Nat)
  | svq (p off : Nat)
  | link (k off : Nat)
  | route (c : Nat)
  | group (g w : Nat)
  | timer (fi : Nat)
  /-- snapshot engine of a stack: offset (R382) -/
  | snap (k off : Nat)
  deriving DecidableEq, Repr

/-- Whether a field register number is assigned (R300). -/
def fieldRegOk (n : Nat) : Bool :=
  (decide (0x200 ≤ n) && decide (n ≤ 0x205)) || (decide (0x300 ≤ n) && decide (n ≤ 0x304)) ||
    (decide (0x340 ≤ n) && decide (n ≤ 0x37F))

/-- A register of a field's 1 MiB area. -/
def fieldArea (fi o : Nat) : Option Reg :=
  if o < 0x40000 then (if fieldRegOk (o / 8) then some (.field fi (o / 8)) else none)
  else if o < 0x80000 then
    (if o - 0x40000 < 0x1000 || (decide (0x41000 ≤ o) && decide (o ≤ 0x41028)) then some (.trap fi (o - 0x40000)) else none)
  else
    let core := fi * 1024 + (o - 0x80000) / 512
    let n := o % 512 / 8
    if n < 5 then some (.ctx core n)
    else if 0x20 ≤ n ∧ n < 0x24 then some (.core core (0x100 + n - 0x20))
    else none

/-- A register of the Zenith window. -/
def zenithArea (o : Nat) : Option Reg :=
  if o < 0x10000 then (if 1 ≤ o / 8 ∧ o / 8 ≤ 4095 then some (.irt (o / 8)) else none)
  else if o < 0x20000 then
    let p := (o - 0x10000) / 256
    let r := o % 256
    if p < 64 ∧ (r ≤ 0x30 ∨ 0x80 ≤ r) then some (.svq p r) else none
  else if o < 0x30000 then
    let k := (o - 0x20000) / 256
    if k < 16 ∧ o % 256 ≤ 0x18 then some (.link k (o % 256)) else none
  else if o < 0x40000 then (if (o - 0x30000) / 8 < 256 then some (.route ((o - 0x30000) / 8)) else none)
  else if o < 0x50000 then
    (if (o - 0x40000) / 64 < 16 then some (.group ((o - 0x40000) / 64) (o % 64 / 8)) else none)
  else if (o - 0x50000) / 8 < 1024 then some (.timer ((o - 0x50000) / 8))
  else none

/-- The register at an offset of the control aperture. -/
def regAt (o : Nat) : Option Reg :=
  if o < 2 ^ 30 then fieldArea (o / 2 ^ 20) (o % 2 ^ 20)
  else if o < 2 ^ 31 then
    let n := (o - 2 ^ 30) / 8
    if (0x400 ≤ n ∧ n ≤ 0x402) ∨ (0x800 ≤ n ∧ n ≤ 0x9FF) then some (.cube n) else none
  else if o < 2 ^ 32 then
    let r := o - 2 ^ 31
    if r ≤ 0x50 ∨ (0x80 ≤ r ∧ r < 0xC0) ∨ (0x100 ≤ r ∧ r < 0x180) then some (.sched r) else none
  else if o < 2 ^ 33 then (if o - 2 ^ 32 < 0x80 then some (.trans (o - 2 ^ 32)) else none)
  else if o < 2 ^ 34 then
    let r := o - 2 ^ 33
    if r < 4096 ∧ r % 64 ≤ 0x10 then some (.eclipse (r / 64) (r % 64)) else none
  else if o < 2 ^ 35 then
    let r := o - 2 ^ 34
    if r ≤ 0x38 ∨ (0x100 ≤ r ∧ r < 0x500) then some (.mer r) else none
  else if o < 0xC00000000 then zenithArea (o - 2 ^ 35)
  else if o < 0xE00000000 then
    let r := o - 0xC00000000
    if r / 4096 < 4 ∧ r % 4096 ≤ 0x50 then some (.snap (r / 4096) (r % 4096)) else none
  else if o - 0xE00000000 ≤ 0x90 then some (.boot (o - 0xE00000000))
  else none

/-- The register that an aligned 8-byte access of this cube's complex reaches; none is a bus error. -/
def State.reg? (s : State) (pa : Nat) : Option Reg :=
  if paSpace pa = 0xD ∧ bits pa 47 36 = s.cubeid ∧ pa % 8 = 0 then regAt (pa % 2 ^ 36) else none

/-! ## Reading -/

/-- Trap window (R345). -/
def Field.trapWord (f : Field) (off : Nat) : Word :=
  if off < 0x1000 then (look f.trec (off / 64) []).getD (off % 64 / 8) 0
  else match off with
    | 0x1000 => f.tqvalid
    | 0x1010 => w64 ((if f.tqovf then 1 else 0) + (if f.tqien then 2 else 0) + f.tqiid * 2 ^ 17)
    | 0x1018 => w64 f.pdisc.toNat
    | 0x1020 => w64 f.secor.toNat
    | 0x1028 => w64 f.seunc.toNat
    | _ => 0

/-- PINFO of the pending launch that PSEL selects (R308). -/
def State.pinfo (s : State) (w : Nat) : Word :=
  match s.pending.find? (fun l => l.lid == s.sched.psel) with
  | none => 0
  | some l =>
    if w = 0 then
      w64 (l.part * 2 ^ 32 + l.asid * 2 ^ 48 + (if l.qsrc then 2 ^ 38 else l.name.toNat))
    else l.block.getD (w - 1) 0

/-- Scheduler window (R308). -/
def State.schedWord (s : State) (off : Nat) : Word :=
  let q := s.sched
  if 0x80 ≤ off ∧ off < 0xC0 then s.pinfo ((off - 0x80) / 8)
  else if 0x100 ≤ off then q.bindf.extractLsb' ((off - 0x100) * 8) 64
  else match off with
    | 0x00 => q.lqcap.extractLsb' 0 64
    | 0x08 => q.lqcap.extractLsb' 64 64
    | 0x10 => w64 ((if q.en then 1 else 0) + q.logn * 16 + (if q.rerr then 2 ^ 8 else 0) + (if q.cerr then 2 ^ 9 else 0))
    | 0x18 => w64 q.lqtail
    | 0x20 => w64 q.lqhead
    | 0x28 => w64 ((s.pending.head?.map Launch.lid).getD 0)
    | 0x30 => w64 s.pending.length
    | 0x38 => w64 q.psel
    | 0x48 => w64 q.bstat
    | 0x50 => w64 (q.cmplf + if q.cmplfV then 2 ^ 16 else 0)
    | _ => 0

/-- Translation window (R325). -/
def State.transWord (s : State) (off : Nat) : Word :=
  let q := s.trans
  if 0x40 ≤ off then look q.rsnew ((off - 0x40) / 8) 0
  else match off with
    | 0x00 => q.astb
    | 0x08 => w64 q.sdseq.toNat
    | 0x10 => w64 q.sddone.toNat
    | 0x18 => q.sdva
    | 0x30 => w64 (q.status + (if q.busy then 2 ^ 8 else 0) + if q.fwd then 2 ^ 9 else 0)
    | _ => 0

/-- Arbiter window (R354). -/
def Meridian.word (m : Meridian) (off : Nat) : Word :=
  if 0x100 ≤ off then
    let i := (off - 0x100) / 8
    w64 (if 4 ≤ i % 32 ∧ i % 32 ≤ 16 then m.k (i / 32) (i % 32) else 0)
  else match off with
    | 0x00 => w64 m.cap
    | 0x08 => w64 m.leak
    | 0x10 => w64 m.idle
    | 0x18 => w64 (m.runs.toNat * 2 ^ 16 + (if m.crit then 8 else 0) + (if m.hot then 4 else 0) +
        (if m.ovr then 2 else 0) + if m.busy then 1 else 0)
    | 0x20 => w64 m.est.toNat
    | 0x28 => w64 m.tcap
    | 0x30 => w64 (m.temp % 256 + m.thot * 2 ^ 8 + m.tok * 2 ^ 16)
    | _ => w64 (m.iid + if m.ien then 2 ^ 12 else 0)

/-- Service queue registers (R371). -/
def Part.svqWord (p : Part) (off : Nat) : Word :=
  if 0x80 ≤ off then look p.rplw ((off - 0x80) / 8) 0
  else match off with
    | 0x00 => p.sqcap.extractLsb' 0 64
    | 0x08 => p.sqcap.extractLsb' 64 64
    | 0x10 => w64 (p.sqlogn * 16 + (if p.sqcerr then 2 ^ 9 else 0) + p.sqiid * 2 ^ 17)
    | 0x18 => w64 p.sqtail
    | 0x20 => w64 p.sqhead
    | 0x30 => w64 ((if p.rplErr then 1 else 0) + if p.rplGone then 2 else 0)
    | _ => 0

/-- Link registers (R375). -/
def Link.word (l : Link) (off : Nat) : Word :=
  match off with
  | 0x00 => w64 l.lctl
  | 0x08 => w64 (if l.up then l.nbr + 2 ^ 8 else 0)
  | 0x10 => w64 l.replc.toNat
  | _ => w64 l.dropc.toNat

/-- Snapshot engine registers (R382). -/
def Snap.word (q : Snap) (off : Nat) : Word :=
  match off with
  | 0x08 => w64 ((if q.busy then 1 else 0) + q.status * 16 + if q.rej then 2 ^ 8 else 0)
  | 0x10 => q.step
  | 0x18 => q.list
  | 0x20 => q.slot0
  | 0x28 => q.slot1
  | 0x30 => q.idx
  | 0x38 => q.shtab
  | 0x40 => w64 q.shself
  | 0x48 => w64 (q.nwr.toNat + q.nref.toNat * 2 ^ 32)
  | 0x50 => q.rstep
  | _ => 0

/-- Boot window (R393). -/
def State.bootWord (s : State) (off : Nat) : Word :=
  let b := s.boot
  if 0x20 ≤ off ∧ off < 0x40 then b.meas0.extractLsb' ((off - 0x20) * 8) 64
  else if 0x40 ≤ off ∧ off < 0x60 then b.meas1.extractLsb' ((off - 0x40) * 8) 64
  else match off with
    | 0x00 => w64 ((if b.done then 1 else 0) + b.slot * 2 + b.fail * 2 ^ 8)
    | 0x08 => w64 b.rcause
    | 0x10 => w64 s.rbCount
    | 0x80 => b.ataddr
    | 0x88 => w64 ((if b.atbusy then 1 else 0) + if b.aterr then 2 else 0)
    | _ => 0

/-- The value of a register; write-only fields return zero (R5). -/
def State.readReg (s : State) : Reg → Word
  | .ctx c n => (s.ctx (c * 16 + (s.core c).ctxsel)).csr n
  | .core c n => s.coreCsr c n
  | .field fi n => s.fieldCsr fi n
  | .cube n => s.cubeCsr n
  | .trap fi off => (s.field fi).trapWord off
  | .sched off => s.schedWord off
  | .trans off => s.transWord off
  | .mer off => s.mer.word off
  | .boot off => s.bootWord off
  | .eclipse p off =>
    let x := s.part p
    if off = 0 then x.eclipseWord else if off = 8 then x.etick else w64 x.esrc.toNat
  | .irt i => look s.zen.irt i 0
  | .svq p off => (s.part p).svqWord off
  | .link k off => (look s.zen.links k {}).word off
  | .route c => look s.zen.routes c 0
  | .group g w => (look s.zen.groups g []).getD w 0
  | .timer fi => (s.field fi).ftcmp
  | .snap k off => (s.stack k).snap.word off

/-! ## Writing -/

/-- Changes one 64-bit word of a longer register. -/
def setWord {n : Nat} (x : BitVec n) (w : Nat) (v : Word) : BitVec n :=
  (x &&& ~~~ BitVec.ofNat n ((2 ^ 64 - 1) * 2 ^ (64 * w))) ||| BitVec.ofNat n (v.toNat * 2 ^ (64 * w))

/-- LOGN: 4 to 12, others read back as 4 (R308, R371). -/
def lognOf (v : Nat) : Nat := let n := bits v 7 4; if 4 ≤ n ∧ n ≤ 12 then n else 4

/-- The bits of a home-map word that hold state (R87). -/
def hmapMask (w : Nat) : Word :=
  match w with
  | 0 => 0x800FFFFFC000FFEF
  | 1 | 2 | 3 | 4 => 0x7FFF7FFF7FFF7FFF
  | 5 => 0x00000001FFFFF000
  | _ => 0

/-- A write of a home-map word: VALID stays 0 where the entry would be illegal. -/
def State.hmapWrite (s : State) (n : Nat) (v : Word) : State :=
  let v1 := v &&& hmapMask (n % 8)
  let v2 := if n % 8 = 0 && v1.getLsbD 63 && !hmapOk (fun i => if i = 0 then v1.toNat else 0) then v1 &&& 0x7FFFFFFFFFFFFFFF else v1
  { s with hmap := put s.hmap n v2 }

/-- A write of SIDCTL (R300). -/
def State.sidctlWrite (s : State) (v : Word) : State :=
  let n := v.toNat
  let lease := bits n 4 0
  let s1 := { s with
    lease := if 6 ≤ lease ∧ lease ≤ 20 then lease else s.lease
    master := bit n 9
    blost := s.blost && !bit n 10
    biid := bits n 27 16 }
  if bit n 8 then s1.fwrap else s1

/-- A write of a cube register. -/
def State.cubeWrite (s : State) (n : Nat) (v : Word) : State :=
  match n with
  | 0x401 => s.sidctlWrite v
  | 0x402 => s.renumber (bits v.toNat 7 0)
  | _ => if 0x800 ≤ n then s.hmapWrite (n - 0x800) v else s

/-- A write of a core register: the context image base and the context control. -/
def State.coreWrite (s : State) (c n : Nat) (v : Word) : State :=
  match n with
  | 0x100 => s.modCore c (fun x => { x with ctxb := v &&& 0x000FFFFFFFFFE000 })
  | 0x101 => s.writeCtxctl c v.toNat
  | _ => s

/-- A write of a register of a field or of its partition. -/
def State.fieldWrite (s : State) (fi n : Nat) (v : Word) : State :=
  let p := (s.field fi).fpart
  match n with
  | 0x200 => s.fpartWrite fi v
  | 0x202 => s.modField fi (fun f => { f with tvec := v })
  | 0x203 => s.modField fi (fun f => { f with flagor := f.flagor &&& ~~~(v.setWidth 5) })
  | 0x204 => s.writeSurr fi (v.getLsbD 0)
  | 0x300 => s.pctlWrite p v
  | 0x301 => s.modPart p (fun x => { x with pquota := bits v.toNat 20 0 })
  | 0x303 => s.pshareWrite p v
  | 0x304 => s.modPart p (fun x => { x with pasid := v &&& 0xFFFFFFFF })
  | _ => if 0x340 ≤ n then s.modPart p (fun x => { x with pirq := put x.pirq (n - 0x340) v }) else s

/-- A write of the trap window. -/
def State.trapWrite (s : State) (fi off : Nat) (v : Word) : State :=
  match off with
  | 0x1008 => s.tqfree fi v
  | 0x1010 => s.modField fi (fun f => { f with
      tqiid := bits v.toNat 28 17, tqien := v.getLsbD 1, tqovf := f.tqovf && !v.getLsbD 0 })
  | _ => s

/-- A write of the scheduler window. -/
def State.schedWrite (s : State) (off : Nat) (v : Word) : State :=
  let q := s.sched
  let n := v.toNat
  if 0x100 ≤ off then { s with sched := { q with bindf := setWord q.bindf ((off - 0x100) / 8) v } }
  else match off with
    | 0x00 | 0x08 => { s with sched := { q with lqcap := setWord q.lqcap (off / 8) v, lqtag := false } }
    | 0x10 => { s with sched := { q with
        en := bit n 0, logn := lognOf n, rerr := q.rerr && !bit n 8, cerr := q.cerr && !bit n 9 } }
    | 0x18 => { s with sched := { q with lqtail := bits n 11 0 } }
    | 0x38 => { s with sched := { q with psel := bits n 15 0 } }
    | 0x40 => s.bindc v
    | 0x50 => { s with sched := { q with cmplfV := q.cmplfV && !bit n 16 } }
    | _ => s

/-- A write of SDCMD (R333). -/
def State.sdcmd (s : State) (n : Nat) : State :=
  match bits n 1 0 with
  | 0 => (s.startShoot 0 s.trans.sdva.toNat (bits n 31 16)).2
  | 1 => (s.startShoot 1 0 (bits n 31 16)).2
  | 2 => (s.startShoot 2 0 (bits n 7 2)).2
  | _ => s

/-- A write of the translation window. -/
def State.transWrite (s : State) (off : Nat) (v : Word) : State :=
  let q := s.trans
  if 0x40 ≤ off then
    let w := (off - 0x40) / 8
    { s with trans := { q with rsnew := put q.rsnew w (v &&& hmapMask w) } }
  else match off with
    | 0x00 => { s with trans := { q with astb := v &&& 0x000FFFFFFFF80000 } }
    | 0x18 => { s with trans := { q with sdva := v &&& 0x000FFFFFFFFFF000 } }
    | 0x20 => s.sdcmd v.toNat
    | 0x28 => if v.getLsbD 8 then s.rsctlGo (bits v.toNat 5 0) else s
    | 0x38 => if v.getLsbD 0 then s.rsret else s
    | _ => s

/-- A write of the arbiter's window. -/
def State.merWrite (s : State) (off : Nat) (v : Word) : State :=
  if 0x100 ≤ off then s.coefWrite ((off - 0x100) / 256) ((off - 0x100) / 8 % 32) v
  else match off with
    | 0x00 => s.capWrite v
    | 0x08 => s.leakWrite v
    | 0x10 => s.idleWrite v
    | 0x18 => { s with mer := { s.mer with crit := s.mer.crit && !v.getLsbD 3 } }
    | 0x30 => s.thotTok v
    | 0x38 => { s with mer := { s.mer with iid := bits v.toNat 11 0, ien := v.getLsbD 12 } }
    | _ => s

/-- A write of a word of MEXT: the extension is made when all 32 bytes are written (R393). -/
def State.mextWord (s : State) (w : Nat) (v : Word) : State :=
  let m := put s.boot.mextW w v
  if m.length = 4 then
    ({ s with boot := { s.boot with mextW := [] } }).mext
      (BitVec.ofNat 256 ((List.range 4).map (fun i => (look m i 0).toNat * 2 ^ (64 * i))).sum)
  else { s with boot := { s.boot with mextW := m } }

/-- A write of the boot window. -/
def State.bootWrite (s : State) (off : Nat) (v : Word) : State :=
  if 0x60 ≤ off ∧ off < 0x80 then s.mextWord ((off - 0x60) / 8) v
  else match off with
    | 0x18 => s.rbadv (bits v.toNat 7 0)
    | 0x80 => { s with boot := { s.boot with ataddr := v &&& 0x000FFFFFFFFFFFC0 } }
    | 0x88 =>
      let s1 := { s with boot := { s.boot with aterr := s.boot.aterr && !v.getLsbD 1 } }
      if v.getLsbD 0 then s1.startReport else s1
    | 0x90 =>
      let s1 := { s with boot := { s.boot with rstAt := some (s.boot.rstAt.getD s.time) } }
      if v.getLsbD 1 then s1.post .rstctlCold else if v.getLsbD 0 then s1.post .rstctlWarm else s
    | _ => s

/-- A write of a service queue's registers. -/
def State.svqWrite (s : State) (p off : Nat) (v : Word) : State :=
  let n := v.toNat
  if 0x80 ≤ off then s.modPart p (fun x => { x with rplw := put x.rplw ((off - 0x80) / 8) v })
  else match off with
    | 0x00 | 0x08 => s.modPart p (fun x => { x with sqcap := setWord x.sqcap (off / 8) v, sqtag := false })
    | 0x10 => s.modPart p (fun x => { x with
        sqiid := bits n 28 17, sqlogn := lognOf n, sqcerr := x.sqcerr && !bit n 9 })
    | 0x20 => s.modPart p (fun x => { x with sqhead := bits n 11 0 })
    | 0x28 => s.reply p v
    | 0x30 => s.modPart p (fun x => { x with rplErr := x.rplErr && !bit n 0, rplGone := x.rplGone && !bit n 1 })
    | _ => s

/-- The bits of a group's word that hold state (R378). -/
def groupMask (w : Nat) : Word :=
  match w with
  | 0 => 0xF
  | 1 => 0x000FFFFFFFFFFFC0
  | 2 => 0x1FFFFF
  | 3 => 0x000FFFFFFFFFFFF8
  | _ => 0xFFFFFFFFFFFFFFFF

/-- Whether a group's words are within the alignment and limits of R378. -/
def groupLegal (g : List Word) : Bool :=
  let w := fun i => (g.getD i 0).toNat
  decide (1 ≤ bits (w 0) 3 1) && decide (bits (w 0) 3 1 ≤ 4) && w 1 % 64 == 0 && w 1 < 2 ^ 52 &&
    w 2 % 64 == 0 && decide (w 2 ≤ 2 ^ 20) && w 3 % 8 == 0 && w 3 < 2 ^ 52

/-- A write of a group's word: EN stays 0 where the entry would be illegal. -/
def State.groupWrite (s : State) (g w : Nat) (v : Word) : State :=
  let old := look s.zen.groups g []
  let with_ := fun (x : Word) => (List.range 8).map (fun i => if i = w then x else old.getD i 0)
  let new := with_ (v &&& groupMask w)
  let en : Word := if (new.getD 0 0).getLsbD 0 && groupLegal (with_ v) then 1 else 0
  let new1 := new.set 0 ((new.getD 0 0 &&& 0xE) ||| en)
  { s with zen := { s.zen with groups := put s.zen.groups g new1 } }

/-- A write of a snapshot engine's registers. -/
def State.snapRegWrite (s : State) (k off : Nat) (v : Word) : State :=
  let set := fun (g : Snap → Snap) => s.modStack k (fun x => { x with snap := g x.snap })
  let n := v.toNat
  match off with
  | 0x00 => if bits n 1 0 = 1 ∨ bits n 1 0 = 2 then s.snapCmd k (bits n 13 8) (bits n 1 0) else s
  | 0x08 => set (fun q => { q with rej := q.rej && !bit n 8 })
  | 0x10 => set (fun q => { q with step := v })
  | 0x18 => set (fun q => { q with list := v &&& 0x000FFFFFFFFFFFFF })
  | 0x20 => set (fun q => { q with slot0 := v &&& 0x000FFFFFFFFF0000 })
  | 0x28 => set (fun q => { q with slot1 := v &&& 0x000FFFFFFFFF0000 })
  | 0x30 => set (fun q => { q with idx := v &&& 0x000FFFFFFFE00001 })
  | 0x38 => set (fun q => { q with shtab := v &&& 0x000FFFFFFFFFFFFF })
  | 0x40 => set (fun q => { q with shself := bits n 5 0 })
  | _ => s

/-- The state after a write of a register. -/
def State.writeReg (s : State) (r : Reg) (v : Word) : State :=
  match r with
  | .ctx c n => s.modCtx (c * 16 + (s.core c).ctxsel) (fun x => x.setCsr n v)
  | .core c n => s.coreWrite c n v
  | .field fi n => s.fieldWrite fi n v
  | .cube n => s.cubeWrite n v
  | .trap fi off => s.trapWrite fi off v
  | .sched off => s.schedWrite off v
  | .trans off => s.transWrite off v
  | .mer off => s.merWrite off v
  | .boot off => s.bootWrite off v
  | .eclipse p off =>
    if off = 0 then s.eclipseWrite p v.toNat
    else if off = 8 then s.modPart p (fun x => { x with etick := v &&& 0x0000FFFFFFFFFFFF })
    else s
  | .irt i => { s with zen := { s.zen with irt := put s.zen.irt i (v &&& 0x7FF1FF) } }
  | .svq p off => s.svqWrite p off v
  | .link k off => if off = 0 then s.modLink k (fun l => { l with lctl := bits v.toNat 1 0 }) else s
  | .route c => { s with zen := { s.zen with routes := put s.zen.routes c (v &&& 0x1FF) } }
  | .group g w => s.groupWrite g w v
  | .timer fi => s.ftcmpWrite fi v
  | .snap k off => s.snapRegWrite k off v

/-! ## The meanings -/

/-- REGISTER_WRITE: an access that reaches no register is a bus error of the complex and changes
nothing. -/
def execRegisterWrite (a : BitVec 52) (v : Word) (s : State) : Host.Outcome State Fault Refusal :=
  match s.reg? a.toNat with
  | some r => .next (s.writeReg r v)
  | none => .next s

end Sys2Proof.Machine
end

