-- ==== Sys2Proof/Machine/Zenith.lean ====
section
/-! DEFINITION. The harts of the Zenith complex: their memory accesses (R98, R299, R306), their
exceptions, and the ten capability instructions (R368 to R370). -/

namespace Sys2Proof.Machine

open Sys2Proof

/-! ## Exceptions of a hart -/

/-- An exception: code, trap value, whether that value is an address and whether it is one of a guest; the second
trap value. -/
structure HExc where
  code : Nat
  tval : Word
  addr : Bool
  gva  : Bool := false
  tval2 : Word := 0
  deriving DecidableEq, Repr

/-- Meanings of a hart's instructions. -/
abbrev Z := EStateM HExc State

def hIllegal : Nat := 2
def hLoadAccess : Nat := 5
def hStoreAccess : Nat := 7
def hLoadPage : Nat := 13
def hStorePage : Nat := 15
def hHardware : Nat := 19
/-- The capability fault (R368). -/
def hCap : Nat := 24
/-- The virtual-instruction exception. -/
def hVirtual : Nat := 22

/-- The number of a mode: privilege, and 4 for a virtual one. -/
def HMode.num : HMode → Nat
  | .u => 0 | .hs => 1 | .m => 3 | .vu => 4 | .vs => 5

def HMode.virt (w : HMode) : Bool := w == .vs || w == .vu
/-- The previous privilege that a trap records. -/
def HMode.pp (w : HMode) : Nat := w.num % 4

/-- Replaces bits [hi:lo] of a word. -/
def setBits (w : Word) (hi lo v : Nat) : Word :=
  let m := (2 ^ (hi + 1 - lo) - 1) * 2 ^ lo
  (w &&& ~~~ BitVec.ofNat 64 m) ||| BitVec.ofNat 64 (v % 2 ^ (hi + 1 - lo) * 2 ^ lo)

/-- The mode under which a hart's loads and stores are translated: in M-mode with MPRV the mode that MPP and
MPV name (the RISC-V privileged architecture, R365). -/
def Hart.dataMode (h : Hart) : HMode :=
  let st := h.mstatus.toNat
  if h.mode == .m && bit st 17 then
    match bits st 12 11, bit st 39 with
    | 0, false => .u
    | 0, true => .vu
    | 1, false => .hs
    | 1, true => .vs
    | _, _ => .m
  else h.mode

/-- The base of a trap vector. -/
def vecBase (v : Word) : Word := v &&& 0xFFFFFFFFFFFFFFFC

/-- A hart takes an exception, delegated as medeleg and hedeleg say (the RISC-V privileged
architecture, R365). -/
def Hart.take (h : Hart) (e : HExc) : Hart :=
  let gva := if (h.mode.virt && e.addr) || e.gva then 1 else 0
  let csr2 := fun (a b : Nat) => put (put h.csr a e.tval2) b 0
  let v := if h.mode.virt then 1 else 0
  if h.mode == .m || !bit h.medeleg.toNat e.code then
    let st := setBits (setBits (setBits (setBits h.mstatus 12 11 h.mode.pp) 7 7 (bits h.mstatus.toNat 3 3)) 3 3 0) 39 38 (2 * v + gva)
    { h with mstatus := st, mepc := h.pc, mcause := w64 e.code, mtval := e.tval, mode := .m, pc := vecBase h.mtvec,
             csr := csr2 0x34B 0x34A }
  else if h.mode.virt && bit h.hedeleg.toNat e.code then
    let st := setBits (setBits (setBits h.vsstatus 8 8 h.mode.pp) 5 5 (bits h.vsstatus.toNat 1 1)) 1 1 0
    { h with vsstatus := st, vsepc := h.pc, vscause := w64 e.code, vstval := e.tval, mode := .vs, pc := vecBase h.vstvec }
  else
    let st := setBits (setBits (setBits h.mstatus 8 8 h.mode.pp) 5 5 (bits h.mstatus.toNat 1 1)) 1 1 0
    let hs := setBits (setBits h.hstatus 7 6 (2 * v + gva)) 8 8 (if h.mode.virt then h.mode.pp else bits h.hstatus.toNat 8 8)
    { h with mstatus := st, hstatus := hs, sepc := h.pc, scause := w64 e.code, stval := e.tval, mode := .hs, pc := vecBase h.stvec,
             csr := csr2 0x643 0x64A }

/-! ## The Zenith cache (R98) -/

/-- Puts a line into the cache. -/
def State.zPut (s : State) (ln : Nat) (l : L2Line) : State :=
  { s with zen := { s.zen with cache := put s.zen.cache ln l } }

/-- Room for a line in the cache's 64 MiB, 2^19 lines (R14): which line with a home leaves is not
architectural; what it holds dirty is written back. -/
def State.zRoom (s : State) (ln : Nat) : State :=
  if (look? s.zen.cache ln).isSome || s.zen.cache.length < 2 ^ 19 then s
  else
    let (n, s1) := s.tick
    let homed := s1.zen.cache.filter (fun e => (s1.home? (128 * e.1)).isSome)
    match homed[Config.choice n % homed.length]? with
    | some e => s1.zDrop e.1
    | none => s1

/-- A line of this cube in the cache for reading; none when it cannot be tracked. -/
def State.zFill (s : State) (k loc ln : Nat) : State :=
  let s1 := (s.zRoom ln).recallForFill k ln none true
  let (ok, s2) := s1.ensureCovered k ln 0
  let (_, s3) := s2.bumpSeq k ln
  if ok then
    let l := s3.lineAt loc
    (s3.modCovering k ln (fun r => { r with zs := true })).zPut ln
      { st := .s, dirty := false, data := l.data, tags := l.tags, mark := false, exp := 0, high := false, syn := l.syn, bad := l.bad }
  else s3

/-- A line of this cube as a hart reads it. -/
def State.zRead (s : State) (pa : Nat) : Except Nat (HomeLine × State) :=
  let ln := pa / 128
  match look? s.zen.cache ln with
  | some l => .ok (l.home, s)
  | none =>
    match s.home? pa with
    | none => .error hLoadAccess
    | some h =>
      if h.cube ≠ s.cubeid then
        (if s.reachable h.cube then .ok (s.lineAt h.loc, s) else .error hLoadAccess)
      else
        let s1 := (s.reach ln).zFill h.stack (h.loc / 128 * 128) ln
        match look? s1.zen.cache ln with
        | some l => .ok (l.home, s1)
        | none => .ok (s1.lineAt h.loc, s1)

/-- A line as a hart writes it: the cache takes ownership, or the write is performed at home. A line of
another cube loses the tags of the granules that the write touches (R306). -/
def State.zWrite (s : State) (pa n : Nat) (g : HomeLine → HomeLine) : Except Nat State :=
  let ln := pa / 128
  let keep := fun (l : L2Line) (x : HomeLine) =>
    { l with st := .o, dirty := true, data := x.data, tags := x.tags, syn := x.syn, bad := x.bad }
  match s.home? pa with
  | none =>
    (match look? s.zen.cache ln with
     | some l => if l.bad then .error hHardware else .ok (s.zPut ln (keep l (g l.home)))
     | none => .error hStoreAccess)
  | some h =>
    if h.cube ≠ s.cubeid then
      if !s.reachable h.cube then .error hStoreAccess
      else
        let l := s.lineAt h.loc
        if l.bad then .error hHardware
        else
          let x := g l
          .ok (s.setLineAt h.loc { x with tags := clearTags l.tags (pa % 128) n })
    else
      let k := h.stack
      let s1 := ((s.reach ln).zRoom ln).invalidateOthers k ln none true
      let (ok, s2) := s1.ensureCovered k ln 0
      let (_, s3) := s2.bumpSeq k ln
      let old := match look? s3.zen.cache ln with
        | some l => l.home
        | none => s3.lineAt h.loc
      if old.bad then .error hHardware
      else if ok then
        let s4 := s3.modCovering k ln (fun r => { r with zs := true, zown := true })
        .ok (s4.zPut ln (keep { st := .o, dirty := true, data := 0, tags := 0, mark := false, exp := 0, high := false, syn := 0, bad := false } (g old)))
      else .ok ((s3.zDrop ln).setLineAt h.loc (g old))

/-! ## Accesses of a hart -/

/-- The number of the hart that runs. -/
def State.hartNo (s : State) : Nat :=
  match s.turn with
  | some (.hart h) => h
  | _ => 0

def hartRegs : Z Hart := fun s => .ok (s.hart s.hartNo) s

def hExc {α : Type} (code : Nat) (tval : Word) (addr : Bool := true) : Z α :=
  throw { code := code, tval := tval, addr := addr }

/-- The capability fault, unless a condition holds; it names a granule. -/
def capNeed (b : Bool) (granule : Word) : Z Unit := if b then pure () else hExc hCap granule

/-- The illegal-instruction exception: the manual states no trap value for it. -/
def hIllegalInstr {α : Type} : Z α := fun s =>
  let (n, s1) := s.tick
  .error { code := hIllegal, tval := Config.freeWord n, addr := false } s1

/-- Whether a vault or scratch byte of this cube may be reached (R80, R86). -/
def State.localOk (s : State) (pa : Nat) : Bool :=
  bits pa 47 36 == s.cubeid &&
  (if paSpace pa = 0xF then decide (bits pa 15 0 < 0xC000)
   else decide (bits pa 35 20 < 1024) && (s.field (bits pa 35 20)).l2state == 2)

/-- A load of n bytes inside a granule; its tag beside the value. -/
def State.hartLoad (s : State) (pa n : Nat) : Except Nat (Nat × Bool × State) :=
  if pa ≥ 2 ^ 52 then .error hLoadAccess
  else if paSpace pa ≥ 0xE then
    if !s.localOk pa then .error hLoadAccess
    else if paSpace pa = 0xF && s.vaultBad pa n then .error hHardware
    else .ok (s.mem.val pa n, false, s)
  else if paSpace pa = 0xD then
    match s.reg? pa with
    | some r => if n = 8 then .ok ((s.readReg r).toNat, false, s) else .error hLoadAccess
    | none => .error hLoadAccess
  else
    match s.zRead pa with
    | .ok (l, s1) =>
      if l.failure.isSome then .error hHardware
      else .ok (getInLine l.data (pa % 128) n, l.tags.getLsbD (pa % 128 / 16), s1)
    | .error c => .error c

/-- The tags of a line with one granule's tag set as said. -/
def setTag (t : BitVec 8) (g : Nat) (b : Bool) : BitVec 8 :=
  if b then t ||| BitVec.ofNat 8 (2 ^ g) else t &&& ~~~ BitVec.ofNat 8 (2 ^ g)

/-- A store of n bytes inside a granule, which leaves its tag as said; bytes outside DRAM have none. -/
def State.hartStore (s : State) (pa n v : Nat) (tag : Bool) : Except Nat State :=
  if pa ≥ 2 ^ 52 then .error hStoreAccess
  else if paSpace pa ≥ 0xE then
    if s.localOk pa then .ok ({ s with mem := s.mem.setVal pa n v }.afterAperture pa n) else .error hStoreAccess
  else if paSpace pa = 0xD then
    match s.reg? pa with
    | some r => if n = 8 then .ok (s.writeReg r (w64 v)) else .error hStoreAccess
    | none => .error hStoreAccess
  else
    s.zWrite pa n (fun l => { l with
      data := setInLine l.data (pa % 128) n v, tags := setTag l.tags (pa % 128 / 16) tag })

/-- Clears the tag of a granule; its bytes stay. -/
def State.hartUntag (s : State) (pa : Nat) : Except Nat State :=
  if pa ≥ 2 ^ 52 || paSpace pa = 0xD then .error hStoreAccess
  else if paSpace pa ≥ 0xE then (if s.localOk pa then .ok s else .error hStoreAccess)
  else s.zWrite pa 16 (fun l => { l with tags := setTag l.tags (pa % 128 / 16) false })

/-! ## Translation and protection of a hart (the RISC-V privileged architecture, R365) -/

/-- A control and status register that has no field of its own. -/
def Hart.c (h : Hart) (n : Nat) : Nat := (look h.csr n 0).toNat
def Hart.putC (h : Hart) (n v : Nat) : Hart := { h with csr := put h.csr n (w64 v) }

/-- The bytes that entry i of physical memory protection covers: from, to. -/
def Hart.pmpRange (h : Hart) (i : Nat) : Nat × Nat :=
  let a := h.c (0x3B0 + i)
  match bits (h.c (0x3A0 + i / 8 * 2)) (8 * (i % 8) + 4) (8 * (i % 8) + 3) with
  | 0 => (0, 0)
  | 1 => ((if i = 0 then 0 else 4 * h.c (0x3B0 + i - 1)), 4 * a)
  | 2 => (4 * a, 4 * a + 4)
  | _ =>
    -- the ones at the low end give the size
    let k := ((List.range 54).takeWhile (fun j => bit a j)).length
    (a / 2 ^ k * 2 ^ k * 4, (a / 2 ^ k * 2 ^ k + 2 ^ (k + 1)) * 4)

/-- Whether protection permits an access of n bytes: kinds 0 load, 1 store, 2 fetch, 3 load of code. The lowest of
the 16 entries that covers a byte decides. -/
def Hart.pmpOk (h : Hart) (m : Bool) (kind pa n : Nat) : Bool :=
  let meets := fun (i : Nat) => let r := h.pmpRange i; decide (r.1 < pa + n) && decide (pa < r.2)
  match (List.range 16).find? meets with
  | none => m
  | some i =>
    let r := h.pmpRange i
    let cfg := h.c (0x3A0 + i / 8 * 2) / 2 ^ (8 * (i % 8))
    decide (r.1 ≤ pa) && decide (pa + n ≤ r.2) &&
      ((m && !bit cfg 7) || (match kind with | 1 => bit cfg 1 && bit cfg 0 | 2 => bit cfg 2 | 3 => bit cfg 2 | _ => bit cfg 0))

/-- The exceptions of an access: access fault, page fault, guest-page fault. -/
def accessExc (kind : Nat) : Nat := match kind with | 1 => 7 | 2 => 1 | _ => 5
def pageExc (kind : Nat) : Nat := match kind with | 1 => 15 | 2 => 12 | _ => 13
def guestExc (kind : Nat) : Nat := match kind with | 1 => 23 | 2 => 20 | _ => 21

/-- An entry of a page table read, or written, at a physical address. -/
def ptRead (fail : HExc) (pa : Nat) : Z Nat := fun s =>
  if !(s.hart s.hartNo).pmpOk false 0 pa 8 then .error fail s
  else
    match s.hartLoad pa 8 with
    | .ok (v, _, s1) => .ok v s1
    | .error c => .error (if c = hHardware then { fail with code := c } else fail) s
def ptWrite (fail : HExc) (pa v : Nat) : Z Unit := fun s =>
  if !(s.hart s.hartNo).pmpOk false 1 pa 8 then .error fail s
  else
    match s.hartStore pa 8 v false with
    | .ok s1 => .ok () s1
    | .error c => .error (if c = hHardware then { fail with code := c } else fail) s

/-- The walk of a table from level k − 1 down: `at_` places an entry's address in physical memory, `leaf` judges the
permissions of a leaf. The top level indexes `wide` more bits. -/
def walkTable (pf af : HExc) (at_ : Nat → Z Nat) (leaf : Nat → Bool) (store : Bool) (va : Nat) : Nat → Nat → Nat → Z Nat
  | _, _, 0 => throw pf
  | wide, a, k + 1 => do
    let place ← at_ (a + 8 * (va / 2 ^ (12 + 9 * k) % 2 ^ (9 + wide)))
    let pte ← ptRead af place
    let size := 2 ^ (12 + 9 * k)
    if !bit pte 0 || (!bit pte 1 && bit pte 2) || bits pte 63 54 ≠ 0 then throw pf
    else if !bit pte 1 && !bit pte 3 then walkTable pf af at_ leaf store va 0 (bits pte 53 10 * 4096) k
    else if !leaf pte || bits pte 53 10 * 4096 % size ≠ 0 then throw pf
    else
      let want := pte ||| 64 ||| (if store then 128 else 0)
      if want ≠ pte then
        if Config.hartSetsAD then ptWrite af place want else throw pf
      pure (bits pte 53 10 * 4096 + va % size)

/-- The levels of a mode field: Sv39, Sv48, Sv57. -/
def svLevels (mode : Nat) : Nat := mode - 5

/-- Whether a leaf's R, W and X bits permit a kind of access. -/
def permits (mxr : Bool) (kind pte : Nat) : Bool :=
  match kind with
  | 1 => bit pte 2
  | 2 | 3 => bit pte 3
  | _ => bit pte 1 || (mxr && bit pte 3)

/-- The second stage: a guest physical address under hgatp. `va` is the address that the access names. -/
def hWalkG (va : Word) (kind gpa : Nat) : Z Nat := do
  let h ← hartRegs
  let g := h.c 0x680
  let pf : HExc := { code := guestExc kind, tval := va, addr := true, gva := true, tval2 := w64 (gpa / 4) }
  let af : HExc := { code := accessExc kind, tval := va, addr := true, gva := true }
  let lv := svLevels (bits g 63 60)
  if bits g 63 60 = 0 then pure gpa
  else if gpa ≥ 2 ^ (14 + 9 * lv) then throw pf
  else
    let leaf := fun (pte : Nat) => bit pte 4 && permits (bit h.mstatus.toNat 19) kind pte
    walkTable pf af pure leaf (kind == 1) gpa 2 (bits g 43 0 * 4096) lv

/-- The first stage, under satp, or vsatp for a guest. -/
def hWalkS (md : HMode) (kind : Nat) (va : Word) : Z Nat := do
  let h ← hartRegs
  let v := md.virt
  let satp := h.c (if v then 0x280 else 0x180)
  let lv := svLevels (bits satp 63 60)
  let st := (if v then h.vsstatus else h.mstatus).toNat
  let pf : HExc := { code := pageExc kind, tval := va, addr := true, gva := v }
  let af : HExc := { code := accessExc kind, tval := va, addr := true, gva := v }
  let user := md == .u || md == .vu
  let leaf := fun (pte : Nat) =>
    (if user then bit pte 4 else !bit pte 4 || (bit st 18 && kind != 2)) &&
      permits (bit st 19 || (v && bit h.mstatus.toNat 19)) kind pte
  if bits satp 63 60 = 0 then pure va.toNat
  else if (va.extractLsb' 0 (12 + 9 * lv)).signExtend 64 ≠ va then throw pf
  else
    let at_ := fun (a : Nat) => if v then hWalkG va 0 a else pure a
    walkTable pf af at_ leaf (kind == 1) va.toNat 0 (bits satp 43 0 * 4096) lv

/-- Where an access of n bytes at a virtual address falls, in a mode; M-mode does not translate. -/
def hXlate (md : HMode) (kind n : Nat) (va : Word) : Z Nat := do
  let pa ← if md == .m then pure va.toNat else do
    let a ← hWalkS md kind va
    if md.virt then hWalkG va kind a else pure a
  let h ← hartRegs
  if h.pmpOk (md == .m) kind pa n then pure pa
  else throw { code := accessExc kind, tval := va, addr := true, gva := md.virt }

/-- A virtual address of the running hart's loads and stores. -/
def hTranslate (va : Word) (n : Nat) (store : Bool) : Z Nat := do
  hXlate (← hartRegs).dataMode (if store then 1 else 0) n va

def hLoad (va : Word) (n : Nat) : Z (Nat × Bool) := do
  let pa ← hTranslate va n false
  fun s => match s.hartLoad pa n with
    | .ok (v, t, s1) => .ok (v, t) s1
    | .error c => .error { code := c, tval := va, addr := true } s

/-- A store by a hart ends the other harts' reservations on the line. -/
def State.endReservations (s : State) (pa : Nat) : State :=
  { s with zen := { s.zen with harts := s.zen.harts.map (fun (e : Nat × Hart) =>
    (e.1, if e.1 = s.hartNo then e.2 else e.2.unreserve (pa / 128))) } }

def hStore (va : Word) (n v : Nat) (tag : Bool) : Z Unit := do
  let pa ← hTranslate va n true
  fun s => match s.hartStore pa n v tag with
    | .ok s1 => .ok () (s1.endReservations pa)
    | .error c => .error { code := c, tval := va, addr := true } s

def hUntag (va : Word) : Z Unit := do
  let pa ← hTranslate va 16 true
  fun s => match s.hartUntag pa with
    | .ok s1 => .ok () s1
    | .error c => .error { code := c, tval := va, addr := true } s

/-- A granule must be 16-byte aligned. -/
def aligned16 (va : Word) : Z Unit := capNeed (va.toNat % 16 == 0) va

/-- cap(va): the tag and the capability. -/
def capAt (va : Word) : Z (Bool × Cap) := do
  let (v, t) ← hLoad va 16
  pure (t, { w0 := v % 2 ^ 64, w1 := v / 2 ^ 64 })

/-- Writes a granule. -/
def putCap (va : Word) (c : Cap) (tag : Bool) : Z Unit := hStore va 16 (c.w0 + c.w1 * 2 ^ 64) tag

/-- A capability with another cursor. -/
def Cap.withAddr (c : Cap) (a : Nat) : Cap := { c with w0 := c.w0 / 2 ^ 52 * 2 ^ 52 + a % 2 ^ 52 }

/-- A register of a hart; x0 reads 0. -/
def Hart.x (h : Hart) (n : BitVec 5) : Word := if n = 0 then 0 else look h.xs n.toNat 0
/-- Writes a register; x0 discards. -/
def Hart.setX (h : Hart) (n : BitVec 5) (v : Word) : Hart :=
  if n = 0 then h else { h with xs := put h.xs n.toNat v }

/-- The value of a register of the running hart. -/
def rsOf (n : BitVec 5) : Z Word := do pure ((← hartRegs).x n)
def setRd (n : BitVec 5) (v : Word) : Z Unit := fun s =>
  .ok () (s.setHart s.hartNo ((s.hart s.hartNo).setX n v))

/-- A form that only M-mode may use, or M- and HS-mode. -/
def needMode (ok : HMode → Bool) : Z Unit := do
  if ok (← hartRegs).mode then pure () else hIllegalInstr
def isM (w : HMode) : Bool := w == .m
def isMHS (w : HMode) : Bool := w == .m || w == .hs

/-- A hart after an instruction that completes: its pc is at the next one, and the instruction is counted unless
mcountinhibit says otherwise. -/
def Hart.next (h : Hart) (pc : Word) : Hart :=
  { (if bit (h.c 0x320) 2 then h else h.putC 0xB02 (h.c 0xB02 + 1)) with pc := pc }

/-- A hart's exception is taken from the state before its instruction; where an access was held, the step is taken
again instead (R115). -/
def State.hartExc (s s1 : State) (h : Nat) (e : HExc) : State :=
  if s1.blocked then { s with blocked := true } else { s with free := s1.free + 1 }.setHart h ((s.hart h).take e)

/-- Runs the meaning of a hart's instruction: the pc moves on, or the exception is taken from the state
before the instruction. -/
def hartRun (body : Z Unit) (s : State) : Host.Outcome State Fault Refusal :=
  let h := s.hartNo
  match body s with
  | .ok _ s1 => .next ({ s1 with free := s1.free + 1 }.setHart h ((s1.hart h).next ((s1.hart h).pc + 4)))
  | .error e s1 => .next (s.hartExc s1 h e)

/-! ## The capability instructions (R368 to R370) -/

def zCgrant (z : ZFields) : Z Unit := do
  needMode isM
  let dst ← rsOf z.rs1
  let src ← rsOf z.rs2
  aligned16 dst
  aligned16 src
  let (_, c) ← capAt src
  capNeed (c.lenOk && c.otype ≤ 4 && c.inBounds) src
  putCap dst c true

/-- Whether a derivation is permitted (R369). -/
def deriveOk (md : HMode) (c : Cap) (r : List Nat) : Bool :=
  let w := fun i => r.getD i 0
  let base := bits (w 0) 39 0
  let len := bits (w 0) 63 40
  let addr := bits (w 1) 51 0
  let ty := bits (w 1) 63 56
  len != 0 && decide (c.base ≤ base) && decide (base + len ≤ c.base + c.lenp) &&
    decide (base * 4096 ≤ addr) && decide (addr < (base + len) * 4096) &&
    (ty == c.otype || (c.otype == 0 && (if ty = 2 then isMHS md else (ty == 1 || ty == 3 || ty == 4) && isM md))) &&
    w 2 == 0 && w 3 == 0

/-- The capability that a record derives (R369). -/
def derived (c : Cap) (r : List Nat) : Cap :=
  let w1 := r.getD 1 0
  let perm := bits c.w0 55 52 &&& bits w1 55 52
  { w0 := bits w1 51 0 + perm * 2 ^ 52 + bits w1 63 56 * 2 ^ 56, w1 := r.getD 0 0 }

def zCderive (z : ZFields) : Z Unit := do
  let dst ← rsOf z.rd
  let src ← rsOf z.rs1
  let rec_ ← rsOf z.rs2
  aligned16 dst
  aligned16 src
  aligned16 rec_
  let (t, c) ← capAt src
  let (a, _) ← hLoad rec_ 16
  let (b, _) ← hLoad (rec_ + 16) 16
  let r := [a % 2 ^ 64, a / 2 ^ 64, b % 2 ^ 64, b / 2 ^ 64]
  let h ← hartRegs
  capNeed (t && deriveOk h.mode c r) src
  putCap dst (derived c r) true

def zCmove (z : ZFields) : Z Unit := do
  let dst ← rsOf z.rs1
  let src ← rsOf z.rs2
  aligned16 dst
  aligned16 src
  let (t, c) ← capAt src
  putCap dst c t

/-- The length of a range of granules: a multiple of 16 from 16 to 2^20. -/
def granuleRange (base len : Word) : Z Unit := do
  aligned16 base
  capNeed (len.toNat % 16 == 0 && decide (16 ≤ len.toNat) && decide (len.toNat ≤ 2 ^ 20)) base

/-- Clears the tags of n granules. -/
def untagAll (va : Word) : Nat → Z Unit
  | 0 => pure ()
  | n + 1 => do hUntag va; untagAll (va + 16) n

def zCrevoke (z : ZFields) : Z Unit := do
  needMode isMHS
  let base ← rsOf z.rs1
  let len ← rsOf z.rs2
  granuleRange base len
  untagAll base (len.toNat / 16)

/-- Field n of a granule (R368). -/
def capField (t : Bool) (c : Cap) (n : Nat) : Word :=
  match n with
  | 0 => w64 c.w0
  | 1 => w64 c.w1
  | 2 => b2w t
  | 3 => w64 c.lo
  | _ => w64 c.hi

def zCread (z : ZFields) : Z Unit := do
  let src ← rsOf z.rs1
  let n ← rsOf z.rs2
  aligned16 src
  capNeed (n.toNat ≤ 4) src
  let (t, c) ← capAt src
  setRd z.rd (capField t c n.toNat)

/-- The use that a code of CCHECK names. -/
def useOf : Nat → Option CapUse
  | 0 => some useMemR
  | 1 => some useMemW
  | 2 => some useBufferR
  | 3 => some useBufferRW
  | 4 => some useLaunchQ
  | 5 => some useServiceQ
  | 6 => some useContext
  | _ => none

def zCcheck (z : ZFields) : Z Unit := do
  let src ← rsOf z.rs1
  let n ← rsOf z.rs2
  aligned16 src
  match useOf n.toNat with
  | none => hExc hCap src
  | some u =>
    let (t, c) ← capAt src
    setRd z.rd (w64 (capCheck t c u))

/-- What CLDADV and CSTADV ask of a capability for the 8 bytes at its cursor. -/
def cursorOk (t : Bool) (c : Cap) (perm : Bool) : Bool :=
  t && c.otype == 0 && perm && c.addr % 8 == 0 && decide (c.lo ≤ c.addr) && decide (c.addr + 8 ≤ c.hi)

def zCldadv (z : ZFields) : Z Unit := do
  let src ← rsOf z.rs1
  aligned16 src
  let (t, c) ← capAt src
  capNeed (cursorOk t c c.r) src
  let (v, _) ← hLoad (w64 c.addr) 8
  putCap src (c.withAddr (c.addr + 8)) t
  setRd z.rd (w64 v)

def zCstadv (z : ZFields) : Z Unit := do
  let src ← rsOf z.rs1
  let v ← rsOf z.rs2
  aligned16 src
  let (t, c) ← capAt src
  capNeed (cursorOk t c c.w) src
  hStore (w64 c.addr) 8 v.toNat false
  putCap src (c.withAddr (c.addr + 8)) t

/-- Counts the tags of n granules. -/
def countTags (va : Word) : Nat → Z Nat
  | 0 => pure 0
  | n + 1 => do
    let (t, _) ← capAt va
    let k ← countTags (va + 16) n
    pure (k + if t then 1 else 0)

def zCcount (z : ZFields) : Z Unit := do
  needMode isMHS
  let base ← rsOf z.rs1
  let len ← rsOf z.rs2
  granuleRange base len
  let n ← countTags base (len.toNat / 16)
  setRd z.rd (w64 n)

/-- The bytes of a capability as a register holds them. -/
def Cap.reg (c : Cap) : BitVec 128 := BitVec.ofNat 128 (c.w0 + c.w1 * 2 ^ 64)

def zChand (z : ZFields) : Z Unit := do
  needMode isMHS
  let src ← rsOf z.rs1
  let n ← rsOf z.rs2
  aligned16 src
  capNeed (n.toNat == 0 || (decide (0x100 ≤ n.toNat) && decide (n.toNat < 0x140))) src
  let (t, c) ← capAt src
  if n.toNat = 0 then
    let logn ← (fun s => .ok s.sched.logn s : Z Nat)
    capNeed (capCheck t c useLaunchQ == 0 && c.holdsExtent (32 * 2 ^ logn)) src
    fun s => .ok () { s with sched := { s.sched with lqcap := c.reg, lqtag := true } }
  else
    let p := n.toNat - 0x100
    let logn ← (fun s => .ok (s.part p).sqlogn s : Z Nat)
    capNeed (capCheck t c useServiceQ == 0 && c.holdsExtent (64 * 2 ^ logn)) src
    fun s => .ok () (s.modPart p (fun x => { x with sqcap := c.reg, sqtag := true }))

/-! ## The meanings -/

def execCgrant (z : ZFields) (s : State) : Host.Outcome State Fault Refusal := hartRun (zCgrant z) s
def execCderive (z : ZFields) (s : State) : Host.Outcome State Fault Refusal := hartRun (zCderive z) s
def execCmove (z : ZFields) (s : State) : Host.Outcome State Fault Refusal := hartRun (zCmove z) s
def execCrevoke (z : ZFields) (s : State) : Host.Outcome State Fault Refusal := hartRun (zCrevoke z) s
def execCread (z : ZFields) (s : State) : Host.Outcome State Fault Refusal := hartRun (zCread z) s
def execCcheck (z : ZFields) (s : State) : Host.Outcome State Fault Refusal := hartRun (zCcheck z) s
def execCldadv (z : ZFields) (s : State) : Host.Outcome State Fault Refusal := hartRun (zCldadv z) s
def execCstadv (z : ZFields) (s : State) : Host.Outcome State Fault Refusal := hartRun (zCstadv z) s
def execCcount (z : ZFields) (s : State) : Host.Outcome State Fault Refusal := hartRun (zCcount z) s
def execChand (z : ZFields) (s : State) : Host.Outcome State Fault Refusal := hartRun (zChand z) s

end Sys2Proof.Machine
end

