-- ==== Sys2Proof/Machine/Dispatch.lean ====
section
/-! DEFINITION. The meaning of every instruction: one arm per constructor. -/

namespace Sys2Proof.Machine

open Sys2Proof

def exec (i : Instr) (s : State) : Host.Outcome State Fault Refusal :=
  match i with
  | .add f => Sys2Proof.Machine.execAdd f s
  | .sub f => Sys2Proof.Machine.execSub f s
  | .mul f => Sys2Proof.Machine.execMul f s
  | .mulh f => Sys2Proof.Machine.execMulh f s
  | .div f => Sys2Proof.Machine.execDiv f s
  | .rem f => Sys2Proof.Machine.execRem f s
  | .min f => Sys2Proof.Machine.execMin f s
  | .max f => Sys2Proof.Machine.execMax f s
  | .and f => Sys2Proof.Machine.execAnd f s
  | .or f => Sys2Proof.Machine.execOr f s
  | .xor f => Sys2Proof.Machine.execXor f s
  | .andn f => Sys2Proof.Machine.execAndn f s
  | .orn f => Sys2Proof.Machine.execOrn f s
  | .shl f => Sys2Proof.Machine.execShl f s
  | .shr f => Sys2Proof.Machine.execShr f s
  | .sha f => Sys2Proof.Machine.execSha f s
  | .rol f => Sys2Proof.Machine.execRol f s
  | .neg f => Sys2Proof.Machine.execNeg f s
  | .abs f => Sys2Proof.Machine.execAbs f s
  | .not f => Sys2Proof.Machine.execNot f s
  | .clz f => Sys2Proof.Machine.execClz f s
  | .ctz f => Sys2Proof.Machine.execCtz f s
  | .popc f => Sys2Proof.Machine.execPopc f s
  | .brev f => Sys2Proof.Machine.execBrev f s
  | .bfx f => Sys2Proof.Machine.execBfx f s
  | .bfi f => Sys2Proof.Machine.execBfi f s
  | .sext f => Sys2Proof.Machine.execSext f s
  | .zext f => Sys2Proof.Machine.execZext f s
  | .mov f => Sys2Proof.Machine.execMov f s
  | .movi f => Sys2Proof.Machine.execMovi f s
  | .movh f => Sys2Proof.Machine.execMovh f s
  | .sel f => Sys2Proof.Machine.execSel f s
  | .cmp f => Sys2Proof.Machine.execCmp f s
  | .test f => Sys2Proof.Machine.execTest f s
  | .fma f => Sys2Proof.Machine.execFma f s
  | .sqrt f => Sys2Proof.Machine.execSqrt f s
  | .cvt f => Sys2Proof.Machine.execCvt f s
  | .fclass f => Sys2Proof.Machine.execFclass f s
  | .rndi f => Sys2Proof.Machine.execRndi f s
  | .movsRead f => Sys2Proof.Machine.execMovsRead f s
  | .movsWrite f => Sys2Proof.Machine.execMovsWrite f s
  | .amov f => Sys2Proof.Machine.execAmov f s
  | .astr f => Sys2Proof.Machine.execAstr f s
  | .aadv f => Sys2Proof.Machine.execAadv f s
  | .lea f => Sys2Proof.Machine.execLea f s
  | .pand f => Sys2Proof.Machine.execPand f s
  | .por f => Sys2Proof.Machine.execPor f s
  | .pxor f => Sys2Proof.Machine.execPxor f s
  | .pnot f => Sys2Proof.Machine.execPnot f s
  | .pmov f => Sys2Proof.Machine.execPmov f s
  | .br f => Sys2Proof.Machine.execBr f s
  | .brx f => Sys2Proof.Machine.execBrx f s
  | .call f => Sys2Proof.Machine.execCall f s
  | .callx f => Sys2Proof.Machine.execCallx f s
  | .ret f => Sys2Proof.Machine.execRet f s
  | .loop f => Sys2Proof.Machine.execLoop f s
  | .loopx f => Sys2Proof.Machine.execLoopx f s
  | .nop f => Sys2Proof.Machine.execNop f s
  | .yield f => Sys2Proof.Machine.execYield f s
  | .waitl f => Sys2Proof.Machine.execWaitl f s
  | .vadd f => Sys2Proof.Machine.execVadd f s
  | .vsub f => Sys2Proof.Machine.execVsub f s
  | .vmul f => Sys2Proof.Machine.execVmul f s
  | .vfma f => Sys2Proof.Machine.execVfma f s
  | .vmin f => Sys2Proof.Machine.execVmin f s
  | .vmax f => Sys2Proof.Machine.execVmax f s
  | .vdiv f => Sys2Proof.Machine.execVdiv f s
  | .vand f => Sys2Proof.Machine.execVand f s
  | .vor f => Sys2Proof.Machine.execVor f s
  | .vxor f => Sys2Proof.Machine.execVxor f s
  | .vshl f => Sys2Proof.Machine.execVshl f s
  | .vshr f => Sys2Proof.Machine.execVshr f s
  | .vsha f => Sys2Proof.Machine.execVsha f s
  | .vdot f => Sys2Proof.Machine.execVdot f s
  | .vabs f => Sys2Proof.Machine.execVabs f s
  | .vneg f => Sys2Proof.Machine.execVneg f s
  | .vsqrt f => Sys2Proof.Machine.execVsqrt f s
  | .vrcp f => Sys2Proof.Machine.execVrcp f s
  | .vrsq f => Sys2Proof.Machine.execVrsq f s
  | .vexp2 f => Sys2Proof.Machine.execVexp2 f s
  | .vcmp f => Sys2Proof.Machine.execVcmp f s
  | .vsel f => Sys2Proof.Machine.execVsel f s
  | .vmaskAnd f => Sys2Proof.Machine.execVmaskAnd f s
  | .vmaskOr f => Sys2Proof.Machine.execVmaskOr f s
  | .vmaskXor f => Sys2Proof.Machine.execVmaskXor f s
  | .vmaskAndn f => Sys2Proof.Machine.execVmaskAndn f s
  | .vmaskNot f => Sys2Proof.Machine.execVmaskNot f s
  | .vmaskSet f => Sys2Proof.Machine.execVmaskSet f s
  | .vmaskGet f => Sys2Proof.Machine.execVmaskGet f s
  | .viota f => Sys2Proof.Machine.execViota f s
  | .vmov f => Sys2Proof.Machine.execVmov f s
  | .vbcast f => Sys2Proof.Machine.execVbcast f s
  | .vext f => Sys2Proof.Machine.execVext f s
  | .vins f => Sys2Proof.Machine.execVins f s
  | .vshuf f => Sys2Proof.Machine.execVshuf f s
  | .vrot f => Sys2Proof.Machine.execVrot f s
  | .vreds f => Sys2Proof.Machine.execVreds f s
  | .vredmMin f => Sys2Proof.Machine.execVredmMin f s
  | .vredmMax f => Sys2Proof.Machine.execVredmMax f s
  | .vscan f => Sys2Proof.Machine.execVscan f s
  | .vcvt f => Sys2Proof.Machine.execVcvt f s
  | .vwidn f => Sys2Proof.Machine.execVwidn f s
  | .vnarr f => Sys2Proof.Machine.execVnarr f s
  | .vqnt f => Sys2Proof.Machine.execVqnt f s
  | .vdqt f => Sys2Proof.Machine.execVdqt f s
  | .vsprs f => Sys2Proof.Machine.execVsprs f s
  | .vxpnd f => Sys2Proof.Machine.execVxpnd f s
  | .ld f => Sys2Proof.Machine.execLd f s
  | .st f => Sys2Proof.Machine.execSt f s
  | .ldv f => Sys2Proof.Machine.execLdv f s
  | .stv f => Sys2Proof.Machine.execStv f s
  | .vlds f => Sys2Proof.Machine.execVlds f s
  | .vsts f => Sys2Proof.Machine.execVsts f s
  | .vgath f => Sys2Proof.Machine.execVgath f s
  | .vscat f => Sys2Proof.Machine.execVscat f s
  | .pref f => Sys2Proof.Machine.execPref f s
  | .wbk f => Sys2Proof.Machine.execWbk f s
  | .invl f => Sys2Proof.Machine.execInvl f s
  | .fence f => Sys2Proof.Machine.execFence f s
  | .atadd f => Sys2Proof.Machine.execAtadd f s
  | .atsub f => Sys2Proof.Machine.execAtsub f s
  | .atmin f => Sys2Proof.Machine.execAtmin f s
  | .atmax f => Sys2Proof.Machine.execAtmax f s
  | .atand f => Sys2Proof.Machine.execAtand f s
  | .ator f => Sys2Proof.Machine.execAtor f s
  | .atxor f => Sys2Proof.Machine.execAtxor f s
  | .atswp f => Sys2Proof.Machine.execAtswp f s
  | .atcas f => Sys2Proof.Machine.execAtcas f s
  | .atfadd f => Sys2Proof.Machine.execAtfadd f s
  | .atinc f => Sys2Proof.Machine.execAtinc f s
  | .cpyIn f => Sys2Proof.Machine.execCpyIn f s
  | .cpyOut f => Sys2Proof.Machine.execCpyOut f s
  | .cpyGlobal f => Sys2Proof.Machine.execCpyGlobal f s
  | .cpy2dIn f => Sys2Proof.Machine.execCpy2dIn f s
  | .cpy2dOut f => Sys2Proof.Machine.execCpy2dOut f s
  | .cpyl f => Sys2Proof.Machine.execCpyl f s
  | .cwait f => Sys2Proof.Machine.execCwait f s
  | .tobj f => Sys2Proof.Machine.execTobj f s
  | .tdefBox f => Sys2Proof.Machine.execTdefBox f s
  | .tdefSpan f => Sys2Proof.Machine.execTdefSpan f s
  | .tacq f => Sys2Proof.Machine.execTacq f s
  | .ttry f => Sys2Proof.Machine.execTtry f s
  | .trel f => Sys2Proof.Machine.execTrel f s
  | .tdrop f => Sys2Proof.Machine.execTdrop f s
  | .tqry f => Sys2Proof.Machine.execTqry f s
  | .tsplt f => Sys2Proof.Machine.execTsplt f s
  | .mldbLocal f => Sys2Proof.Machine.execMldbLocal f s
  | .mldbTile f => Sys2Proof.Machine.execMldbTile f s
  | .mmaLocal f => Sys2Proof.Machine.execMmaLocal f s
  | .mmaTile f => Sys2Proof.Machine.execMmaTile f s
  | .mclr f => Sys2Proof.Machine.execMclr f s
  | .mdrn f => Sys2Proof.Machine.execMdrn f s
  | .mhnd f => Sys2Proof.Machine.execMhnd f s
  | .mwait f => Sys2Proof.Machine.execMwait f s
  | .mcmd f => Sys2Proof.Machine.execMcmd f s
  | .mstat f => Sys2Proof.Machine.execMstat f s
  | .send f => Sys2Proof.Machine.execSend f s
  | .sendv f => Sys2Proof.Machine.execSendv f s
  | .sendt f => Sys2Proof.Machine.execSendt f s
  | .rls f => Sys2Proof.Machine.execRls f s
  | .poll f => Sys2Proof.Machine.execPoll f s
  | .waitq f => Sys2Proof.Machine.execWaitq f s
  | .spawn f => Sys2Proof.Machine.execSpawn f s
  | .spawnr f => Sys2Proof.Machine.execSpawnr f s
  | .rnext f => Sys2Proof.Machine.execRnext f s
  | .done f => Sys2Proof.Machine.execDone f s
  | .lnch f => Sys2Proof.Machine.execLnch f s
  | .wcfg f => Sys2Proof.Machine.execWcfg f s
  | .wqry f => Sys2Proof.Machine.execWqry f s
  | .bar f => Sys2Proof.Machine.execBar f s
  | .bara f => Sys2Proof.Machine.execBara f s
  | .barw f => Sys2Proof.Machine.execBarw f s
  | .wake f => Sys2Proof.Machine.execWake f s
  | .sleep f => Sys2Proof.Machine.execSleep f s
  | .evq f => Sys2Proof.Machine.execEvq f s
  | .ratq f => Sys2Proof.Machine.execRatq f s
  | .ratr f => Sys2Proof.Machine.execRatr f s
  | .trap f => Sys2Proof.Machine.execTrap f s
  | .sysc f => Sys2Proof.Machine.execSysc f s
  | .sret f => Sys2Proof.Machine.execSret f s
  | .csrr f => Sys2Proof.Machine.execCsrr f s
  | .csrw f => Sys2Proof.Machine.execCsrw f s
  | .csrx f => Sys2Proof.Machine.execCsrx f s
  | .tlbiVa f => Sys2Proof.Machine.execTlbiVa f s
  | .tlbiAs f => Sys2Proof.Machine.execTlbiAs f s
  | .tlbiAll f => Sys2Proof.Machine.execTlbiAll f s
  | .irq f => Sys2Proof.Machine.execIrq f s
  | .bkpt f => Sys2Proof.Machine.execBkpt f s
  | .halt f => Sys2Proof.Machine.execHalt f s
  | .cgrant z => Sys2Proof.Machine.execCgrant z s
  | .cderive z => Sys2Proof.Machine.execCderive z s
  | .cmove z => Sys2Proof.Machine.execCmove z s
  | .crevoke z => Sys2Proof.Machine.execCrevoke z s
  | .cread z => Sys2Proof.Machine.execCread z s
  | .ccheck z => Sys2Proof.Machine.execCcheck z s
  | .cldadv z => Sys2Proof.Machine.execCldadv z s
  | .cstadv z => Sys2Proof.Machine.execCstadv z s
  | .ccount z => Sys2Proof.Machine.execCcount z s
  | .chand z => Sys2Proof.Machine.execChand z s
  | .copyRetire tid seq => Sys2Proof.Machine.execCopyRetire tid seq s
  | .tenureGrant stack => Sys2Proof.Machine.execTenureGrant stack s
  | .tenureStallResume tid => Sys2Proof.Machine.execTenureStallResume tid s
  | .tenureWaitTrap tid => Sys2Proof.Machine.execTenureWaitTrap tid s
  | .readFill field line => Sys2Proof.Machine.execReadFill field line s
  | .e2eTimeout cube seq => Sys2Proof.Machine.execE2eTimeout cube seq s
  | .fillArrival field line => Sys2Proof.Machine.execFillArrival field line s
  | .mcmdAccept sender => Sys2Proof.Machine.execMcmdAccept sender s
  | .arrayEntryComplete tid => Sys2Proof.Machine.execArrayEntryComplete tid s
  | .handlerActivation core queue => Sys2Proof.Machine.execHandlerActivation core queue s
  | .wqryAnswer field => Sys2Proof.Machine.execWqryAnswer field s
  | .wakeArrival tid value => Sys2Proof.Machine.execWakeArrival tid value s
  | .notifyLatchDelivery tid => Sys2Proof.Machine.execNotifyLatchDelivery tid s
  | .sleepTimeout tid => Sys2Proof.Machine.execSleepTimeout tid s
  | .leaseExpiry field line => Sys2Proof.Machine.execLeaseExpiry field line s
  | .dedupTimeout stack => Sys2Proof.Machine.execDedupTimeout stack s
  | .postedStoreAck core entry => Sys2Proof.Machine.execPostedStoreAck core entry s
  | .postedStoreRefusal core entry => Sys2Proof.Machine.execPostedStoreRefusal core entry s
  | .ownershipRequest field line => Sys2Proof.Machine.execOwnershipRequest field line s
  | .flagorSet field flags => Sys2Proof.Machine.execFlagorSet field flags s
  | .activation core task => Sys2Proof.Machine.execActivation core task s
  | .issueSlotFill core => Sys2Proof.Machine.execIssueSlotFill core s
  | .take field => Sys2Proof.Machine.execTake field s
  | .aging field stamp => Sys2Proof.Machine.execAging field stamp s
  | .slotPriorityRise tid => Sys2Proof.Machine.execSlotPriorityRise tid s
  | .quiesceStart core => Sys2Proof.Machine.execQuiesceStart core s
  | .quiesceComplete core => Sys2Proof.Machine.execQuiesceComplete core s
  | .rangeSplit core => Sys2Proof.Machine.execRangeSplit core s
  | .splitPublish field => Sys2Proof.Machine.execSplitPublish field s
  | .stageRelease lid stage => Sys2Proof.Machine.execStageRelease lid stage s
  | .launchCompletion lid => Sys2Proof.Machine.execLaunchCompletion lid s
  | .fieldSwitchComplete field => Sys2Proof.Machine.execFieldSwitchComplete field s
  | .fieldTimerCompare field => Sys2Proof.Machine.execFieldTimerCompare field s
  | .eclipseAlignTick part => Sys2Proof.Machine.execEclipseAlignTick part s
  | .eclipseFreeze part => Sys2Proof.Machine.execEclipseFreeze part s
  | .eclipseRestart part => Sys2Proof.Machine.execEclipseRestart part s
  | .surrenderDone field => Sys2Proof.Machine.execSurrenderDone field s
  | .wayRestoreDone field => Sys2Proof.Machine.execWayRestoreDone field s
  | .flushComplete core => Sys2Proof.Machine.execFlushComplete core s
  | .shootdownAck field => Sys2Proof.Machine.execShootdownAck field s
  | .tlbMissWalk field => Sys2Proof.Machine.execTlbMissWalk field s
  | .walkComplete field => Sys2Proof.Machine.execWalkComplete field s
  | .pageFill core => Sys2Proof.Machine.execPageFill core s
  | .regionRecordMerge stack slot => Sys2Proof.Machine.execRegionRecordMerge stack slot s
  | .collectiveContribution group cube word value => Sys2Proof.Machine.execCollectiveContribution group cube word value s
  | .pieceRejoin stack slot => Sys2Proof.Machine.execPieceRejoin stack slot s
  | .packetReceive link packet => Sys2Proof.Machine.execPacketReceive link packet s
  | .postedStoreTrap tid => Sys2Proof.Machine.execPostedStoreTrap tid s
  | .writeBack field line => Sys2Proof.Machine.execWriteBack field line s
  | .landing tid => Sys2Proof.Machine.execLanding tid s
  | .tqfree field slots => Sys2Proof.Machine.execTqfree field slots s
  | .fetchPoisonRefetch tid => Sys2Proof.Machine.execFetchPoisonRefetch tid s
  | .softError site corrected => Sys2Proof.Machine.execSoftError site corrected s
  | .bindc value => Sys2Proof.Machine.execBindc value s
  | .capWrite value => Sys2Proof.Machine.execCapWrite value s
  | .coefWrite d n value => Sys2Proof.Machine.execCoefWrite d n value s
  | .leakWrite value => Sys2Proof.Machine.execLeakWrite value s
  | .thotTokWrite value => Sys2Proof.Machine.execThotTokWrite value s
  | .beacon count wrapn => Sys2Proof.Machine.execBeacon count wrapn s
  | .ftcmpWrite field value => Sys2Proof.Machine.execFtcmpWrite field value s
  | .eclipseAssert part => Sys2Proof.Machine.execEclipseAssert part s
  | .eclipseRelease part => Sys2Proof.Machine.execEclipseRelease part s
  | .scanRead sel => Sys2Proof.Machine.execScanRead sel s
  | .scanWrite sel value => Sys2Proof.Machine.execScanWrite sel value s
  | .surrender field => Sys2Proof.Machine.execSurrender field s
  | .wayRestore field => Sys2Proof.Machine.execWayRestore field s
  | .fpartWrite field value => Sys2Proof.Machine.execFpartWrite field value s
  | .flush core => Sys2Proof.Machine.execFlush core s
  | .resume core => Sys2Proof.Machine.execResume core s
  | .pshareWrite part value => Sys2Proof.Machine.execPshareWrite part value s
  | .pctlWrite part value => Sys2Proof.Machine.execPctlWrite part value s
  | .sdcmdVa asid => Sys2Proof.Machine.execSdcmdVa asid s
  | .sdcmdAs asid => Sys2Proof.Machine.execSdcmdAs asid s
  | .sdcmdAll part => Sys2Proof.Machine.execSdcmdAll part s
  | .rsctlGo entry => Sys2Proof.Machine.execRsctlGo entry s
  | .lineDrowsy tid line => Sys2Proof.Machine.execLineDrowsy tid line s
  | .snapshot stack part => Sys2Proof.Machine.execSnapshot stack part s
  | .lateFaultDelivery tid => Sys2Proof.Machine.execLateFaultDelivery tid s
  | .snapshotRestore stack part => Sys2Proof.Machine.execSnapshotRestore stack part s
  | .rplctl part value => Sys2Proof.Machine.execRplctl part value s
  | .flitReceive link flit => Sys2Proof.Machine.execFlitReceive link flit s
  | .invalidationArrival field line seq => Sys2Proof.Machine.execInvalidationArrival field line seq s
  | .pcieInboundWrite addr data => Sys2Proof.Machine.execPcieInboundWrite addr data s
  | .pcieInboundRead addr length => Sys2Proof.Machine.execPcieInboundRead addr length s
  | .pcieHotPlug slot present attention power => Sys2Proof.Machine.execPcieHotPlug slot present attention power s
  | .rbadv value => Sys2Proof.Machine.execRbadv value s
  | .mext value => Sys2Proof.Machine.execMext value s
  | .registerWrite addr value => Sys2Proof.Machine.execRegisterWrite addr value s
  | .linkTraining link up neighbour => Sys2Proof.Machine.execLinkTraining link up neighbour s
  | .temperatureChange sensors => Sys2Proof.Machine.execTemperatureChange sensors s
  | .launchQueueEntry => Sys2Proof.Machine.execLaunchQueueEntry s
  | .grantRun => Sys2Proof.Machine.execGrantRun s
  | .raisedSwitchStart => Sys2Proof.Machine.execRaisedSwitchStart s
  | .tcapStep => Sys2Proof.Machine.execTcapStep s
  | .criticalTemperature => Sys2Proof.Machine.execCriticalTemperature s
  | .thermtrip => Sys2Proof.Machine.execThermtrip s
  | .wrapAnnounce => Sys2Proof.Machine.execWrapAnnounce s
  | .wrapComplete => Sys2Proof.Machine.execWrapComplete s
  | .fwrap => Sys2Proof.Machine.execFwrap s
  | .beaconLoss => Sys2Proof.Machine.execBeaconLoss s
  | .restripeGranule => Sys2Proof.Machine.execRestripeGranule s
  | .rsret => Sys2Proof.Machine.execRsret s
  | .powerOnReset => Sys2Proof.Machine.execPowerOnReset s
  | .resetN => Sys2Proof.Machine.execResetN s
  | .rstctlWarm => Sys2Proof.Machine.execRstctlWarm s
  | .rstctlCold => Sys2Proof.Machine.execRstctlCold s
  | .atbusy => Sys2Proof.Machine.execAtbusy s
  | .reportSigned => Sys2Proof.Machine.execReportSigned s
  | .powerLoss => Sys2Proof.Machine.execPowerLoss s

end Sys2Proof.Machine
end

