-- ==== Sys2Proof/Machine/Riscv.lean ====
section
/-! DEFINITION. The instructions of the harts that the manual names by RV64GCH and Sstc (R365): the RISC-V
unprivileged and privileged architectures, with the Advanced Interrupt Architecture (R366). The manual gives
them by that name alone; what is here is the architecture's own (log 124). -/

namespace Sys2Proof.Machine

open Sys2Proof

/-! ## Interrupts (R366) -/

/-- The least identity that an interrupt file offers: pending, enabled and below its threshold. -/
def Hart.fileTop (h : Hart) (k : Nat) : Option Nat :=
  let t := look h.ithr k 0
  ((look h.imsic k []).filter (fun id => (look h.ien k []).contains id && (t == 0 || decide (id < t)))).foldl
    (fun b id => match b with | some m => some (Nat.min m id) | none => some id) none

/-- Whether a file signals its hart: eidelivery is 1. -/
def Hart.fileOn (h : Hart) (k : Nat) : Bool := look h.idel k 0 == 1 && (h.fileTop k).isSome

/-- VGEIN, and the file of the guest that it names. -/
def Hart.vgein (h : Hart) : Nat := bits h.hstatus.toNat 17 12

/-- Bit b where a condition holds. -/
def bitIf (c : Bool) (b : Nat) : Nat := if c then 2 ^ b else 0

/-- hgeip. -/
def Hart.hgeip (h : Hart) : Nat := ((List.range 7).map (fun g => bitIf (h.fileOn (g + 2)) (g + 1))).sum

/-- mip, at a value of mtime: what software set, the timers of Sstc, and what the interrupt files signal. -/
def Hart.mip (h : Hart) (time : Nat) : Nat :=
  let sw := h.c 0x344
  let hv := h.c 0x645
  let stce := bit (h.c 0x30A) 63
  bitIf (bit sw 1) 1 + bitIf (bit hv 2) 2 + bitIf (if stce then decide (h.c 0x14D ≤ time) else bit sw 5) 5 +
  bitIf (bit hv 6 || (bit (h.c 0x60A) 63 && decide (h.c 0x24D ≤ (time + h.c 0x605) % 2 ^ 64))) 6 +
  bitIf (bit sw 9 || h.fileOn 1) 9 + bitIf (bit hv 10 || bit h.hgeip h.vgein) 10 + bitIf (h.fileOn 0) 11 +
  bitIf (h.hgeip &&& h.c 0x607 != 0) 12

/-- mideleg as it reads: the interrupts of a guest are always delegated. -/
def Hart.mideleg (h : Hart) : Nat := h.c 0x303 ||| 0x1444

/-- The interrupts in the order in which they are taken. -/
def irqOrder : List Nat := [11, 3, 7, 9, 1, 5, 12, 10, 2, 6]

/-- The first of a set of interrupts. -/
def topIrq (set : Nat) : Option Nat := irqOrder.find? (bit set)

/-- Those pending, enabled, and to be taken at M-, HS- or VS-level. -/
def Hart.irqsM (h : Hart) (time : Nat) : Nat := h.mip time &&& h.c 0x304 &&& (0x1FFF ^^^ h.mideleg)
def Hart.irqsS (h : Hart) (time : Nat) : Nat := h.mip time &&& h.c 0x304 &&& h.mideleg &&& (0x1FFF ^^^ h.c 0x603)
def Hart.irqsV (h : Hart) (time : Nat) : Nat := h.mip time &&& h.c 0x304 &&& h.mideleg &&& h.c 0x603

/-- Where a vectored trap goes. -/
def vecTo (v : Word) (code : Nat) : Word := vecBase v + (if v.toNat % 4 = 1 then w64 (4 * code) else 0)

/-- A hart takes an interrupt at M-, HS- or VS-level. -/
def Hart.interruptM (h : Hart) (code : Nat) : Hart :=
  { h.take { code := 64, tval := 0, addr := false } with mcause := w64 (2 ^ 63 + code), pc := vecTo h.mtvec code }
def Hart.interruptS (h : Hart) (code : Nat) : Hart :=
  { { h with medeleg := w64 (2 ^ 40), hedeleg := 0 }.take { code := 40, tval := 0, addr := false } with
    medeleg := h.medeleg, hedeleg := h.hedeleg, scause := w64 (2 ^ 63 + code), pc := vecTo h.stvec code }
def Hart.interruptV (h : Hart) (code : Nat) : Hart :=
  { { h with medeleg := w64 (2 ^ 40), hedeleg := w64 (2 ^ 40) }.take { code := 40, tval := 0, addr := false } with
    medeleg := h.medeleg, hedeleg := h.hedeleg, vscause := w64 (2 ^ 63 + (code - 1)), pc := vecTo h.vstvec (code - 1) }

/-- The interrupt that a hart takes before its next instruction. -/
def Hart.interrupted (h : Hart) (time : Nat) : Option Hart :=
  let onM := h.mode != .m || bit h.mstatus.toNat 3
  let onS := h.mode == .u || h.mode.virt || (h.mode == .hs && bit h.mstatus.toNat 1)
  let onV := h.mode == .vu || (h.mode == .vs && bit h.vsstatus.toNat 1)
  match (if onM then topIrq (h.irqsM time) else none), (if onS then topIrq (h.irqsS time) else none),
      (if onV then topIrq (h.irqsV time) else none) with
  | some c, _, _ => some (h.interruptM c)
  | none, some c, _ => some (h.interruptS c)
  | none, none, some c => some (h.interruptV c)
  | none, none, none => none

/-! ## Control and status registers -/

def hVirtualInstr {α : Type} : Z α := fun s =>
  let (n, s1) := s.tick
  .error { code := hVirtual, tval := Config.freeWord n, addr := false } s1

/-- What an instruction that is not permitted raises: illegal, or virtual where only virtualisation forbids it. -/
def hForbid {α : Type} (virt : Bool) : Z α := if virt then hVirtualInstr else hIllegalInstr

/-- The register that a guest's access to a supervisor register reaches. -/
def vsAlias (n : Nat) : Nat :=
  if [0x100, 0x104, 0x105, 0x140, 0x141, 0x142, 0x143, 0x144, 0x14D, 0x150, 0x151, 0x15C, 0x180].contains n then n + 0x100
  else if n = 0xDB0 then 0xEB0 else n

/-- The privilege of a mode as register numbers count it: 3 machine, 2 hypervisor, 1 supervisor, 0 user. -/
def HMode.csrLevel (w : HMode) : Nat := match w with | .m => 3 | .hs => 2 | .vs => 1 | _ => 0

/-- Whether floating point is on. -/
def Hart.fpOn (h : Hart) : Bool := bits h.mstatus.toNat 14 13 != 0 && (!h.mode.virt || bits h.vsstatus.toNat 14 13 != 0)

/-- Whether a mode may reach a counter, or the timer compare of Sstc under STCE: bit b of the enables. -/
def counterLegal (h : Hart) (b : Nat) (stce : Bool) : Z Unit := do
  if h.mode == .m then pure ()
  else if !bit (h.c 0x306) b || (stce && !bit (h.c 0x30A) 63) then hIllegalInstr
  else if h.mode.virt && (!bit (h.c 0x606) b || (stce && !bit (h.c 0x60A) 63)) then hVirtualInstr
  else if (h.mode == .u || h.mode == .vu) && !bit (h.c 0x106) b then hForbid h.mode.virt

/-- Whether the mode may reach a register. -/
def csrLegal (n : Nat) (write : Bool) : Z Unit := do
  let h ← hartRegs
  let lvl := bits n 9 8
  if bits n 11 10 = 3 && write then hIllegalInstr
  if h.mode.virt then
    if lvl = 3 then hIllegalInstr
    else if lvl = 2 || (lvl = 1 && h.mode == .vu) then hVirtualInstr
  else if h.mode.csrLevel < lvl then hIllegalInstr
  if n ≤ 3 && !h.fpOn then hIllegalInstr
  if n = 0x180 && h.mode == .hs && bit h.mstatus.toNat 20 then hIllegalInstr
  if n = 0x180 && h.mode == .vs && bit h.hstatus.toNat 20 then hVirtualInstr
  if n = 0x680 && h.mode == .hs && bit h.mstatus.toNat 20 then hIllegalInstr
  if n = 0x14D || n = 0x24D then counterLegal h 1 true
  if 0xC00 ≤ n && n < 0xC20 then counterLegal h (n - 0xC00) false

/-- The status bits that software writes: mstatus, hstatus, sstatus and vsstatus. -/
def mstatusMask : Nat := 0xC0007E79AA
def hstatusMask : Nat := 0x73F3C0
def sstatusMask : Nat := 0xC6122
/-- UXL and SXL read as 2, SD as the summary of FS. -/
def statusRead (v : Word) (sxl : Bool) : Nat :=
  v.toNat ||| 2 ^ 33 ||| (if sxl then 2 ^ 35 else 0) ||| (if bits v.toNat 14 13 = 3 then 2 ^ 63 else 0)

/-- Some bits of a value replaced. -/
def blend (old v mask : Nat) : Nat := (old &&& (2 ^ 64 - 1 ^^^ mask)) ||| (v &&& mask)

/-- A file that an indirect register reaches: 0 machine, 1 supervisor, the guest's; none when VGEIN names none. -/
def Hart.fileOf (h : Hart) (n : Nat) : Option Nat :=
  if n = 0x350 then some 0 else if n = 0x150 then some 1
  else if 1 ≤ h.vgein && h.vgein ≤ 7 then some (h.vgein + 1) else none

/-- 64 identities of a list, as a word. -/
def idWord (l : List Nat) (k : Nat) : Nat := ((List.range 64).map (fun i => bitIf (l.contains (64 * k + i)) i)).sum
/-- The list with the 64 identities of a word; identity 0 and those above 2,047 do not exist. -/
def idPut (l : List Nat) (k v : Nat) : List Nat :=
  l.filter (fun id => id / 64 != k) ++ ((List.range 64).filter (fun i => bit v i && 64 * k + i != 0)).map (fun i => 64 * k + i)

/-- An indirect register, by its select register: the value, if it exists. -/
def Hart.indirect (h : Hart) (sel : Nat) : Option Nat :=
  let n := h.c sel
  if 0x30 ≤ n && n < 0x40 && n % 2 = 0 && sel ≠ 0x250 then some 0
  else
    match h.fileOf sel with
    | none => none
    | some k =>
      if n = 0x70 then some (look h.idel k 0)
      else if n = 0x72 then some (look h.ithr k 0)
      else if 0x80 ≤ n && n < 0xC0 && n % 2 = 0 then some (idWord (look h.imsic k []) ((n - 0x80) / 2))
      else if 0xC0 ≤ n && n < 0x100 && n % 2 = 0 then some (idWord (look h.ien k []) ((n - 0xC0) / 2))
      else none

def Hart.setIndirect (h : Hart) (sel v : Nat) : Hart :=
  let n := h.c sel
  match h.fileOf sel with
  | none => h
  | some k =>
    if n = 0x70 then (if v ≤ 1 then { h with idel := put h.idel k v } else h)
    else if n = 0x72 then (if v ≤ 2047 then { h with ithr := put h.ithr k v } else h)
    else if 0x80 ≤ n && n < 0xC0 then { h with imsic := put h.imsic k (idPut (look h.imsic k []) ((n - 0x80) / 2) v) }
    else if 0xC0 ≤ n && n < 0x100 then { h with ien := put h.ien k (idPut (look h.ien k []) ((n - 0xC0) / 2) v) }
    else h

/-- The top external interrupt of a file, as its topei register reads; a write claims it. -/
def Hart.topei (h : Hart) (k : Nat) : Nat := match h.fileTop k with | some id => id * 65536 + id | none => 0
def Hart.claim (h : Hart) (k : Nat) : Hart :=
  match h.fileTop k with
  | some id => { h with imsic := put h.imsic k ((look h.imsic k []).filter (fun i => i != id)) }
  | none => h

/-- The top interrupt of a level, as its topi register reads. -/
def topi (set : Nat) : Nat := match topIrq set with | some c => c * 65536 + 1 | none => 0

/-- misa: RV64 with A, C, D, F, H, I, M, S and U. -/
def misa : Nat := 2 ^ 63 + 2 ^ 20 + 2 ^ 18 + 2 ^ 12 + 2 ^ 8 + 2 ^ 7 + 2 ^ 5 + 2 ^ 3 + 2 ^ 2 + 1

/-- Registers that hold what is written, under a mask. -/
def csrMask (n : Nat) : Option Nat :=
  match n with
  | 0x303 => some 0x222
  | 0x304 => some 0x1EEE
  | 0x603 => some 0x444
  | 0x605 | 0x140 | 0x240 | 0x340 | 0x14D | 0x24D | 0x643 | 0x64A | 0x34A | 0x34B => some (2 ^ 64 - 1)
  | 0x607 => some 0xFE
  | 0x106 | 0x306 | 0x606 | 0x320 => some 0xFFFFFFFF
  | 0x30A | 0x60A => some (2 ^ 63 + 1)
  | 0x10A => some 1
  | 0x608 | 0x609 | 0x646 | 0x647 => some 0
  | 0x150 | 0x250 | 0x350 => some 0x1FF
  | 0xB00 | 0xB02 => some (2 ^ 64 - 1)
  | 0x645 => some 0x444
  | _ =>
    if 0x3B0 ≤ n && n < 0x3C0 then some (2 ^ 54 - 1)
    else if n = 0x3A0 || n = 0x3A2 then some 0x9F9F9F9F9F9F9F9F
    else if (0x3A4 ≤ n && n < 0x3B0 && n % 2 = 0) || (0x3C0 ≤ n && n < 0x3F0) || (0xB03 ≤ n && n < 0xB20) ||
        (0x323 ≤ n && n < 0x340) then some 0
    else none

/-- What a register reads as, if it exists. -/
def Hart.csrGet (h : Hart) (time no n : Nat) : Option Nat :=
  match n with
  | 0x001 => some (bits (h.c 3) 4 0)
  | 0x002 => some (bits (h.c 3) 7 5)
  | 0x003 => some (h.c 3)
  | 0x100 => some (statusRead h.mstatus false &&& (sstatusMask ||| 2 ^ 33 ||| 2 ^ 63))
  | 0x300 => some (statusRead h.mstatus true)
  | 0x200 => some (statusRead h.vsstatus false)
  | 0x600 => some (h.hstatus.toNat ||| 2 ^ 33)
  | 0x104 => some (h.c 0x304 &&& h.mideleg &&& 0x222)
  | 0x144 => some (h.mip time &&& h.mideleg &&& 0x222)
  | 0x204 => some ((h.c 0x304 &&& h.c 0x603 &&& 0x444) / 2)
  | 0x244 => some ((h.mip time &&& h.c 0x603 &&& 0x444) / 2)
  | 0x604 => some (h.c 0x304 &&& 0x1444)
  | 0x644 => some (h.mip time &&& 0x1444)
  | 0x303 => some h.mideleg
  | 0x344 => some (h.mip time)
  | 0x105 => some h.stvec.toNat
  | 0x141 => some h.sepc.toNat
  | 0x142 => some h.scause.toNat
  | 0x143 => some h.stval.toNat
  | 0x205 => some h.vstvec.toNat
  | 0x241 => some h.vsepc.toNat
  | 0x242 => some h.vscause.toNat
  | 0x243 => some h.vstval.toNat
  | 0x305 => some h.mtvec.toNat
  | 0x341 => some h.mepc.toNat
  | 0x342 => some h.mcause.toNat
  | 0x343 => some h.mtval.toNat
  | 0x302 => some h.medeleg.toNat
  | 0x602 => some h.hedeleg.toNat
  | 0x180 | 0x280 | 0x680 => some (h.c n)
  | 0x301 => some misa
  | 0x151 | 0x251 | 0x351 => h.indirect (n - 1)
  | 0x15C => some (h.topei 1)
  | 0x25C => if (h.fileOf 0x250).isSome then some (h.topei (h.vgein + 1)) else none
  | 0x35C => some (h.topei 0)
  | 0xDB0 => some (topi (h.irqsS time))
  | 0xEB0 => some (topi (h.irqsV time) - (if (topIrq (h.irqsV time)).isSome then 65536 else 0))
  | 0xFB0 => some (topi (h.irqsM time))
  | 0xE12 => some h.hgeip
  | 0xC00 => some (h.c 0xB00)
  | 0xC01 => some ((time + (if h.mode.virt then h.c 0x605 else 0)) % 2 ^ 64)
  | 0xC02 => some (h.c 0xB02)
  | 0xF11 | 0xF12 | 0xF13 | 0xF15 => some 0
  | 0xF14 => some no
  | _ =>
    if 0xC03 ≤ n && n < 0xC20 then some 0
    else (csrMask n).map (fun _ => h.c n)

/-- A legal translation mode is taken, with its address space; another leaves the register as it is. -/
def Hart.setAtp (h : Hart) (n v : Nat) : Hart :=
  if [0, 8, 9, 10].contains (bits v 63 60) then
    h.putC n (if n = 0x680 then v / 2 ^ 60 * 2 ^ 60 + bits v 57 44 * 2 ^ 44 + bits v 43 2 * 4 else v)
  else h

/-- mstatus as written: a reserved MPP keeps the old one. -/
def Hart.setMstatus (h : Hart) (v mask : Nat) : Hart :=
  let m := if bits v 12 11 = 2 then mask &&& (2 ^ 64 - 1 ^^^ 0x1800) else mask
  { h with mstatus := w64 (blend h.mstatus.toNat v m) }

/-- hstatus as written: VGEIN names one of seven guests or none. -/
def Hart.setHstatus (h : Hart) (v : Nat) : Hart :=
  let m := if bits v 17 12 > 7 then hstatusMask &&& (2 ^ 64 - 1 ^^^ 0x3F000) else hstatusMask
  { h with hstatus := w64 (blend h.hstatus.toNat v m) }

/-- Configuration bytes of protection: a locked entry and a reserved combination keep the old byte. -/
def Hart.setPmpcfg (h : Hart) (n v : Nat) : Hart :=
  let old := h.c n
  h.putC n (((List.range 8).map (fun i =>
    let o := bits old (8 * i + 7) (8 * i)
    let b := bits v (8 * i + 7) (8 * i) &&& 0x9F
    (if bit o 7 || (!bit b 0 && bit b 1) then o else b) * 2 ^ (8 * i))).sum)

/-- An address of protection: kept while its entry is locked, or the next one is locked and counts from it. -/
def Hart.setPmpaddr (h : Hart) (i v : Nat) : Hart :=
  let cfg := fun (i : Nat) => bits (h.c (0x3A0 + i / 8 * 2)) (8 * (i % 8) + 7) (8 * (i % 8))
  if bit (cfg i) 7 || (i < 15 && bit (cfg (i + 1)) 7 && bits (cfg (i + 1)) 4 3 == 1) then h
  else h.putC (0x3B0 + i) (v % 2 ^ 54)

/-- A trap vector as written: direct or vectored. -/
def vecPut (v : Nat) : Word := w64 (v &&& (2 ^ 64 - 1 ^^^ 2))
/-- A return address as written. -/
def epcPut (v : Nat) : Word := w64 (v / 2 * 2)

/-- A register takes a value. -/
def Hart.csrSet (h : Hart) (n v : Nat) : Hart :=
  match n with
  | 0x001 => h.putC 3 (blend (h.c 3) v 0x1F)
  | 0x002 => h.putC 3 (blend (h.c 3) (v % 8 * 32) 0xE0)
  | 0x003 => h.putC 3 (v % 256)
  | 0x100 => h.setMstatus v sstatusMask
  | 0x300 => h.setMstatus v mstatusMask
  | 0x200 => { h with vsstatus := w64 (blend h.vsstatus.toNat v sstatusMask) }
  | 0x600 => h.setHstatus v
  | 0x104 => h.putC 0x304 (blend (h.c 0x304) v (h.mideleg &&& 0x222))
  | 0x144 => h.putC 0x344 (blend (h.c 0x344) v (h.mideleg &&& 2))
  | 0x204 => h.putC 0x304 (blend (h.c 0x304) (2 * v) (h.c 0x603 &&& 0x444))
  | 0x244 => h.putC 0x645 (blend (h.c 0x645) (2 * v) (h.c 0x603 &&& 4))
  | 0x604 => h.putC 0x304 (blend (h.c 0x304) v 0x1444)
  | 0x644 => h.putC 0x645 (blend (h.c 0x645) v 4)
  | 0x344 => (h.putC 0x344 (blend (h.c 0x344) v 0x222)).putC 0x645 (blend (h.c 0x645) v 4)
  | 0x105 => { h with stvec := vecPut v }
  | 0x141 => { h with sepc := epcPut v }
  | 0x142 => { h with scause := w64 v }
  | 0x143 => { h with stval := w64 v }
  | 0x205 => { h with vstvec := vecPut v }
  | 0x241 => { h with vsepc := epcPut v }
  | 0x242 => { h with vscause := w64 v }
  | 0x243 => { h with vstval := w64 v }
  | 0x305 => { h with mtvec := vecPut v }
  | 0x341 => { h with mepc := epcPut v }
  | 0x342 => { h with mcause := w64 v }
  | 0x343 => { h with mtval := w64 v }
  | 0x302 => { h with medeleg := w64 (v &&& 0x1F8B7FF) }
  | 0x602 => { h with hedeleg := w64 (v &&& 0x108B1FF) }
  | 0x180 | 0x280 | 0x680 => h.setAtp n v
  | 0x151 | 0x251 | 0x351 => h.setIndirect (n - 1) v
  | 0x15C => h.claim 1
  | 0x25C => h.claim (h.vgein + 1)
  | 0x35C => h.claim 0
  -- the instruction that writes minstret is counted after its write
  | 0xB02 => h.putC n (v + 2 ^ 64 - 1)
  | 0x3A0 | 0x3A2 => h.setPmpcfg n v
  | _ =>
    if 0x3B0 ≤ n && n < 0x3C0 then h.setPmpaddr (n - 0x3B0) v
    else
      match csrMask n with
      | some m => h.putC n (v &&& m)
      | none => h

/-- Floating-point state has been written: FS is dirty. -/
def Hart.fpDirty (h : Hart) : Hart :=
  { h with mstatus := setBits h.mstatus 14 13 3, vsstatus := if h.mode.virt then setBits h.vsstatus 14 13 3 else h.vsstatus }

/-- The running hart's registers change. -/
def onHart (g : Hart → Hart) : Z Unit := fun s => .ok () (s.setHart s.hartNo (g (s.hart s.hartNo)))

/-- csrrw, csrrs, csrrc and their immediate forms. -/
def rvCsr (f3 n : Nat) (rd rs1 : BitVec 5) : Z Unit := do
  let h ← hartRegs
  let src := if 4 ≤ f3 then w64 rs1.toNat else h.x rs1
  let writes := f3 % 4 = 1 || rs1 ≠ 0
  csrLegal n writes
  let m := if h.mode.virt then vsAlias n else n
  let (time, no) ← (fun s => .ok (s.zen.mtime.toNat, s.hartNo) s : Z (Nat × Nat))
  match h.csrGet time no m with
  | none => hForbid (m == 0x251 || m == 0x25C)
  | some old =>
    let v := match f3 % 4 with
      | 1 => src.toNat
      | 2 => old ||| src.toNat
      | _ => old &&& (2 ^ 64 - 1 ^^^ src.toNat)
    if writes then onHart (fun h => (if n ≤ 3 then h.fpDirty else h).csrSet m v)
    setRd rd (w64 old)

/-! ## Integer arithmetic -/

/-- The low 32 bits, sign-extended. -/
def sx32 (v : Word) : Word := (v.extractLsb' 0 32).signExtend 64

/-- An operation of OP and OP-IMM. -/
def aluOp (f3 : Nat) (alt : Bool) (a b : Word) : Word :=
  match f3 with
  | 0 => if alt then a - b else a + b
  | 1 => a <<< (b.toNat % 64)
  | 2 => b2w (a.slt b)
  | 3 => b2w (a.ult b)
  | 4 => a ^^^ b
  | 5 => if alt then a.sshiftRight (b.toNat % 64) else a >>> (b.toNat % 64)
  | 6 => a ||| b
  | _ => a &&& b

/-- An operation of OP-32 and OP-IMM-32. -/
def aluOp32 (f3 : Nat) (alt : Bool) (a b : Word) : Option Word :=
  let x := a.extractLsb' 0 32
  match f3 with
  | 0 => some (sx32 (if alt then a - b else a + b))
  | 1 => some ((x <<< (b.toNat % 32)).signExtend 64)
  | 5 => some ((if alt then x.sshiftRight (b.toNat % 32) else x >>> (b.toNat % 32)).signExtend 64)
  | _ => none

/-- Division toward zero on w bits; by zero −1, the dividend as remainder; overflow gives the dividend and 0. -/
def divS (w : Nat) (a b : BitVec w) : BitVec w := if b = 0 then BitVec.allOnes w else a.sdiv b
def remS (w : Nat) (a b : BitVec w) : BitVec w := if b = 0 then a else a.srem b
def divU (w : Nat) (a b : BitVec w) : BitVec w := if b = 0 then BitVec.allOnes w else a / b
def remU (w : Nat) (a b : BitVec w) : BitVec w := if b = 0 then a else a % b

/-- The high half of a product of two integers. -/
def mulHigh (a b : Int) : Word := BitVec.ofInt 64 (a * b / 2 ^ 64)

/-- An operation of the M extension. -/
def mulOp (f3 : Nat) (a b : Word) : Word :=
  match f3 with
  | 0 => a * b
  | 1 => mulHigh a.toInt b.toInt
  | 2 => mulHigh a.toInt b.toNat
  | 3 => mulHigh a.toNat b.toNat
  | 4 => divS 64 a b
  | 5 => divU 64 a b
  | 6 => remS 64 a b
  | _ => remU 64 a b

def mulOp32 (f3 : Nat) (a b : Word) : Option Word :=
  let x := a.extractLsb' 0 32
  let y := b.extractLsb' 0 32
  match f3 with
  | 0 => some ((x * y).signExtend 64)
  | 4 => some ((divS 32 x y).signExtend 64)
  | 5 => some ((divU 32 x y).signExtend 64)
  | 6 => some ((remS 32 x y).signExtend 64)
  | 7 => some ((remU 32 x y).signExtend 64)
  | _ => none

/-- The condition of a branch. -/
def branchTaken (f3 : Nat) (a b : Word) : Option Bool :=
  match f3 with
  | 0 => some (a == b)
  | 1 => some (a != b)
  | 4 => some (a.slt b)
  | 5 => some (!a.slt b)
  | 6 => some (a.ult b)
  | 7 => some (!a.ult b)
  | _ => none

/-! ## Loads, stores and atomics -/

/-- A load of n bytes at a virtual address in a mode, byte by byte where it crosses a granule. -/
def rvLoad1 (md : HMode) (kind n : Nat) (va : Word) : Z Nat := do
  let pa ← hXlate md kind n va
  fun s => match s.hartLoad pa n with
    | .ok (v, _, s1) => .ok v s1
    | .error c => .error { code := c, tval := va, addr := true, gva := md.virt } s
def rvLoadBytes (md : HMode) (kind : Nat) (va : Word) : Nat → Z Nat
  | 0 => pure 0
  | n + 1 => do
    let b ← rvLoad1 md kind 1 va
    let r ← rvLoadBytes md kind (va + 1) n
    pure (b + 256 * r)
def rvLoad (md : HMode) (kind n : Nat) (va : Word) : Z Nat :=
  if va.toNat % 16 + n ≤ 16 then rvLoad1 md kind n va else rvLoadBytes md kind va n

/-- A store, in the same way. -/
def rvStore1 (md : HMode) (n : Nat) (va : Word) (v : Nat) : Z Unit := do
  let pa ← hXlate md 1 n va
  fun s => match s.hartStore pa n v false with
    | .ok s1 => .ok () (s1.endReservations pa)
    | .error c => .error { code := c, tval := va, addr := true, gva := md.virt } s
def rvStoreBytes (md : HMode) (va : Word) (v : Nat) : Nat → Z Unit
  | 0 => pure ()
  | n + 1 => do
    rvStore1 md 1 va (v % 256)
    rvStoreBytes md (va + 1) (v / 256) n
def rvStore (md : HMode) (n : Nat) (va : Word) (v : Nat) : Z Unit :=
  if va.toNat % 16 + n ≤ 16 then rvStore1 md n va (v % 2 ^ (8 * n)) else rvStoreBytes md va v n

/-- A loaded value of n bytes, extended. -/
def extendLoad (signed : Bool) (n v : Nat) : Word := if signed then BitVec.ofInt 64 (sextI v (8 * n)) else w64 v

/-- The value that an AMO stores. -/
def amoOp (f5 n : Nat) (old src : Nat) : Option Nat :=
  let lt := fun (signed : Bool) => if signed then decide (sextI old (8 * n) < sextI src (8 * n)) else decide (old < src)
  match f5 with
  | 0 => some ((old + src) % 2 ^ (8 * n))
  | 1 => some src
  | 4 => some (old ^^^ src)
  | 8 => some (old ||| src)
  | 12 => some (old &&& src)
  | 16 => some (if lt true then old else src)
  | 20 => some (if lt true then src else old)
  | 24 => some (if lt false then old else src)
  | 28 => some (if lt false then src else old)
  | _ => none

/-- LR, SC and the AMOs: naturally aligned, in memory. A store-conditional succeeds where the hart still holds the
reservation that a load of the same bytes made. -/
def rvAtomic (f5 n : Nat) (rd rs1 rs2 : BitVec 5) : Z Unit := do
  let h ← hartRegs
  let va := h.x rs1
  let src := (h.x rs2).toNat % 2 ^ (8 * n)
  let kind := if f5 = 2 then 0 else 1
  if f5 = 2 && rs2 ≠ 0 then hIllegalInstr
  if f5 ≠ 2 && f5 ≠ 3 && (amoOp f5 n 0 0).isNone then hIllegalInstr
  if va.toNat % n ≠ 0 then hExc (if kind = 0 then 4 else 6) va
  let pa ← hXlate h.dataMode kind n va
  if paSpace pa ≥ 0xD then hExc (accessExc kind) va
  if f5 = 2 then
    let v ← rvLoad1 h.dataMode 0 n va
    onHart (fun h => { h with resv := some (pa, n) })
    setRd rd (extendLoad true n v)
  else if f5 = 3 then
    let held ← (fun s => .ok (h.resv == some (pa, n) && (look? s.zen.cache (pa / 128)).isSome) s : Z Bool)
    if held then rvStore1 h.dataMode n va src
    onHart (fun h => { h with resv := none })
    setRd rd (b2w (!held))
  else
    let old ← (fun s => match s.hartLoad pa n with
      | .ok (v, _, s1) => .ok v s1
      | .error c => .error { code := if c = hHardware then c else 7, tval := va, addr := true } s : Z Nat)
    rvStore1 h.dataMode n va ((amoOp f5 n old src).getD 0)
    setRd rd (extendLoad true n old)

/-! ## Floating point (F, D) -/

/-- The format of a two-bit code, and its TYPE codes beside it. -/
def rvFmt : Nat → Option Nat
  | 0 => some 10
  | 1 => some 11
  | _ => none

/-- An operand: a binary32 that is not NaN-boxed counts as the canonical NaN. -/
def Hart.f (h : Hart) (ty : Nat) (r : BitVec 5) : Nat :=
  let v := (look h.fs r.toNat 0).toNat
  if ty = 11 then v else if v / 2 ^ 32 = 2 ^ 32 - 1 then v % 2 ^ 32 else qnan (fmtOf 10)

/-- A result enters a floating-point register, boxed. -/
def Hart.setF (h : Hart) (ty : Nat) (r : BitVec 5) (v : Nat) : Hart :=
  { h with fs := put h.fs r.toNat (w64 (if ty = 11 then v else v % 2 ^ 32 + (2 ^ 32 - 1) * 2 ^ 32)) }.fpDirty

/-- The exception flags in the order of fflags: NX, UF, OF, DZ, NV. -/
def rvFlags (fl : Flags) : Nat :=
  bitIf (fl.getLsbD 4) 0 + bitIf (fl.getLsbD 3) 1 + bitIf (fl.getLsbD 2) 2 + bitIf (fl.getLsbD 1) 3 + bitIf (fl.getLsbD 0) 4

def Hart.accrue (h : Hart) (fl : Flags) : Hart :=
  if fl = 0 then h else (h.putC 3 (h.c 3 ||| rvFlags fl)).fpDirty

/-- The rounding mode of an instruction, with this machine's numbers for toward −∞ and +∞; none where reserved. -/
def Hart.rvRound (h : Hart) (rm : Nat) : Option Nat :=
  match if rm = 7 then bits (h.c 3) 7 5 else rm with
  | 0 => some 0
  | 1 => some 1
  | 2 => some 3
  | 3 => some 2
  | 4 => some 4
  | _ => none

/-- Every NaN result is the canonical one. -/
def canonNan (t : Fmt) (r : Nat × Flags) : Nat × Flags := if (unpack t r.1).isNan then (qnan t, r.2) else r

/-- A result with its flags. -/
def putF (ty : Nat) (rd : BitVec 5) (r : Nat × Flags) : Z Unit := onHart (fun h => (h.setF ty rd r.1).accrue r.2)
def putX (rd : BitVec 5) (v : Word) (fl : Flags) : Z Unit := onHart (fun h => (h.setX rd v).accrue fl)

/-- fmin and fmax: a NaN operand gives the other one; −0 is below +0. -/
def rvMinMax (t : Fmt) (mx : Bool) (a b : Nat) : Nat × Flags :=
  let x := unpack t a
  let y := unpack t b
  let fl := snanFlag [x, y]
  if x.isNan && y.isNan then (qnan t, fl)
  else if x.isNan then (b, fl)
  else if y.isNan then (a, fl)
  else
    let c := cmpFv x y
    let less := decide (c < 0) || (c == 0 && x.sign && !y.sign)
    (if less != mx then a else b, fl)

/-- feq, flt, fle by funct3. -/
def rvCompare (t : Fmt) (f3 a b : Nat) : Option (Bool × Flags) :=
  let x := unpack t a
  let y := unpack t b
  let nan := x.isNan || y.isNan
  let c := cmpFv x y
  match f3 with
  | 2 => some (!nan && c == 0, snanFlag [x, y])
  | 1 => some (!nan && decide (c < 0), if nan then fNV else 0)
  | 0 => some (!nan && decide (c ≤ 0), if nan then fNV else 0)
  | _ => none

/-- The integer TYPE of a conversion's code: W, WU, L, LU. -/
def cvtTy : Nat → Option Nat
  | 0 => some 2
  | 1 => some 6
  | 2 => some 3
  | 3 => some 7
  | _ => none

/-- Floating point to integer: a NaN gives the greatest value. -/
def rvToInt (t : Fmt) (ity rm v : Nat) : Word × Flags :=
  let r := match unpack t v with
    | .nan .. => (wrapN (intMax ity) (tyWidth ity), fNV)
    | x => floatToInt ity rm x
  (if tyWidth ity = 32 then BitVec.ofInt 64 (sextI r.1 32) else w64 r.1, r.2)

/-- The fused operations: fmadd, fmsub, fnmsub, fnmadd by opcode. -/
def rvFused (op ty rm : Nat) (rd rs1 rs2 rs3 : BitVec 5) : Z Unit := do
  let h ← hartRegs
  let t := fmtOf ty
  match h.rvRound rm with
  | none => hIllegalInstr
  | some r =>
    let a := if op = 0x4B || op = 0x4F then fneg t (h.f ty rs1) else h.f ty rs1
    let c := if op = 0x47 || op = 0x4F then fneg t (h.f ty rs3) else h.f ty rs3
    putF ty rd (canonNan t (ffma t r a (h.f ty rs2) c))

/-- OP-FP. -/
def rvOpFp (f7 f3 : Nat) (rd rs1 rs2 : BitVec 5) : Z Unit := do
  let h ← hartRegs
  match rvFmt (f7 % 4) with
  | none => hIllegalInstr
  | some ty =>
    let t := fmtOf ty
    let a := h.f ty rs1
    let b := h.f ty rs2
    let rounded := fun (g : Nat → Z Unit) => match h.rvRound f3 with
      | some r => g r
      | none => hIllegalInstr
    let sgn := 2 ^ (t.w - 1)
    match f7 / 4 with
    | 0 => rounded (fun r => putF ty rd (canonNan t (fadd t r a b)))
    | 1 => rounded (fun r => putF ty rd (canonNan t (fsub t r a b)))
    | 2 => rounded (fun r => putF ty rd (canonNan t (fmul t r a b)))
    | 3 => rounded (fun r => putF ty rd (canonNan t (fdiv t r a b)))
    | 11 => if rs2 ≠ 0 then hIllegalInstr else rounded (fun r => putF ty rd (canonNan t (fsqrt t r a)))
    | 4 =>
      match f3 with
      | 0 => putF ty rd (a % sgn + b / sgn * sgn, 0)
      | 1 => putF ty rd (a % sgn + (1 - b / sgn) * sgn, 0)
      | 2 => putF ty rd (a ^^^ (b / sgn * sgn), 0)
      | _ => hIllegalInstr
    | 5 => if f3 > 1 then hIllegalInstr else putF ty rd (rvMinMax t (f3 == 1) a b)
    | 8 =>
      match rvFmt rs2.toNat with
      | some src =>
        if src = ty then hIllegalInstr
        else rounded (fun r => putF ty rd (canonNan t (floatToFloat (fmtOf src) t r (h.f src rs1))))
      | none => hIllegalInstr
    | 20 =>
      match rvCompare t f3 a b with
      | some (v, fl) => putX rd (b2w v) fl
      | none => hIllegalInstr
    | 24 =>
      match cvtTy rs2.toNat with
      | some ity => rounded (fun r => let v := rvToInt t ity r a; putX rd v.1 v.2)
      | none => hIllegalInstr
    | 26 =>
      match cvtTy rs2.toNat with
      | some ity => rounded (fun r => putF ty rd (intToFloat t r (intVal ity (h.x rs1).toNat)))
      | none => hIllegalInstr
    | 28 =>
      if rs2 ≠ 0 then hIllegalInstr
      else match f3 with
        | 0 => setRd rd (if ty = 10 then sx32 (look h.fs rs1.toNat 0) else look h.fs rs1.toNat 0)
        | 1 => setRd rd (w64 (2 ^ classOf t a))
        | _ => hIllegalInstr
    | 30 =>
      if rs2 ≠ 0 || f3 ≠ 0 then hIllegalInstr
      else onHart (fun h => h.setF ty rd (h.x rs1).toNat)
    | _ => hIllegalInstr

/-! ## SYSTEM -/

/-- The mode that a privilege and a virtualisation bit name. -/
def modeOf (pp : Nat) (v : Bool) : HMode :=
  match pp, v with
  | 3, _ => .m
  | 0, false => .u
  | 0, true => .vu
  | _, false => .hs
  | _, true => .vs

/-- mret: back to MPP and MPV; MIE takes MPIE. -/
def Hart.mret (h : Hart) : Hart :=
  let st := h.mstatus
  let md := modeOf (bits st.toNat 12 11) (bit st.toNat 39)
  let st1 := setBits (setBits (setBits (setBits st 3 3 (bits st.toNat 7 7)) 7 7 1) 12 11 0) 39 39 0
  { h with mode := md, mstatus := if md == .m then st1 else setBits st1 17 17 0 }

/-- sret in HS-mode, or in M-mode: back to SPP and SPV. -/
def Hart.sret (h : Hart) : Hart :=
  let st := h.mstatus
  let md := modeOf (bits st.toNat 8 8) (bit h.hstatus.toNat 7)
  let st1 := setBits (setBits (setBits st 1 1 (bits st.toNat 5 5)) 5 5 1) 8 8 0
  { h with mode := md, mstatus := setBits st1 17 17 0, hstatus := setBits h.hstatus 7 7 0 }

/-- sret in VS-mode. -/
def Hart.vsret (h : Hart) : Hart :=
  let st := h.vsstatus
  { h with mode := modeOf (bits st.toNat 8 8) true, vsstatus := setBits (setBits (setBits st 1 1 (bits st.toNat 5 5)) 5 5 1) 8 8 0 }

/-- The mode whose memory the hypervisor's loads and stores reach: SPVP. -/
def Hart.guestMode (h : Hart) : HMode := if bit h.hstatus.toNat 8 then .vs else .vu

/-- hlv, hlvx and hsv: in M- and HS-mode, and in U-mode under HU. -/
def rvGuestAccess (f7 : Nat) (rd rs1 rs2 : BitVec 5) : Z Unit := do
  let h ← hartRegs
  if h.mode.virt then hVirtualInstr
  if h.mode == .u && !bit h.hstatus.toNat 9 then hIllegalInstr
  let va := h.x rs1
  let md := h.guestMode
  let n := 2 ^ (f7 / 2 % 4)
  if f7 % 2 = 0 then
    let u := rs2.toNat
    if u = 0 || (u = 1 && n ≤ 4) then
      let v ← rvLoad md 0 n va
      setRd rd (extendLoad (u == 0) n v)
    else if u = 3 && (n = 2 || n = 4) then
      let v ← rvLoad md 3 n va
      setRd rd (extendLoad false n v)
    else hIllegalInstr
  else if rd ≠ 0 then hIllegalInstr
  else rvStore md n va (h.x rs2).toNat

/-- The privileged instructions without a register number of their own; what follows the pc. -/
def rvPriv (f7 : Nat) (rd rs1 rs2 : BitVec 5) (pc next : Word) : Z Word := do
  let h ← hartRegs
  let md := h.mode
  if rd ≠ 0 then hIllegalInstr
  match f7, rs2.toNat with
  | 0, 0 =>
    if rs1 ≠ 0 then hIllegalInstr
    hExc (match md with | .m => 11 | .vs => 10 | .hs => 9 | _ => 8) 0 false
  | 0, 1 => if rs1 ≠ 0 then hIllegalInstr else hExc 3 pc
  | 8, 2 =>
    if rs1 ≠ 0 || md == .u then hIllegalInstr
    if md == .vu || (md == .vs && bit h.hstatus.toNat 22) then hVirtualInstr
    if md == .hs && bit h.mstatus.toNat 22 then hIllegalInstr
    if md == .vs then onHart Hart.vsret else onHart Hart.sret
    pure (if md == .vs then h.vsepc else h.sepc)
  | 24, 2 =>
    if rs1 ≠ 0 || md != .m then hIllegalInstr
    onHart Hart.mret
    pure h.mepc
  | 8, 5 =>
    -- wfi may return at once
    if rs1 ≠ 0 then hIllegalInstr
    if md != .m && bit h.mstatus.toNat 21 then hIllegalInstr
    if md == .vu || (md == .vs && bit h.hstatus.toNat 21) then hVirtualInstr
    pure next
  | _, _ =>
    -- sfence.vma, hfence.vvma, hfence.gvma: no translation is kept, so there is nothing to drop
    if f7 = 9 then
      if md == .u || (md == .hs && bit h.mstatus.toNat 20) then hIllegalInstr
      if md == .vu || (md == .vs && bit h.hstatus.toNat 20) then hVirtualInstr
      pure next
    else if f7 = 17 || f7 = 49 then
      if md.virt then hVirtualInstr
      if md == .u || (f7 = 49 && md == .hs && bit h.mstatus.toNat 20) then hIllegalInstr
      pure next
    else hIllegalInstr

/-! ## One instruction -/

/-- Bits [hi:lo] of an instruction, sign-extended from bit hi and moved up. -/
def immS (w : BitVec 32) (l : List (Nat × Nat)) : Word :=
  -- places from the top down: (high bit, low bit) of each piece, the last one ending at bit 0 of the result
  let r := l.foldl (fun (a : Nat × Nat) p => (a.1 * 2 ^ (p.1 + 1 - p.2) + bits w.toNat p.1 p.2, a.2 + (p.1 + 1 - p.2))) (0, 0)
  BitVec.ofInt 64 (sextI r.1 r.2)

/-- A 32-bit instruction at pc whose successor is next; where the hart goes on. -/
def rvExec (w : BitVec 32) (pc next : Word) : Z Word := do
  let i := w.toNat
  let rd := BitVec.ofNat 5 (bits i 11 7)
  let rs1 := BitVec.ofNat 5 (bits i 19 15)
  let rs2 := BitVec.ofNat 5 (bits i 24 20)
  let f3 := bits i 14 12
  let f7 := bits i 31 25
  let h ← hartRegs
  let a := h.x rs1
  let b := h.x rs2
  let immI := immS w [(31, 20)]
  let done := fun (v : Word) => (do setRd rd v; pure next : Z Word)
  match i % 128 with
  | 0x37 => done (immS w [(31, 12)] <<< 12)
  | 0x17 => done (pc + (immS w [(31, 12)] <<< 12))
  | 0x6F => do setRd rd next; pure (pc + (immS w [(31, 31), (19, 12), (20, 20), (30, 21)] <<< 1))
  | 0x67 => if f3 ≠ 0 then hIllegalInstr else do setRd rd next; pure ((a + immI) &&& 0xFFFFFFFFFFFFFFFE)
  | 0x63 =>
    match branchTaken f3 a b with
    | some t => pure (if t then pc + (immS w [(31, 31), (7, 7), (30, 25), (11, 8)] <<< 1) else next)
    | none => hIllegalInstr
  | 0x03 =>
    if f3 = 7 then hIllegalInstr
    else do
      let n := 2 ^ (f3 % 4)
      let v ← rvLoad h.dataMode 0 n (a + immI)
      done (extendLoad (f3 < 4) n v)
  | 0x23 =>
    if f3 > 3 then hIllegalInstr
    else do
      rvStore h.dataMode (2 ^ f3) (a + immS w [(31, 25), (11, 7)]) b.toNat
      pure next
  | 0x13 =>
    if f3 = 1 && bits i 31 26 ≠ 0 then hIllegalInstr
    else if f3 = 5 && bits i 31 26 ≠ 0 && bits i 31 26 ≠ 16 then hIllegalInstr
    else done (aluOp f3 (f3 == 5 && bit i 30) a immI)
  | 0x1B =>
    if (f3 = 1 && f7 ≠ 0) || (f3 = 5 && f7 ≠ 0 && f7 ≠ 32) then hIllegalInstr
    else match aluOp32 f3 (f3 == 5 && bit i 30) a immI with
      | some v => done v
      | none => hIllegalInstr
  | 0x33 =>
    if f7 = 1 then done (mulOp f3 a b)
    else if f7 = 0 || (f7 = 32 && (f3 = 0 || f3 = 5)) then done (aluOp f3 (f7 == 32) a b)
    else hIllegalInstr
  | 0x3B =>
    match if f7 = 1 then mulOp32 f3 a b
        else if f7 = 0 || (f7 = 32 && (f3 = 0 || f3 = 5)) then aluOp32 f3 (f7 == 32) a b else none with
    | some v => done v
    | none => hIllegalInstr
  | 0x0F => if f3 ≤ 1 then pure next else hIllegalInstr
  | 0x2F =>
    if f3 = 2 || f3 = 3 then do rvAtomic (bits i 31 27) (2 ^ f3) rd rs1 rs2; pure next else hIllegalInstr
  | 0x73 =>
    if f3 = 0 then rvPriv f7 rd rs1 rs2 pc next
    else if f3 = 4 then (if bits i 31 28 = 6 then do rvGuestAccess f7 rd rs1 rs2; pure next else hIllegalInstr)
    else do rvCsr f3 (bits i 31 20) rd rs1; pure next
  | 0x07 =>
    if (f3 ≠ 2 && f3 ≠ 3) || !h.fpOn then hIllegalInstr
    else do
      let v ← rvLoad h.dataMode 0 (2 ^ f3) (a + immI)
      onHart (fun h => h.setF (if f3 = 2 then 10 else 11) rd v)
      pure next
  | 0x27 =>
    if (f3 ≠ 2 && f3 ≠ 3) || !h.fpOn then hIllegalInstr
    else do
      rvStore h.dataMode (2 ^ f3) (a + immS w [(31, 25), (11, 7)]) (look h.fs rs2.toNat 0).toNat
      pure next
  | 0x43 | 0x47 | 0x4B | 0x4F =>
    match h.fpOn, rvFmt (bits i 26 25) with
    | true, some ty => do rvFused (i % 128) ty f3 rd rs1 rs2 (BitVec.ofNat 5 (bits i 31 27)); pure next
    | _, _ => hIllegalInstr
  | 0x53 => if h.fpOn then do rvOpFp f7 f3 rd rs1 rs2; pure next else hIllegalInstr
  | _ => hIllegalInstr

/-! ## Compressed instructions (C) -/

/-- The 32-bit forms. -/
def encI (op f3 rd rs1 imm : Nat) : BitVec 32 := BitVec.ofNat 32 (op + rd * 2 ^ 7 + f3 * 2 ^ 12 + rs1 * 2 ^ 15 + imm % 4096 * 2 ^ 20)
def encR (op f3 f7 rd rs1 rs2 : Nat) : BitVec 32 :=
  BitVec.ofNat 32 (op + rd * 2 ^ 7 + f3 * 2 ^ 12 + rs1 * 2 ^ 15 + rs2 * 2 ^ 20 + f7 * 2 ^ 25)
def encS (op f3 rs1 rs2 imm : Nat) : BitVec 32 := encR op f3 (imm / 32 % 128) (imm % 32) rs1 rs2
def encB (f3 rs1 rs2 imm : Nat) : BitVec 32 :=
  encR 0x63 f3 (bits imm 12 12 * 64 + bits imm 10 5) (bits imm 4 1 * 2 + bits imm 11 11) rs1 rs2
def encJ (rd imm : Nat) : BitVec 32 :=
  BitVec.ofNat 32 (0x6F + rd * 2 ^ 7 + bits imm 19 12 * 2 ^ 12 + bits imm 11 11 * 2 ^ 20 + bits imm 10 1 * 2 ^ 21 + bits imm 20 20 * 2 ^ 31)

/-- A number's bits gathered from places of a halfword, from the top down. -/
def pickBits (c : Nat) (l : List Nat) : Nat := l.foldl (fun a p => 2 * a + bits c p p) 0
/-- The same, sign-extended from n bits, modulo 2^32. -/
def pickSigned (c : Nat) (l : List Nat) (shift : Nat) : Nat :=
  (sextI (pickBits c l) l.length * 2 ^ shift % 2 ^ 32).toNat

/-- The instruction that a compressed one stands for. -/
def expandC (c : Nat) : Option (BitVec 32) :=
  let rd := bits c 11 7
  let rs2 := bits c 6 2
  let rdp := 8 + bits c 4 2
  let rsp := 8 + bits c 9 7
  let imm6 := pickSigned c [12, 6, 5, 4, 3, 2] 0
  let sh := pickBits c [12, 6, 5, 4, 3, 2]
  let offW := pickBits c [5, 12, 11, 10, 6] * 4
  let offD := pickBits c [6, 5, 12, 11, 10] * 8
  match c % 4, bits c 15 13 with
  | 0, 0 =>
    let n := pickBits c [10, 9, 8, 7, 12, 11, 5, 6] * 4
    if n = 0 then none else some (encI 0x13 0 rdp 2 n)
  | 0, 1 => some (encI 0x07 3 rdp rsp offD)
  | 0, 2 => some (encI 0x03 2 rdp rsp offW)
  | 0, 3 => some (encI 0x03 3 rdp rsp offD)
  | 0, 5 => some (encS 0x27 3 rsp rdp offD)
  | 0, 6 => some (encS 0x23 2 rsp rdp offW)
  | 0, 7 => some (encS 0x23 3 rsp rdp offD)
  | 1, 0 => some (encI 0x13 0 rd rd imm6)
  | 1, 1 => if rd = 0 then none else some (encI 0x1B 0 rd rd imm6)
  | 1, 2 => some (encI 0x13 0 rd 0 imm6)
  | 1, 3 =>
    if rd = 2 then
      let n := pickSigned c [12, 4, 3, 5, 2, 6] 4
      if n = 0 then none else some (encI 0x13 0 2 2 n)
    else if imm6 = 0 then none
    else some (BitVec.ofNat 32 (0x37 + rd * 2 ^ 7 + imm6 % 2 ^ 20 * 2 ^ 12))
  | 1, 4 =>
    match bits c 11 10 with
    | 0 => some (encI 0x13 5 rsp rsp sh)
    | 1 => some (encI 0x13 5 rsp rsp (sh + 0x400))
    | 2 => some (encI 0x13 7 rsp rsp imm6)
    | _ =>
      match bits c 12 12, bits c 6 5 with
      | 0, 0 => some (encR 0x33 0 32 rsp rsp rdp)
      | 0, 1 => some (encR 0x33 4 0 rsp rsp rdp)
      | 0, 2 => some (encR 0x33 6 0 rsp rsp rdp)
      | 0, 3 => some (encR 0x33 7 0 rsp rsp rdp)
      | 1, 0 => some (encR 0x3B 0 32 rsp rsp rdp)
      | 1, 1 => some (encR 0x3B 0 0 rsp rsp rdp)
      | _, _ => none
  | 1, 5 => some (encJ 0 (pickSigned c [12, 8, 10, 9, 6, 7, 2, 11, 5, 4, 3] 1))
  | 1, 6 => some (encB 0 rsp 0 (pickSigned c [12, 6, 5, 2, 11, 10, 4, 3] 1))
  | 1, 7 => some (encB 1 rsp 0 (pickSigned c [12, 6, 5, 2, 11, 10, 4, 3] 1))
  | 2, 0 => some (encI 0x13 1 rd rd sh)
  | 2, 1 => some (encI 0x07 3 rd 2 (pickBits c [4, 3, 2, 12, 6, 5] * 8))
  | 2, 2 => if rd = 0 then none else some (encI 0x03 2 rd 2 (pickBits c [3, 2, 12, 6, 5, 4] * 4))
  | 2, 3 => if rd = 0 then none else some (encI 0x03 3 rd 2 (pickBits c [4, 3, 2, 12, 6, 5] * 8))
  | 2, 4 =>
    match bits c 12 12, rs2 with
    | 0, 0 => if rd = 0 then none else some (encI 0x67 0 0 rd 0)
    | 0, _ => some (encR 0x33 0 0 rd 0 rs2)
    | _, 0 => if rd = 0 then some 0x00100073 else some (encI 0x67 0 1 rd 0)
    | _, _ => some (encR 0x33 0 0 rd rd rs2)
  | 2, 5 => some (encS 0x27 3 2 rs2 (pickBits c [9, 8, 7, 12, 11, 10] * 8))
  | 2, 6 => some (encS 0x23 2 2 rs2 (pickBits c [8, 7, 12, 11, 10, 9] * 4))
  | 2, 7 => some (encS 0x23 3 2 rs2 (pickBits c [9, 8, 7, 12, 11, 10] * 8))
  | _, _ => none

/-- One RISC-V instruction of the running hart, of 2 or 4 bytes: the state after it, or after the exception that it
raises, which is taken from the state before. -/
def State.rvStep (s : State) (w : Nat) : State :=
  let h := s.hartNo
  let pc := (s.hart h).pc
  let (code, size) := if w % 4 = 3 then (some (BitVec.ofNat 32 w), 4) else (expandC (w % 65536), 2)
  let body : Z Word := match code with
    | some i => rvExec i pc (pc + size)
    | none => hIllegalInstr
  match body s with
  | .ok next s1 => ({ s1 with free := s1.free + 1 }.setHart h ((s1.hart h).next next))
  | .error e s1 => s.hartExc s1 h e

end Sys2Proof.Machine
end

