-- ==== Sys2Proof/Machine/Fetch.lean ====
section
/-! DEFINITION. Fetching (R138 to R140, R346), what precedes the issue of an instruction, the passing
of time, and the choice of what happens next (R17 to R19, R124). -/

namespace Sys2Proof.Machine

open Sys2Proof

/-- What comes of a turn: an instruction to execute, or a state. -/
inductive Fetched where
  | run (i : Instr) (s : State)
  | done (s : State)
  deriving Repr

/-! ## Blocks (R138) -/

/-- The bytes of a block. -/
def blockBytes (d : Line) : List Byte := leBytes 128 d.toNat

/-- The trailer of a block: the check of bytes 0 to 119, and zeros. -/
def trailerOk (d : Line) : Bool :=
  d.extractLsb' 960 64 == ((crc32c ((blockBytes d).take 120)).zeroExtend 64 : Word)

/-- The word in a slot. -/
def slotWord (d : Line) (slot : Nat) : BitVec 96 := BitVec.ofNat 96 (d.toNat / 2 ^ (96 * slot))

/-- Whether a PC names a slot (R139, R140). -/
def pcLegal (pc : Word) : Bool := bits pc.toNat 6 4 == 0 && decide (bits pc.toNat 3 0 ≤ 9)

/-- What fetching a block gives. -/
inductive Block where
  | data (d : Line) (s : State)
  | fault (s : State)
  | stall (s : State)

/-- The line of a block at a physical address, read at home. Bytes of a vault or of scratch are read
where they stand. -/
def State.readBlock128 (s : State) (t pa : Nat) : Block :=
  if s.wrap ≠ 0 then .stall s
  else if paSpace pa ≥ 0xE then
    match s.specialCheck t pa with
    | some (some _) => .fault s
    | some none => .stall s
    | none => if paSpace pa = 0xF && s.vaultBad pa 128 then .fault s else .data (BitVec.ofNat 1024 (s.mem.val pa 128)) s
  else
    match s.readDirect pa 128 with
    | .ok v s1 => .data (BitVec.ofNat 1024 v) s1
    | .stall s1 => .stall s1
    | .fault _ => .fault s

/-- Room for one more of the 48 blocks of a core's instruction cache (R72): which one leaves is not
architectural. Poisoned instructions that never issued are counted (R346). -/
def State.icacheRoom (s : State) (core : Nat) : State :=
  let c := s.core core
  if c.icache.length < 48 then s
  else
    let (n, s1) := s.tick
    let k := Config.choice n % c.icache.length
    let out := (c.icache[k]?).any IBlock.poison
    let s2 := s1.modCore core (fun c => { c with icache := c.icache.eraseIdx k })
    if out then s2.modField (fieldOfCore core) (fun f => { f with pdisc := f.pdisc + 10 }) else s2

/-- A block enters a core's instruction cache. -/
def State.keepBlock (s : State) (core : Nat) (b : IBlock) : State :=
  (s.icacheRoom core).modCore core (fun c => { c with icache := b :: c.icache })

/-- A block read from memory and checked, kept in the instruction cache. -/
def State.fillBlock (s : State) (t va pa : Nat) (ahead : Bool) : Block :=
  match s.readBlock128 t (pa / 128 * 128) with
  | .data d s1 =>
    if trailerOk d then
      let b : IBlock :=
        { asid := s1.asidOf t, va := va / 128, pa := pa / 128, data := d, poison := false, ahead := ahead }
      .data d (s1.keepBlock (coreOf t) b)
    else .fault s1
  | r => r

/-- The block that a core's instruction cache holds for an address. -/
def State.cachedBlock (s : State) (t va pa : Nat) : Option IBlock :=
  (s.core (coreOf t)).icache.find? (fun b => b.asid == s.asidOf t && b.va == va / 128 && b.pa == pa / 128)

/-- Fetches the block of a context's PC; a poisoned block is fetched again from memory. -/
def State.fetchBlock (s : State) (t : Nat) (pc : Word) : Block :=
  match s.translateFor t pc { x := true, near := true } with
  | .error (.walk va) => .stall (s.askWalk t (s.asidOf t) va.toNat)
  | .error (.excWalk va) => .fault (s.takeWalkFault t (s.asidOf t) va.toNat)
  | .error _ => .fault s
  | .ok (pa, e) =>
    let s1 := s.keepLeaf t e
    match s1.cachedBlock t pc.toNat pa with
    | some b =>
      if b.poison then (s1.refetch t).fillBlock t pc.toNat pa false
      else if b.ahead then .data b.data (s1.modCore (coreOf t) (fun c => { c with
        icache := c.icache.map (fun y => if y == b then { y with ahead := false } else y) }))
      else .data b.data s1
    | none => (s1.refetch t).fillBlock t pc.toNat pa false

/-- The fetch of the instruction at a context's PC (R153, checks 1 and 2). -/
def State.fetch (s : State) (t : Nat) : Fetched :=
  let pc := (s.ctx t).pc
  let fault : Exc := { cause := cFetch, tval := pc }
  if !pcLegal pc then .done (s.takeExact t fault)
  else
    match s.fetchBlock t (pc - (pc &&& 0x7F)) with
    | .fault s1 => .done (s1.takeExact t fault)
    | .stall s1 => .done s1
    | .data d s1 =>
      let w := slotWord d (bits pc.toNat 3 0)
      match decode (leBytes 12 w.toNat) with
      | some (i, _) => .run i (s1.touch t i)
      | none => .done (s1.takeExact t { cause := cIllegal, tval := w.extractLsb' 32 64 })

/-! ## The turn of a thread -/

/-- A TACQ whose window has ended parks the context until its grant (R238). -/
def State.parkTacq (s : State) (t : Nat) : State :=
  (s.leaveQueues t).modCtx t (fun x => { x with st := .parked, wait := .tenure, ticket := none })

/-- What precedes the issue of the next instruction of a context: refusals (R343) and late faults
(R151) are delivered, windows that have ended land (R150), an acquire holds later accesses (R130). -/
def State.threadTurn (s : State) (t : Nat) : Fetched :=
  let x := s.ctx t
  if s.stopped (coreOf t) || !x.mayGo then .done s
  else if !x.toPost.isEmpty then .done (s.postRest t x.toPost)
  else if x.refusal.isSome && !x.sup && x.lone.isNone && !x.exchanging then .done (s.takeRefusal t)
  else
    match x.pend.find? (fun p => x.lateDue p && dueNow x.pend p) with
    | some p => .done (if x.exchanging then s else s.takeLate t p)
    | none =>
      -- a late fault of level U waits while the handler runs
      let ended := x.pend.filter (fun p => dueNow x.pend p && p.fault.isNone)
      let open_ := ended.filter (fun p => !p.done)
      if !open_.isEmpty then
        .done (if open_.all (fun p => match p.work with | .tacq _ _ _ => true | _ => false) && !x.exchanging then s.parkTacq t else s)
      else if !ended.isEmpty then .done (s.landThese t (dueNow x.pend))
      else if x.openAcquire then .done s
      else (if (s.field (fieldOf t)).tqgo.contains t then
        s.modField (fieldOf t) (fun f => { f with tqgo := f.tqgo.erase t }) else s).fetch t

/-! ## The turn of a hart -/

/-- Two bytes of the running hart's code. -/
def hFetch (va : Word) : Z Nat := do
  let pa ← hXlate (← hartRegs).mode 2 2 va
  fun s => match s.hartLoad pa 2 with
    | .ok (v, _, s1) => .ok v s1
    | .error c => .error { code := if c = hHardware then c else 1, tval := va, addr := true } s

/-- The word at the running hart's pc: 2 bytes, or 4 where the first of them say so. -/
def hFetchWord : Z Nat := do
  let pc := (← hartRegs).pc
  let lo ← hFetch pc
  if lo % 4 ≠ 3 then pure lo
  else do
    let hi ← hFetch (pc + 2)
    pure (hi * 2 ^ 16 + lo)

/-- What a hart does with a word: a capability instruction is executed as Instr has it; another word of opcode custom-0
raises the illegal-instruction exception, as does every word that the RISC-V architecture does not define. -/
def State.hartWordRun (s : State) (w : Nat) : Fetched :=
  if w % 4 = 3 then
    match decodeHart (leBytes 4 w) with
    | some (i, _) => .run i s
    | none => .done { s.rvStep w with turn := none }
  else .done { s.rvStep w with turn := none }

/-- The turn of a hart: at reset hart 0 runs the boot ROM; an interrupt that is due is taken; else the instruction at
the pc is fetched. -/
def State.hartTurn (s0 : State) (h : Nat) : Fetched :=
  if s0.boot.phase == .rom && h == 0 then .done { s0.bootRom with turn := none }
  else
    let s := s0.setHart h { s0.hart h with running := true }
    match (s.hart h).interrupted s.zen.mtime.toNat with
    | some r => .done ({ s with turn := none }.setHart h r)
    | none =>
      match hFetchWord s with
      | .error e s1 => .done { s.hartExc s1 h e with turn := none }
      | .ok w s1 => s1.hartWordRun w

/-! ## Time -/

/-- The instruction at a context's PC, as its core's instruction cache holds it. -/
def State.nextInstr (s : State) (t : Nat) : Option Instr :=
  let pc := (s.ctx t).pc
  match (s.core (coreOf t)).icache.find? (fun b => b.asid == s.asidOf t && b.va == pc.toNat / 128 && !b.poison) with
  | some b => (decode (leBytes 12 (slotWord b.data (bits pc.toNat 3 0)).toNat)).map Prod.fst
  | none => none

/-- Whether an instruction reads or writes the vault of its core in its issue slot. -/
def Instr.localAccess (i : Instr) : Bool :=
  match i.thread? with
  | some (o, f) =>
    let r := Op.row o
    if r.opc < 0x20 || r.opc == 0x23 then [f.dst, f.sa, f.sb].any isLocal
    else r.opc == 0x20 && f.space == 0 && f.sub.toNat ≤ 7
  | none => false

/-- Whether a core's banks are read or written beside the next access of a context (R79): array work, a
copy or a query's answer under way, an aperture write, a local access of another context in an issue slot. -/
def State.bankShared (s : State) (t : Nat) : Bool :=
  !(s.core (coreOf t)).copies.isEmpty || !(s.core (coreOf t)).sb.isEmpty || (s.core (coreOf t)).apertured ||
  s.ctxs.any (fun e => coreOf e.1 == coreOf t && ((e.1 != t && e.2.inSlot) || !e.2.arrQ.isEmpty))

/-- Whether the next instruction of a context waits only for a lookahead window (R150, item 2; R179). -/
def Ctx.windowWait (x : Ctx) : Bool :=
  x.st == .issuing && x.toPost.isEmpty && x.pend.any (fun p => !p.done && dueNow x.pend p)

/-- The counters of a thread in an issue slot rise by what the manual leaves to the implementation: VCYC;
VLAW while only a window holds the next instruction; VCNF while that is a local access, for what other users
of the banks took (R79, R179). They stand still during Eclipse. -/
def State.countCtx (s : State) (t : Nat) : State :=
  let x := s.ctx t
  if !x.inSlot || s.stopped (coreOf t) then s
  else
    let n := s.free
    let met := s.bankShared t && (s.nextInstr t).any Instr.localAccess
    { s with free := n + 3 }.modCtx t (fun x => { x with
      vcyc := x.vcyc + w64 (Config.count n)
      vcnf := if met then x.vcnf + w64 (Config.count (n + 1)) else x.vcnf
      vlaw := if x.windowWait then x.vlaw + w64 (Config.count (n + 2)) else x.vlaw })

/-- Firmware starts mtime (R367): when, and with what access, the manual leaves to it. -/
def State.startMtime (s : State) (go : Bool) : State :=
  if go && s.boot.done then { s with zen := { s.zen with mtimeOn := true } } else s

/-- Cycles of the fixed clock pass: the sidereal counter ticks once in four, less what it holds, and
stops at the end of its period (R117, R119). mtime counts the 500 MHz ticks once firmware has started
it (R367). -/
def State.pass (s : State) (cycles : Nat) : State :=
  let ticks := (s.time + cycles) / 4 - s.time / 4
  let held := Nat.min ticks s.sidHold
  -- ticks that the counter stands at its end during a wrap
  let past := if s.wrap = 0 then 0 else (s.sid + (ticks - held)) - Nat.max s.sid sidMax
  let s1 := { s with
    time := s.time + cycles
    held := s.held + Nat.min cycles (4 * past)
    sidHold := s.sidHold - held
    sid := Nat.min (Nat.max s.sid sidMax) (s.sid + (ticks - held))
    zen := { s.zen with mtime := if s.zen.mtimeOn then s.zen.mtime + w64 ticks else s.zen.mtime } }
  let s2 := (s1.ctxs.map Prod.fst).foldl State.countCtx s1
  { s2 with cores := s2.cores.map (fun e => (e.1, { e.2 with apertured := false })) }

/-- A core's instruction cache is emptied; poisoned instructions that never issued are counted (R346). -/
def State.evictBlocks (s : State) (core : Nat) : State :=
  let n := ((s.core core).icache.filter IBlock.poison).length
  (s.modCore core (fun c => { c with icache := [] })).modField (fieldOfCore core) (fun f =>
    { f with pdisc := f.pdisc + BitVec.ofNat 32 (10 * n) })

/-- Addresses of the blocks that may be fetched ahead of a context's PC: the next one, and those that the
branches of the present block go to (R346). -/
def State.aheadBlocks (s : State) (t : Nat) : List Nat :=
  let pc := (s.ctx t).pc
  let here := (s.core (coreOf t)).icache.find? (fun b => b.asid == s.asidOf t && b.va == pc.toNat / 128 && !b.poison)
  let target := fun (d : Line) (i : Nat) =>
    match decode (leBytes 12 (slotWord d i).toNat) with
    | some (.br f, _) => some ((relPc (pc - (pc &&& 0x7F) + w64 i) f.imm.toInt).toNat / 128 * 128)
    | _ => none
  (pc.toNat / 128 * 128 + 128) :: (match here with
    | some b => (List.range 10).filterMap (target b.data)
    | none => [])

/-- One of those blocks is fetched ahead; one that cannot be had is kept poisoned (R346). -/
def State.fetchAhead (s : State) (t : Nat) : State :=
  let vas := s.aheadBlocks t
  let va := vas.getD (Config.choice s.free % vas.length) 0
  match s.translateFor t (w64 va) { x := true, near := true } with
  | .error (.walk _) => s
  | .error _ => s.keepBlock (coreOf t) { asid := s.asidOf t, va := va / 128, pa := 0, data := 0, poison := true }
  | .ok (pa, _) =>
    if (s.cachedBlock t va pa).isSome then s
    else
      match s.fillBlock t va pa true with
      | .data _ s1 => s1
      | .stall _ => s
      | .fault s1 =>
        s1.keepBlock (coreOf t) { asid := s.asidOf t, va := va / 128, pa := pa / 128, data := 0, poison := true }

/-! ## What can happen next -/

/-- Events of one field. -/
def State.fieldEvents (s : State) (fi : Nat) : List Instr :=
  let f := s.field fi
  [.take fi, .splitPublish fi, .fieldSwitchComplete fi, .fieldTimerCompare fi, .surrenderDone fi, .wayRestoreDone fi,
   .shootdownAck fi, .tlbMissWalk fi, .walkComplete fi, .wqryAnswer fi] ++
  f.miss.flatMap (fun m => [.readFill fi m.1, .fillArrival fi m.1]) ++
  (f.l2.filter (fun l => l.2.st == .l)).map (fun l => .leaseExpiry fi l.1) ++
  f.tasks.map (fun q => .aging fi q.stamp)

/-- Events of one core. -/
def State.coreEvents (s : State) (c : Nat) : List Instr :=
  let k := s.core c
  [.handlerActivation c 0, .handlerActivation c 1, .issueSlotFill c, .quiesceStart c, .quiesceComplete c, .rangeSplit c,
   .flushComplete c, .pageFill c] ++
  k.log.flatMap (fun e => [.postedStoreAck c e.1, .postedStoreRefusal c e.1]) ++
  k.copies.flatMap (fun y => [Instr.copyRetire y.tid y.seq] ++
    (if y.gdst && y.cls == 0 then y.segs.map (fun g => .ownershipRequest (fieldOfCore c) (g.dst / 128)) else []))

/-- Events of one context. -/
def ctxEvents (t : Nat) : List Instr :=
  [.tenureStallResume t, .tenureWaitTrap t, .mcmdAccept t, .arrayEntryComplete t, .notifyLatchDelivery t, .sleepTimeout t,
   .slotPriorityRise t]

/-- Events of one stack. -/
def State.stackEvents (s : State) (k : Nat) : List Instr :=
  [.tenureGrant k, .dedupTimeout k] ++
  (s.stack k).dir.map (fun e => .regionRecordMerge k e.1)

/-- Pieces that may rejoin do (R110). -/
def State.rejoinAll (s : State) : State :=
  s.stks.foldl (fun s k => (k.2.dir.map Prod.fst).foldl (fun s slot => s.rejoinPieces k.1 slot) s) s

/-- Events of one launch. -/
def launchEvents (l : Launch) : List Instr :=
  [.stageRelease l.lid 0, .stageRelease l.lid 1, .stageRelease l.lid 2, .stageRelease l.lid 3, .launchCompletion l.lid] ++
  l.initial.map (fun e => .activation e.1 e.2)

/-- Events of the cube. -/
def cubeEvents : List Instr :=
  [.grantRun, .raisedSwitchStart, .tcapStep, .criticalTemperature, .thermtrip, .wrapAnnounce, .wrapComplete, .beaconLoss,
   .restripeGranule, .launchQueueEntry, .reportSigned]

/-- The cores that may have something to do: those listed, those of listed contexts, and the cores of a
field with range tasks. -/
def State.liveCores (s : State) : List Nat :=
  (s.cores.map Prod.fst ++ s.ctxs.map (fun e => coreOf e.1) ++
    ((s.ctxs.filter (fun e => e.2.rng.isSome)).map (fun e => fieldOf e.1)).eraseDups.flatMap coresOfField).eraseDups

/-- Every event that may be due; one that is not changes nothing. -/
def State.candidates (s : State) : List Instr :=
  cubeEvents ++
  (s.fields.map Prod.fst).flatMap s.fieldEvents ++
  s.liveCores.flatMap s.coreEvents ++
  (s.ctxs.map Prod.fst).flatMap ctxEvents ++
  (s.stks.map Prod.fst).flatMap s.stackEvents ++
  s.sched.launches.flatMap launchEvents ++
  (s.parts.map Prod.fst).flatMap (fun p => [Instr.eclipseAlignTick p, .eclipseFreeze p, .eclipseRestart p]) ++
  s.zen.unacked.map (fun e => .e2eTimeout (BitVec.ofNat 8 e.cube) (BitVec.ofNat 16 e.seq))

/-- Whether an event on its way waits: a soft error that would kill in a frozen field (R350, R351), a reset that was
written less than 10 µs ago (R395). -/
def State.waits (s : State) (i : Instr) : Bool :=
  match i with
  | .softError site false =>
    (match site with | .backing _ | .array _ => true | _ => false) && (siteField site).any (fun fi => (s.field fi).frozen)
  | .rstctlWarm | .rstctlCold => s.boot.rstAt.any (fun t => decide (s.time < t + 20000))
  | _ => false

/-- Whether an event on its way comes behind an earlier one: contributions of one member to one group are
delivered in issue order (R377). -/
def State.overtakes (s : State) (k : Nat) (i : Instr) : Bool :=
  match i with
  | .collectiveContribution g c _ _ => (s.agenda.take k).any (fun j =>
      match j with | .collectiveContribution g' c' _ _ => g' == g && c' == c | _ => false)
  | _ => false

/-- Whether a hart runs; a hart that waits for an interprocessor interrupt runs once one is pending
(R394, step 6). -/
def Hart.awake (h : Hart) : Bool := h.running || h.imsic.any (fun e => !e.2.isEmpty)

/-- What the last turn of a core has come to (R323): an instruction that issued moves the pointer to its slot; one
that was not ready leaves it, and its slot is passed over until another has issued. -/
def State.noteTurn (s : State) (core : Nat) : State :=
  let c := s.core core
  match c.turnOf with
  | none => s
  | some (t, n) =>
    let x := s.ctx t
    let k := x.slotNo
    if x.issued ≠ n || !x.inSlot then s.setCore core { c with rr := k, tried := [], turnOf := none }
    else s.setCore core { c with tried := k :: c.tried, turnOf := none }

/-- The contexts that may have the next turn to issue: on each core the first one in a slot after the one that issued
last whose instruction was not found waiting since then; when all were, they are asked again (R323). -/
def State.turns (s : State) : List Nat :=
  let cs := (s.ctxs.filter (fun e => e.2.inSlot)).map Prod.fst
  let far := fun (t : Nat) => ((s.ctx t).slotNo + 3 - (s.core (coreOf t)).rr) % 4
  let fresh := cs.filter (fun t => !(s.core (coreOf t)).tried.contains (s.ctx t).slotNo)
  let due := fresh ++ cs.filter (fun t => !fresh.any (fun u => coreOf u == coreOf t))
  due.filter (fun t => !due.any (fun u => coreOf u == coreOf t && decide (far u < far t)))

/-- What may come next: an event on its way, by its place, or a turn; while reset is halted, a thermal trip too (R395). -/
def State.options (s : State) : List (Option Nat × Turn) :=
  let sent := (s.agenda.zipIdx.filter (fun e => !s.waits e.1 && !s.overtakes e.2 e.1)).map (fun e => (some e.2, Turn.event e.1))
  if s.boot.phase == .off then sent
  else if s.boot.phase == .halted then sent ++ (if s.mer.temp ≥ 115 then [(none, .event .thermtrip)] else [])
  else
    sent ++ s.candidates.map (fun i => (none, .event i)) ++
    s.turns.map (fun t => (none, .thread t)) ++
    (s.zen.harts.filter (fun e => e.2.awake && s.boot.phase != .failed)).map (fun e => (none, .hart e.1))

/-- Lines of the register caches that no instruction has touched for 64 vclk cycles go drowsy (R71). -/
def State.restLines (s : State) : State :=
  s.cores.foldl (fun s e => e.2.regs.foldl (fun s r => s.lineDrowsy (e.1 * 16 + r.ctx) r.line) s) s

/-- The training of links comes to its end (R375, R394). -/
def State.trainLinks (s : State) (n : Nat) : State :=
  (List.range 16).foldl (fun s k =>
    match (look s.zen.links k {}).training, Config.linkTrains n k with
    | true, some (up, c) => s.linkTrain k up c
    | _, _ => s) s

/-- What passes before the next choice: time, the training of links; pieces may rejoin, lines of the register caches
rest, firmware may start mtime. -/
def State.between (s : State) : State :=
  let n := s.free
  let s0 := { s with free := n + 9 }.pass (Config.elapse n)
  let s1 := ((if Config.evict (n + 4) then s0.rejoinAll else s0).deliverOrphans.deliverSendts.startMtime
    (Config.evict (n + 8))).restLines
  let s1 := if s1.boot.phase == .off || s1.boot.phase == .halted then s1 else s1.trainLinks n
  (s1.cores.map Prod.fst).foldl State.noteTurn s1

/-- The choice of what comes next: one of the options is taken; before the turn of a thread its core may lose or fetch
ahead blocks of code and lose leaves, and the thread's next access may be delayed. None: nothing can happen. -/
def State.choose (s : State) : Option State :=
  let n := s.free
  let s1 := s.between
  let opts := s1.options
  match opts[Config.pick (n + 1) % opts.length]? with
  | none => none
  | some (k, turn) =>
    let s2 := match k with
      | some i => { s1 with agenda := s1.agenda.eraseIdx i }
      | none => s1
    let s3 := match turn with
      | .thread t =>
        let s2 := s2.modCore (coreOf t) (fun c => { c with turnOf := some (t, (s2.ctx t).issued) })
        let s3 := if Config.evict (n + 2) then s2.evictBlocks (coreOf t) else s2
        let s4 := if Config.evict (n + 3) then s3.fetchAhead t else s3
        let s5 := if Config.evict (n + 5) then s4.forgetLeaves (coreOf t) else s4
        s5.modCtx t (fun x => { x with delay := Config.evict (n + 6) })
      | _ => s2
    some { s3 with turn := some turn }

/-- What a step leaves: where an access of it is held, the state before it, and an event that it performed is
on its way again (R115). -/
def State.settle (s : State) (i : Option Instr) (u : State) : State :=
  if u.blocked then
    let s1 := { s with turn := none, free := u.free }
    match i with
    | some i => if s.candidates.contains i then s1 else s1.post i
    | none => s1
  else u

/-! ## Placing an instruction where the next step fetches it -/

/-- A hart's code: the word's bytes in the Zenith cache at hart 0's pc. -/
def State.placeHart (s : State) (w : Nat) : State :=
  let r := s.hart 0
  let pc := if r.pc.toNat + 4 ≤ 2 ^ 52 && paSpace r.pc.toNat < 0xD then r.pc else 0
  let put1 := fun (s : State) (i : Nat) =>
    let a := pc.toNat + i
    let old := match look? s.zen.cache (a / 128) with
      | some l => l.data
      | none => 0
    s.zPut (a / 128) { st := .o, dirty := true, data := setInLine old (a % 128) 1 (w / 256 ^ i), tags := 0, mark := false, exp := 0,
                       high := false, syn := 0, bad := false }
  let s1 := (List.range 4).foldl put1 s
  { s1 with turn := some (.hart 0), boot := { s1.boot with phase := .done } }.setHart 0
    { r with pc := pc, mode := .m, running := true }

/-- A block of code with one word in a slot and a valid trailer. -/
def blockWith (slot w : Nat) : Line :=
  let body := w * 2 ^ (96 * slot)
  BitVec.ofNat 1024 (body + (crc32c (leBytes 120 body)).toNat * 2 ^ 960)

/-- A thread's code: a block in its core's instruction cache, and the leaf that translates its address. -/
def State.placeThread (s : State) (w : Nat) : State :=
  let t := s.cur
  let x := s.ctx t
  let pc := if pcLegal x.pc && x.pc.toNat < 2 ^ 52 then x.pc else 0
  let va := pc.toNat / 128 * 128
  let asid := s.asidOf t
  let leaf : TlbEnt := { asid := asid, va := va / 4096 * 4096, size := 12, pte := w64 (va / 4096 * 4096 + 0x9F) }
  let b : IBlock := { asid := asid, va := va / 128, pa := va / 128, data := blockWith (pc.toNat % 16) w, poison := false }
  let s1 := s.modCtx t (fun y => { y with st := .issuing, pc := pc, refusal := none, pend := [], toPost := [] })
  let s2 := s1.modCore (coreOf t) (fun c => { c with icache := b :: c.icache, tlb := leaf :: c.tlb })
  { s2.modField (fieldOf t) (fun f => { f with frozen := false }) with turn := some (.thread t) }

end Sys2Proof.Machine
end

