-- ==== Sys2Proof/Machine/Step.lean ====
section
/-! DEFINITION. One step of the cube: the turn that is due is taken, or what comes next is chosen. -/

namespace Sys2Proof.Machine

open Sys2Proof

/-- Executes what a turn has fetched; the next step chooses again. -/
def Fetched.go (s : State) (r : Fetched) : Host.Outcome State Fault Refusal :=
  match r with
  | .done u => .next (s.settle none u)
  | .run i s1 =>
    match exec i s1 with
    | .next u => .next (s.settle none { u with turn := none })
    | .fault e => .fault e
    | .refused x => .refused x

/-- One step. -/
def step (s : State) : Host.Outcome State Fault Refusal :=
  match s.turn with
  | none => (match s.choose with
    | some s1 => .next s1
    | none => .fault .halted)
  | some (.event i) =>
    (match exec i { s with turn := none } with
     | .next u => .next (s.settle (some i) u)
     | .fault e => .fault e
     | .refused x => .refused x)
  | some (.thread t) => ({ s with turn := none, cur := t }.threadTurn t).go s
  | some (.hart h) => (s.hartTurn h).go s

/-- The state with a word of the opcode table where the next step fetches it. -/
def State.withFetchWord (s : State) (nbits w : Nat) : State :=
  if nbits ≤ 32 then s.placeHart (w % 2 ^ nbits) else s.placeThread (w % 2 ^ nbits)

end Sys2Proof.Machine
end

