-- ==== Sys2Proof/Safety.lean ====
section
/-! DEFINITION. What counts as a safe run, in the terms the claims use. -/

namespace Sys2Proof.Machine

open Sys2Proof

/-! ## The machine as a whole -/

/-- Memory stands in its canonical form: addresses strictly rising, no byte listed that equals what an
unlisted location reads as. Every step keeps it. -/
def State.memOk (s : State) : Prop := s.mem.wf = true

/-- A step goes on: it neither stops with a fault nor refuses. -/
def State.goesOn (s : State) : Prop := ∃ t, step s = .next t

/-- The byte at a location, as a claim reads memory. -/
def State.byteAt (s : State) (a : Nat) : Byte := s.mem.byte a

/-! ## A thread instruction that completes -/

/-- The context whose instruction is executed. -/
def State.me (s : State) : Ctx := s.ctx s.cur

/-- Checks 3 and 4 of R153 pass: the positions accept the operand codes, the ports have neighbours, and
the guard holds. -/
def State.admits (s : State) (op : Op) (f : Fields) : Prop :=
  (op.instr f).operandsOk = true ∧ portsOk s op f = true ∧ s.me.guard f = true

/-- The current context with a function applied. -/
def State.onMe (s : State) (g : Ctx → Ctx) : State := s.modCtx s.cur g

/-- The post-increments of an instruction's operand codes are made. -/
def State.bumped (s : State) (codes : List (BitVec 8)) : State := s.onMe (fun x => x.bump codes)

/-- The state after the effects of an instruction of context t: it counts as issued and the PC moves. -/
def State.retired (s : State) (t : Nat) (ctl : Ctl) : State := s.modCtx t (fun x => x.retire ctl)

/-- Operands read in order, each under its TYPE. -/
def rdAll (x : Ctx) (imm : BitVec 32) : List (Nat × BitVec 8) → M (List Nat)
  | [] => pure []
  | (t, c) :: l => do
    let v ← rd x t imm c
    let vs ← rdAll x imm l
    pure (v :: vs)

/-- The current context has one more long-latency result on its way, known when its instruction issues:
it lands when `la` more instructions have issued (R150). -/
def State.awaits (s : State) (la : Nat) (r : Result) (fl : Flags) : State :=
  s.onMe (fun x => { x with pend := x.pend ++
    [{ pc := x.pc, idx := x.issued, left := la, done := true, result := r, flags := fl, fault := none,
       work := .none, since := none, sup := x.sup }] })

/-- The lookahead of the current instruction: 0 when it re-executes alone (R341). -/
def State.laOf (s : State) (f : Fields) : Nat := (s.me.aloneFields f).la.toNat

/-- The operand or encoding fault of an instruction is taken: cause 2, with bits [95:32] of its word. -/
def State.faultsOperand (s : State) (op : Op) (f : Fields) : State :=
  s.takeExact s.cur { cause := 0x02, tval := (op.word f).extractLsb' 32 64 }

/-! ## Conditions and effects that several statements share -/

/-- What a release waits for (R128): the earlier loads and atomics of the thread have returned and
its posted stores are acknowledged. -/
def State.released (s : State) : Prop :=
  s.me.pend.all (fun p => p.done || !p.work.isAccess) = true ∧
  (s.core (coreOf s.cur)).log.any (fun e => e.2.tid == s.cur && e.2.act == s.me.act) = false

/-- What an access to a control register waits for (R122, R287): the earlier accesses of the thread are performed, both
sides of its copies, its tile fetches and the answers of its queries among them. -/
def State.accessed (s : State) : Prop :=
  s.released ∧ s.me.tileWork = false ∧
  ((s.core (coreOf s.cur)).copies.all (fun k => k.tid != s.cur) &&
    (s.core (coreOf s.cur)).sb.all (fun k => k.tid != s.cur)) = true

/-- A release finds no refusal of a posted store; in a handler a refusal is held back (R353). -/
def State.meetsNoRefusal (s : State) : Prop := s.me.refusal = none ∨ s.me.sup = true

/-- No earlier access of the thread to some places is open (R124). -/
def State.ordered (s : State) (els : List Elem) : Prop :=
  els.all (fun e => !s.me.openOver e.pa e.bytes) = true ∧
  els.any (fun e => s.postedOver s.cur e.pa e.bytes) = false

/-- A long-latency access enters and is performed at once if nothing keeps it waiting; a delayed one is
performed later (R124). What another cube performs is asked of it by packets, which are sent first (R374). -/
def State.accesses (s : State) (la : Nat) (w : Work) : State :=
  let sent := s.sendAll (s.workPackets s.cur w)
  let p : Pend :=
    { pc := s.me.pc, idx := s.me.issued, left := la, done := false, result := .none, flags := 0, fault := none,
      work := w, since := none, sup := s.me.sup, e2e := sent.1 }
  let r := if s.me.delay then (sent.2, p) else sent.2.perform s.cur p
  r.1.modCtx s.cur (fun c => { c with pend := c.pend ++ [r.2] })

/-- VCNF counts the waits that the lanes of a local access of n bytes each cause (R79, R221). -/
def State.banksCounted (s : State) (n : Nat) (addrs : List Word) : State :=
  s.onMe (fun y => { y with
    vcnf := y.vcnf + w64 (bankWaits n (addrs.filterMap (fun a => s.vaultOff? s.cur a.toNat))) })

/-- Some lanes of n bits of a vector register take values; the others stay. -/
def State.lanesTaken (s : State) (k n : Nat) (ls : List (Nat × Nat)) : State :=
  s.onMe (fun y => y.setV k ((y.v k &&& ~~~(gatherLanes n ls).2) ||| (gatherLanes n ls).1))

/-- A copy enters the engine with its scoreboard entries; the engine takes ownership of its plain global
destination lines that the homes grant (R115), and DST takes its tag (R229). -/
def State.copyIssued (s : State) (x : Ctx) (dst : BitVec 8) (kind : CopyKind) (cls : Nat) (segs : List Seg)
    (gsrc gdst : Bool) (ents : List (List (Nat × Nat))) (srcs dsts : List (Nat × Nat) := []) : State :=
  let o := s.ownAll s.cur (if gdst && cls == 0 then destLines segs else [])
  (o.1.modCore (coreOf s.cur) (fun c => { c with
    copies := c.copies ++ [{ tid := s.cur, act := x.act, seq := nextSeq x, cls := cls, kind := kind, segs := segs,
                             gsrc := gsrc, gdst := gdst, idx := x.issued,
                             lord := (s.core (coreOf s.cur)).nextOrder, srcs := srcs, dsts := dsts, owned := o.2 }]
    sb := c.sb ++ ents.map (fun r => ({ rs := r, tid := s.cur, seq := nextSeq x } : SbEnt)) })).modCtx s.cur (fun y =>
      ({ y with copySeq := nextSeq x }).setX dst.toNat (copyTag s.cur (nextSeq x)))

/-- A copy of nothing, issued by context x: its tag is given and retired at once, with its record where copy
events are enabled (R230, R280). -/
def State.emptyCopied (s : State) (x : Ctx) (dst : BitVec 8) : State :=
  (s.onMe (fun y => ({ y with copySeq := nextSeq x }).setX dst.toNat (copyTag s.cur (nextSeq x)))).copyRecord
    s.cur x.act (nextSeq x) false

/-- The scoreboard has room for n more entries; a copy that needs none finds one free all the same (R83). -/
def State.sbRoom (s : State) (n : Nat) : Prop := (s.core (coreOf s.cur)).sb.length + Nat.max 1 n ≤ 16

/-- An operation enters the thread's array queue. -/
def State.arrayQueued (s : State) (op : ArrOp) : State :=
  s.onMe (fun y => { y with
    arrQ := y.arrQ ++ [{ op := op, owner := s.cur, act := y.act, cmd := false, seq := y.arrSeq }]
    arrSeq := y.arrSeq + 1 })

/-- A register named by its code takes a value. -/
def State.takes (s : State) (code : BitVec 8) (v : Word) : State := s.onMe (fun y => y.setX code.toNat v)

/-- The record that a definition enters, its handle noted by the issuing field and written to DST. -/
def State.defines (s : State) (dst : Slot) (k : Nat) (d : Option (BitVec 256)) (r : DirRec) : State :=
  let p := s.define s.cur k d r
  (p.2.noteHandle (fieldOf s.cur) p.1).onMe (fun y => y.setSlot dst p.1)

/-- The message that a thread sends: it takes slot k of the
queue that its operands name, and its channel's allowance. -/
def State.sends (s : State) (f : Fields) (words : List Word) (l : Launch) (k : Nat) : State :=
  let core := bits (s.me.x f.sa.toNat).toNat 19 0
  let q := msgQueue f
  (s.queueFor s.cur core q).2.sendMsg s.cur core q k l (l.channelTo (coreOf s.cur) core q) words

/-- The state after a capability instruction of hart h that completes: its pc moves on and minstret counts it. -/
def State.hartDone (s : State) (h : Nat) : State :=
  { s with free := s.free + 1 }.setHart h ((s.hart h).next ((s.hart h).pc + 4))

/-- The state after an instruction of hart h that takes an exception. -/
def State.hartTakes (s : State) (h : Nat) (e : HExc) : State := { s with free := s.free + 1 }.setHart h ((s.hart h).take e)

/-- The running hart's register rd takes a value; x0 discards it. -/
def State.hartSets (s : State) (rd : BitVec 5) (v : Word) : State := s.setHart s.hartNo ((s.hart s.hartNo).setX rd v)

/-! ## What an instruction leaves as it is -/

/-- The register at a place, as a 64-bit value. -/
def Ctx.slotVal (x : Ctx) (sl : Slot) : Word :=
  match sl with
  | .none => 0
  | .x n => look x.xs n 0
  | .a n => x.a n
  | .d n => (x.d n).zeroExtend 64
  | .k n => (x.k n).zeroExtend 64
  | .p n => b2w (x.p n)

/-- Context y is x apart from the scalar registers, the vector registers, FPST, the PC, the loop stack and
what counts an instruction as issued. -/
def Ctx.sameButRegisters (x y : Ctx) : Prop :=
  { y with xs := x.xs, as := x.as, ds := x.ds, ks := x.ks, preds := x.preds, vs := x.vs, fpst := x.fpst, pc := x.pc,
           loops := x.loops, vins := x.vins, issued := x.issued, stallAt := x.stallAt, pend := x.pend, lone := x.lone } = x

/-- Whether a place is the base of one of the (aK)+ codes of a list. -/
def stepsBase (codes : List (BitVec 8)) (sl : Slot) : Prop :=
  ∃ c ∈ codes, inR 0x88 0x8F c = true ∧ sl = .a (c.toNat - 0x88)

/-- Every scalar register of y but one, and but the bases of some (aK)+ codes, is as in x. -/
def Ctx.keepsRegisters (x y : Ctx) (but : Slot) (codes : List (BitVec 8)) : Prop :=
  ∀ sl, sl ≠ but → ¬ stepsBase codes sl → y.slotVal sl = x.slotVal sl

/-- Every context of u but the current one of s is as in s. -/
def State.keepsOthers (s u : State) : Prop := ∀ t, t ≠ s.cur → u.ctx t = s.ctx t

/-- Every byte outside [loc, loc + n) is as before. -/
def State.keepsBytes (s u : State) (loc n : Nat) : Prop :=
  ∀ a, (a < loc ∨ loc + n ≤ a) → u.byteAt a = s.byteAt a

/-- Every byte of memory is as before. -/
def State.keepsMemory (s u : State) : Prop := ∀ a, u.byteAt a = s.byteAt a

/-- Port p of core c is one that some operand codes of the current instruction read. -/
def State.readsPort (s : State) (codes : List (BitVec 8)) (c p : Nat) : Prop :=
  c = coreOf s.cur ∧ ∃ r ∈ codes, isPort r = true ∧ p = r.toNat - 0x70

/-- Every port queue of every core is as before but those that the codes read. -/
def State.keepsPorts (s u : State) (codes : List (BitVec 8)) : Prop :=
  ∀ c p, ¬ s.readsPort codes c p → look (u.core c).ports p [] = look (s.core c).ports p []

/-- No event is on its way but those of before, and flags for the FLAGOR of the current context's field. -/
def State.keepsEvents (s u : State) : Prop :=
  u.agenda = s.agenda ∨ ∃ fl, u.agenda = s.agenda ++ [.flagorSet (fieldOf s.cur) fl]

/-- No other unit changes: u is s apart from its contexts, the port queues that the codes read, and flags on their
way to FLAGOR. -/
def State.sameOutside (s u : State) (codes : List (BitVec 8)) : Prop :=
  { u with ctxs := s.ctxs, cores := s.cores, agenda := s.agenda } = s ∧
  (∀ c, { u.core c with ports := (s.core c).ports } = s.core c) ∧ s.keepsPorts u codes ∧ s.keepsEvents u

/-- The same for an instruction that writes bytes of its core's vault: memory, the poison marks of that vault and the
dirty marks of that core's frames may change as well. -/
def State.sameBeyondVault (s u : State) (codes : List (BitVec 8)) : Prop :=
  { u with ctxs := s.ctxs, cores := s.cores, agenda := s.agenda, mem := s.mem, bad := s.bad } = s ∧
  (∀ c, { u.core c with ports := (s.core c).ports, frames := (s.core c).frames } = s.core c) ∧
  (∀ c, c ≠ coreOf s.cur → (u.core c).frames = (s.core c).frames) ∧
  (∀ c k, (look? (u.core c).frames k).map (fun f => (f.owner, f.page)) =
    (look? (s.core c).frames k).map (fun f => (f.owner, f.page))) ∧
  (∀ w, w < s.vaultLoc (coreOf s.cur) 0 / 8 ∨ s.vaultLoc (coreOf s.cur) 65536 / 8 ≤ w → look u.bad w false = look s.bad w false) ∧
  s.keepsPorts u codes ∧ s.keepsEvents u

/-- The current instruction changes registers only: beside the PC, the loop stack and the counts of issue, its context
ends as x but for one register, the bases of the (aK)+ codes among `bumps`, vector registers and the flags raised. -/
def State.registersOnly (s u : State) (x : Ctx) (but : Slot) (bumps reads : List (BitVec 8)) (fl : Flags) : Prop :=
  s.keepsMemory u ∧ s.keepsOthers u ∧ s.sameOutside u reads ∧ x.sameButRegisters (u.ctx s.cur) ∧
  x.keepsRegisters (u.ctx s.cur) but bumps ∧ (u.ctx s.cur).fpst = x.fpst ||| flagWord fl

/-- The same with the vector registers as in x. -/
def State.scalarsOnly (s u : State) (x : Ctx) (but : Slot) (bumps reads : List (BitVec 8)) (fl : Flags) : Prop :=
  s.registersOnly u x but bumps reads fl ∧ (u.ctx s.cur).vs = x.vs

/-- The same with vector register k alone, and no scalar register, as the destination. -/
def State.vectorOnly (s u : State) (x : Ctx) (k : Nat) (bumps reads : List (BitVec 8)) (fl : Flags) : Prop :=
  s.registersOnly u x .none bumps reads fl ∧ ∀ i, i ≠ k → (u.ctx s.cur).v i = x.v i

/-- The current instruction stores to the vault and changes no register but the bases of its (aK)+ codes, the counters
VCNF and VINS and the flags raised. What it stores is said beside this. -/
def State.storesOnly (s u : State) (bumps reads : List (BitVec 8)) : Prop :=
  s.keepsOthers u ∧ s.sameBeyondVault u reads ∧
  ({ s.me with vcnf := (u.ctx s.cur).vcnf } : Ctx).sameButRegisters (u.ctx s.cur) ∧
  s.me.keepsRegisters (u.ctx s.cur) .none bumps ∧ (u.ctx s.cur).vs = s.me.vs

end Sys2Proof.Machine
end

