-- ==== Sys2Proof/Certificates/Slice0/Obligations.lean ====
section
/-! DEFINITION. The statements about the model that are to be proved. -/

open Sys2Proof Sys2Proof.Machine

/-! ## Encoding -/

/-- R137, R152, R153: the decoder reads back every legal thread instruction from its bytes, whatever
follows them. -/
def Obligations.Thread_words_round_trip : Prop :=
  ∀ (i : Instr) (rest : List Byte), i.thread?.isSome = true → WellFormed i →
    decode (encode i ++ rest) = some (i, rest)

/-- R152, R153: twelve bytes that decode are the encoding of one legal instruction; no bit is
dropped and no illegal word decodes. -/
def Obligations.Thread_decoding_is_exact : Prop :=
  ∀ (bs : List Byte) (i : Instr) (rest : List Byte), decode bs = some (i, rest) →
    i.thread?.isSome = true ∧ WellFormed i ∧ bs = encode i ++ rest

/-- R368: the same in both directions for the capability instructions of the harts. -/
def Obligations.Capability_words_round_trip : Prop :=
  (∀ (i : Instr) (rest : List Byte), i.zenith?.isSome = true → WellFormed i →
    decodeHart (encode i ++ rest) = some (i, rest)) ∧
  (∀ (bs : List Byte) (i : Instr) (rest : List Byte), decodeHart bs = some (i, rest) →
    i.zenith?.isSome = true ∧ WellFormed i ∧ bs = encode i ++ rest)

/-! ## The step -/

/-- No instruction is refused and none ends in a fault of the model. -/
def Obligations.Instructions_never_stop : Prop :=
  ∀ (i : Instr) (s : State), ∃ t, exec i s = .next t

/-- R394, R396, R399: a step stops only where nothing can happen any more: no turn is due, the part has no supply or
has halted in reset, and when time has passed no event is on its way; there it does stop. No step is refused. -/
def Obligations.Steps_stop_only_by_name : Prop :=
  (∀ s e, step s = .fault e → e = .halted ∧ s.turn = none ∧ s.between.options = [] ∧
    (s.between.boot.phase = .off ∨ s.between.boot.phase = .halted)) ∧
  (∀ s, s.turn = none → s.between.options = [] → step s = .fault .halted) ∧
  (∀ s r, step s ≠ .refused r)

/-! ## Scalar results -/

/-- One mnemonic that reads its operands, computes and writes DST: the operands with their types, the
type of the result, the codes with a post-increment, and the result with its flags, from the rounding
mode and the values read. -/
structure ScalarRow where
  op    : Op
  reads : Fields → List (Nat × BitVec 8)
  dstTy : Fields → Nat := fun f => f.tyN
  bumps : Fields → List (BitVec 8)
  val   : Fields → Nat → List Nat → Nat × Flags

/-- The mnemonic completes: whatever the forms of its operands, with operands that read as `vs` and a
destination that takes the result, the result is written, the flags are raised and the instruction
retires. -/
def ScalarRow.Completes (e : ScalarRow) : Prop :=
  ∀ (f : Fields) (s s1 s2 : State) (vs : List Nat), s.admits e.op f →
    rdAll s.me f.imm (e.reads f) s = .ok vs s1 →
    wr s.me (e.dstTy f) f.imm f.dst (e.val f (s.me.mode f) vs).1 (s1.bumped (e.bumps f)) = .ok () s2 →
    exec (e.op.instr f) s =
      .next ((s2.raiseFlags s2.cur (e.val f (s.me.mode f) vs).2).retired s.cur .seq)

/-- `op.T d, a, b`. -/
def twoOperands (op : Op) (val : Fields → Nat → Nat → Nat → Nat × Flags) : ScalarRow where
  op := op
  reads := fun f => [(f.tyN, f.sa), (f.tyN, f.sb)]
  bumps := fun f => [f.sa, f.sb, f.dst]
  val := fun f rm vs => val f rm (vs.getD 0 0) (vs.getD 1 0)

/-- `op.T d, a`. -/
def oneOperand (op : Op) (val : Fields → Nat → Nat → Nat × Flags) : ScalarRow where
  op := op
  reads := fun f => [(f.tyN, f.sa)]
  bumps := fun f => [f.sa, f.dst]
  val := fun f rm vs => val f rm (vs.getD 0 0)

/-- A result under an integer TYPE, narrowed with or without saturation, or a floating-point one. -/
def intOr (t : Nat) (sat : Bool) (i : Int) (fl : Nat × Flags) : Nat × Flags :=
  if tyInt t then (narrowInt t sat i, 0) else fl

/-- The short two-operand mnemonics with the results of R164, R165 and R168. -/
def scalarTwo : List ScalarRow :=
  [twoOperands .add (fun f rm a b =>
     intOr f.tyN f.sat (intVal f.tyN a + intVal f.tyN b) (fadd (fmtOf f.tyN) rm a b)),
   twoOperands .sub (fun f rm a b =>
     intOr f.tyN f.sat (intVal f.tyN a - intVal f.tyN b) (fsub (fmtOf f.tyN) rm a b)),
   twoOperands .mul (fun f rm a b =>
     intOr f.tyN f.sat (intVal f.tyN a * intVal f.tyN b) (fmul (fmtOf f.tyN) rm a b)),
   twoOperands .mulh (fun f _ a b =>
     (narrowInt f.tyN false (intVal f.tyN a * intVal f.tyN b / ((2 ^ tyWidth f.tyN : Nat) : Int)), 0)),
   twoOperands .min (fun f _ a b =>
     intOr f.tyN false (min (intVal f.tyN a) (intVal f.tyN b)) (fminmax (fmtOf f.tyN) false a b)),
   twoOperands .max (fun f _ a b =>
     intOr f.tyN false (max (intVal f.tyN a) (intVal f.tyN b)) (fminmax (fmtOf f.tyN) true a b)),
   twoOperands .and (fun _ _ a b => (a &&& b, 0)),
   twoOperands .or (fun _ _ a b => (a ||| b, 0)),
   twoOperands .xor (fun _ _ a b => (a ^^^ b, 0)),
   twoOperands .andn (fun f _ a b => (a &&& (2 ^ tyWidth f.tyN - 1 - b), 0)),
   twoOperands .orn (fun f _ a b => (a ||| (2 ^ tyWidth f.tyN - 1 - b), 0)),
   twoOperands .shl (fun f _ a b =>
     (narrowInt f.tyN f.sat (intVal f.tyN a * ((2 ^ (b % 256) : Nat) : Int)), 0)),
   twoOperands .shr (fun f _ a b => (a % 2 ^ tyWidth f.tyN / 2 ^ (b % 256), 0)),
   twoOperands .sha (fun f _ a b =>
     (narrowInt f.tyN false (sextI a (tyWidth f.tyN) / ((2 ^ (b % 256) : Nat) : Int)), 0)),
   twoOperands .rol (fun f _ a b => (intRol f.tyN a b, 0)),
   twoOperands .sext (fun f _ a b => (extVal f.tyN true a b, 0)),
   twoOperands .zext (fun f _ a b => (extVal f.tyN false a b, 0))]

/-- The one-operand mnemonics with the results of R166, R169, R175 to R177. CVT reads its operand
under the type in SB; CLASS writes a 64-bit word. -/
def scalarOne : List ScalarRow :=
  [oneOperand .neg (fun f _ a => intOr f.tyN f.sat (-(intVal f.tyN a)) (fneg (fmtOf f.tyN) a, 0)),
   oneOperand .abs (fun f _ a =>
     intOr f.tyN f.sat (intVal f.tyN a).natAbs (a % 2 ^ ((fmtOf f.tyN).w - 1), 0)),
   oneOperand .not (fun f _ a => (2 ^ tyWidth f.tyN - 1 - a, 0)),
   oneOperand .clz (fun f _ a => (clz (tyWidth f.tyN) a, 0)),
   oneOperand .ctz (fun f _ a => (ctz (tyWidth f.tyN) a, 0)),
   oneOperand .popc (fun f _ a => (popc (tyWidth f.tyN) a, 0)),
   oneOperand .brev (fun f _ a => (brev (tyWidth f.tyN) a, 0)),
   oneOperand .mov (fun _ _ a => (a, 0)),
   oneOperand .rndi (fun f rm a => rndi (fmtOf f.tyN) rm a),
   { oneOperand .cvt (fun f rm a => convert f.sb.toNat f.tyN f.sat rm a) with
     reads := fun f => [(f.sb.toNat, f.sa)] },
   { oneOperand .fclass (fun f _ a => ((w64 (2 ^ classOf (fmtOf f.tyN) a)).toNat, 0)) with
     dstTy := fun _ => 7 }]

/-- R163 to R166, R168, R169, R175 to R177: the short scalar mnemonics with one or two operands complete with
their results. -/
def Obligations.Scalar_results : Prop := ∀ e ∈ scalarTwo ++ scalarOne, e.Completes

/-- The mnemonics with a control word or a third operand, with the results of R167, R171, R173 and
R181: a control word, a condition and the operands of LEA are read as 64-bit values. -/
def scalarMixed : List ScalarRow :=
  [{ op := .bfx, reads := fun f => [(f.tyN, f.sa), (3, f.sb)], bumps := fun f => [f.sa, f.sb, f.dst],
     val := fun f _ vs => (bfxVal f.tyN (vs.getD 0 0) (w64 (vs.getD 1 0)).toNat, 0) },
   { op := .bfi, reads := fun f => [(f.tyN, f.sa), (3, f.sb), (f.tyN, f.dst)],
     bumps := fun f => [f.sa, f.sb, f.dst],
     val := fun f _ vs => (bfiVal f.tyN (vs.getD 2 0) (vs.getD 0 0) (w64 (vs.getD 1 0)).toNat, 0) },
   { op := .sel, reads := fun f => [(f.tyN, f.sa), (f.tyN, f.sb), (3, f.sc)],
     bumps := fun f => [f.sa, f.sb, f.sc, f.dst],
     val := fun _ _ vs => (if w64 (vs.getD 2 0) ≠ 0 then vs.getD 0 0 else vs.getD 1 0, 0) },
   { op := .fma, reads := fun f => [(f.tyN, f.sa), (f.tyN, f.sb), (f.tyN, f.sc)],
     bumps := fun f => [f.sa, f.sb, f.sc, f.dst],
     val := fun f rm vs => ffma (fmtOf f.tyN) rm (vs.getD 0 0) (vs.getD 1 0) (vs.getD 2 0) },
   { op := .lea, reads := fun f => [(3, f.sa), (3, f.sb)], dstTy := fun _ => 7,
     bumps := fun f => [f.sa, f.sb, f.dst],
     val := fun f _ vs => ((w64 (vs.getD 0 0) + w64 (vs.getD 1 0) * w64 (tyBytes f.tyN)).toNat, 0) }]

/-- R163, R167, R171, R173, R181: BFX, BFI, SEL, FMA and LEA complete with their results. -/
def Obligations.Scalar_mixed_results : Prop := ∀ e ∈ scalarMixed, e.Completes

/-- R149, R150, R164, R165, R174: DIV, REM and SQRT complete at once; their result and their flags
wait for the landing point, for the register that DST named at issue. -/
def Obligations.Scalar_long_results : Prop :=
  ∀ (f : Fields) (s s1 : State) (a b : Nat),
    (s.admits .div f → rdAll s.me f.imm [(f.tyN, f.sa), (f.tyN, f.sb)] s = .ok [a, b] s1 →
      let r : Nat × Flags := if tyInt f.tyN then
          (narrowInt f.tyN false (if intVal f.tyN b = 0 then -1 else (intVal f.tyN a).tdiv (intVal f.tyN b)), 0)
        else fdiv (fmtOf f.tyN) (s.me.mode f) a b
      exec (.div f) s = .next (((s1.bumped [f.sa, f.sb]).awaits (s.laOf f)
        (.scalar (s.me.slotOf f.dst) (extendTy f.tyN r.1)) r.2).retired s.cur .seq)) ∧
    (s.admits .rem f → rdAll s.me f.imm [(f.tyN, f.sa), (f.tyN, f.sb)] s = .ok [a, b] s1 →
      let r : Nat × Flags := if tyInt f.tyN then
          (narrowInt f.tyN false (if intVal f.tyN b = 0 then intVal f.tyN a
            else intVal f.tyN a - intVal f.tyN b * (intVal f.tyN a).tdiv (intVal f.tyN b)), 0)
        else frem (fmtOf f.tyN) a b
      exec (.rem f) s = .next (((s1.bumped [f.sa, f.sb]).awaits (s.laOf f)
        (.scalar (s.me.slotOf f.dst) (extendTy f.tyN r.1)) r.2).retired s.cur .seq)) ∧
    (s.admits .sqrt f → rdAll s.me f.imm [(f.tyN, f.sa)] s = .ok [a] s1 →
      let r := fsqrt (fmtOf f.tyN) (s.me.mode f) a
      exec (.sqrt f) s = .next (((s1.bumped [f.sa]).awaits (s.laOf f)
        (.scalar (s.me.slotOf f.dst) (extendTy f.tyN r.1)) r.2).retired s.cur .seq))

/-- R170, R178, R179, R181: MOVI, MOVH, MOVS and the address-register instructions complete. MOVI and
MOVH keep the other half of the register; AMOV writes aK and dK, ASTR dK, AADV aK. -/
def Obligations.Register_moves : Prop :=
  ∀ (f : Fields) (s s1 : State) (a b : Nat),
    (s.admits .movi f → exec (.movi f) s = .next ((s.onMe (fun y =>
      y.setSlot (s.me.slotOf f.dst) ((s.me.xa f.dst).extractLsb' 32 32 ++ f.imm))).retired s.cur .seq)) ∧
    (s.admits .movh f → exec (.movh f) s = .next ((s.onMe (fun y =>
      y.setSlot (s.me.slotOf f.dst) (f.imm ++ (s.me.xa f.dst).extractLsb' 0 32))).retired s.cur .seq)) ∧
    (s.admits .movsRead f →
      wr64 s.me 0 f.dst (s.me.movs f.imm.toNat) (s.bumped [f.dst]) = .ok () s1 →
      exec (.movsRead f) s = .next (s1.retired s.cur .seq)) ∧
    (s.admits .movsWrite f → rdAll s.me 0 [(3, f.sa)] s = .ok [a] s1 →
      movsOk f.imm.toNat (w64 a) = true →
      exec (.movsWrite f) s = .next (((s1.bumped [f.sa]).onMe (fun y =>
        y.setMovs f.imm.toNat (w64 a))).retired s.cur .seq)) ∧
    (s.admits .amov f → rdAll s.me f.imm [(3, f.sa), (3, f.sb)] s = .ok [a, b] s1 →
      exec (.amov f) s = .next (((s1.bumped [f.sa, f.sb]).onMe (fun y =>
        (y.setA (dstA f) (w64 a)).setD (dstA f) ((w64 b).truncate 32))).retired s.cur .seq)) ∧
    (s.admits .astr f → rdAll s.me f.imm [(3, f.sa)] s = .ok [a] s1 →
      exec (.astr f) s = .next (((s1.bumped [f.sa]).onMe (fun y =>
        y.setD (dstA f) ((w64 a * w64 (tyBytes f.tyN)).truncate 32))).retired s.cur .seq)) ∧
    (s.admits .aadv f → rdAll s.me f.imm [(3, f.sa)] s = .ok [a] s1 →
      exec (.aadv f) s = .next (((s1.bumped [f.sa]).onMe (fun y =>
        y.setA (dstA f) (y.a (dstA f) + w64 a * (s.me.d (dstA f)).signExtend 64))).retired s.cur .seq))

/-- R172, R182: CMP and TEST write a truth value, the predicate operations a predicate. -/
def Obligations.Truth_values : Prop :=
  ∀ (f : Fields) (s s1 : State) (a b : Nat),
    (s.admits .cmp f → rdAll s.me f.imm [(f.tyN, f.sa), (f.tyN, f.sb)] s = .ok [a, b] s1 →
      exec (.cmp f) s = .next ((((s1.bumped [f.sa, f.sb]).onMe (fun y =>
        y.setSlot (s.me.slotOf f.dst) (b2w (cmpVal f.tyN f.sub.toNat a b).1))).raiseFlags s1.cur
          (cmpVal f.tyN f.sub.toNat a b).2).retired s.cur .seq)) ∧
    (s.admits .test f → rdAll s.me f.imm [(f.tyN, f.sa), (f.tyN, f.sb)] s = .ok [a, b] s1 →
      exec (.test f) s = .next (((s1.bumped [f.sa, f.sb]).onMe (fun y =>
        y.setSlot (s.me.slotOf f.dst) (b2w ((a &&& b != 0) == (f.sub == 0x18#8))))).retired s.cur .seq)) ∧
    (s.admits .pand f → exec (.pand f) s = .next ((s.onMe (fun y =>
      y.setP (f.dst.toNat - 0xB0) (s.me.p (f.sa.toNat - 0xB0) && s.me.p (f.sb.toNat - 0xB0)))).retired s.cur .seq)) ∧
    (s.admits .por f → exec (.por f) s = .next ((s.onMe (fun y =>
      y.setP (f.dst.toNat - 0xB0) (s.me.p (f.sa.toNat - 0xB0) || s.me.p (f.sb.toNat - 0xB0)))).retired s.cur .seq)) ∧
    (s.admits .pxor f → exec (.pxor f) s = .next ((s.onMe (fun y =>
      y.setP (f.dst.toNat - 0xB0) (s.me.p (f.sa.toNat - 0xB0) != s.me.p (f.sb.toNat - 0xB0)))).retired s.cur .seq)) ∧
    (s.admits .pnot f → exec (.pnot f) s = .next ((s.onMe (fun y =>
      y.setP (f.dst.toNat - 0xB0) (!s.me.p (f.sa.toNat - 0xB0)))).retired s.cur .seq)) ∧
    (s.admits .pmov f → rdAll s.me f.imm [(3, f.sa)] s = .ok [a] s1 →
      exec (.pmov f) s = .next (((s1.bumped [f.sa]).onMe (fun y =>
        y.setP (f.dst.toNat - 0xB0) (w64 a != 0))).retired s.cur .seq))

/-! ## Control -/

/-- R183 to R185: BR goes to the instruction that its offset names, BRX to the value of a used as given. CALL
and CALLX move the register window forward by F - 8, write the link in the callee's window and go to their target;
RET moves the window back and goes to a. A CALL or CALLX whose window base would rise above 456, and a RET whose
base would fall below 0, is an operand fault. -/
def Obligations.Branches_and_calls : Prop :=
  ∀ (f : Fields) (s s1 : State) (a : Nat),
    let F := 8 * (f.sb.toNat % 8)
    (s.admits .br f → exec (.br f) s = .next (s.retired s.cur (.jump (relPc s.me.pc f.imm.toInt)))) ∧
    (s.admits .brx f → rdAll s.me f.imm [(3, f.sa)] s = .ok [a] s1 →
      exec (.brx f) s = .next (s1.retired s.cur (.jump (w64 a)))) ∧
    (s.admits .call f → s.me.wb + F - 8 ≤ 456 →
      exec (.call f) s = .next ((s.onMe (fun y => { y with wb := s.me.wb + F - 8 }.setX f.dst.toNat
        (nextPc s.me.pc))).retired s.cur (.goto (relPc s.me.pc f.imm.toInt)))) ∧
    (s.admits .callx f → rdAll s.me f.imm [(3, f.sa)] s = .ok [a] s1 → s1.me.wb + F - 8 ≤ 456 →
      exec (.callx f) s = .next ((s1.onMe (fun y => { y with wb := s1.me.wb + F - 8 }.setX f.dst.toNat
        (nextPc s1.me.pc))).retired s.cur (.goto (w64 a)))) ∧
    (s.admits .ret f → rdAll s.me f.imm [(3, f.sa)] s = .ok [a] s1 → F - 8 ≤ s.me.wb →
      exec (.ret f) s = .next ((s1.onMe (fun y => { y with wb := s.me.wb - (F - 8) })).retired s.cur
        (.jump (w64 a)))) ∧
    (s.admits .call f → 456 < s.me.wb + F - 8 → exec (.call f) s = .next (s.faultsOperand .call f)) ∧
    (s.admits .callx f → rdAll s.me f.imm [(3, f.sa)] s = .ok [a] s1 → 456 < s1.me.wb + F - 8 →
      exec (.callx f) s = .next (s.faultsOperand .callx f)) ∧
    (s.admits .ret f → rdAll s.me f.imm [(3, f.sa)] s = .ok [a] s1 → s.me.wb < F - 8 →
      exec (.ret f) s = .next (s.faultsOperand .ret f))

/-- R186: LOOP and LOOPX with a count of 0 skip the body; else they push an entry on the loop
stack, which holds two; a third is an operand fault. R187, R189: an instruction that is no taken branch goes back to the
start while the top entry of its level ends at it and runs are left; an entry without runs left is popped and the
next one is tested. It counts once. R188: a taken branch drops the entries that it leaves; a call drops none. -/
def Obligations.Loops_start : Prop :=
  ∀ (f : Fields) (s s1 : State) (n : Nat) (x : Ctx) (ls : List LoopEnt) (top : LoopEnt) (v : Word),
    let flows := fun (y : Ctx) => ((y.retire .seq).loops, (y.retire .seq).pc)
    let holding := fun (l : List LoopEnt) => { x with loops := l }
    let e : Int := bits f.imm.toNat 15 0
    let entry := fun (x : Ctx) (c : Nat) =>
      ({ start := nextPc x.pc, stop := relPc x.pc e, rem := c, atS := x.sup } : LoopEnt)
    (s.admits .loop f → bits f.imm.toNat 31 16 = 0 →
      exec (.loop f) s = .next (s.retired s.cur (.jump (relPc s.me.pc (e + 1))))) ∧
    (s.admits .loop f → bits f.imm.toNat 31 16 ≠ 0 → s.me.loops.length < 2 →
      exec (.loop f) s = .next ((s.onMe (fun y => { y with loops := y.loops ++
        [entry s.me (bits f.imm.toNat 31 16)] })).retired s.cur .seq)) ∧
    (s.admits .loopx f → rdAll s.me f.imm [(3, f.sa)] s = .ok [n] s1 → w64 n = 0 →
      exec (.loopx f) s = .next (s1.retired s.cur (.jump (relPc s1.me.pc (e + 1))))) ∧
    (s.admits .loopx f → rdAll s.me f.imm [(3, f.sa)] s = .ok [n] s1 → w64 n ≠ 0 → s1.me.loops.length < 2 →
      exec (.loopx f) s = .next ((s1.onMe (fun y => { y with loops := y.loops ++
        [entry s1.me (w64 n).toNat] })).retired s.cur .seq)) ∧
    (s.admits .loop f → bits f.imm.toNat 31 16 ≠ 0 → 2 ≤ s.me.loops.length →
      exec (.loop f) s = .next (s.faultsOperand .loop f)) ∧
    (s.admits .loopx f → rdAll s.me f.imm [(3, f.sa)] s = .ok [n] s1 → w64 n ≠ 0 → 2 ≤ s1.me.loops.length →
      exec (.loopx f) s = .next (s.faultsOperand .loopx f)) ∧
    (x.lone = none → flows (holding []) = ([], nextPc x.pc)) ∧
    (x.lone = none → top.atS = x.sup → top.stop ≠ x.pc → flows (holding (ls ++ [top])) = (ls ++ [top], nextPc x.pc)) ∧
    (x.lone = none → top.atS = x.sup → top.stop = x.pc → 1 < top.rem →
      flows (holding (ls ++ [top])) = (ls ++ [{ top with rem := top.rem - 1 }], top.start)) ∧
    (x.lone = none → top.atS = x.sup → top.stop = x.pc → top.rem ≤ 1 → flows (holding (ls ++ [top])) = flows (holding ls)) ∧
    (x.lone = none → top.atS ≠ x.sup →
      flows (holding (ls ++ [top])) = ((flows (holding ls)).1 ++ [top], (flows (holding ls)).2)) ∧
    ((x.retire .seq).issued = x.issued + 1) ∧
    (x.lone = none → (x.retire (.jump v)).pc = v ∧ ∀ e, e ∈ (x.retire (.jump v)).loops ↔ e ∈ x.loops ∧
      (e.atS = x.sup → e.stop ≠ x.pc ∧ (e.start ≤ x.pc → x.pc < e.stop → e.start ≤ v ∧ v ≤ e.stop))) ∧
    ((x.retire (.goto v)).pc = v ∧ (x.retire (.goto v)).loops = x.loops)

/-- R190: NOP has no effect apart from issuing. WAITL lands every long-latency result of the thread; so
does YIELD, which then gives its issue slot to a ready context of the core whose slot priority is
not below its own. -/
def Obligations.Nop_waitl_yield : Prop :=
  ∀ (f : Fields) (s : State),
    let s1 := s.landThese s.cur (fun _ => true)
    let other := (ctxsOf (coreOf s1.cur)).any (fun t => (s1.ctx t).st == .ready && decide ((s1.ctx t).slotPri ≥ s1.me.pri))
    (s.admits .nop f → exec (.nop f) s = .next (s.retired s.cur .seq)) ∧
    (s.admits .waitl f → s.me.pend.all (fun p => p.done && p.fault.isNone) = true →
      exec (.waitl f) s = .next (s1.retired s.cur .seq)) ∧
    (s.admits .yield f → s.me.pend.all (fun p => p.done && p.fault.isNone) = true →
      exec (.yield f) s = .next ((if other then s1.toReady s1.cur else s1).retired s.cur .seq))

/-! ## Vectors -/

/-- An element-wise mnemonic with one or two sources: what lane values a and b give. -/
structure LaneRow where
  op  : Op
  val : Fields → Nat → Nat → Nat → Nat × Flags

/-- The element-wise mnemonics `vop.T vd, va, vb` with the lane results of R195. -/
def vectorTwo : List LaneRow :=
  [⟨.vadd, fun f rm a b => intOr f.tyN f.sat (intVal f.tyN a + intVal f.tyN b) (fadd (fmtOf f.tyN) rm a b)⟩,
   ⟨.vsub, fun f rm a b => intOr f.tyN f.sat (intVal f.tyN a - intVal f.tyN b) (fsub (fmtOf f.tyN) rm a b)⟩,
   ⟨.vmul, fun f rm a b => intOr f.tyN f.sat (intVal f.tyN a * intVal f.tyN b) (fmul (fmtOf f.tyN) rm a b)⟩,
   ⟨.vmin, fun f _ a b =>
     intOr f.tyN false (min (intVal f.tyN a) (intVal f.tyN b)) (fminmax (fmtOf f.tyN) false a b)⟩,
   ⟨.vmax, fun f _ a b =>
     intOr f.tyN false (max (intVal f.tyN a) (intVal f.tyN b)) (fminmax (fmtOf f.tyN) true a b)⟩,
   ⟨.vand, fun _ _ a b => (a &&& b, 0)⟩,
   ⟨.vor, fun _ _ a b => (a ||| b, 0)⟩,
   ⟨.vxor, fun _ _ a b => (a ^^^ b, 0)⟩,
   ⟨.vshl, fun f _ a b => (narrowInt f.tyN f.sat (intVal f.tyN a * ((2 ^ (b % 256) : Nat) : Int)), 0)⟩,
   ⟨.vshr, fun f _ a b => (a % 2 ^ tyWidth f.tyN / 2 ^ (b % 256), 0)⟩,
   ⟨.vsha, fun f _ a b =>
     (narrowInt f.tyN false (sextI a (tyWidth f.tyN) / ((2 ^ (b % 256) : Nat) : Int)), 0)⟩]

/-- R191 to R195: each of them completes: every enabled lane takes its result, the others stay as they
are, and the flags of the enabled lanes are raised. -/
def Obligations.Vector_two_source_results : Prop :=
  ∀ e ∈ vectorTwo, ∀ (f : Fields) (s s1 s2 s3 : State) (a : Nat) (b : Nat → Nat), s.admits e.op f →
    rdV s.me f.imm f.sa s = .ok a s1 → rdLanes s.me f.tyN f.imm f.sb s1 = .ok b s2 →
    let n := tyWidth f.tyN
    let g := fun i => e.val f (s.me.mode f) (laneOf n a i) (b i)
    wrV s.me f.imm f.dst n (s.me.laneOn f) (fun i => (g i).1) (s2.bumped [f.sa, f.sb, f.dst]) = .ok () s3 →
    exec (e.op.instr f) s =
      .next ((s3.raiseFlags s3.cur (laneFlags (lanesOf n) (s.me.laneOn f) g)).retired s.cur .seq)

/-- The element-wise mnemonics `vop.T vd, va` with the lane results of R195, R203 and R206. -/
def vectorOne : List LaneRow :=
  [⟨.vabs, fun f _ a _ => intOr f.tyN f.sat (intVal f.tyN a).natAbs (a % 2 ^ ((fmtOf f.tyN).w - 1), 0)⟩,
   ⟨.vneg, fun f _ a _ => intOr f.tyN f.sat (-(intVal f.tyN a)) (fneg (fmtOf f.tyN) a, 0)⟩,
   ⟨.vmov, fun _ _ a _ => (a, 0)⟩,
   ⟨.vcvt, fun f rm a _ => convert f.sb.toNat f.tyN f.sat rm a⟩]

/-- R191 to R195, R203, R206: the one-source element-wise mnemonics complete with their lane results. -/
def Obligations.Vector_one_source_results : Prop :=
  ∀ e ∈ vectorOne, ∀ (f : Fields) (s s1 s2 : State) (a : Nat), s.admits e.op f →
    rdV s.me f.imm f.sa s = .ok a s1 →
    let n := tyWidth f.tyN
    let g := fun i => e.val f (s.me.mode f) (laneOf n a i) 0
    wrV s.me f.imm f.dst n (s.me.laneOn f) (fun i => (g i).1) (s1.bumped [f.sa, f.dst]) = .ok () s2 →
    exec (e.op.instr f) s =
      .next ((s2.raiseFlags s2.cur (laneFlags (lanesOf n) (s.me.laneOn f) g)).retired s.cur .seq)

/-- R195, R196, R199: VFMA rounds a × b + c once; VDOT adds the products of the pairs or quadruples of a
32-bit lane to the accumulator; VSEL takes a lane of a where it is enabled and of b elsewhere. -/
def Obligations.Vector_three_source_results : Prop :=
  ∀ (f : Fields) (s s1 s2 s3 s4 : State) (a cv : Nat) (b c : Nat → Nat),
    let n := tyWidth f.tyN
    let fma := fun i => ffma (fmtOf f.tyN) (s.me.mode f) (laneOf n a i) (b i) (c i)
    let dot := fun i => if tyInt f.tyN then
        (idot f.tyN f.sat (laneOf 32 cv i) ((List.range (32 / n)).map (fun j => (laneOf n a (32 / n * i + j), b (32 / n * i + j)))), 0)
      else fdot (fmtOf f.tyN) (s.me.mode f) (laneOf 32 cv i) (laneOf n a (2 * i)) (b (2 * i))
        (laneOf n a (2 * i + 1)) (b (2 * i + 1))
    (s.admits .vfma f → rdV s.me f.imm f.sa s = .ok a s1 → rdLanes s.me f.tyN f.imm f.sb s1 = .ok b s2 →
      rdLanes s.me f.tyN f.imm f.sc s2 = .ok c s3 →
      wrV s.me f.imm f.dst n (s.me.laneOn f) (fun i => (fma i).1) (s3.bumped [f.sa, f.sb, f.sc, f.dst]) = .ok () s4 →
      exec (.vfma f) s =
        .next ((s4.raiseFlags s4.cur (laneFlags (lanesOf n) (s.me.laneOn f) fma)).retired s.cur .seq)) ∧
    (s.admits .vdot f → rdV s.me f.imm f.sa s = .ok a s1 → rdLanes s.me f.tyN f.imm f.sb s1 = .ok b s2 →
      rdV s.me f.imm f.sc s2 = .ok cv s3 →
      wrV s.me f.imm f.dst 32 (s.me.laneOn f) (fun i => (dot i).1) (s3.bumped [f.sa, f.sb, f.sc, f.dst]) = .ok () s4 →
      exec (.vdot f) s =
        .next ((s4.raiseFlags s4.cur (laneFlags 16 (s.me.laneOn f) dot)).retired s.cur .seq)) ∧
    (s.admits .vsel f → rdV s.me f.imm f.sa s = .ok a s1 → rdLanes s.me f.tyN f.imm f.sb s1 = .ok b s2 →
      wrV s.me f.imm f.dst n (fun _ => true) (fun i => if s.me.laneOn f i then laneOf n a i else b i)
        (s2.bumped [f.sa, f.sb, f.dst]) = .ok () s3 →
      exec (.vsel f) s = .next (s3.retired s.cur .seq))

/-- The long-latency mnemonics with one source and their lane results (R195, R197, R198). -/
def vectorLong : List (Op × (Fields → Nat → Nat → Nat × Flags)) :=
  [(.vsqrt, fun f rm a => fsqrt (fmtOf f.tyN) rm a),
   (.vrcp, fun f rm a => approx rcp32 f.tyN rm a),
   (.vrsq, fun f rm a => approx rsq32 f.tyN rm a),
   (.vexp2, fun f rm a => approx exp232 f.tyN rm a)]

/-- R150, R193, R195, R197, R198, R213: VDIV, VSQRT and the approximations complete at once; the whole
vector, with the lanes that are not enabled as they were, lands later, and its flags with it. -/
def Obligations.Vector_long_results : Prop :=
  (∀ e ∈ vectorLong, ∀ (f : Fields) (s s1 : State) (a : Nat → Nat), s.admits e.1 f →
    rdLanes s.me f.tyN f.imm f.sa s = .ok a s1 →
    let n := tyWidth f.tyN
    let k := f.dst.toNat - 0x40
    let g := fun i => e.2 f (s.me.mode f) (a i)
    exec (e.1.instr f) s = .next (((s1.bumped [f.sa]).awaits (s.laOf f)
      (.vector k (BitVec.allOnes 512) (mergeLanes n (s.me.v k).toNat (s.me.laneOn f) (fun i => (g i).1)))
      (laneFlags (lanesOf n) (s.me.laneOn f) g)).retired s.cur .seq)) ∧
  (∀ (f : Fields) (s s1 s2 : State) (a : Nat) (b : Nat → Nat), s.admits .vdiv f →
    rdV s.me f.imm f.sa s = .ok a s1 → rdLanes s.me f.tyN f.imm f.sb s1 = .ok b s2 →
    let n := tyWidth f.tyN
    let k := f.dst.toNat - 0x40
    let g := fun i => fdiv (fmtOf f.tyN) (s.me.mode f) (laneOf n a i) (b i)
    exec (.vdiv f) s = .next (((s2.bumped [f.sa, f.sb]).awaits (s.laOf f)
      (.vector k (BitVec.allOnes 512) (mergeLanes n (s.me.v k).toNat (s.me.laneOn f) (fun i => (g i).1)))
      (laneFlags (lanesOf n) (s.me.laneOn f) g)).retired s.cur .seq))

/-- R193, R200 to R202: compares and the mask instructions write a lane-enable register; VMASK.GET
writes its 64 bits to DST; VIOTA numbers the enabled lanes from a. -/
def Obligations.Lane_enables : Prop :=
  ∀ (f : Fields) (s s1 s2 s3 : State) (a v : Nat) (b : Nat → Nat),
    let n := tyWidth f.tyN
    let cmp := fun i => cmpVal f.tyN f.sub.toNat (laneOf n a i) (b i)
    let e := fun (w : BitVec 64) => (s.onMe (fun y => y.setE f.dst.toNat w)).retired s.cur .seq
    let ea := s.me.e f.sa.toNat
    let eb := s.me.e f.sb.toNat
    (s.admits .vcmp f → rdV s.me f.imm f.sa s = .ok a s1 → rdLanes s.me f.tyN f.imm f.sb s1 = .ok b s2 →
      exec (.vcmp f) s = .next ((((s2.bumped [f.sa, f.sb]).onMe (fun y =>
        y.setE f.dst.toNat (laneBits (lanesOf n) (fun i => s.me.laneOn f i && (cmp i).1)))).raiseFlags s2.cur
          (laneFlags (lanesOf n) (s.me.laneOn f) (fun i => (0, (cmp i).2)))).retired s.cur .seq)) ∧
    (s.admits .vmaskAnd f → exec (.vmaskAnd f) s = .next (e (ea &&& eb))) ∧
    (s.admits .vmaskOr f → exec (.vmaskOr f) s = .next (e (ea ||| eb))) ∧
    (s.admits .vmaskXor f → exec (.vmaskXor f) s = .next (e (ea ^^^ eb))) ∧
    (s.admits .vmaskAndn f → exec (.vmaskAndn f) s = .next (e (ea &&& ~~~eb))) ∧
    (s.admits .vmaskNot f → exec (.vmaskNot f) s = .next (e (~~~ea))) ∧
    (s.admits .vmaskSet f → rd s.me 3 f.imm f.sa s = .ok v s1 →
      exec (.vmaskSet f) s = .next ((s1.onMe (fun y => y.setE f.dst.toNat (w64 v))).retired s.cur .seq)) ∧
    (s.admits .vmaskGet f → wr64 s.me f.imm f.dst ea (s.bumped [f.dst]) = .ok () s1 →
      exec (.vmaskGet f) s = .next (s1.retired s.cur .seq)) ∧
    (s.admits .viota f → rd s.me f.tyN f.imm f.sa s = .ok v s1 →
      wrV s.me f.imm f.dst n (s.me.laneOn f)
        (fun i => v + ((List.range i).filter (s.me.laneOn f)).length) (s1.bumped [f.dst]) = .ok () s3 →
      exec (.viota f) s = .next (s3.retired s.cur .seq))

/-- R203: VBCAST, VEXT, VINS, VSHUF and VROT move lanes; lane numbers are taken modulo the number of
lanes, VSHUF's modulo twice that. -/
def Obligations.Lane_moves : Prop :=
  ∀ (f : Fields) (s s1 s2 s3 s4 : State) (a b c k : Nat),
    let n := tyWidth f.tyN
    let l := lanesOf n
    (s.admits .vbcast f → rd s.me f.tyN f.imm f.sa s = .ok k s1 →
      wrV s.me f.imm f.dst n (s.me.laneOn f) (fun _ => k) (s1.bumped [f.dst]) = .ok () s2 →
      exec (.vbcast f) s = .next (s2.retired s.cur .seq)) ∧
    (s.admits .vext f → rdV s.me f.imm f.sa s = .ok a s1 → rd s.me f.tyN f.imm f.sb s1 = .ok k s2 →
      wr s.me f.tyN f.imm f.dst (laneOf n a (k % 256 % l)) (s2.bumped [f.sa, f.dst]) = .ok () s3 →
      exec (.vext f) s = .next (s3.retired s.cur .seq)) ∧
    (s.admits .vins f → rd s.me f.tyN f.imm f.sa s = .ok a s1 → rd s.me f.tyN f.imm f.sb s1 = .ok k s2 →
      wrV s.me f.imm f.dst n (fun i => i == k % 256 % l && s.me.laneOn f i) (fun _ => a) (s2.bumped []) = .ok () s3 →
      exec (.vins f) s = .next (s3.retired s.cur .seq)) ∧
    (s.admits .vshuf f → rdV s.me f.imm f.sa s = .ok a s1 → rdV s.me f.imm f.sb s1 = .ok b s2 →
      rdV s.me f.imm f.sc s2 = .ok c s3 →
      wrV s.me f.imm f.dst n (s.me.laneOn f) (fun i =>
        let j := laneOf n c i % (2 * l)
        if j < l then laneOf n a j else laneOf n b (j - l)) (s3.bumped [f.sa, f.sb, f.sc, f.dst]) = .ok () s4 →
      exec (.vshuf f) s = .next (s4.retired s.cur .seq)) ∧
    (s.admits .vrot f → rdV s.me f.imm f.sa s = .ok a s1 → rd s.me f.tyN f.imm f.sb s1 = .ok k s2 →
      wrV s.me f.imm f.dst n (s.me.laneOn f) (fun i => laneOf n a ((i + k % 256) % l))
        (s2.bumped [f.sa, f.dst]) = .ok () s3 →
      exec (.vrot f) s = .next (s3.retired s.cur .seq))

/-- R68, R204, R205: a reduction folds the lanes in the fixed tree, a disabled lane entering as 0 or as
the identity of the operation; VSCAN writes running sums over the enabled lanes. -/
def Obligations.Reductions_and_scans : Prop :=
  ∀ (f : Fields) (s s1 s2 : State) (a : Nat),
    let n := tyWidth f.tyN
    let rm := s.me.mode f
    let tree := fun (fill : Nat) (op : Nat → Nat → Nat × Flags) => treeSum op (lanesOf n).log2
      ((List.range (lanesOf n)).map (fun i => if s.me.laneOn f i then laneOf n a i else fill))
    let sum := tree 0 (fun x y =>
      intOr f.tyN f.sat (intVal f.tyN x + intVal f.tyN y) (fadd51 (fmtOf f.tyN) rm x y))
    let least := tree (redIdentity f.tyN false) (fnMin f.tyN)
    let most := tree (redIdentity f.tyN true) (fnMax f.tyN)
    let scan := scanLanes f.tyN f.sat rm none ((List.range (lanesOf n)).map (fun i => (s.me.laneOn f i, laneOf n a i)))
    (s.admits .vreds f → rdV s.me f.imm f.sa s = .ok a s1 →
      wr s.me f.tyN f.imm f.dst sum.1 (s1.bumped [f.sa, f.dst]) = .ok () s2 →
      exec (.vreds f) s = .next ((s2.raiseFlags s2.cur sum.2).retired s.cur .seq)) ∧
    (s.admits .vredmMin f → rdV s.me f.imm f.sa s = .ok a s1 →
      wr s.me f.tyN f.imm f.dst least.1 (s1.bumped [f.sa, f.dst]) = .ok () s2 →
      exec (.vredmMin f) s = .next ((s2.raiseFlags s2.cur least.2).retired s.cur .seq)) ∧
    (s.admits .vredmMax f → rdV s.me f.imm f.sa s = .ok a s1 →
      wr s.me f.tyN f.imm f.dst most.1 (s1.bumped [f.sa, f.dst]) = .ok () s2 →
      exec (.vredmMax f) s = .next ((s2.raiseFlags s2.cur most.2).retired s.cur .seq)) ∧
    (s.admits .vscan f → rdV s.me f.imm f.sa s = .ok a s1 →
      wrV s.me f.imm f.dst n (s.me.laneOn f) (fun i => scan.1.getD i 0) (s1.bumped [f.sa, f.dst]) = .ok () s2 →
      exec (.vscan f) s = .next ((s2.raiseFlags s2.cur scan.2).retired s.cur .seq))

/-- R207, R208: VWIDN converts one half of the source lanes to twice their width; VNARR divides by a power
of two, rounds, and fills one half of the destination. -/
def Obligations.Widening_and_narrowing : Prop :=
  ∀ (f : Fields) (s s1 s2 : State) (a : Nat),
    let n := tyWidth f.tyN
    let half := if f.imm.getLsbD 0 then lanesOf n else 0
    let wide := fun i => convert f.sb.toNat f.tyN f.sat (s.me.mode f) (laneOf (n / 2) a (i + half))
    let ls := lanesOf (2 * n)
    let lo := if f.imm.getLsbD 8 then ls else 0
    let on := fun j => decide (lo ≤ j) && decide (j < lo + ls) && s.me.laneOn f j
    let slim := fun j => narrow1 f.sb.toNat f.tyN f.sat (s.me.mode f) (bits f.imm.toNat 7 0) (laneOf (2 * n) a (j - lo))
    (s.admits .vwidn f → rdV s.me f.imm f.sa s = .ok a s1 →
      wrV s.me f.imm f.dst n (s.me.laneOn f) (fun i => (wide i).1) (s1.bumped [f.sa, f.dst]) = .ok () s2 →
      exec (.vwidn f) s =
        .next ((s2.raiseFlags s2.cur (laneFlags (lanesOf n) (s.me.laneOn f) wide)).retired s.cur .seq)) ∧
    (s.admits .vnarr f → rdV s.me f.imm f.sa s = .ok a s1 →
      wrV s.me f.imm f.dst n on (fun i => (slim i).1) (s1.bumped [f.sa, f.dst]) = .ok () s2 →
      exec (.vnarr f) s = .next ((s2.raiseFlags s2.cur (laneFlags (lanesOf n) on slim)).retired s.cur .seq))

/-- R57, R209 to R212: VQNT writes the block that its 32 elements quantise to, VDQT reads one half of a
block; VSPRS keeps the two top-ranked lanes of each four with their indices, and VXPND puts them back. -/
def Obligations.Blocks_and_sparsity : Prop :=
  ∀ (f : Fields) (s s1 s2 s3 s4 : State) (a b w no : Nat) (fmt : BitVec 8) (k : Blk),
    let n := tyWidth f.tyN
    let el := fun e =>
      if s.me.laneOn f e then (if n = 32 && e ≥ 16 then laneOf 32 b (e - 16) else laneOf n a e) else 0
    let q := quantiseTy (fmtWidth fmt) (s.me.mode f) f.tyN ((List.range 32).map el)
    let deq := fun i => dequantTy w (s.me.mode f) f.tyN k (i + if f.imm.getLsbD 0 then 16 else 0)
    let kept := (List.range (lanesOf n / 4)).flatMap (fun g =>
      (keptOf (fun i => rankKey f.tyN (laneOf n a (4 * g + i)))).map (fun i => (laneOf n a (4 * g + i), i)))
    let idx := fun j => a / 2 ^ (256 + 2 * j) % 4
    (s.admits .vqnt f → rdV s.me f.imm f.sa s = .ok a s1 →
      (if n = 32 then rdV s.me f.imm f.sb else pure 0) s1 = .ok b s2 →
      blockAt s.me (s.me.localAddr f.imm f.dst) s2 = .ok (fmt, no) s3 →
      writeBlock (s.me.localAddr f.imm f.dst) fmt no q.1
        (s3.bumped (if n = 32 then [f.sa, f.sb, f.dst] else [f.sa, f.dst])) = .ok () s4 →
      exec (.vqnt f) s = .next ((s4.raiseFlags s4.cur q.2).retired s.cur .seq)) ∧
    (s.admits .vdqt f → readBlock s.me (s.me.localAddr f.imm f.sa) s = .ok (w, k) s1 →
      wrV s.me f.imm f.dst n (s.me.laneOn f) (fun i => (deq i).1) (s1.bumped [f.sa]) = .ok () s2 →
      exec (.vdqt f) s =
        .next ((s2.raiseFlags s2.cur (laneFlags (lanesOf n) (s.me.laneOn f) deq)).retired s.cur .seq)) ∧
    (s.admits .vsprs f → rdV s.me f.imm f.sa s = .ok a s1 →
      exec (.vsprs f) s = .next (((s1.bumped [f.sa]).onMe (fun y => y.setV (f.dst.toNat - 0x40)
        (BitVec.ofNat 512 (joinLanes n (kept.map Prod.fst) + 2 ^ 256 * joinLanes 2 (kept.map Prod.snd))))).retired
          s.cur .seq)) ∧
    (s.admits .vxpnd f → rdV s.me f.imm f.sa s = .ok a s1 →
      wrV s.me f.imm f.dst n (s.me.laneOn f) (fun i =>
        if idx (2 * (i / 4) + 1) = i % 4 then laneOf n a (2 * (i / 4) + 1)
        else if idx (2 * (i / 4)) = i % 4 then laneOf n a (2 * (i / 4)) else 0) (s1.bumped [f.sa]) = .ok () s2 →
      exec (.vxpnd f) s = .next (s2.retired s.cur .seq))

/-! ## Memory -/

/-- R73, R75, R83: a naturally aligned access of n bytes to a local address reaches byte
frame × 4,096 + offset of the core's vault. Beyond 0xC000 or the launch's pages it is a protection
fault, misaligned an alignment fault; a page that is not resident asks for its fill; the scoreboard and
the array reads ahead of a store make it wait; a poisoned word read is a data error. -/
def Obligations.Local_addresses : Prop :=
  ∀ (s : State) (a : Word) (n : Nat) (store : Bool), 0 < n →
    let held := (s.core (coreOf s.cur)).sb.any (fun e => e.rs.any (fun r =>
      (s.vaultOff? s.cur a.toNat).any (fun o => decide (r.1 < o + n) && decide (o < r.2))))
    let reads := store && s.me.arrHit a.toNat n
    let bad := (s.vaultOff? s.cur a.toNat).any (fun o => !store && s.vaultBad (s.vaultLoc (coreOf s.cur) o) n)
    localLoc a n store s =
      if a.toNat + n > 0xC000 ∨ (a.toNat + n - 1) / 4096 ≥ s.lpgOf s.cur then
        .error (.exc { cause := cProt, tval := a }) s
      else if a.toNat % n ≠ 0 then .error (.exc { cause := cAlign, tval := a }) s
      else
        match s.frameOf? s.cur (a.toNat / 4096) with
        | none => .error (.page (a.toNat / 4096)) s
        | some k =>
          if held ∨ reads then .error .stall s
          else if bad then .error (.exc { cause := cData, tval := a }) s
          else .ok (s.vaultLoc (coreOf s.cur) (k * 4096 + a.toNat % 4096)) s

/-- R217, R219: the local forms of LD, ST, LDV and STV complete. A load extends its value by TYPE; an
LDV changes the enabled lanes only; an STV stores the enabled lanes only; the block forms read and
write the block at the address. -/
def Obligations.Local_loads_and_stores : Prop :=
  ∀ (f : Fields) (s s1 s2 : State) (v b l w no : Nat) (k : Blk) (fmt : BitVec 8),
    let n := tyWidth f.tyN
    let a := s.me.localAddr f.imm f.sa
    let vd := f.dst.toNat - 0x40
    let half := if f.sb.getLsbD 0 then 16 else 0
    let el := fun e => if s.me.laneOn f e then
        (if e < 16 then laneOf 32 (s.me.v (f.sb.toNat - 0x40)).toNat e
         else laneOf 32 (s.me.v (f.sc.toNat - 0x40)).toNat (e - 16)) else 0
    let q := quantiseTy (fmtWidth fmt) s.me.rm 10 ((List.range 32).map el)
    (s.admits .ld f → f.space = 0 → localRead a (tyBytes f.tyN) s = .ok v s1 →
      exec (.ld f) s = .next (((s1.bumped [f.sa]).onMe (fun y =>
        y.setSlot (s.me.slotOf f.dst) (extendTy f.tyN v))).retired s.cur .seq)) ∧
    (s.admits .st f → f.space = 0 → rd s.me f.tyN f.imm f.sb s = .ok b s1 →
      localWrite a (tyBytes f.tyN) b (s1.bumped [f.sa, f.sb]) = .ok () s2 →
      exec (.st f) s = .next (s2.retired s.cur .seq)) ∧
    (s.admits .ldv f → f.tyN ≠ 12 → f.space = 0 → localRead a 64 s = .ok v s1 →
      exec (.ldv f) s = .next (((s1.bumped [f.sa]).lanesTaken vd n
        ((s.me.lanes f).map (fun i => (i, laneOf n v i)))).retired s.cur .seq)) ∧
    (s.admits .ldv f → f.tyN = 12 → readBlock s.me a s = .ok (w, k) s1 →
      exec (.ldv f) s = .next (((s1.bumped [f.sa]).lanesTaken vd 32
        (((List.range 16).filter (s.me.laneOn f)).map (fun i => (i, (dequant w 0 10 k (i + half)).1)))).retired
          s.cur .seq)) ∧
    (s.admits .stv f → f.tyN ≠ 12 → f.space = 0 → rdV s.me f.imm f.sb s = .ok v s1 →
      localLoc a 64 true s1 = .ok l s2 →
      exec (.stv f) s = .next (((s2.bumped [f.sa, f.sb]).storeLanes (coreOf s2.cur) (l % 65536) n (s.me.laneOn f)
        (laneOf n v)).retired s.cur .seq)) ∧
    (s.admits .stv f → f.tyN = 12 → blockAt s.me a s = .ok (fmt, no) s1 →
      writeBlock a fmt no q.1 (s1.bumped [f.sa]) = .ok () s2 →
      exec (.stv f) s = .next ((s2.raiseFlags s2.cur q.2).retired s.cur .seq))

/-- R217 to R219: the global forms complete. A load or a vector load enters as a long-latency access
of its bytes or of its enabled lanes; a store's bytes are posted, held for a full log, or written before it
completes. -/
def Obligations.Global_loads_and_stores : Prop :=
  ∀ (f : Fields) (s s1 s2 s3 : State) (pa b : Nat),
    let n := tyBytes f.tyN
    let va := s.me.globalAddr f
    let one : Elem := { lane := 0, pa := pa, bytes := n, named := va }
    let els := (s.me.lanes f).map (fun i => ({ lane := i, pa := pa + tyWidth f.tyN / 8 * i, bytes := tyWidth f.tyN / 8, named := va } : Elem))
    let mask := laneMask (tyWidth f.tyN / 8) (s.me.lanes f)
    (s.admits .ld f → f.space ≠ 0 → globalPa f.space va n needLoad s = .ok pa s1 → s1.ordered [one] →
      exec (.ld f) s =
        .next ((s1.accesses (s.laOf f) (.load f.tyN f.clsM (s.me.slotOf f.dst) one)).retired s.cur .seq)) ∧
    (s.admits .st f → f.space ≠ 0 → globalPa f.space va n needStore s = .ok pa s1 →
      rd s.me f.tyN f.imm f.sb s1 = .ok b s2 →
      globalStore f.space f.clsM [{ pa := pa, n := n, mask := 2 ^ n - 1, data := b, named := va }] (s2.bumped [f.sb]) =
        .ok () s3 →
      exec (.st f) s = .next (s3.retired s.cur .seq)) ∧
    (s.admits .ldv f → f.tyN ≠ 12 → f.space ≠ 0 → globalPa f.space va 64 needLoad s = .ok pa s1 → s1.ordered els →
      exec (.ldv f) s = .next ((s1.accesses (s.laOf f)
        (.vload (tyWidth f.tyN / 8) f.clsM (f.dst.toNat - 0x40) els)).retired s.cur .seq)) ∧
    (s.admits .stv f → f.tyN ≠ 12 → f.space ≠ 0 → globalPa f.space va 64 needStore s = .ok pa s1 →
      rdV s.me f.imm f.sb s1 = .ok b s2 → mask = 0 →
      exec (.stv f) s = .next ((s2.bumped [f.sb]).retired s.cur .seq)) ∧
    (s.admits .stv f → f.tyN ≠ 12 → f.space ≠ 0 → globalPa f.space va 64 needStore s = .ok pa s1 →
      rdV s.me f.imm f.sb s1 = .ok b s2 → mask ≠ 0 →
      globalStore f.space f.clsM [{ pa := pa, n := 64, mask := mask, data := b, named := va }] (s2.bumped [f.sb]) =
        .ok () s3 →
      exec (.stv f) s = .next (s3.retired s.cur .seq))

/-- The enabled lanes read from local addresses. -/
def readLanes (x : Ctx) (f : Fields) (at_ : Nat → Word) : M (List (Nat × Nat)) :=
  (x.lanes f).mapM (fun i => do
    let v ← localRead (at_ i) (tyWidth f.tyN / 8)
    pure (i, v))

/-- The vault places of the enabled lanes of a store. -/
def placeLanes (x : Ctx) (f : Fields) (at_ : Nat → Word) : M (List (Nat × Nat)) :=
  (x.lanes f).mapM (fun i => do
    let l ← localLoc (at_ i) (tyWidth f.tyN / 8) true
    pure (i, l))

/-- The places of the enabled lanes of a global access. -/
def findLanes (x : Ctx) (f : Fields) (nd : Need) (at_ : Nat → Word) : M (List Elem) :=
  (x.lanes f).mapM (fun i => do
    let pa ← globalPa f.space (at_ i) (tyWidth f.tyN / 8) nd
    pure { lane := i, pa := pa, bytes := tyWidth f.tyN / 8, named := at_ i })

/-- What a vector load by lane addresses does, each enabled lane i at `at_ i`. -/
def LanesLoad (op : Op) (f : Fields) (s s0 : State) (at_ : Nat → Word) : Prop :=
  ∀ (s1 : State) (vs : List (Nat × Nat)) (els : List Elem),
    (f.space = 0 → readLanes s.me f at_ s0 = .ok vs s1 →
      exec (op.instr f) s = .next ((((s1.banksCounted (tyWidth f.tyN / 8) ((s.me.lanes f).map at_)).bumped
        [f.sa]).lanesTaken (f.dst.toNat - 0x40) (tyWidth f.tyN) vs).retired s.cur .seq)) ∧
    (f.space ≠ 0 → findLanes s.me f needLoad at_ s0 = .ok els s1 → s1.ordered els →
      exec (op.instr f) s = .next ((s1.accesses (s.laOf f)
        (.vload (tyWidth f.tyN / 8) f.clsM (f.dst.toNat - 0x40) els)).retired s.cur .seq))

/-- What a vector store by lane addresses does. -/
def LanesStore (op : Op) (f : Fields) (s s0 : State) (at_ : Nat → Word) : Prop :=
  ∀ (s1 s2 : State) (ls : List (Nat × Nat)) (els : List Elem),
    let c := (s.me.v (f.sc.toNat - 0x40)).toNat
    let n := tyWidth f.tyN / 8
    (f.space = 0 → placeLanes s.me f at_ s0 = .ok ls s1 →
      exec (op.instr f) s = .next ((ls.foldl (fun s e => s.writeVault (coreOf s.cur) (e.2 % 65536) n
        (laneOf (tyWidth f.tyN) c e.1))
        ((s1.banksCounted n ((s.me.lanes f).map at_)).bumped [f.sa])).retired s.cur .seq)) ∧
    (f.space ≠ 0 → findLanes s.me f needStore at_ s0 = .ok els s1 →
      globalStore f.space f.clsM (els.map (fun e =>
        { pa := e.pa, n := n, mask := 2 ^ n - 1, data := laneOf (tyWidth f.tyN) c e.lane, named := e.named })) s1 = .ok () s2 →
      exec (op.instr f) s = .next (s2.retired s.cur .seq))

/-- R79, R220, R221: the strided and the indexed vector accesses complete: lane i is at the base plus i times
the stride, or plus the signed index in lane i of the second vector times the element's bytes. -/
def Obligations.Lane_addressed_accesses : Prop :=
  ∀ (f : Fields) (s s0 : State) (b : Word),
    let strided := fun i => s.me.baseAddr f + w64 i * b
    let indexed := fun i => s.me.baseAddr f + w64i (sextI (laneOf (tyWidth f.tyN) (s.me.v (f.sb.toNat - 0x40)).toNat i) (tyWidth f.tyN) *
      ((tyWidth f.tyN / 8 : Nat) : Int))
    (s.admits .vlds f → rd64 s.me f.imm f.sb s = .ok b s0 → LanesLoad .vlds f s s0 strided) ∧
    (s.admits .vsts f → rd64 s.me f.imm f.sb s = .ok b s0 → LanesStore .vsts f s s0 strided) ∧
    (s.admits .vgath f → LanesLoad .vgath f s s indexed) ∧
    (s.admits .vscat f → LanesStore .vscat f s s indexed)

/-- R82, R129, R222, R223: PREF completes on every operand: of another space than the generic one it does
nothing, of an address that does not translate it is dropped, else the line is prefetched. WBK and INVL of at most
2^20 bytes complete: each line of a range in generic space, every page of which translates, is written back, or
written back and dropped, outside the pause of a wrap; a range of no bytes and one in another space do nothing; a longer one is an operand fault.
FENCE completes once the thread's loads and atomics are performed, of a release also once its posted stores are, and of
core scope once its stores to its own vault are; as an acquire it drops the slice's leased copies. -/
def Obligations.Prefetch_maintenance_fences : Prop :=
  ∀ (f : Fields) (s s1 s2 : State) (n : Word) (ps : List Nat),
    let a := (s.me.globalAddr f).toNat
    let last := a + n.toNat - 1
    let lines := fun (g : State → Nat → Nat → State) => (List.range (last / 128 - a / 128 + 1)).foldl (fun s i =>
      g s (fieldOf s.cur) (ps.getD ((a / 128 + i) / 32 - a / 4096) 0 / 128 + (a / 128 + i) % 32)) s2
    (s.admits .pref f → f.space ≠ 1 → exec (.pref f) s = .next (s.retired s.cur .seq)) ∧
    (s.admits .pref f → f.space = 1 → exec (.pref f) s = .next ((match s.translateFor s.cur (s.me.globalAddr f) needLoad with
      | .ok (pa, _) => s.prefetch s.cur f.clsM pa
      | .error _ => s).retired s.cur .seq)) ∧
    (s.admits .wbk f → rd64 s.me f.imm f.sb s = .ok n s1 → n.toNat ≤ 2 ^ 20 → f.space ≠ 1 ∨ n = 0 →
      exec (.wbk f) s = .next (s1.retired s.cur .seq)) ∧
    (s.admits .invl f → rd64 s.me f.imm f.sb s = .ok n s1 → n.toNat ≤ 2 ^ 20 → f.space ≠ 1 ∨ n = 0 →
      exec (.invl f) s = .next (s1.retired s.cur .seq)) ∧
    (s.admits .wbk f → rd64 s.me f.imm f.sb s = .ok n s1 → n.toNat ≤ 2 ^ 20 → f.space = 1 → n ≠ 0 →
      pagesOf (a / 4096) (last / 4096 - a / 4096 + 1) s1 = .ok ps s2 → s2.wrap = 0 →
      exec (.wbk f) s = .next ((lines State.cleanLine).retired s.cur .seq)) ∧
    (s.admits .invl f → rd64 s.me f.imm f.sb s = .ok n s1 → n.toNat ≤ 2 ^ 20 → f.space = 1 → n ≠ 0 →
      pagesOf (a / 4096) (last / 4096 - a / 4096 + 1) s1 = .ok ps s2 → s2.wrap = 0 →
      exec (.invl f) s = .next ((lines State.invalLine).retired s.cur .seq)) ∧
    (s.admits .wbk f → rd64 s.me f.imm f.sb s = .ok n s1 → 2 ^ 20 < n.toNat →
      exec (.wbk f) s = .next (s.faultsOperand .wbk f)) ∧
    (s.admits .invl f → rd64 s.me f.imm f.sb s = .ok n s1 → 2 ^ 20 < n.toNat →
      exec (.invl f) s = .next (s.faultsOperand .invl f)) ∧
    (s.admits .fence f → s.me.pend.all (fun p => p.done || !p.work.isAccess) = true →
      (2 ≤ f.ord → s.released ∧ s.meetsNoRefusal) → (f.scope = 0 → s.ownVaultPosted s.cur = false) →
      exec (.fence f) s = .next ((if f.ord % 2 = 1 then s.acquire s.cur f.scope (fun _ => true) else s).retired s.cur .seq))

/-- The atomics of R225. -/
def atomics : List Op := [.atadd, .atsub, .atmin, .atmax, .atand, .ator, .atxor, .atswp, .atcas, .atfadd, .atinc]

/-- R225 to R227, R128: an atomic completes as a long-latency access that a release in its ORDER makes
wait for earlier accesses; its operand and the expected value are read at issue. -/
def Obligations.Atomics_complete : Prop :=
  ∀ op ∈ atomics, ∀ (f : Fields) (s s1 s2 : State) (pa b : Nat),
    let va := s.me.x f.sa.toNat + sextImm f.imm
    let el : Elem := { lane := 0, pa := pa, bytes := tyBytes f.tyN, named := va }
    let s3 := s2.bumped [f.sb]
    s.admits op f → globalPa f.space va (tyBytes f.tyN) needAtomic s = .ok pa s1 →
    rd s.me f.tyN f.imm f.sb s1 = .ok b s2 → (2 ≤ f.ord → s3.released ∧ s3.meetsNoRefusal) → s3.ordered [el] →
    exec (op.instr f) s = .next ((s3.accesses (s.laOf f) (.atomic f.sub.toNat f.tyN f.ord f.scope (s.me.slotOf f.dst)
      (w64 b) (w64 ((s.me.x f.dst.toNat).toNat % 2 ^ tyWidth f.tyN)) el)).retired s.cur .seq)

/-- R124, R225 to R227, R374, R376: an access that is delayed only enters; what another cube is asked for leaves in packets,
a read for a load; a load that its home performs takes the bytes read, extended by TYPE, for its register; an atomic takes
the value before, and memory takes the operation's result in one access; an access whose packet was given up or refused
has the physical-address fault. -/
def Obligations.Performed_accesses : Prop :=
  ∀ (s s1 : State) (la ty cls sub ord scope v : Nat) (dst : Slot) (b old : Word) (el : Elem),
    let p : Pend := { pc := s.me.pc, idx := s.me.issued, left := la, done := true, result := .scalar dst (extendTy ty v),
                      flags := 0, fault := none, work := .none, since := none, sup := s.me.sup }
    let op : Nat → Nat → Option (Nat × Flags) := fun m n => match sub with
      | 0 => some (narrowInt ty false (intVal ty m + intVal ty n), 0)
      | 1 => some (narrowInt ty false (intVal ty m - intVal ty n), 0)
      | 2 => some (intMinOp ty m n, 0)
      | 3 => some (intMaxOp ty m n, 0)
      | 4 => some (m &&& n, 0)
      | 5 => some (m ||| n, 0)
      | 6 => some (m ^^^ n, 0)
      | 7 => some (n, 0)
      | 8 => if m = old.toNat then some (n, 0) else none
      | 9 => some (fadd51 (fmtOf ty) 0 m n)
      | _ => some (if m ≥ n then 0 else m + 1, 0)
    let now := fun (c : Nat) (store : Bool) => s.me.delay = false ∧ s.homeHolds s.cur c el.pa store = false ∧
      s.farCube? el.pa = none
    (∀ w, s.me.delay = true → s.accesses la w = (s.sendAll (s.workPackets s.cur w)).2.modCtx s.cur (fun c =>
      { c with pend := c.pend ++ [{ p with
        done := false, result := .none, work := w, e2e := (s.sendAll (s.workPackets s.cur w)).1 }] })) ∧
    (∀ c, s.farCube? el.pa = some c → s.held? (fieldOf s.cur) (el.pa / 128) = none →
      s.workPackets s.cur (.load ty cls dst el) = [s.mkPacket c 0 0 el.pa 0 (leBytes 1 el.bytes)]) ∧
    (∀ q : Pend, s.isLost q.e2e = true → s.perform s.cur q = (s.settled q.e2e, { q with
      e2e := [], done := true, work := .none, result := q.work.blank, since := none
      fault := some { cause := 0x0D, tval := (q.work.els.head?.map Elem.named).getD 0 } })) ∧
    (now cls false → s.load s.cur cls el.pa el.bytes = .ok v s1 →
      s.accesses la (.load ty cls dst el) = s1.modCtx s.cur (fun c => { c with pend := c.pend ++ [p] })) ∧
    (now 2 true → s.rmw s.cur el.pa el.bytes (fun m => (op m b.toNat).map Prod.fst) = .ok v s1 →
      s.accesses la (.atomic sub ty ord scope dst b old el) =
        (if ord % 2 = 1 then s1.acquire s.cur scope (fun _ => true) else s1).modCtx s.cur (fun c =>
          { c with pend := c.pend ++ [{ p with flags := ((op v b.toNat).map Prod.snd).getD 0 }] }))

/-! ## Copies -/

/-- R83, R229, R230: the forms of CPY and of CPY2D complete: the ranges are translated, the copy enters
the engine with its scoreboard entry, and DST takes its tag; a copy of nothing only takes a tag. -/
def Obligations.Copies_complete : Prop :=
  ∀ (f : Fields) (s s1 s2 s3 s4 : State) (nw : Word) (gp lp ext : List (Nat × Nat)) (gs ls : List (List (Nat × Nat))),
    let n := nw.toNat
    let g := s.me.x f.sa.toNat
    let h := s.me.x f.sc.toNat
    let a := s.me.localAddr f.imm f.sc
    let fits := g.toNat % 4 = 0 ∧ n % 4 = 0 ∧ a.toNat % 4 = 0
    let inside := s1.localFault s1.cur a.toNat n 1 = none
    -- CPY2D: bytes of a row, rows, the strides
    let b := bits n 15 0
    let r := bits n 31 16
    let gj := sextI (n / 2 ^ 32) 32
    let la := s.me.a (f.sc.toNat - 0x80)
    let lj := (s.me.d (f.sc.toNat - 0x80)).toInt
    let rowL := fun (j : Nat) => la + w64i (lj * j)
    let rowG := fun (j : Nat) => g + w64i (gj * j)
    let fits2 := g.toNat % 4 = 0 ∧ b % 4 = 0 ∧ gj.natAbs % 4 = 0 ∧ la.toNat % 4 = 0 ∧ lj.natAbs % 4 = 0 ∧ r * b ≤ 2 ^ 20
    let none_ := s1.emptyCopied s.me f.dst
    let inside2 := ∀ j < r, s1.localFault s1.cur (rowL j).toNat b 1 = none
    let lo := Nat.min la.toNat (rowL (r - 1)).toNat
    let len := Nat.max la.toNat (rowL (r - 1)).toNat + b - lo
    (s.admits .cpyIn f → rd64 s.me f.imm f.sb s = .ok nw s1 → fits → n = 0 →
      exec (.cpyIn f) s = .next (((s1.bumped [f.sc]).emptyCopied s.me f.dst).retired s.cur .seq)) ∧
    (s.admits .cpyOut f → rd64 s.me f.imm f.sb s = .ok nw s1 → fits → n = 0 →
      exec (.cpyOut f) s = .next (((s1.bumped [f.sc]).emptyCopied s.me f.dst).retired s.cur .seq)) ∧
    (s.admits .cpyIn f → rd64 s.me f.imm f.sb s = .ok nw s1 → fits → n ≠ 0 → inside →
      globalParts f.space g n needSrc s1 = .ok gp s2 → localParts a n true s2 = .ok lp s3 → (s3.bumped [f.sc]).sbRoom 1 →
      exec (.cpyIn f) s = .next (((s3.bumped [f.sc]).copyIssued s.me f.dst .bytes f.clsM (segsOf gp lp) true false
        [rangesOf lp]).retired s.cur .seq)) ∧
    (s.admits .cpyOut f → rd64 s.me f.imm f.sb s = .ok nw s1 → fits → n ≠ 0 → inside →
      globalParts f.space g n needDst s1 = .ok gp s2 → localParts a n false s2 = .ok lp s3 → (s3.bumped [f.sc]).sbRoom 1 →
      exec (.cpyOut f) s = .next (((s3.bumped [f.sc]).copyIssued s.me f.dst .bytes f.clsM (segsOf lp gp) false true
        [rangesOf lp]).retired s.cur .seq)) ∧
    (s.admits .cpyGlobal f → rd64 s.me f.imm f.sb s = .ok nw s1 → g.toNat % 4 = 0 → n % 4 = 0 → h.toNat % 4 = 0 →
      n ≤ 2 ^ 20 → 0 < n → meets g.toNat n h.toNat n = false →
      globalParts f.space g n needDst s1 = .ok gp s2 → globalParts f.space h n needSrc s2 = .ok lp s3 → s3.sbRoom 0 →
      exec (.cpyGlobal f) s =
        .next ((s3.copyIssued s.me f.dst .bytes f.clsM (segsOf lp gp) true true []).retired s.cur .seq)) ∧
    (s.admits .cpyGlobal f → rd64 s.me f.imm f.sb s = .ok nw s1 → g.toNat % 4 = 0 → n = 0 → h.toNat % 4 = 0 →
      exec (.cpyGlobal f) s = .next (none_.retired s.cur .seq)) ∧
    (s.admits .cpy2dIn f → rd64 s.me f.imm f.sb s = .ok nw s1 → fits2 → r = 0 →
      exec (.cpy2dIn f) s = .next (none_.retired s.cur .seq)) ∧
    (s.admits .cpy2dOut f → rd64 s.me f.imm f.sb s = .ok nw s1 → fits2 → r = 0 →
      exec (.cpy2dOut f) s = .next (none_.retired s.cur .seq)) ∧
    (s.admits .cpy2dIn f → rd64 s.me f.imm f.sb s = .ok nw s1 → fits2 → r ≠ 0 → b ≠ 0 → inside2 →
      (List.range r).mapM (fun j => globalParts f.space (rowG j) b needSrc) s1 = .ok gs s2 →
      localParts (w64 lo) len true s2 = .ok ext s3 → (List.range r).mapM (fun j => localParts (rowL j) b true) s3 = .ok ls s4 →
      s4.sbRoom 1 →
      exec (.cpy2dIn f) s = .next ((s4.copyIssued s.me f.dst .bytes f.clsM (List.zipWith segsOf gs ls).flatten true false
        [rangesOf ext]).retired s.cur .seq)) ∧
    (s.admits .cpy2dOut f → rd64 s.me f.imm f.sb s = .ok nw s1 → fits2 → r ≠ 0 → b ≠ 0 → inside2 →
      (List.range r).mapM (fun j => globalParts f.space (rowG j) b needDst) s1 = .ok gs s2 →
      localParts (w64 lo) len false s2 = .ok ext s3 → (List.range r).mapM (fun j => localParts (rowL j) b false) s3 = .ok ls s4 →
      s4.sbRoom 1 →
      exec (.cpy2dOut f) s = .next ((s4.copyIssued s.me f.dst .bytes f.clsM (List.zipWith segsOf ls gs).flatten false true
        [rangesOf ext]).retired s.cur .seq))

/-- R232, R234: CPYL enters as a copy of bytes between raw banks, else as a conversion of n blocks;
CWAIT waits until the copies that its tag covers have retired, and raises no failure where none is
kept. -/
def Obligations.Local_copies_and_waits : Prop :=
  ∀ (f : Fields) (s s1 s2 s3 s4 s5 : State) (nw : Word) (de se : Nat × Nat) (sp dp : List (Nat × Nat)),
    let n := nw.toNat
    let d := s.me.localAddr f.imm f.sa
    let c := s.me.localAddr f.imm f.sc
    let df := s.me.bank (d.toNat / 8192)
    let sf := s.me.bank (c.toNat / 8192)
    let both := fmtIsBlock df == fmtIsBlock sf
    let raw := if both then n else n * 32 * tyBytes f.tyN
    let plain := !fmtIsBlock df && !fmtIsBlock sf
    let kind : CopyKind := if plain then .bytes else .convert sf df f.tyN (s.me.mode f) n c.toNat d.toNat
    let tag := (s.me.x f.sa.toNat).toNat
    (s.admits .cpyl f → rd64 s.me f.imm f.sb s = .ok nw s1 → d.toNat < 0xC000 → c.toNat < 0xC000 →
      (both = true → f.ty = 0) → (plain = true → n % 4 = 0) → sideExtent df d raw n s1 = .ok de s2 → sideExtent sf c raw n s2 = .ok se s3 →
      n ≠ 0 → meets de.1 de.2 se.1 se.2 = false → localParts (w64 se.1) se.2 false s3 = .ok sp s4 →
      localParts (w64 de.1) de.2 true s4 = .ok dp s5 → (s5.bumped [f.sa, f.sc]).sbRoom 2 →
      exec (.cpyl f) s = .next (((s5.bumped [f.sa, f.sc]).copyIssued s.me f.dst kind 0 (segsOf sp dp) false false
        [rangesOf sp, rangesOf dp] sp dp).retired s.cur .seq)) ∧
    (s.admits .cpyl f → rd64 s.me f.imm f.sb s = .ok nw s1 → d.toNat < 0xC000 → c.toNat < 0xC000 →
      (both = true → f.ty = 0) → n = 0 → sideExtent df d raw n s1 = .ok de s2 → sideExtent sf c raw n s2 = .ok se s3 →
      exec (.cpyl f) s = .next (((s3.bumped [f.sa, f.sc]).emptyCopied s.me f.dst).retired s.cur .seq)) ∧
    (s.admits .cwait f → tag / 2 ^ 32 = 0 → tag / 2 ^ 28 = ctxIx s.cur →
      (s.core (coreOf s.cur)).copies.any (fun y => y.tid == s.cur && covers (tag % 2 ^ 28) y.seq) = false →
      s.me.copyErr.filter (fun e => covers (tag % 2 ^ 28) e.1) = [] →
      exec (.cwait f) s = .next (s.retired s.cur .seq))

/-! ## Tensor objects and tenure -/

/-- R99, R236, R237: TOBJ writes the descriptor with physical bases; TDEF enters a record over a box or
a span whose lines have one home stack, and writes its handle. -/
def Obligations.Objects_are_made : Prop :=
  ∀ (f : Fields) (s s1 s2 s3 s4 s5 : State) (v w l pa sz e esz cube k : Nat) (nw : Word),
    let a := s.me.localAddr f.imm f.sa
    let out := s.me.localAddr f.imm f.dst
    let d := BitVec.ofNat 256 v
    let nd : Need := { r := true, tile := true }
    let plane := 2 ^ descTop d / 2 ^ descPitch d 0
    let dims := List.range (descNdim d + 1)
    let lo := dims.map (fun i => bits w (16 * i + 15) (16 * i))
    let hi := dims.map (fun i => bits w (64 + 16 * i + 15) (64 + 16 * i))
    let inBounds := ∀ i < descNdim d + 1, lo.getD i 0 ≤ hi.getD i 0 ∧ hi.getD i 0 ≤ descExt d i
    let still := fun (s : State) (ls : List Nat) =>
      s.trans.busy = false ∨ ∀ ln ∈ ls, s.entryOf (128 * ln) ≠ some s.trans.ent
    let box : DirRec := { kind := .box, part := 0, gen := 0, lo := lo, hi := hi }
    let n := nw.toNat
    let span : DirRec := { kind := .span, part := 0, gen := 0, base := pa / 128, len := n / 128 - 1 }
    let run := (List.range (n / 128 - 1 + 1)).map (fun i => pa / 128 + i)
    (s.admits .tobj f → localRead a 32 s = .ok v s1 → localLoc out 32 true s1 = .ok l s2 → descLegal d = true →
      translateLeaf (w64 (descBase d)) nd s2 = .ok (pa, sz) s3 → inOnePage (descBase d) (2 ^ descTop d) sz = true →
      fmtBlock (descFmt d) = false → localWrite out 32 (descWith d pa 0).toNat (s3.bumped [f.sa, f.dst]) = .ok () s4 →
      exec (.tobj f) s = .next (s4.retired s.cur .seq)) ∧
    (s.admits .tobj f → localRead a 32 s = .ok v s1 → localLoc out 32 true s1 = .ok l s2 → descLegal d = true →
      translateLeaf (w64 (descBase d)) nd s2 = .ok (pa, sz) s3 → inOnePage (descBase d) (2 ^ descTop d) sz = true →
      fmtBlock (descFmt d) = true → translateLeaf (w64 (descEbase d)) nd s3 = .ok (e, esz) s4 →
      inOnePage (descEbase d) plane esz = true →
      localWrite out 32 (descWith d pa e).toNat (s4.bumped [f.sa, f.dst]) = .ok () s5 →
      exec (.tobj f) s = .next (s5.retired s.cur .seq)) ∧
    (s.admits .tdefBox f → localRead a 32 s = .ok v s1 → localRead (s.me.localAddr f.imm f.sb) 16 s1 = .ok w s2 →
      descLegal d = true → inBounds → still (s2.bumped [f.sa, f.sb]) (boxLines d lo hi) →
      (s2.bumped [f.sa, f.sb]).homeOfLines (boxLines d lo hi) = some (cube, k) →
      exec (.tdefBox f) s = .next (((s2.bumped [f.sa, f.sb]).defines (s.me.slotOf f.dst)
        ((s2.bumped [f.sa, f.sb]).dirNo cube k) (some d) box).retired
        s.cur .seq)) ∧
    (s.admits .tdefSpan f → rd64 s.me f.imm f.sb s = .ok nw s1 → translate (s.me.globalAddr f) nd s1 = .ok pa s2 →
      pa % 128 = 0 → n % 128 = 0 → 128 ≤ n → n ≤ 65536 → pa / 65536 = (pa + n - 1) / 65536 → still s2 run →
      s2.homeOfLines run = some (cube, k) →
      exec (.tdefSpan f) s = .next ((s2.defines (s.me.slotOf f.dst) (s2.dirNo cube k) none span).retired s.cur .seq))

/-- R94, R101 to R107, R238 to R242: TACQ is granted at once, waits as a long-latency instruction, or finds
its handle stale; TTRY answers whether it was granted, and what it meets is split when it was not; TREL releases after
the thread's accesses; TDROP ends a record of its own once its holders' stores to it are performed; TQRY reads a word of
a record; TSPLT replaces a record by its two parts. -/
def Obligations.Tenure_instructions : Prop :=
  ∀ (f : Fields) (s s1 : State) (k slot w : Nat) (nw : Word) (r q lo up : DirRec) (y : Tenure),
    let h := s.me.x f.sa.toNat
    let write := f.xbits == 1
    let waiter := s.waiterFor s.cur k slot h write f.scope
    let asked := s.requestTenure s.cur k slot h write f.scope waiter
    let pending := fun (s1 : State) (done : Bool) (flt : Option Exc) => s1.onMe (fun y => { y with pend := y.pend ++
      [{ pc := y.pc, idx := y.issued, left := s.laOf f, done := done, result := .none, flags := 0, fault := flt,
         work := if done then .none else .tacq h write f.scope, since := none, sup := y.sup }] })
    let room := s.me.tens.length + s.me.asked < 16
    let ripe := (s.stack k).ripe waiter && ((s.stack k).queueOf slot).isEmpty
    let mine := s.handleSlot h = some (k, slot, r) ∧ r.lid = s.lidOf s.cur
    let sp := s1.spareOwners k ((s1.stack k).pieces slot)
    let st := (sp.stack k).rejoin slot
    let slots := if q.gen ≥ 2 ^ 24 - 1 then 2 else 1
    (s.admits .tacq f → s.me.tens.find? (fun y => y.handle == h) = some y → (y.write = true ∨ write = false) →
      exec (.tacq f) s = .next ((pending (s.noteHandle (fieldOf s.cur) h) true none).retired s.cur .seq)) ∧
    (s.admits .tacq f → s.me.tens.find? (fun y => y.handle == h) = none → s.me.asks h = false → room → s.handleSlot h = none →
      exec (.tacq f) s = .next ((pending s true (some { cause := cStale, tval := h })).retired s.cur .seq)) ∧
    (s.admits .tacq f → s.me.tens.find? (fun y => y.handle == h) = none → s.me.asks h = false → room → mine →
      exec (.tacq f) s = .next ((pending (asked.2.noteHandle (fieldOf s.cur) h) asked.1 none).retired s.cur .seq)) ∧
    (s.admits .ttry f → mine → room → (ripe = true → s.mayGrant k waiter = true) →
      exec (.ttry f) s = .next (((if ripe then s.grantTenure s.cur k slot h write f.scope
        else s.splitAll k slot write).onMe (fun y =>
        y.setSlot (s.me.slotOf f.dst) (b2w ripe))).retired s.cur .seq)) ∧
    (s.admits .trel f → mine → s.me.tens.find? (fun y => y.handle == h) = some y → s.released → s.meetsNoRefusal →
      exec (.trel f) s = .next ((s.releaseTenure s.cur y f.scope).retired s.cur .seq)) ∧
    (s.admits .tdrop f → h ≠ 0 → mine → r.owner = some (s.cur, s.me.act) →
      (s.me.tens.any (fun y => y.handle == h) = true → s.released ∧ s.meetsNoRefusal) → s.storesDone h = true →
      exec (.tdrop f) s = .next (((s.endRecord k slot).modCtx s.cur (fun y =>
        { y with made := y.made.filter (fun m => m != h) })).retired s.cur .seq)) ∧
    (s.admits .tqry f → rd64 s.me f.imm f.sb s = .ok (w64 w) s1 → w ≤ 9 → s1.handleSlot h = some (k, slot, r) →
      r.lid = s1.lidOf s1.cur → r.part = s1.partOf s.cur →
      exec (.tqry f) s = .next ((s1.onMe (fun y => y.setSlot (s.me.slotOf f.dst)
        (if s.me.sup = false ∧ 2 ≤ w ∧ w ≤ 5 then 0 else s1.recWord k slot w))).retired s.cur .seq)) ∧
    (s.admits .tsplt f → f.dst ≠ f.sa → rd64 s.me f.imm f.sb s = .ok nw s1 → s1.handleSlot h = some (k, slot, r) →
      r.lid = s1.lidOf s1.cur → s.me.tens.find? (fun y => y.handle == h && y.write) = some y →
      look? st.dir slot = some q → cutRec (recNdim st q) q f.xbits nw.toNat = some (lo, up) → room →
      slots ≤ st.freeSlots → st.precs q.part + sp.fetchRecs k q.part + 1 ≤ (sp.part q.part).pquota →
      let p := (sp.setStack k st).splitTenure s.cur k slot h y.scope lo up
      exec (.tsplt f) s = .next ((p.2.2.onMe (fun c => (c.setX f.sa.toNat p.1).setX f.dst.toNat p.2.1)).retired
        s.cur .seq))

/-! ## The array -/

/-- R243, R246, R249 to R253: the array operations enter the thread's queue. -/
def Obligations.Array_operations : Prop :=
  ∀ (f : Fields) (s s1 : State) (fmt : BitVec 8) (b : Nat) (els : List (Nat × Nat)),
    let a := s.me.localAddr f.imm f.sa
    let r := f.dst.toNat % 16
    let c := f.dst.toNat / 16 + 1
    let k := s.me.k (f.sb.toNat - 0x98)
    let room := fun (s : State) => s.me.arrQ.length < 8
    let tile := fun (t : State) => (t.addPins s.cur s1.me.arrSeq els).noteHandle (fieldOf s.cur) (s.me.x f.sa.toNat)
    let fetched := els.flatMap (fun e => [({ lane := 0, pa := e.1, bytes := 4 * fmtWidth fmt, named := 0 } : Elem),
      { lane := 0, pa := e.2, bytes := 1, named := 0 }])
    (s.admits .mldbLocal f → blockAt s.me a s = .ok (fmt, b) s1 → b + 8 ≤ blkCapacity (fmtWidth fmt) →
      s1.blocksOk s1.cur a.toNat (fmtWidth fmt) 8 = true → room (s1.bumped [f.sa]) →
      exec (.mldbLocal f) s = .next (((s1.bumped [f.sa]).arrayQueued (.mldbLocal a.toNat fmt)).retired s.cur .seq)) ∧
    (s.admits .mmaLocal f → r + c ≤ 16 → a.toNat < 0xC000 → fmtIsBlock (s.me.bank (a.toNat / 8192)) = true →
      fmtPlane (s.me.bank (a.toNat / 8192)) = true → blockAt s.me a s = .ok (fmt, b) s1 →
      b + c ≤ blkCapacity (fmtWidth (s.me.bank (a.toNat / 8192))) → s.me.bValid = true →
      s1.blocksOk s1.cur a.toNat (fmtWidth (s.me.bank (a.toNat / 8192))) c = true → room (s1.bumped [f.sa]) →
      exec (.mmaLocal f) s = .next (((s1.bumped [f.sa]).arrayQueued
        (.mmaLocal r c k a.toNat (s.me.bank (a.toNat / 8192)))).retired s.cur .seq)) ∧
    (s.admits .mldbTile f → tileEls s.me f 8 s = .ok (els, fmt) s1 → s1.ordered fetched → room s1 →
      exec (.mldbTile f) s = .next ((tile (s1.arrayQueued (.mldbTile els fmt))).retired s.cur .seq)) ∧
    (s.admits .mmaTile f → r + c ≤ 16 → tileEls s.me f c s = .ok (els, fmt) s1 → s.me.bValid = true → s1.ordered fetched →
      room s1 →
      exec (.mmaTile f) s = .next ((tile (s1.arrayQueued (.mmaTile r c k els fmt))).retired s.cur .seq)) ∧
    (s.admits .mclr f → r + c ≤ 16 → room s →
      exec (.mclr f) s = .next ((s.arrayQueued (.mclr r c)).retired s.cur .seq))

/-- R254 to R259: MHND names the drain handler; MDRN starts one handler for a row, with the row's words,
at each execution and completes with the last; MWAIT waits for the thread's own array work and
acquires; MSTAT takes its snapshot; MCMD sends its record, then writes the answer. -/
def Obligations.Array_drains_and_status : Prop :=
  ∀ (f : Fields) (s s1 : State) (u v : Nat) (ws : List Word) (t : Word),
    let r := f.dst.toNat % 16
    let c := f.dst.toNat / 16 + 1
    let ahead := s.me.ticket.getD s.me.arrSeq
    let row := r + s.me.drained
    let held := s.onMe (fun y => { y with ticket := some ahead })
    let first := s.me.drained = 0 → s.me.mhnd ≠ 0 ∧ s.mayDrain s.cur = true ∧ s.released
    let ready := s.me.arrQ.any (fun e => decide (e.seq < ahead)) = false ∧ s.me.drain.getLsbD row = false
    let stat : Pend := { pc := s.me.pc, idx := s.me.issued, left := s.laOf f, done := false, result := .none, flags := 0,
                         fault := none, work := .mstat (f.imm.toNat % 32) (s.me.slotOf f.dst) s.me.arrSeq,
                         since := none, sup := s.me.sup }
    (s.admits .mhnd f →
      exec (.mhnd f) s = .next ((s.onMe (fun x => { x with mhnd := relPc x.pc f.imm.toInt })).retired s.cur .seq)) ∧
    (s.admits .mdrn f → r + c ≤ 16 → first → ready → held.freeCtx? (coreOf s.cur) = some u → s.me.drained + 1 < c →
      exec (.mdrn f) s = .next ((held.startDrain s.cur u row).onMe (fun y => { y with drained := s.me.drained + 1 }))) ∧
    (s.admits .mdrn f → r + c ≤ 16 → first → ready → held.freeCtx? (coreOf s.cur) = some u → s.me.drained + 1 = c →
      exec (.mdrn f) s = .next (((held.startDrain s.cur u row).onMe (fun y =>
        { y with drained := 0, ticket := none })).retired s.cur .seq)) ∧
    (s.admits .mwait f → s.me.arrQ = [] → s.me.drain = 0 → s.hasPins s.cur = false → s.me.arrErr = [] →
      exec (.mwait f) s = .next ((s.acquire s.cur 0 (fun _ => true)).retired s.cur .seq)) ∧
    (s.admits .mstat f → f.imm.toNat % 32 ≤ 16 →
      exec (.mstat f) s = .next ((s.onMe (fun y => { y with pend := y.pend ++ [stat] }.settleMstat)).retired s.cur .seq)) ∧
    (s.admits .mcmd f → s.me.mcmd = none → localRecord (s.me.localAddr f.imm f.sb) s = .ok ws s1 →
      exec (.mcmd f) s = .next ((s1.bumped [f.sb]).onMe (fun y => { y with mcmd := some (s.me.x f.sa.toNat, ws, none) }))) ∧
    (s.admits .mcmd f → s.me.mcmd = some (t, ws, some v) →
      exec (.mcmd f) s = .next ((s.onMe (fun y => { y with mcmd := none }.setX f.dst.toNat (w64 v))).retired s.cur .seq))

/-! ## Messages and tasks -/

/-- R35, R262: SEND and SENDV write their words into the lowest free slot of the target's queue once it
is the thread's turn; R263, R264: POLL and WAITQ claim the oldest message, POLL answers 0 where there is
none and WAITQ parks; RLS frees the slot of the held message. -/
def Obligations.Messages : Prop :=
  ∀ (f : Fields) (s : State) (l : Launch) (k q j : Nat),
    let v := (s.me.x f.sa.toNat).toNat
    let core := bits v 19 0
    let goes := v / 2 ^ 28 = 0 ∧ bits v 27 20 = s.cubeid ∧ s.ctxLaunch? s.cur = some l ∧
      l.fields.contains (fieldOfCore core) = true ∧
      l.channelFull (l.channelTo (coreOf s.cur) core (msgQueue f)) (coreOf s.cur) = false ∧
      (s.field (fieldOfCore core)).frozen = false ∧ (s.queueFor s.cur core (msgQueue f)).1 = true ∧
      ((s.queueFor s.cur core (msgQueue f)).2.core core).freeMsg? (msgQueue f) = some k
    let mine := f.imm.toNat % 2
    let c := s.core (coreOf s.cur)
    let free := s.me.held = none ∧ c.hand mine = none ∧ s.me.lost = false
    let claimed := (s.modCore (coreOf s.cur) (fun c => { c with msgs := put c.msgs (msgKey mine j) { c.msg mine j with st := .held } })).onMe
      (fun y => { y with held := some (mine, j) }.setX f.dst.toNat (claimWord (c.msg mine j)))
    (s.admits .send f → f.sb.toNat + msgCount f - 1 ≤ 63 → goes →
      exec (.send f) s = .next ((s.sends f ((List.range (msgCount f)).map (fun i => s.me.x (f.sb.toNat + i))) l k).retired
        s.cur .seq)) ∧
    (s.admits .sendv f → f.sb.toNat - 0x40 + (msgCount f - 1) / 8 ≤ 31 → goes →
      exec (.sendv f) s = .next ((s.sends f ((List.range (msgCount f)).map (fun i =>
        (s.me.v (f.sb.toNat - 0x40 + i / 8)).extractLsb' (64 * (i % 8)) 64)) l k).retired s.cur .seq)) ∧
    (s.admits .poll f → free → c.oldest mine = some j → (c.msg mine j).bad = false →
      exec (.poll f) s = .next (claimed.retired s.cur .seq)) ∧
    (s.admits .poll f → free → c.oldest mine = none →
      exec (.poll f) s = .next ((s.takes f.dst 0).retired s.cur .seq)) ∧
    (s.admits .waitq f → free → c.oldest mine = some j → (c.msg mine j).bad = false →
      exec (.waitq f) s = .next (claimed.retired s.cur .seq)) ∧
    (s.admits .waitq f → free → c.oldest mine = none →
      exec (.waitq f) s = .next (s.onMe (fun y => { y with st := .parked, wait := .msg mine }))) ∧
    (s.admits .rls f → s.me.held = some (q, j) →
      exec (.rls f) s = .next (((s.freeMsg (coreOf s.cur) q j).onMe (fun y => { y with held := none })).retired
        s.cur .seq))

/-- R265, R315: SENDT to a home in this cube queues the task and answers 0, or answers why it does not; where no
queue has room its packet waits at the hub. To another cube it sends a packet. A SENDT that waits writes the status
that comes back. -/
def Obligations.Task_packets : Prop :=
  ∀ (f : Fields) (s s1 s2 : State) (ws : List Word) (pa v fi : Nat) (h : HomeAt),
    let va := (s.me.x f.sa.toNat).toNat
    let lid := f.imm.toNat % 2 ^ 16
    let record := s.me.answer = none ∧ localRecord (s.me.localAddr 0 f.sb) s = .ok ws s1 ∧
      (f.space = 2 → pa = va ∧ s2 = s1) ∧ (f.space ≠ 2 → translate (s.me.x f.sa.toNat) { r := true } s1 = .ok pa s2) ∧
      s2.released
    let s3 := s2.bumped [f.sb]
    let ends := fun (t : State) (v : Nat) =>
      (t.onMe (fun y => { y with answer := none }.setX f.dst.toNat (w64 v))).retired s.cur .seq
    (s.admits .sendt f → s.me.answer = some (some v) →
      exec (.sendt f) s = .next (ends s v)) ∧
    (s.admits .sendt f → record → s3.home? pa = none → exec (.sendt f) s = .next (ends s3 1)) ∧
    (s.admits .sendt f → record → s3.home? pa = some h → h.cube ≠ s3.cubeid →
      s3.reachable h.cube = false → exec (.sendt f) s = .next (ends s3 5)) ∧
    (s.admits .sendt f → record → s3.home? pa = some h → h.cube ≠ s3.cubeid →
      s3.reachable h.cube = true →
      exec (.sendt f) s = .next ((s3.sendTask s.cur s.me.act h.cube pa lid ws).modCtx s.cur (fun y =>
        { y with answer := some none }))) ∧
    (s.admits .sendt f → record → s3.home? pa = some h → h.cube = s3.cubeid →
      s3.taskAnswer (s3.partOf s.cur) h.stack lid ws = (0, none) →
      exec (.sendt f) s = .next (({ s3 with sched := { s3.sched with sendts := s3.sched.sendts ++
        [{ tid := s.cur, act := s.me.act, part := s3.partOf s.cur, stack := h.stack, lid := lid, words := ws }] } } : State).onMe
          (fun y => { y with answer := some none }))) ∧
    (s.admits .sendt f → record → s3.home? pa = some h → h.cube = s3.cubeid →
      (s3.taskAnswer (s3.partOf s.cur) h.stack lid ws).1 = v → v ≠ 0 → exec (.sendt f) s = .next (ends s3 v)) ∧
    (s.admits .sendt f → record → s3.home? pa = some h → h.cube = s3.cubeid →
      s3.taskAnswer (s3.partOf s.cur) h.stack lid ws = (0, some fi) →
      exec (.sendt f) s = .next (ends (s3.acceptTask fi lid ws) 0))

/-- R28, R31, R269 to R275: SPAWN queues a task or binds it as a handler; SPAWNR queues a range unless it is
empty; RNEXT takes the next chunk; DONE ends the activation once its accesses, its copies, its array work and the
stores to the records it made are performed; LNCH, judged at once where nothing waits before it, answers with the
launch's sequence and identifier or the status that refuses it, else its request waits and it writes the answer that
comes; WCFG sets a distributor and WQRY takes its next item. -/
def Obligations.Task_instructions : Prop :=
  ∀ (f : Fields) (s s1 s2 : State) (l : Launch) (ws : List Word) (tags : List Bool) (fi pa a0 : Nat) (r : Rng)
    (ps : List (Nat × Nat)),
    let record := s.ctxLaunch? s.cur = some l ∧ localRecord (s.me.localAddr f.imm f.sa) s = .ok ws s1 ∧
      taskLegal l.lpg ws = true ∧ s1.released ∧ s1.cur = s.cur
    let ends := fun (s1 : State) => ((s1.bumped [f.sa]).onMe (fun y => { y with answer := none })).retired s.cur .seq
    let e := (s.me.x f.sa.toNat).toNat
    let grid : Dist := { x := bits e 15 0, y := bits e 31 16, z := bits e 47 32, order := f.imm.toNat / 16 % 4, n := 0 }
    let va := s.me.x f.sa.toNat + sextImm f.imm
    let part := s.partOf s.cur
    let block : Launch := { lid := 0, seq := w64 (s2.lnchSeq s.cur), qsrc := false, name := BitVec.ofNat 32 (s2.ctxName s.cur),
                            part := part, asid := s2.asidOf s.cur, block := ws }
    let st := s2.judge block tags (s2.partEn part && s2.asidOk part (s2.asidOf s.cur))
    let launches := s.me.answer = none ∧ va.toNat % 512 = 0 ∧ bit (s.part part).pctl 1 = true ∧
      translate va { r := true, near := true } s = .ok pa s1 ∧ s1.released ∧ lnchBlock va pa s1 = .ok (ws, tags) s2 ∧ s2.cur = s.cur
    let atOnce := s2.sched.reqs = [] ∧ s2.pending.length < 1024 ∧ s2.entryDue = false
    let answers := fun (s : State) (w : Word) => s.onMe (fun y => { y with answer := none }.setX f.dst.toNat w)
    let landed := s.landThese s.cur (fun _ => true)
    let a := s.me.localAddr f.imm f.dst
    let d := look (s1.field (fieldOf s1.cur)).dists (f.sb.toNat % 16) {}
    let tk := (s1.field (fieldOf s1.cur)).queries.foldl (fun m q => Nat.max m q.ticket) 0 + 1
    let query : Query := { tid := s.cur, ticket := tk, core := coreOf s.cur, lo := ((ps.head?).map Prod.fst).getD 0,
                           item := d.answer }
    let asked := ((s1.modField (fieldOf s1.cur) (fun y =>
      { y with dists := put y.dists (f.sb.toNat % 16) d.advance, queries := y.queries ++ [query] })).modCore (coreOf s1.cur)
        (fun c => { c with sb := c.sb ++ [{ rs := rangesOf ps, tid := s.cur, seq := 0, ticket := tk }] })).bumped [f.dst]
    (s.admits .spawn f → record → taskRng ws = false → taskQb ws = 0 → s1.spawnField (fieldOf s.cur) l = some fi →
      exec (.spawn f) s = .next (ends (s1.enqueue fi (s1.spawned s.cur l ws)))) ∧
    (s.admits .spawn f → record → taskRng ws = false → taskQb ws ≠ 0 →
      exec (.spawn f) s = .next (ends (s1.modCore (coreOf s.cur) (fun c =>
        c.setHand (taskQb ws - 2) (some (s1.spawned s.cur l ws)))))) ∧
    (s.admits .spawnr f → record → taskRng ws = true → taskQb ws = 0 → taskLo ws = taskHi ws →
      exec (.spawnr f) s = .next (ends s1)) ∧
    (s.admits .spawnr f → record → taskRng ws = true → taskQb ws = 0 → taskLo ws ≠ taskHi ws →
      s1.spawnField (fieldOf s.cur) l = some fi →
      exec (.spawnr f) s = .next (ends (s1.enqueue fi (s1.spawned s.cur l ws)))) ∧
    (s.admits .rnext f → s.me.rng = some r → r.hi ≤ r.c →
      exec (.rnext f) s = .next ((s.takes f.dst 0).retired s.cur .seq)) ∧
    (s.admits .rnext f → s.me.rng = some r → r.c < r.hi →
      exec (.rnext f) s = .next ((s.onMe (fun y =>
        { y with rng := some { r with c := Nat.min (r.c + r.g) r.hi } }.setX f.dst.toNat
          (w64 (Nat.min (r.c + r.g) r.hi * 2 ^ 32 + r.c)))).retired s.cur .seq)) ∧
    (s.admits .done f → s.me.pend = [] → (s.core (coreOf s.cur)).copies.any (fun y => y.tid == s.cur) = false →
      (s.core (coreOf s.cur)).sb.any (fun y => y.tid == s.cur) = false → s.me.copyErr = [] → s.me.arrQ = [] →
      s.me.arrErr = [] → s.me.refusal = none → s.released → s.me.made.all landed.storesDone = true →
      (s.wrap = 0 ∨ (s.core (coreOf s.cur)).ctxb = 0) →
      exec (.done f) s = .next ((landed.endActivation s.cur).retired s.cur .stay)) ∧
    (s.admits .lnch f → launches → atOnce → st = 0 →
      exec (.lnch f) s = .next ((answers ((s2.accept block).modCore (coreOf s.cur) (fun c =>
        { c with lseq := s2.lnchSeq s.cur })) (statusWord272 (s2.lnchSeq s.cur) s2.nextLid 0)).retired s.cur .seq)) ∧
    (s.admits .lnch f → launches → atOnce → st ≠ 0 →
      exec (.lnch f) s = .next ((answers s2 (statusWord272 0 0 st)).retired s.cur .seq)) ∧
    (s.admits .lnch f → launches → ¬ atOnce →
      exec (.lnch f) s = .next (({ s2 with sched := { s2.sched with reqs := s2.sched.reqs ++
        [{ tid := s.cur, act := s.me.act, launch := { block with seq := 0 }, tags := tags, at_ := s2.time }] } } : State).onMe
          (fun y => { y with answer := some none }))) ∧
    (s.admits .lnch f → s.me.answer = some (some a0) →
      exec (.lnch f) s = .next ((answers s (w64 a0)).retired s.cur .seq)) ∧
    (s.admits .wcfg f → e / 2 ^ 48 = 0 →
      exec (.wcfg f) s = .next ((s.modField (fieldOf s.cur) (fun y =>
        { y with dists := put y.dists (f.imm.toNat % 16) grid })).retired s.cur .seq)) ∧
    (s.admits .wqry f → a.toNat % 16 = 0 → localParts a 16 true s = .ok ps s1 → s1.cur = s.cur →
      (s1.core (coreOf s1.cur)).sb.length < 16 →
      exec (.wqry f) s = .next ((asked.onMe (fun y => { y with pend := y.pend ++
        [{ pc := s.me.pc, idx := s.me.issued, left := s.laOf f, done := true, result := .none, flags := 0, fault := none,
           work := .none, since := none, sup := s.me.sup }] })).retired s.cur .seq))

/-! ## Synchronization and the system -/

/-- R276 to R282: barriers arrive, park or return; BARA writes a token and BARW waits for its phase; WAKE
sends its bits; SLEEP returns the notify word or parks; EVQ returns the oldest record, 0 or parks; RATQ
reads the field's ratio; RATR answers a request. -/
def Obligations.Synchronization : Prop :=
  ∀ (f : Fields) (s s1 : State) (l lb : Launch) (n : Word),
    let inst := scopeInst f.scope s.cur
    let arrived := s.arrive s.cur l f.scope f.xbits
    let open_ := fun (l : Launch) (sc b ph : Nat) => (l.barrier sc (scopeInst sc s.cur) b).phase = ph
    let parks := fun (s1 : State) (w : Wait) => s1.onMe (fun y => { y with st := .parked, wait := w })
    let back := fun (s1 : State) (sc : Nat) => s1.acquire s.cur sc (fun _ => true)
    let v := (s.me.x f.sa.toNat).toNat
    let t := (s.me.x f.sa.toNat).toNat
    let c := f.imm.toNat / 2 % 4
    let on := if c ≥ 2 then s.onMe (fun y => { y with cevon := c == 3 }) else s
    (s.admits .bar f → s.released → s.ctxLaunch? s.cur = some l → arrived.2.cur = s.cur →
      arrived.2.ctxLaunch? s.cur = some lb → open_ lb f.scope f.xbits arrived.1 →
      exec (.bar f) s = .next ((parks arrived.2 (.bar f.scope inst f.xbits arrived.1)).retired s.cur .seq)) ∧
    (s.admits .bar f → s.released → s.ctxLaunch? s.cur = some l → arrived.2.cur = s.cur →
      arrived.2.ctxLaunch? s.cur = some lb → ¬ open_ lb f.scope f.xbits arrived.1 →
      exec (.bar f) s = .next ((back arrived.2 f.scope).retired s.cur .seq)) ∧
    (s.admits .bara f → s.released → s.ctxLaunch? s.cur = some l →
      exec (.bara f) s = .next ((arrived.2.takes f.dst
        (w64 (2 ^ 20 + f.scope * 2 ^ 18 + f.xbits * 2 ^ 16 + arrived.1))).retired s.cur .seq)) ∧
    (s.admits .barw f → v / 2 ^ 20 = 1 → s.ctxLaunch? s.cur = some l →
      open_ l (bits v 19 18) (bits v 17 16) (bits v 15 0) →
      exec (.barw f) s = .next ((parks s (.bar (bits v 19 18) (scopeInst (bits v 19 18) s.cur) (bits v 17 16) (bits v 15 0))).retired
        s.cur .seq)) ∧
    (s.admits .barw f → v / 2 ^ 20 = 1 → s.ctxLaunch? s.cur = some l →
      ¬ open_ l (bits v 19 18) (bits v 17 16) (bits v 15 0) →
      exec (.barw f) s = .next ((back s (bits v 19 18)).retired s.cur .seq)) ∧
    (s.admits .wake f → s.ctxLaunch? s.cur = some l → t / 2 ^ 32 = 0 → bits t 27 20 = s.cubeid →
      l.fields.contains (fieldOfCore (bits t 19 0)) = true → rd64 s.me f.imm f.sb s = .ok n s1 → n ≠ 0 →
      exec (.wake f) s = .next ((s1.post (.wakeArrival (bits t 19 0 * 16 + bits t 31 28) n)).retired s.cur .seq)) ∧
    (s.admits .sleep f → rd64 s.me f.imm f.sa s = .ok n s1 → n.toNat < 2 ^ 40 → s.me.notify ≠ 0 →
      exec (.sleep f) s = .next ((s1.onMe (fun y =>
        { y.setX f.dst.toNat s.me.notify with notify := 0 })).retired s.cur .seq)) ∧
    (s.admits .sleep f → rd64 s.me f.imm f.sa s = .ok n s1 → n.toNat < 2 ^ 40 → s.me.notify = 0 →
      exec (.sleep f) s = .next ((parks s1 (.sleep (if n.toNat = 0 then none else some (s1.sid + n.toNat)) f.dst)).retired
        s.cur .seq)) ∧
    (s.admits .evq f → on.me.events ≠ [] →
      exec (.evq f) s = .next ((on.onMe (fun y => y.popEvent.setX f.dst.toNat (on.me.events.headD 0))).retired
        s.cur .seq)) ∧
    (s.admits .evq f → on.me.events = [] → f.imm.getLsbD 0 = false →
      exec (.evq f) s = .next ((on.takes f.dst 0).retired s.cur .seq)) ∧
    (s.admits .evq f → on.me.events = [] → f.imm.getLsbD 0 = true → exec (.evq f) s = .next (parks on .event)) ∧
    (s.admits .ratq f →
      exec (.ratq f) s = .next ((s.takes f.dst (w64 (s.field (fieldOf s.cur)).ratioWord)).retired s.cur .seq)) ∧
    (s.admits .ratr f → s.ctxLaunch? s.cur = some l →
      exec (.ratr f) s = .next ((((if s.ratioAnswer l t = 0 then
          (s.modLaunch l.lid (fun l => { l with request := w64 t })).askRun else s).onMe (fun y =>
            y.setX f.dst.toNat (w64 (s.ratioAnswer l t)))).retired s.cur .seq)))

/-- R85, R283, R286 to R288, R299 to R302, R333, R341: the control-register instructions read and write what the
thread's level may; a write of L2CFG that is held during a transition completes once it has been acted on; SRET returns from a handler; HALT parks; IRQ raises an interrupt identity; TLBI drops
matching leaves of the core, or starts a shootdown and completes with it. -/
def Obligations.System_instructions : Prop :=
  ∀ (f : Fields) (s s1 : State) (v : Word) (q was : Nat),
    let n := f.imm.toNat
    let x := s.me
    let fi := fieldOf s.cur
    let st := x.tstat.toNat
    let slot := bits st 13 8
    let own := x.tslot ≠ some slot ∨ s.ownRecord s.cur slot = true
    let rpc := if own then (look (s.field fi).trec slot []).getD 2 0 else x.resume
    let writes := x.answer = none ∧ csrWrites x.sup n = true ∧ s.accessed ∧ rd64 x f.imm f.sa s = .ok v s1
    let wrote := (s1.bumped [f.sa]).setCsr s.cur n v
    let held := n = 0x204 ∧ (wrote.field (fieldOf s.cur)).surrHeld ≠ none
    let acted := x.answer = some (some was) ∧ (s.field (fieldOf s.cur)).surrHeld = none
    let quiet := s.onMe (fun y => { y with answer := none })
    let drops := fun (kind va who : Nat) =>
      (s.modCore (coreOf s.cur) (fun c => { c with tlb := c.tlb.filter (fun e => !s.leafHit kind va who e) })).retired s.cur .seq
    let shoots := fun (kind va who : Nat) =>
      (s.startShoot kind va who).2.onMe (fun y => { y with answer := some none, ticket := some (s.startShoot kind va who).1 })
    let waited := x.answer = some none ∧ x.ticket = some q ∧ s.shootDone q = true
    let over_ := (s.onMe (fun y => { y with answer := none, ticket := none })).retired s.cur .seq
    let bc := f.imm.getLsbD 2
    let va := (x.x f.sa.toNat).toNat
    let asid := (x.x f.sb.toNat).toNat
    (s.admits .sret f → x.sup = true → (bit st 16 = true → bit st 15 = true) →
      exec (.sret f) s = .next (((if bit st 15 = true ∧ own then s.freeTqSlot fi slot else s).onMe (fun y =>
        { y with sup := bit st 0, lone := if bit st 16 then some rpc else none, tslot := none,
                 loops := y.loops.filter (fun e => !e.atS) })).retired s.cur (.goto x.tepc))) ∧
    (s.admits .halt f → x.sup = true →
      exec (.halt f) s = .next ((s.onMe (fun y => { y with st := .parked, wait := .halted })).retired s.cur .seq)) ∧
    (s.admits .irq f → (x.sup = true ∨ (look (s.part (s.partOf s.cur)).pirq (n / 64) 0).getLsbD (n % 64) = true) →
      s.released → exec (.irq f) s = .next ((s.raiseIid n).retired s.cur .seq)) ∧
    (s.admits .csrr f → csrReads x.sup n = true → s.accessed →
      exec (.csrr f) s = .next ((s.takes f.dst (s.csr s.cur n)).retired s.cur .seq)) ∧
    (s.admits .csrw f → writes → ¬ held →
      exec (.csrw f) s = .next (wrote.retired s.cur .seq)) ∧
    (s.admits .csrx f → csrReads x.sup n = true → writes → ¬ held →
      exec (.csrx f) s = .next ((wrote.takes f.dst (s1.csr s.cur n)).retired s.cur .seq)) ∧
    (s.admits .csrw f → writes → held →
      exec (.csrw f) s = .next (wrote.onMe (fun y => { y with answer := some (some 0) }))) ∧
    (s.admits .csrx f → csrReads x.sup n = true → writes → held →
      exec (.csrx f) s = .next (wrote.onMe (fun y =>
        { y with answer := some (some (s1.csr s.cur n).toNat) }))) ∧
    (s.admits .csrw f → acted → exec (.csrw f) s = .next (quiet.retired s.cur .seq)) ∧
    (s.admits .csrx f → acted → exec (.csrx f) s = .next ((quiet.takes f.dst (w64 was)).retired s.cur .seq)) ∧
    (s.admits .tlbiVa f → x.sup = true → asid < 2 ^ 16 → bc = false →
      exec (.tlbiVa f) s = .next (drops 0 va asid)) ∧
    (s.admits .tlbiAs f → x.sup = true → asid < 2 ^ 16 → bc = false →
      exec (.tlbiAs f) s = .next (drops 1 0 asid)) ∧
    (s.admits .tlbiAll f → x.sup = true → bc = false →
      exec (.tlbiAll f) s = .next (drops 2 0 (s.partOf s.cur))) ∧
    (s.admits .tlbiVa f → x.sup = true → asid < 2 ^ 16 → bc = true → x.answer = none → s.accessed →
      exec (.tlbiVa f) s = .next (shoots 0 va asid)) ∧
    (s.admits .tlbiAs f → x.sup = true → asid < 2 ^ 16 → bc = true → x.answer = none → s.accessed →
      exec (.tlbiAs f) s = .next (shoots 1 0 asid)) ∧
    (s.admits .tlbiAll f → x.sup = true → bc = true → x.answer = none → s.accessed →
      exec (.tlbiAll f) s = .next (shoots 2 0 (s.partOf s.cur))) ∧
    (s.admits .tlbiVa f → x.sup = true → asid < 2 ^ 16 → bc = true → waited → exec (.tlbiVa f) s = .next over_) ∧
    (s.admits .tlbiAs f → x.sup = true → asid < 2 ^ 16 → bc = true → waited → exec (.tlbiAs f) s = .next over_) ∧
    (s.admits .tlbiAll f → x.sup = true → bc = true → waited → exec (.tlbiAll f) s = .next over_)

/-- R284 to R286, R351: TRAP, and BKPT with breakpoints off, take their exception with the low 16 bits of IMM in
TCAUSE. SYSC writes its record with the thread's name and launch into the partition's service queue and
writes its sequence; BKPT with breakpoints on asserts Eclipse for the partition. -/
def Obligations.Traps_service_calls_breakpoints : Prop :=
  ∀ (f : Fields) (s s1 s2 : State) (ws : List Word) (q k n0 : Nat),
    let p := s.partOf s.cur
    let core := coreOf s.cur
    let begun := if s.me.answer = none then s1.onMe (fun y => { y with answer := some none }) else s1
    let turn := begun.queueFor s.cur core q
    let held := if s.me.reserved.isSome then begun else
      ((turn.2.unqueue s.cur core q).modCore core (fun c =>
        { c with msgs := put c.msgs (msgKey q k) { st := .reply s.cur begun.me.act 0 } })).onMe (fun z => { z with reserved := some (q, k, 0) })
    let y := held.part (s1.partOf s.cur)
    let record := ws.take 7 ++ [w64 (held.ctxName s.cur + held.lidOf s.cur * 2 ^ 48)]
    let landed := s.landThese s.cur (fun _ => true)
    (s.admits .trap f →
      exec (.trap f) s = .next (s.takeExact s.cur { cause := 0x0B, code := f.imm.toNat % 2 ^ 16 })) ∧
    (s.admits .bkpt f → s.me.pend = [] → bit (s.part p).pctl 2 = false →
      exec (.bkpt f) s = .next (s.takeExact s.cur { cause := 0x0C, code := f.imm.toNat % 2 ^ 16 })) ∧
    (s.admits .sysc f → q = f.sb.toNat % 2 → localRecord (s.me.localAddr f.imm f.sa) s = .ok ws s1 → s1.cur = s.cur →
      s1.me.reserved = s.me.reserved →
      (s.me.answer = none → (s1.core core).hand q = none ∧ bit (s1.part (s1.partOf s.cur)).pctl 3 = true) →
      (s.me.reserved = none → turn.1 = true ∧ (turn.2.core core).freeMsg? q = some k) →
      held.cur = s.cur → held.me.reserved = some (q, k, n0) → held.released → bit y.pctl 3 = true → y.sqcerr = false →
      y.ringFull = false → y.capOk = true →
      held.writeWords (y.cap.addr + 64 * (y.sqtail % 2 ^ y.sqlogn)) record = some s2 → s2.cur = s.cur →
      let s3 := (s2.modPart (s1.partOf s.cur) (fun x => { x with sqtail := (x.sqtail + 1) % 2 ^ x.sqlogn })).raiseIid y.sqiid
      let seq := (s3.part (s1.partOf s.cur)).sysSeq
      s3.me.reserved = some (q, k, n0) →
      exec (.sysc f) s = .next ((((s3.modPart (s1.partOf s.cur) (fun z =>
        { z with sysSeq := (seq + 1) % 2 ^ 32, outst := z.outst ++ [(seq, s.cur, s.me.act, q, k)] })).bumped [f.sa]).onMe
          (fun y => { y with reserved := none, answer := none }.setX f.dst.toNat (w64 seq))).retired s.cur .seq)) ∧
    (s.admits .bkpt f → s.me.pend.all (fun p => p.done && p.fault.isNone) = true → bit (landed.part p).pctl 2 = true →
      (landed.part p).frozen = false → (landed.part p).ecount = none →
      exec (.bkpt f) s = .next (((landed.assertEclipse p).modPart p (fun x =>
        { x with bkhit := true, esrc := BitVec.ofNat 32 (landed.ctxName s.cur), bkBy := some (landed.time, s.cur) })).retired s.cur .stay))

/-! ## Events of the memory system -/

/-- R102, R104, R107, R113, R124, R216: the home grants the first waiter that can be granted, and answers it stale
where its record has been split; an access that waits is tried again; after 2^16 vclk cycles it raises the tenure-wait
trap. R96, R115, R120: a miss is served by its home, a fill arrives with the record's tenure mark unless a recorded
invalidation is not older, an invalidation drops the line and is recorded by a pending miss, the copy engine takes
ownership that it had to wait for, a dirty line is written back. R116: a lease ends 8 ticks before its time. R97, R110,
R112: pieces rejoin, region records are freed and merge, with at most four owners. -/
def MemorySystemEvents : Prop :=
  ∀ (s : State) (fi ln k slot j t seq : Nat) (l : L2Line) (m : LineMiss) (x : LineMsg) (w : Waiter) (p : Pend)
    (h : HomeAt) (r q r2 q2 : DirRec) (y : Copy),
    let f := s.field fi
    let runs := f.frozen = false
    let st := s.stack k
    let fill := s.recallForFill h.stack ln (some fi) false
    let covered := fill.ensureCovered h.stack ln f.fpart
    let sent := covered.2.bumpSeq h.stack ln
    let from_ := sent.2.lineAt h.loc
    let open_ := (s.ctx t).pend.find? (fun p => !p.done && p.work.isAccess)
    let due := (s.ctx t).pend.find? (fun p => !p.done && p.since.any (fun v => decide (v + 2 ^ 16 ≤ s.vclk (fieldOf t))))
    let homed := runs ∧ s.wrap = 0 ∧ paSpace (128 * ln) < 0xE ∧ s.home? (128 * ln) = some h ∧ h.cube = s.cubeid
    let came := s.modField fi (fun f => { f with miss := drop f.miss ln, fills := f.fills.erase x })
    let n := r.len + 1
    let base := r.base / (2 * n) * (2 * n)
    let bud := if r.base = base then base + n else base
    let calm := r.kind = .region ∧ r.piece = false ∧ r.next = 0 ∧ r.unshared = false ∧ n < 512 ∧ r.base % n = 0 ∧ r.quiet + 2 ^ 20 ≤ s.dirClock ∧ 512 % n = 0
    let inBud := st.dir.filter (fun e => e.2.kind == .region && decide (e.2.base < bud + n) &&
      decide (bud ≤ e.2.base + e.2.len))
    let left := s.modStack k (fun st => { st with waiters := st.waiters.filter (fun v => v != w) })
    let settled := ∀ e ∈ st.dir, e.2.ending = false
    let alone := w.write = true ∨ ((s.grantWaiter k w).stack k).waiters.filter (fun v => v.slot == w.slot) = []
    (settled → st.waiters.find? (fun w => s.mayGrant k w) = some w → alone → s.handleSlot w.handle ≠ none →
      exec (.tenureGrant k) s =
        .next ((left.grantTenure w.tid k w.slot w.handle w.write w.scope).answerTacq w.tid w.handle none)) ∧
    (settled → st.waiters.find? (fun w => s.mayGrant k w) = some w → alone → s.handleSlot w.handle = none →
      exec (.tenureGrant k) s = .next (left.answerTacq w.tid w.handle (some { cause := cStale, tval := w.handle }))) ∧
    ((s.field (fieldOf t)).frozen = false → open_ = some p →
      exec (.tenureStallResume t) s = .next ((s.perform t p).1.modCtx t (fun y =>
        { y with pend := y.pend.map (fun q => if q == p then (s.perform t p).2 else q) }))) ∧
    ((s.field (fieldOf t)).frozen = false → s.wrap = 0 → due = some p →
      exec (.tenureWaitTrap t) s = .next (s.modCtx t (fun y => { y with pend := y.pend.map (fun q =>
        if q == p then { q with done := true, work := .none, result := q.work.blank, since := none
                                fault := some { cause := 0x10, tval := s.stalledAt t p.work } } else q) }))) ∧
    (homed → look? f.miss ln = some m → f.fills.any (fun m => m.line == ln) = false → look? f.l2 ln = none →
      s.fieldExcluded h.stack fi ln = false → s.seqHeld ln = false → covered.1 = true →
      exec (.readFill fi ln) s = .next ((sent.2.modCovering h.stack ln (fun r => r.addSharer fi)).modField fi (fun f =>
        { f with fills := f.fills ++ [{ line := ln, seq := sent.1, data := from_.data, tags := from_.tags, syn := from_.syn,
                                        bad := from_.bad }] }))) ∧
    (runs → look? f.miss ln = some m → f.fills.find? (fun m => m.line == ln) = some x → look? f.l2 ln = none →
      (m.inval.any (fun i => seqGe i x.seq) = false) →
      exec (.fillArrival fi ln) s = .next (came.install fi ln .s
        { data := x.data, tags := x.tags, syn := x.syn, bad := x.bad } (s.markFor fi ln) 0)) ∧
    (runs → look? f.miss ln = some m → f.fills.find? (fun m => m.line == ln) = some x →
      (m.inval.any (fun i => seqGe i x.seq) = true) → exec (.fillArrival fi ln) s = .next came) ∧
    (look? f.l2 ln = none → look? f.miss ln = some { inval := none } →
      exec (.invalidationArrival fi ln seq) s = .next (s.modField fi (fun f =>
        { f with miss := put f.miss ln { inval := some seq } }))) ∧
    (look? f.l2 ln = some l → l.st = .s → l.dirty = false → look? ((s.unhold fi ln).field fi).miss ln = none →
      exec (.invalidationArrival fi ln seq) s = .next (s.modField fi (fun f => { f with l2 := drop f.l2 ln }))) ∧
    (homed → s.copyWants fi ln = some y → fieldOf y.tid = fi → s.excluded y.tid h.stack (128 * ln) 128 true = false →
      s.engineOwns ln (fun _ => true) = false → (∀ l, look? f.l2 ln = some l → l.st ≠ .l) →
      (s.ownLine h.stack h.loc fi ln).1 = true →
      exec (.ownershipRequest fi ln) s = .next ((s.ownLine h.stack h.loc fi ln).2.modCore (coreOf y.tid) (fun c =>
        { c with copies := c.copies.map (fun z =>
          if z.tid == y.tid && z.seq == y.seq then { z with owned := z.owned ++ [ln] } else z) }))) ∧
    (runs → look? f.l2 ln = some l → l.dirty = true →
      exec (.writeBack fi ln) s = .next ((s.writeHome ln l).modField fi (fun f =>
        { f with l2 := put f.l2 ln { l with dirty := false } }))) ∧
    (runs → look? f.l2 ln = some l → l.st = .l → l.exp - 8 ≤ s.sid →
      exec (.leaseExpiry fi ln) s = .next (s.modField fi (fun f => { f with l2 := drop f.l2 ln }))) ∧
    (look? st.dir slot = some r → r.piece = false → (st.pieces slot).length > 1 →
      (r.kind = .box ∨ ∃ u, st.hull slot = some u ∧
        u.len + 1 = ((st.pieces slot).map (fun i => ((look? st.dir i).map (fun d => d.len + 1)).getD 0)).sum) →
      (∀ i ∈ st.pieces slot, ∃ d, look? st.dir i = some d ∧ d.ten = 0 ∧ d.quiet + 2 ^ 20 ≤ s.dirClock) →
      exec (.pieceRejoin k slot) s = .next ((s.spareOwners k (st.pieces slot)).modStack k (fun st => st.rejoin slot))) ∧
    (look? st.dir slot = some r → r.kind = .region → r.unshared = true →
      exec (.regionRecordMerge k slot) s = .next (s.setStack k (st.freeRegion slot))) ∧
    (look? st.dir slot = some r → calm → inBud = [] →
      exec (.regionRecordMerge k slot) s = .next (s.setStack k (st.setRec slot
        { r with base := base, len := 2 * n - 1, quiet := s.dirClock }))) ∧
    (look? st.dir slot = some r → calm → inBud = [(j, q)] → q.base = bud → q.len = r.len → q.quiet + 2 ^ 20 ≤ s.dirClock → q.piece = false → q.next = 0 →
      look? ((s.spareOwners k [slot, j]).stack k).dir slot = some r2 →
      look? ((s.spareOwners k [slot, j]).stack k).dir j = some q2 →
      exec (.regionRecordMerge k slot) s = .next ((s.spareOwners k [slot, j]).modStack k (fun st => (st.setRec slot
        { r2.joinSharers q2 with base := base, len := 2 * n - 1, quiet := s.dirClock }).freeRec j)))

/-- R85: SURR written 1 in the state of sixteen ways begins a surrender, written 0 in the state of eight
a restore; a write during a transition is held; a surrender ends with the dirty lines at their homes and
counted, the scratch zeroed and the ways invalid; a restore ends with the scratch discarded, once no access that passed
its check still needs it. -/
def SliceWayEvents : Prop :=
  ∀ (s : State) (fi : Nat),
    let f := s.field fi
    let hi := f.l2.filter (fun e => e.2.high)
    let emptied := hi.foldl (fun s e => (s.dropLine fi e.1).unhold fi e.1) (hi.foldl (fun s e => s.cleanLine fi e.1) s)
    let ended := (emptied.zeroScratch fi).modField fi (fun f =>
      { f with l2state := 2, l2wbc := (hi.filter (fun e => e.2.dirty)).length })
    (f.l2state = 0 → exec (.surrender fi) s = .next (s.setField fi { f with surr := true, l2state := 1, l2wbc := 0 })) ∧
    (f.l2state = 2 → exec (.surrender fi) s = .next s) ∧
    (f.l2state = 1 ∨ f.l2state = 3 → exec (.surrender fi) s = .next (s.setField fi { f with surrHeld := some true })) ∧
    (f.l2state = 2 → exec (.wayRestore fi) s = .next (s.setField fi { f with surr := false, l2state := 3 })) ∧
    (f.l2state = 0 → exec (.wayRestore fi) s = .next s) ∧
    (f.l2state = 1 ∨ f.l2state = 3 → exec (.wayRestore fi) s = .next (s.setField fi { f with surrHeld := some false })) ∧
    (f.l2state = 1 → f.frozen = false → (ended.field fi).surrHeld = none → exec (.surrenderDone fi) s = .next ended) ∧
    (f.l2state = 3 → f.frozen = false → f.surrHeld = none → s.scratchOpen fi = false →
      exec (.wayRestoreDone fi) s = .next ((s.zeroScratch fi).modField fi (fun f => { f with l2state := 0 }))) ∧
    (f.l2state ≠ 3 ∨ s.scratchOpen fi = true → exec (.wayRestoreDone fi) s = .next s)

/-- The events of the memory system and of the slice ways. -/
def Obligations.Memory_and_slice_events : Prop := MemorySystemEvents ∧ SliceWayEvents

/-! ## Events of cores and hubs -/

/-- R115, R229, R233: a copy retires with its bytes moved, or with the failure that its thread takes later.
R122, R343: the home acknowledges a posted store or refuses it, and the refusal traps. R150, R151: what has
ended lands, and a late fault is delivered. R49, R275: FLAGOR and a distributor's answer are written. R249,
R252, R259: the array carries out the head of a queue, and a command is answered and queued. -/
def CoreEvents : Prop :=
  ∀ (s s1 : State) (core k tid seq fi t r c a : Nat) (fl : BitVec 5) (fmt : BitVec 8) (y : Copy) (e : LogEnt) (p : Pend)
    (x : Exc) (ref : Pending) (u : Unit) (qy : Query) (qs : List Query) (ae : ArrEntry) (es : List ArrEntry) (w : Word)
    (ws : List Word) (els : List (Nat × Nat)) (kv : BitVec 32),
    let copy := (s.core (coreOf tid)).copies.find? (fun k => k.tid == tid && k.seq == seq) = some y ∧
      (s.field (fieldOf tid)).frozen = false ∧ s.copyBlocked y = false
    let retired := fun (s : State) => s.modCore (coreOf y.tid) (fun c => { c with
      copies := c.copies.erase y
      sb := c.sb.filter (fun e => !(e.tid == y.tid && e.seq == y.seq && e.ticket == 0)) })
    let m := s.moveCopy y
    let kept := fun (s : State) => s.modCore (coreOf y.tid) (fun c => { c with copies := c.copies.map (fun z =>
      if z.tid == y.tid && z.seq == y.seq then
        { z with segs := m.rest, owned := z.owned.filter (fun ln => (destLines m.rest).contains ln) } else z) })
    let posted := look? (s.core core).log k = some e ∧ s.stopped core = false ∧
      (s.core core).earlierLog e = false ∧ s.homeHolds e.tid 1 e.pa true = false ∧ e.member = none ∧ s.isLost e.e2e = false ∧
      s.farCube? e.pa = none
    let freed := fun (s : State) => s.modCore core (fun c => { c with log := drop c.log k })
    let acked := fun (s : State) => freed (s.settled (((look? (s.core core).log k).map LogEnt.e2e).getD []))
    let replica := look? (s.core core).log k = some e ∧ s.stopped core = false ∧ s.isLost e.e2e = false ∧ e.member = some a
    let refusal : Pending := { cause := 0x0E, addr := e.named, entry := k, size := e.size, mask := e.mask,
                               data := e.data.extractLsb' 0 64, count := 1 }
    let ps := (s.ctx t).pend
    let due := ps.filter (dueNow ps)
    let all := fun (_ : Pend) => true
    let head := (s.field (fieldOf t)).frozen = false ∧ (s.ctx t).served = true ∧ (s.ctx t).arrQ = ae :: es ∧
      ae.op.rows.any (fun r => (s.ctx t).drain.getLsbD r) = false
    let cmd := cmdOf ws
    let dest := bits w.toNat 19 0 * 16 + cmd.tctx
    let answered := fun (s : State) (v : Nat) => s.modCtx t (fun z => { z with mcmd := some (w, ws, some v) })
    let fmtC := (s.ctx dest).bank (cmd.addr / 8192)
    let op : ArrOp := if cmd.opc = 1 then .mldbLocal cmd.addr fmtC
      else if cmd.opc = 2 then .mmaLocal cmd.row cmd.cnt cmd.k cmd.addr fmtC else .mclr cmd.row cmd.cnt
    (copy → m.fail = none → m.rest = [] →
      exec (.copyRetire tid seq) s = .next ((retired m.st).copyRecord tid y.act seq false)) ∧
    (copy → m.fail = none → m.rest ≠ [] → exec (.copyRetire tid seq) s = .next (kept m.st)) ∧
    (copy → m.fail = some c →
      exec (.copyRetire tid seq) s = .next (((retired m.st).modCtx tid (fun z =>
        if z.act == y.act then { z with copyErr := z.copyErr ++
          [(seq, { cause := c, tval := copyTag tid seq, eng := true })] } else z)).copyRecord tid y.act seq true)) ∧
    (posted → s.storeNow e.tid 1 e.pa e.size e.mask.toNat e.data.toNat = .ok u s1 →
      exec (.postedStoreAck core k) s = .next (acked s1)) ∧
    (replica → s.reachable a = true → s.isOut e.e2e = false → exec (.postedStoreAck core k) s = .next (acked s)) ∧
    (replica → s.reachable a = true → s.isOut e.e2e = true → exec (.postedStoreAck core k) s = .next s) ∧
    (posted → s.storeNow e.tid 1 e.pa e.size e.mask.toNat e.data.toNat = .fault c → (s.ctx e.tid).act = e.act →
      (s.ctx e.tid).st ≠ .free →
      exec (.postedStoreRefusal core k) s = .next ((acked s).modCtx e.tid (fun z => { z with refusal := match z.refusal with
        | none => some refusal
        | some o => some { o with count := o.count + 1 } }))) ∧
    (look? (s.core core).log k = some e → s.stopped core = false → s.isLost e.e2e = true → (s.ctx e.tid).act = e.act →
      (s.ctx e.tid).st ≠ .free →
      exec (.postedStoreRefusal core k) s = .next ((acked s).modCtx e.tid (fun z => { z with refusal := match z.refusal with
        | none => some refusal
        | some o => some { o with count := o.count + 1 } }))) ∧
    (s.stopped (coreOf t) = false → (s.ctx t).st = .issuing → (s.ctx t).lone = none → (s.ctx t).exchanging = false →
      (s.ctx t).refusal = some ref → (s.ctx t).sup = false → ps.any (fun p => !p.done) = false →
      exec (.postedStoreTrap t) s = .next (((s.landThese t all).modCtx t (fun z => { z with refusal := none })).take t
        { cause := 0x0E, tval := ref.addr, loge := ref.entry } false (s.ctx t).pc (s.ctx t).pc (some ref))) ∧
    (s.stopped (coreOf t) = false → due ≠ [] → due.all (fun p => p.done && p.fault.isNone) = true →
      exec (.landing t) s = .next (s.landThese t (dueNow ps))) ∧
    (s.stopped (coreOf t) = false → (s.ctx t).inSlot = true → (s.ctx t).exchanging = false →
      (s.ctx t).lateNow = some p → ps.any (fun q => !q.done) = false → p.fault = some x → p.sup = false →
      exec (.lateFaultDelivery t) s = .next (((s.modCtx t (fun z => { z with pend := z.pend.filter (fun q => q != p) })).landThese
        t all).take t x true p.pc (s.ctx t).pc none)) ∧
    ((s.field fi).frozen = false →
      exec (.flagorSet fi fl) s = .next (s.modField fi (fun f => { f with flagor := f.flagor ||| fl }))) ∧
    ((s.field fi).frozen = true →
      exec (.flagorSet fi fl) s = .next { s with agenda := s.agenda ++ [.flagorSet fi fl] }) ∧
    ((s.field fi).queries = qy :: qs → (s.field fi).frozen = false → (s.core qy.core).copyBefore qy = false →
      exec (.wqryAnswer fi) s = .next (((s.modField fi (fun f => { f with queries := qs })).writeVault qy.core qy.lo 16
        qy.item.toNat).modCore qy.core (fun c =>
          { c with sb := c.sb.filter (fun e => !(e.tid == qy.tid && e.ticket == qy.ticket)) }))) ∧
    (head → ae.op = .mclr r c →
      exec (.arrayEntryComplete t) s = .next ((s.modCtx t (fun z =>
        z.clearRows ((List.range c).map (fun i => r + i)))).finishEntry t ae)) ∧
    (head → ae.op = .mldbLocal a fmt →
      exec (.arrayEntryComplete t) s =
        .next (s.mldb t ae fmt (fun s j => s.localBlock t (a + 4 * fmtWidth fmt * j) fmt))) ∧
    (head → ae.op = .mldbTile els fmt →
      exec (.arrayEntryComplete t) s = .next ((s.addPins t ae.seq els).mldb t ae fmt (fun s j =>
        s.tileBlock t ae.seq (els.getD j (0, 0)) fmt))) ∧
    (head → ae.op = .mmaLocal r c kv a fmt → exec (.arrayEntryComplete t) s = .next (s.mmaRows t 16)) ∧
    (head → ae.op = .mmaTile r c kv els fmt →
      exec (.arrayEntryComplete t) s = .next ((s.addPins t ae.seq (els.drop ae.done)).mmaRows t 16)) ∧
    ((s.ctx t).mcmd = some (w, ws, none) → (s.field (fieldOf t)).frozen = false → s.cmdStatus t w ws = c → c ≠ 0 →
      exec (.mcmdAccept t) s = .next (answered s c)) ∧
    ((s.ctx t).mcmd = some (w, ws, none) → (s.field (fieldOf t)).frozen = false → s.cmdStatus t w ws = 0 →
      (s.field (fieldOf dest)).frozen = false → (s.ctx dest).arrQ.length < 8 →
      exec (.mcmdAccept t) s = .next (answered (s.modCtx dest (fun z => { z with
        arrQ := z.arrQ ++ [{ op := op, owner := t, act := (s.ctx t).act, cmd := true, seq := z.arrSeq }]
        arrSeq := z.arrSeq + 1 })) 0))

/-- R30: a message at the head of a queue starts the handler that was bound when it arrived. R278, R279: a wake
is kept in the latch while the aperture is closed, delivered from it, and ends a SLEEP, which its deadline
ends too. R345, R346: a 1 of TQFREE frees a slot of the trap queue, and a poisoned block is fetched again. -/
def WakeAndTrapQueueEvents : Prop :=
  ∀ (s : State) (core q j t k fi d : Nat) (v : Word) (r : BitVec 8) (h : Task),
    let runs := (s.field (fieldOf t)).frozen = false
    let out := fun (b : IBlock) => b.poison && b.asid == s.asidOf t && b.va == (s.ctx t).pc.toNat / 128
    let noted := fun (s : State) (v : Word) => s.modCtx t (fun x => { x with notify := x.notify ||| v })
    let woken := fun (s : State) => (s.modCtx t (fun x => { x.setX r.toNat x.notify with notify := 0 })).makeReady t
    ((s.field (fieldOfCore core)).frozen = false → (s.core core).hand q = some h → (s.core core).hrun q = none →
      (s.core core).oldest q = some j → s.freeCtx? core = some t →
      exec (.handlerActivation core q) s = .next (s.activateHandler t q (((s.core core).msg q j).hand.getD h))) ∧
    (s.apertureOff t = true →
      exec (.wakeArrival t v) s = .next (s.modCtx t (fun x => { x with latch := x.latch ||| v }))) ∧
    (s.apertureOff t = false → (s.ctx t).st = .free → exec (.wakeArrival t v) s = .next s) ∧
    (s.apertureOff t = false → (s.ctx t).st ≠ .free → (∀ d r, (s.ctx t).wait ≠ .sleep d r) →
      exec (.wakeArrival t v) s = .next (noted s v)) ∧
    (s.apertureOff t = false → (s.ctx t).st ≠ .free → (s.ctx t).wait = .sleep (some d) r →
      exec (.wakeArrival t v) s = .next (woken (noted s v))) ∧
    (runs → (s.ctx t).latch = v → v ≠ 0 → (s.ctx t).st ≠ .free → (∀ d r, (s.ctx t).wait ≠ .sleep d r) →
      exec (.notifyLatchDelivery t) s = .next (noted (s.modCtx t (fun x => { x with latch := 0 })) v)) ∧
    (runs → s.wrap = 0 → (s.ctx t).wait = .sleep (some d) r → (s.ctx t).latch = 0 → d < s.sid →
      exec (.sleepTimeout t) s = .next (woken s)) ∧
    (exec (.tqfree fi v) s = .next (((List.range 64).filter (fun k => v.getLsbD k)).foldl (fun s k =>
      s.freeTqSlot fi k) s)) ∧
    ((s.field fi).tqvalid.getLsbD k = true → (s.field fi).tqwait = [] →
      (∀ e ∈ s.ctxs, fieldOf e.1 = fi → e.2.wait ≠ .slot k) →
      s.freeTqSlot fi k = s.modField fi (fun f => { f with tqvalid := f.tqvalid &&& ~~~(1#64 <<< k), tqwait := [] })) ∧
    (runs → (s.ctx t).st = .issuing →
      exec (.fetchPoisonRefetch t) s = .next ((s.modCore (coreOf t) (fun c => { c with
        icache := c.icache.filter (fun b => !out b) })).modField (fieldOf t) (fun f => { f with
          pdisc := f.pdisc + BitVec.ofNat 32 (9 * ((s.core (coreOf t)).icache.filter out).length) })))

/-- The events of cores, wakes and trap queues. -/
def Obligations.Core_and_hub_events : Prop := CoreEvents ∧ WakeAndTrapQueueEvents

/-! ## Scheduling events -/

/-- R22 to R26, R38, R39: an initial task starts on its core, a stage is released, and the dispatcher fills an
issue slot. R31, R32, R318: an idle core takes half of the donor's chunks; a hub publishes its largest range.
R315 to R317: a hub takes a task, and a queued one ages. R319 to R322: a slot priority rises, a quiesce
starts and ends. -/
def SchedulingEvents : Prop :=
  ∀ (s : State) (core fi stamp t u lid st : Nat) (k h : Task) (l : Launch) (c : Nat × Ctx) (q : QTask) (rest : List QTask)
    (r : Rng) (avoid : Option Nat),
    let f := s.field fi
    let runs := s.stopped core = false
    let cands := (ctxsOf core).filterMap (fun t =>
      if s.mayEnter t && s.slotFor t then some (t, s.ctx t) else none)
    let used := fun (t : Nat) => ((ctxsOf (coreOf t)).filter (fun u => u != t && (s.ctx u).inSlot)).map (fun u => (s.ctx u).slotNo)
    let all := (ctxsOf core).map (fun t => (t, s.ctx t))
    let n := (r.hi - r.c + r.g - 1) / r.g
    let mid := r.c + n / 2 * r.g
    let qb := taskQb (l.stageRecord st)
    let ended := (s.landThese t (fun _ => true)).forgetFaults t
    let stage := s.launch? lid = some l ∧ l.bound = true ∧ l.binding = false ∧ l.completing = false ∧ l.kind = 2 ∧ st < l.stages ∧
      l.staged.contains st = false ∧ l.channels.all (fun c => chPstg c != st || l.stageUp (chCstg c)) = true
    let released := s.modLaunch lid (fun l => { l with staged := l.staged ++ [st] })
    (runs → s.launch? k.lid = some l → l.bound = true → l.initial.contains (core, k) = true → s.freeCtx? core = some t →
      exec (.activation core k) s = .next ((s.modLaunch l.lid (fun l =>
        { l with initial := l.initial.erase (core, k) })).activate t k)) ∧
    (runs → bestBy readyBefore cands = some c →
      exec (.issueSlotFill core) s = .next (s.modCtx c.1 (fun x =>
        { x with st := .issuing, slotAt := s.time, slotPri := x.pri
                 slotNo := ((List.range 4).find? (fun k => !(used c.1).contains k)).getD 0 }))) ∧
    (f.frozen = false → f.headTask = some (h, avoid) → s.takeCore fi h.pri avoid = some core → s.take? fi = some (q, rest) →
      s.freeCtx? core = some t →
      exec (.take fi) s = .next ((s.modField fi (fun f => { f with tasks := rest })).activate t q.task)) ∧
    (f.frozen = false →
      exec (.aging fi stamp) s = .next (s.modField fi (fun f => { f with tasks := f.tasks.map (fun q =>
        if q.stamp == stamp && !q.retry && decide (q.level < 3) && decide (q.since + 2 ^ 20 ≤ s.vclk fi) then
          { q with level := q.level + 1, since := q.since + 2 ^ 20 }
        else q) }))) ∧
    (s.stopped (coreOf t) = false → (s.ctx t).st = .ready → (s.ctx t).slotPri < 3 →
      (s.ctx t).readyV + 2 ^ 20 ≤ s.vclk (fieldOf t) →
      exec (.slotPriorityRise t) s = .next (s.modCtx t (fun x =>
        { x with slotPri := x.slotPri + 1, readyV := x.readyV + 2 ^ 20 }))) ∧
    (runs → bestBy victimBefore (all.filter (fun c => c.2.st == .issuing)) = some c → s.slotsUsed core ≥ 4 →
      all.any (fun c => c.2.st == .quiescing) = false →
      all.any (fun d => s.mayEnter d.1 && decide (d.2.slotPri > c.2.pri)) = true → c.2.exchanging = false →
      exec (.quiesceStart core) s = .next (s.modCtx c.1 (fun x => { x with st := .quiescing, stallAt := none }))) ∧
    (runs → (ctxsOf core).find? (fun t => (s.ctx t).st == .quiescing) = some t → (s.ctx t).exchanging = false →
      (s.ctx t).ending = false → (s.ctx t).lateNow = none → (s.ctx t).pend.all (fun p => p.done) = true →
      exec (.quiesceComplete core) s = .next ((ended.leaveQueues t).modCtx t (fun x => { x with
        st := .ready, readyAt := ended.time, readyV := ended.vclk (fieldOf t), slotPri := x.pri, ticket := none
        pend := (x.pend.filter (fun p => p.fault.isSome)).map (fun p => { p with left := 0 }) }))) ∧
    (runs → s.launch? (s.field (fieldOfCore core)).flid = some l → l.fields.any (fun f => !(s.field f).tasks.isEmpty) = false →
      s.freeCtx? core = some t → s.donor (fieldOfCore core) = some u → (s.ctx u).rng = some r → (s.ctx u).task = some k →
      2 ≤ n → r.c ≤ r.hi →
      exec (.rangeSplit core) s = .next ((s.modCtx u (fun x => { x with rng := some { r with hi := mid } })).activate t
        { k with words := k.words.take 7 ++ [w64 (r.hi * 2 ^ 32 + mid)], retries := 0, retained := [] })) ∧
    (f.frozen = false →
      exec (.splitPublish fi) s = .next (s.modField fi (fun f =>
        { f with maxRng := (s.rangeThreads fi).foldl (fun m e => Nat.max m e.1) 0 }))) ∧
    (stage → qb = 0 →
      exec (.stageRelease lid st) s = .next (released.modLaunch lid (fun x =>
        { x with initial := x.initial ++ (l.coresOfStage st).map (fun c => (c, s.stageTask l st c)) }))) ∧
    (stage → qb ≠ 0 →
      exec (.stageRelease lid st) s = .next ((l.coresOfStage st).foldl (fun s1 c =>
        s1.modCore c (fun k => k.setHand (qb - 2) (some (s.stageTask l st c)))) released))

/-- R36, R37, R40, R309 to R314, R324: the scheduler unit answers the oldest LNCH request, but a queue entry that is
there at the same time goes first; the cube reads the next entry of the launch queue, judges it and writes its
status; a bind reports its status and, at 0, binds the fields and waits for its grant run; a launch without work
left ends with its buffer actions, the completion store and the interrupt. R360: a switch of a field takes effect with its
records; raised domains start together. -/
def LaunchEvents : Prop :=
  ∀ (s s1 s2 s3 : State) (lid fi : Nat) (v : Word) (l : Launch) (ws b : List Word) (tags : List Bool) (u : Unit) (r : Ratio)
    (req : LnchReq) (reqs : List LnchReq),
    let q := s.sched
    let cap : Cap := { w0 := (q.lqcap.extractLsb' 0 64).toNat, w1 := (q.lqcap.extractLsb' 64 64).toNat }
    let pa := cap.addr + 32 * q.lqhead
    let w := tw ws
    let there := q.en = true ∧ q.cerr = false ∧ q.rerr = false ∧ q.lqhead ≠ q.lqtail % 2 ^ q.logn ∧ s.pending.length < 1024
    let queued := there ∧ (∀ r, q.reqs.head? = some r → r.at_ = s.time) ∧
      capCheck q.lqtag cap useLaunchQ = 0 ∧ cap.holdsExtent (32 * 2 ^ q.logn) = true ∧ s.readWords pa 4 = .ok ws s1 ∧
      s1.readBlock (bits (w 0) 51 9 * 512) = .ok (b, tags) s2 ∧
      (bits (w 0) 8 0 = 0 ∧ bits (w 0) 57 52 = 0 ∧ bits (w 2) 63 16 = 0 ∧ w 3 = 0)
    let entry : Launch := { lid := 0, seq := 0, qsrc := true, name := 0, part := bits (w 0) 63 58, asid := bits (w 2) 15 0,
                            block := b }
    let st := s2.judge entry tags (s2.partEn (bits (w 0) 63 58) && s2.asidOk (bits (w 0) 63 58) (bits (w 2) 15 0))
    let answer := if st = 0 then statusWord272 (s2.sched.qseq + 1) s2.nextLid 0 else statusWord272 0 0 st
    let popped : State := { s3 with sched := { s3.sched with lqhead := (s3.sched.lqhead + 1) % 2 ^ s3.sched.logn } }
    let taken := popped.accept { entry with seq := w64 (s2.sched.qseq + 1) }
    let judged := { s with sched := { q with reqs := reqs } }.judgeLnch req.tid req.launch req.tags
    let blid := bits v.toNat 15 0
    let fs := (List.range 1024).filter (fun i => s.sched.bindf.getLsbD i)
    let stat := fun (s1 : State) (n : Nat) => { s1 with sched := { s1.sched with bstat := n } }
    let bound := fs.foldl (fun s f => s.bindField l.lid f) s
    let l1 : Launch := { l with bound := true, binding := true, fields := fs, bars := [], used := [], staged := [] }
    let done := (s.afterActions { l with completing := true }).namedOut l
    let f := s.field fi
    let f1 : Field := { f with ratio := r, gen := f.gen + 1, target := none, switching := false, again := none,
                               vclk := s.vclk fi, vclkAt := s.counted }
    let switched := ((s.setField fi f1).ctxs.filter (fun e => fieldOf e.1 == fi && e.2.st != .free)).foldl
      (fun s e => s.postEvent e.1 (w64 (2 ^ 60 + f1.ratioWord))) (s.setField fi f1)
    (queued → s2.writeDirect (pa + 8) 8 answer.toNat = .ok u s3 → st ≠ 0 →
      exec .launchQueueEntry s = .next popped) ∧
    (queued → s2.writeDirect (pa + 8) 8 answer.toNat = .ok u s3 → st = 0 →
      exec .launchQueueEntry s = .next { taken with sched := { taken.sched with qseq := s2.sched.qseq + 1 } }) ∧
    (q.reqs = req :: reqs → s.pending.length < 1024 → ¬ (req.at_ = s.time ∧ there) →
      exec .launchQueueEntry s = .next (judged.2.answerTo req.tid req.act judged.1.toNat)) ∧
    (bits v.toNat 17 16 = 1 → s.bindStatus blid fs ≠ 0 →
      exec (.bindc v) s = .next (stat s (s.bindStatus blid fs))) ∧
    (bits v.toNat 17 16 = 1 → s.bindStatus blid fs = 0 → s.launch? blid = some l →
      exec (.bindc v) s = .next (stat (bound.setLaunch l1).askRun 0)) ∧
    (s.launch? lid = some l → l.bound = true → l.binding = false → s.workLeft l = false →
      l.fields.any (fun f => (s.field f).frozen) = false → s.wrap = 0 → done.completionStore l = (true, s1) →
      exec (.launchCompletion lid) s = .next ((if l.irqen then s1.raiseIid l.iid else s1).unbind l)) ∧
    (s.launch? lid = some l → l.bound = true → l.binding = false → s.workLeft l = false →
      l.fields.any (fun f => (s.field f).frozen) = false → s.wrap = 0 → done.completionStore l = (false, s1) → l.irqen = false →
      exec (.launchCompletion lid) s =
        .next ({ s1 with sched := { s1.sched with cmplfV := true, cmplf := lid } }.unbind l)) ∧
    (f.target = some r → f.switching = true → f.frozen = false → f.again = none →
      exec (.fieldSwitchComplete fi) s =
        .next { switched with mer := { switched.mer with busy := switched.switchesLeft } }) ∧
    (s.fields.any (fun e => e.2.switching) = false →
      exec .raisedSwitchStart s = .next { s with fields := s.fields.map (fun e =>
        (e.1, if e.2.target.isSome && !e.2.frozen then { e.2 with switching := true } else e.2)) }) ∧
    (s.fields.any (fun e => e.2.switching) = true → exec .raisedSwitchStart s = .next s)

/-- The events of tasks, issue slots and launches. -/
def Obligations.Scheduling_and_launch_events : Prop := SchedulingEvents ∧ LaunchEvents

/-! ## Translation, frames and the home map -/

/-- R74, R331 to R333: a walker serves the oldest request or merges it, and its leaf answers the page; a
shootdown is sent to every hub, which drops the leaves it matches and acknowledges. R73 to R75, R301: a page
fills its frame, FLUSH and RESUME act on the selected context. R303: a field changes its partition scrubbed.
R335, R336: a re-stripe starts when its checks pass, moves one granule at a time and is retired by RSRET. -/
def Obligations.Translation_events : Prop :=
  ∀ (s s1 s2 : State) (fi core t n page : Nat) (asid : BitVec 16) (part e : BitVec 6) (v : Word) (m : Miss) (w : Walk)
    (leaf : TlbEnt) (q : Shoot) (rest : List (Nat × Nat)) (l : Launch),
    let f := s.field fi
    let waiting := f.frozen = false ∧ f.misses.find? (fun m => m.walk.isNone) = some m
    let id := f.walks.foldl (fun n w => Nat.max n (w.id + 1)) 0
    let served := fun (v : Nat) => f.misses.map (fun q => if q == m then { q with walk := some v } else q)
    let walked := f.frozen = false ∧ s.wrap = 0 ∧ f.walks[Config.choice s.free % f.walks.length]? = some w
    let shot := fun (kind va who : Nat) => (⟨(s.trans.sdseq + 1).toNat, kind, va, who, s.fields.map Prod.fst⟩ : Shoot)
    let sends := fun (q : Shoot) =>
      { s with trans := { s.trans with sdseq := s.trans.sdseq + 1, shoots := s.trans.shoots ++ [q] } }.settleShoots
    let keep := fun (e : TlbEnt) => !s.leafHit q.kind q.va q.who e
    let left := s1.trans.shoots.map (fun (p : Shoot) =>
      if p.seq == q.seq then { p with left := p.left.filter (fun g => g != fi) } else p)
    let ent := s.trans.ent
    let old := s.hmapWord ent
    let g := s.trans.gran
    -- a granule, the pieces that are whole in both stripings, the lines of the pieces copied
    let n0 := 2 ^ bits (old 0) 9 5
    let piece := Nat.min n0 (2 ^ bits (s.rsWord 0) 9 5)
    let pa := granPa old g
    let quiet := if (entryHome old pa).cube = s.cubeid then s.quietRegions (entryHome old pa).stack (pa / 128) (n0 / 128) else s
    let copied := (List.range (n0 / piece)).foldl (fun u i =>
      u.copyLines (entryHome old (pa + i * piece)).loc (entryHome s.rsWord (pa + i * piece)).loc (piece / 128)) quiet
    let flushed := fun (u : State) (t : Nat) =>
      let u1 := (u.writeImage t).getD (u.failBacking t)
      ((u1.core core).frames.filter (fun e =>
        e.2.owner == t || (e.2.owner == namedOwner && bit (u1.nlrOf t) e.2.page))).foldl (fun u e => u.frameOut core e.1) u1
    let sel := core * 16 + (s.core core).ctxsel
    let named := bit (s.nlrOf t) page
    let scrubbed := ((s.settleL2 fi).emptySlice fi).zeroVaults fi
    (waiting → f.tlb.any (fun e => e.covers m.asid (m.va * 4096)) = true →
      exec (.tlbMissWalk fi) s = .next (s.setField fi { f with misses := f.misses.erase m })) ∧
    (waiting → f.tlb.any (fun e => e.covers m.asid (m.va * 4096)) = false →
      f.walks.find? (fun w => w.asid == m.asid && w.va == m.va) = some w →
      exec (.tlbMissWalk fi) s = .next (s.setField fi { f with misses := served w.id })) ∧
    (waiting → f.tlb.any (fun e => e.covers m.asid (m.va * 4096)) = false →
      f.walks.find? (fun w => w.asid == m.asid && w.va == m.va) = none → f.walks.length < 8 →
      exec (.tlbMissWalk fi) s = .next (s.setField fi
        { f with walks := f.walks ++ [{ id := id, asid := m.asid, va := m.va }], misses := served id })) ∧
    (f.frozen = true ∨ f.misses.find? (fun m => m.walk.isNone) = none → exec (.tlbMissWalk fi) s = .next s) ∧
    (walked → ({ s with free := s.free + 1 }.walk w.asid (w.va * 4096)) = (some leaf, s1) →
      exec (.walkComplete fi) s = .next (s1.modField fi (fun f =>
        { f with walks := f.walks.erase w, tlb := tlbInsert 16384 f.tlb leaf,
                 misses := f.misses.filter (fun m => !leaf.covers m.asid (m.va * 4096)) }))) ∧
    (walked → ({ s with free := s.free + 1 }.walk w.asid (w.va * 4096)) = (none, s1) →
      exec (.walkComplete fi) s = .next (s1.modField fi (fun f =>
        { f with walks := f.walks.erase w, misses := f.misses.filter (fun m => m.walk != some w.id)
                 mfaults := f.mfaults ++ (f.misses.filter (fun m => m.walk == some w.id)).map (fun m =>
                   { core := m.core, tid := m.tid, asid := m.asid, va := m.va, pc := m.pc, idx := m.idx }) }))) ∧
    (exec (.sdcmdVa asid) s = .next (sends (shot 0 s.trans.sdva.toNat asid.toNat))) ∧
    (exec (.sdcmdAs asid) s = .next (sends (shot 1 0 asid.toNat))) ∧
    (exec (.sdcmdAll part) s = .next (sends (shot 2 0 part.toNat))) ∧
    (s.trans.shoots.find? (fun q => q.left.contains fi) = none → exec (.shootdownAck fi) s = .next s) ∧
    (s.trans.shoots.find? (fun q => q.left.contains fi) = some q → f.frozen = false → s.fieldBusy fi = false →
      s1 = ({ s with cores := s.cores.map (fun (e : Nat × Core) =>
        if fieldOfCore e.1 = fi then (e.1, { e.2 with tlb := e.2.tlb.filter keep }) else e) } : State).modField fi (fun f =>
          { f with tlb := f.tlb.filter keep, walks := [], mfaults := [], misses := f.misses.map (fun m => { m with walk := none }) }) →
      exec (.shootdownAck fi) s = .next ({ s1 with trans := { s1.trans with shoots := left } }.settleShoots)) ∧
    (s.rsStatus e.toNat = 0 →
      exec (.rsctlGo e) s =
        .next { s with trans := { s.trans with
          busy := true, ent := e.toNat, gran := 0, moved := []
          old := (List.range 8).map (fun w => (w, look s.hmap (8 * e.toNat + w) 0))
          olds := if s.trans.old.isEmpty then s.trans.olds else (s.trans.ent, s.trans.old) :: s.trans.olds } }) ∧
    (s.rsStatus e.toNat = n → n ≠ 0 →
      exec (.rsctlGo e) s = .next { s with trans := { s.trans with status := n } }) ∧
    (s.trans.busy = true → granules old ≤ g →
      exec .restripeGranule s = .next { s with
        hmap := (List.range 8).foldl (fun m w => put m (8 * ent + w) (look s.trans.rsnew w 0)) s.hmap
        trans := { s.trans with busy := false, fwd := true, status := 0 } }) ∧
    (s.trans.busy = true → g < granules old → (∀ i < n0 / piece, homeMoves old s.rsWord (pa + i * piece) = false) →
      exec .restripeGranule s = .next { s with trans := { s.trans with gran := g + 1 } }) ∧
    (s.trans.busy = true → g < granules old → (∃ i < n0 / piece, homeMoves old s.rsWord (pa + i * piece) = true) →
      exec .restripeGranule s =
        .next { copied with trans := { copied.trans with gran := g + 1, moved := g :: copied.trans.moved } }) ∧
    (∀ (u : State) (a b m : Nat), u.copyLines a b 0 = u ∧
      u.copyLines a b (m + 1) = (u.setLineAt b (u.lineAt a)).copyLines (a + 128) (b + 128) m) ∧
    (s.trans.busy = false → exec .restripeGranule s = .next s) ∧
    (exec .rsret s = .next { s with trans := { s.trans with
      fwd := false, moved := if s.trans.busy then s.trans.moved else [] } }) ∧
    ((s.core core).wants = (t, page) :: rest → (s.field (fieldOfCore core)).frozen = false → s.wrap = 0 → (s.ctx t).st ≠ .free →
      s.frameOf? t page = none → s.ctxLaunch? t = some l →
      (s.setCore core { s.core core with wants := rest }).pickFrame core page named = (some n, s1) →
      s1.freeFrame core n = some s2 →
      exec (.pageFill core) s = .next (s2.fillFrame t page n named l)) ∧
    ((s.core core).flushing ≠ [] → (s.field (fieldOfCore core)).frozen = false → s.wrap = 0 →
      exec (.flushComplete core) s =
        .next (((s.core core).flushing.foldl flushed s).modCore core (fun c => { c with flushing := [] }))) ∧
    ((s.core core).flushing = [] ∨ (s.field (fieldOfCore core)).frozen = true ∨ s.wrap ≠ 0 →
      exec (.flushComplete core) s = .next s) ∧
    ((s.ctx sel).inSlot = false → (s.core core).flushing.contains sel = false →
      exec (.flush core) s = .next (s.modCore core (fun c => { c with ferr := false, flushing := c.flushing ++ [sel] }))) ∧
    ((s.ctx sel).inSlot = true →
      exec (.flush core) s = .next (s.modCore core (fun c => { c with ferr := true }))) ∧
    ((s.ctx sel).st = .parked → (s.ctx sel).wait = .halted →
      exec (.resume core) s = .next ((s.modCore core (fun c => { c with ferr := false })).makeReady sel)) ∧
    (¬ ((s.ctx sel).st = .parked ∧ (s.ctx sel).wait = .halted) →
      exec (.resume core) s = .next (s.modCore core (fun c => { c with ferr := true }))) ∧
    (exec (.lineDrowsy t n) s = .next (s.modCore (coreOf t) (fun c => { c with regs := c.regs.map (fun r =>
      if r.ctx == ctxIx t && r.line == n && decide (r.at_ + 64 ≤ s.vclk (fieldOf t)) then { r with drowsy := true } else r) }))) ∧
    (f.flid ≠ 0 → exec (.fpartWrite fi v) s = .next s) ∧
    (f.flid = 0 →
      exec (.fpartWrite fi v) s = .next (({ scrubbed with
        agenda := scrubbed.agenda.filter (fun i => !intoField fi i)
        ctxs := scrubbed.ctxs.map (fun (e : Nat × Ctx) =>
          if fieldOf e.1 = fi then (e.1, { act := e.2.act }) else e)
        cores := scrubbed.cores.map (fun (e : Nat × Core) =>
          if fieldOfCore e.1 = fi then (e.1, e.2.scrubbed) else e) } : State).modField fi (fun f => { f with
            fpart := bits v.toNat 5 0, tlb := [], misses := [], walks := [], mfaults := [], flagor := 0, trec := []
            tqvalid := 0, tqovf := false, tqwait := [], tqgo := [], orphans := [], fatals := (0, [])
            pdisc := f.pdisc + BitVec.ofNat 32 (10 * s.poisoned fi) })))

/-! ## The arbiter, the clock, Eclipse -/

/-- R304, R354 to R360, R363, R364, R399: a grant run, once an event has asked for it and 10 µs after the last, takes
the written coefficients into use, gives the grants of the loop to the bound fields, keeps the estimate and counts,
and a bind that waits for it goes on; writes of the cap, the coefficients, the leakage, the limits, PSHARE and PCTL
are kept when they pass their check, else ignored whole; TCAP steps by 100 W once a millisecond; a reading of the
sensors sets TEMP and HOT; at 105 °C every bound field goes to 4/4/4/4 and CRIT is set; at 115 °C the part resets
with cause 3. -/
def Obligations.Arbiter_events : Prop :=
  ∀ (s : State) (d n p : Nat) (v : Word) (sensors : List (BitVec 8)) (gs : List Grant) (rot : Map Nat) (ovr : Bool) (bl : Launch),
    let m := s.mer
    let used := { m with coefUse := m.coef, leakUse := m.leak }
    let irq := fun (s : State) => if m.ien then s.raiseIid m.iid else s
    let ran : State := { s with mer := { used with
      runs := m.runs + 1, rot := rot, ovr := ovr, est := BitVec.ofNat 32 (estimate used gs), due := false, busy := true,
      ran := true, runAt := s.time } }
    let given := gs.foldl (fun s g =>
      match s.launch? g.lid with
      | none => s
      | some l => l.fields.foldl (fun s fi => s.modField fi (fun f => f.aim (s.granted g.vec))) s) ran
    let after := { given with mer := { given.mer with busy := given.switchesLeft } }
    let runs := m.due = true ∧ (m.ran = false ∨ m.runAt + 20000 ≤ s.time)
    let loop := { s with mer := used }.grantLoop m.rot (s.boundLaunches.map Launch.grant) (48 * s.boundLaunches.length) =
      (gs, rot, ovr)
    let c := bits v.toNat 11 0
    let asks := fun (x : Meridian) => { s with mer := { x with due := true } }
    let coef : Meridian := { m with coef := put m.coef (32 * d + n) (bits v.toNat 15 0) }
    let leak : Meridian := { m with leak := bits v.toNat 19 0 }
    let thot := bits v.toNat 15 8
    let tok := bits v.toNat 23 16
    let limits : Meridian := { m with thot := thot, tok := tok }
    let tcap := if m.temp ≥ m.thot then Nat.max 1200 (m.tcap - 100)
      else if m.temp ≤ m.tok then Nat.min 3600 (m.tcap + 100) else m.tcap
    let temp := sensors.foldl (fun m t => Nat.max m t.toNat) 0
    let read := { s with mer := { m with temp := temp, hot := decide (m.thot ≤ temp) } }
    let told := if m.thot ≤ temp ∧ m.hot = false then irq read else read
    let share := s.modPart p (fun x => { x with pshare := v &&& 0xFF03FF })
    let ctl := s.modPart p (fun x => { x with pctl := bits v.toNat 4 0 })
    let cold := (s.boundLaunches.flatMap Launch.fields).foldl (fun s fi => s.modField fi (fun f => f.aim {}))
      { s with mer := { m with crit := true, cold := true, busy := true } }
    let held := { cold with mer := { cold.mer with busy := cold.switchesLeft } }
    (runs → s.bindingLaunch = none → loop → (ovr = false ∨ m.ovr = true) → exec .grantRun s = .next after) ∧
    (runs → s.bindingLaunch = none → loop → ovr = true → m.ovr = false → exec .grantRun s = .next after.meridianIrq) ∧
    (runs → s.bindingLaunch = some bl → exec .grantRun s = .next ((s.grantRun (some bl.lid)).finishBind bl)) ∧
    (¬ runs → exec .grantRun s = .next s) ∧
    (s.time < m.tcapAt + 2000000 → exec .tcapStep s = .next s) ∧
    (m.tcapAt + 2000000 ≤ s.time →
      exec .tcapStep s = .next { s with mer := { m with tcap := tcap, tcapAt := s.time, due := m.due || tcap != m.tcap } }) ∧
    (¬ (m.cold = true ∧ temp ≤ m.tok) → exec (.temperatureChange sensors) s = .next told) ∧
    (m.cold = true → temp ≤ m.tok →
      exec (.temperatureChange sensors) s = .next { told with mer := { told.mer with cold := false, due := true } }) ∧
    (105 ≤ m.temp → m.cold = false → m.crit = true → exec .criticalTemperature s = .next held) ∧
    (105 ≤ m.temp → m.crit = false → exec .criticalTemperature s = .next held.meridianIrq) ∧
    (m.temp < 105 ∨ (m.cold = true ∧ m.crit = true) → exec .criticalTemperature s = .next s) ∧
    (115 ≤ m.temp → exec .thermtrip s = .next (s.resetCube 3)) ∧
    (m.temp < 115 → exec .thermtrip s = .next s) ∧
    (1200 ≤ c → c ≤ 3600 → exec (.capWrite v) s = .next (asks { m with cap := c })) ∧
    (¬ (1200 ≤ c ∧ c ≤ 3600) → exec (.capWrite v) s = .next s) ∧
    (d < 4 → 4 ≤ n → n ≤ 16 → coef.rowOk d = true → coef.boundOk = true →
      exec (.coefWrite d n v) s = .next (asks coef)) ∧
    (¬ (d < 4 ∧ 4 ≤ n ∧ n ≤ 16 ∧ coef.rowOk d = true ∧ coef.boundOk = true) → exec (.coefWrite d n v) s = .next s) ∧
    (leak.boundOk = true → exec (.leakWrite v) s = .next (asks leak)) ∧
    (leak.boundOk = false → exec (.leakWrite v) s = .next s) ∧
    (thot ≤ 104 → tok < thot → exec (.thotTokWrite v) s = .next ((asks limits).setTemp m.temp)) ∧
    (¬ (thot ≤ 104 ∧ tok < thot) → exec (.thotTokWrite v) s = .next s) ∧
    (share.shareSum ≤ 1000 → exec (.pshareWrite p v) s = .next { share with mer := { share.mer with due := true } }) ∧
    (1000 < share.shareSum → exec (.pshareWrite p v) s = .next s) ∧
    (ctl.shareSum ≤ 1000 → exec (.pctlWrite p v) s = .next ctl) ∧
    (1000 < ctl.shareSum → exec (.pctlWrite p v) s = .next s)

/-- R113, R117 to R119, R367: a wrap is announced near the end of the period, or forced, and every field notes the
start of the pause; at the master it completes at the end of the period, or at once when forced, when nothing is in
flight, with every lease dropped, the counter 0, WRAPN one more and the pause not counted; a cube that follows takes
a beacon's count, never backwards in a period, and goes through the wrap at the beacon of the next period, whether it
was announced or not, once nothing is in flight; a loss of beacons is reported; a field timer fires once its tick has come, never in a frozen field. -/
def ClockEvents : Prop :=
  ∀ (s : State) (count : BitVec 40) (wrapn : BitVec 8) (fi : Nat) (v : Word),
    let n := count.toNat
    let heard := { s with beaconAt := s.time, joined := true }
    let w := (s.field fi).ftcmp.toNat
    let fired := fun (s : State) (w : Nat) =>
      (s.modField fi (fun f => { f with ftcmp := w64 (w % 2 ^ 63), ftdue := false })).raiseIid (bits w 51 40)
    let set := s.modField fi (fun f => { f with ftcmp := v &&& 0x800FFFFFFFFFFFFF, ftdue := false })
    let due := bit w 63 = true ∧ ((s.field fi).ftdue = true ∨ bits w 39 0 ≤ s.sid)
    let lost := s.master = false ∧ s.blost = false ∧ s.zen.links.any (fun e => bit e.2.lctl 1) = true ∧
      s.beaconAt + 128000 ≤ s.time
    let near := s.wrap = 0 ∧ (s.master = true ∨ s.blost = false) ∧ 0xFFFFFFF000 ≤ s.sid + (if s.master then 0 else 4)
    let paused := fun (s : State) (w : Nat) => { ((s.fields.map Prod.fst ++ s.ctxs.map (fun e => fieldOf e.1)).eraseDups.foldl
      (fun s fi => s.modField fi (fun f => { f with pauseV := s.vclk fi })) s) with wrap := w }
    -- the next period is heard of: the wrap is gone through from its first step where that had not begun
    let over_ := wrapn = s.wrapn + 1 ∧ (s.wrap ≠ 0 ∨ s.joined = true)
    let hears := if s.wrap = 0 then paused heard 3 else heard
    let done := fun (s : State) (n : Nat) => { ({ s with sid := if s.wrap = 3 then s.sid else 2 ^ 40 - 1 } : State).endWrap with
      sid := n, wrapNext := none }
    let ends := s.wrapNext = none ∧ s.master = true ∧ (s.wrap = 3 ∨ (s.wrap ≠ 0 ∧ 2 ^ 40 - 1 ≤ s.sid)) ∧ s.wrapDrained = true
    (near → exec .wrapAnnounce s = .next (paused s 1)) ∧
    (¬ near → exec .wrapAnnounce s = .next s) ∧
    (s.wrap = 0 → exec .fwrap s = .next (paused s 3)) ∧
    (s.wrap ≠ 0 → exec .fwrap s = .next s) ∧
    (ends → exec .wrapComplete s = .next s.endWrap) ∧
    ((∀ e ∈ s.fields, bit (s.field e.1).ftcmp.toNat 63 = false) → (∀ e ∈ s.parts, (s.part e.1).earmed = false) →
      s.endWrap = { s with
        sid := 0, sidHold := 0, wrapn := s.wrapn + 1, wrap := 0, beaconAt := s.time
        fields := s.fields.map (fun (e : Nat × Field) => (e.1, { e.2 with l2 := e.2.l2.filter (fun l => l.2.st != .l) }))
        ctxs := s.ctxs.map (fun (e : Nat × Ctx) =>
          (e.1, (e.2.rebase s.sid).unpause (s.vclk (fieldOf e.1)) (s.field (fieldOf e.1)).pauseV)) }) ∧
    (s.wrapNext = none → ¬ ends → exec .wrapComplete s = .next s) ∧
    (∀ m, s.wrapNext = some m → s.wrapDrained = true → exec .wrapComplete s = .next (done s m)) ∧
    (∀ m, s.wrapNext = some m → s.wrapDrained = false → exec .wrapComplete s = .next { s with wrapNext := some m }) ∧
    (s.master = true → exec (.beacon count wrapn) s = .next s) ∧
    (s.master = false → wrapn = s.wrapn → s.sid ≤ n →
      exec (.beacon count wrapn) s = .next { heard with sid := n, sidHold := 0 }) ∧
    (s.master = false → wrapn = s.wrapn → n < s.sid →
      exec (.beacon count wrapn) s = .next { heard with sidHold := s.sid - n }) ∧
    (s.master = false → over_ → hears.wrapDrained = true → exec (.beacon count wrapn) s = .next (done hears n)) ∧
    (s.master = false → over_ → hears.wrapDrained = false →
      exec (.beacon count wrapn) s = .next { hears with wrapNext := some n }) ∧
    (s.master = false → wrapn ≠ s.wrapn → ¬ over_ →
      exec (.beacon count wrapn) s = .next { heard with sid := n, wrapn := wrapn, sidHold := 0 }) ∧
    (lost → exec .beaconLoss s = .next ({ s with blost := true }.raiseIid s.biid)) ∧
    (¬ lost → exec .beaconLoss s = .next s) ∧
    ((s.field fi).frozen = false → due → exec (.fieldTimerCompare fi) s = .next (fired s w)) ∧
    ((s.field fi).frozen = true ∨ ¬ due → exec (.fieldTimerCompare fi) s = .next s) ∧
    (bit v.toNat 63 = false ∨ s.sid < bits v.toNat 39 0 → exec (.ftcmpWrite fi v) s = .next set) ∧
    (bit v.toNat 63 = true → bits v.toNat 39 0 ≤ s.sid →
      exec (.ftcmpWrite fi v) s = .next (fired set (v &&& 0x800FFFFFFFFFFFFF).toNat))

/-- R350 to R352: an assertion counts down and freezes the partition's fields, and changes nothing more in a frozen
one; a release restarts them, after the freeze where that is still to come, and waits for a snapshot; an aligned
assertion waits for its tick, unless its period and tick have passed; the scan path reads zeros and takes no write
while the partition runs; a soft error is counted and, where it cannot be corrected, poisons a word of DRAM or of a
vault, and drops a clean line of a slice. -/
def EclipseEvents : Prop :=
  ∀ (s : State) (p c o : Nat) (sel : ScanSel) (v : Vec) (site : SoftSite) (l : L2Line),
    let x := s.part p
    let asserts := fun (y : Part) =>
      { y with assert := true, erel := false, ecount := if y.frozen then none else some true }
    let w := x.etick.toNat
    let tick := s.wrapn.toNat = bits w 47 40 ∧ bits w 39 0 ≤ s.sid
    let past := 0 < (s.wrapn.toNat + 256 - bits w 47 40) % 256 ∧ (s.wrapn.toNat + 256 - bits w 47 40) % 256 < 128
    let mine := (List.range 1024).filter (fun fi => (s.field fi).fpart == p)
    let clocks := fun (b : Bool) => mine.foldl (fun s fi =>
      s.modField fi (fun f => { f with vclk := s.vclk fi, vclkAt := s.counted, frozen := b
                                       switching := f.switching || (!b && f.lowersNext) })) s
    let sp := s.part (s.scanPart sel)
    let counted := fun (s : State) (fi : Nat) (b : Bool) =>
      s.modField fi (fun f => if b then { f with secor := f.secor + 1 } else { f with seunc := f.seunc + 1 })
    (x.ealign = false → exec (.eclipseAssert p) s = .next (s.modPart p asserts)) ∧
    (x.ealign = true → tick ∨ past →
      exec (.eclipseAssert p) s = .next (s.modPart p (fun y => asserts { y with ealign := true, earmed := false }))) ∧
    (x.ealign = true → ¬ (tick ∨ past) →
      exec (.eclipseAssert p) s = .next (s.modPart p (fun y => { y with assert := true, ealign := true, earmed := true }))) ∧
    (x.earmed = true → tick →
      exec (.eclipseAlignTick p) s = .next (s.modPart p (fun y => asserts { y with earmed := false }))) ∧
    (¬ (x.earmed = true ∧ tick) → exec (.eclipseAlignTick p) s = .next s) ∧
    (x.ecount = some true →
      exec (.eclipseFreeze p) s = .next ((clocks true).modPart p (fun y => { y with frozen := true, ecount := none }))) ∧
    (x.ecount = some false →
      exec (.eclipseRestart p) s = .next ((clocks false).modPart p (fun y => { y with frozen := false, ecount := none }))) ∧
    (x.ecount ≠ some true → exec (.eclipseFreeze p) s = .next s) ∧
    (x.ecount ≠ some false → exec (.eclipseRestart p) s = .next s) ∧
    (s.snapBusy p = true → exec (.eclipseRelease p) s = .next (s.modPart p (fun y => { y with erel := true }))) ∧
    (s.snapBusy p = false → x.ecount = some true →
      exec (.eclipseRelease p) s = .next (((clocks true).modPart p (fun y =>
        { y with frozen := true, ecount := none })).modPart p (fun y =>
          { y with assert := false, ecount := some false, erel := false }))) ∧
    (s.snapBusy p = false → x.frozen = false → x.ecount ≠ some true →
      exec (.eclipseRelease p) s = .next (s.modPart p (fun y => { y with assert := false, erel := false }))) ∧
    (s.snapBusy p = false → x.frozen = true → x.ecount ≠ some true →
      exec (.eclipseRelease p) s = .next (s.modPart p (fun y =>
        { y with assert := false, ecount := some false, erel := false }))) ∧
    (sp.frozen = true → exec (.scanRead sel) s = .next { s with tap := s.scan sel }) ∧
    (sp.frozen = false → exec (.scanRead sel) s = .next { s with tap := 0 }) ∧
    (sp.frozen = true → exec (.scanWrite sel v) s = .next (s.setScan sel v.toNat)) ∧
    (sp.frozen = false → exec (.scanWrite sel v) s = .next s) ∧
    (siteField site = some c → exec (.softError site true) s = .next (counted s c true)) ∧
    (exec (.softError (.dram o) false) s =
      .next { counted s (o * 128 / 2 ^ 38 % 4 * 256) false with bad := put s.bad o true }) ∧
    (exec (.softError (.vaultWord c o) false) s =
      .next { counted s (fieldOfCore c) false with bad := put s.bad (s.vaultLoc c o / 8) true }) ∧
    (look? (s.field c).l2 o = some l → l.dirty = false →
      exec (.softError (.l2clean c o) false) s = .next ((counted s c true).unhold c o))

/-- The events of the sidereal clock and of Eclipse. -/
def Obligations.Clock_and_eclipse_events : Prop := ClockEvents ∧ EclipseEvents

/-! ## Snapshots, links, the outside -/

/-- R382 to R387: a command while the engine works is rejected; one that a wrap pause holds begins after it. A snapshot
that fails a check ends with the status of R387, one that passes clears the commit record of the slot that SNSTEP
names and works through its pages; a page is read, placed as R385 says and entered in the manifest, and one that waits
for WRITTEN waits until DEDUP_TIMEOUT. A restore looks for the newest step that every shard has, writes back every page
of it and leaves the step in RSTEP; what it cannot read, find or check ends it with its status. That S is fixed as the
checks are made, and that the index entry, the locations and the commit record read SNSTEP at their time, is log 146;
that an event without its condition changes nothing is log 87. -/
def SnapshotEvents : Prop :=
  ∀ (s s1 s2 s3 s4 : State) (k p t n st c : Nat) (late : Bool) (pa : Nat) (pages rest : List Nat)
    (sh : List (Nat × Nat)) (vs : List (Option (List Nat))) (bs : List Byte),
    let q := (s.stack k).snap
    let began := fun (cmd : Nat) => s.modStack k (fun x =>
      { x with snap := { x.snap with busy := true, part := p, cmd := cmd, begun := false, waitAt := none } })
    let ends := fun (s : State) (st : Nat) => s.modStack k (fun x =>
      { x with snap := { x.snap with busy := false, status := st, begun := false, todo := [], waitAt := none } })
    let idle := q.busy = false ∧ s.wrap = 0
    let slot := (s1.stack k).snap.step.toNat % 2
    let at_ := fun (x : Nat × Nat) => if t % 2 = 0 then x.1 else x.2
    let known := vs.filterMap id
    let status := fun (c a b : Nat) => if c = 0x0D then a else b
    let tables := (s.part q.part).frozen = true ∧ s.shardTable k = .ok (sh, s1) ∧ s1.validSteps sh = (vs, s2)
    let newest := tables ∧ commonStep known = some t ∧ vs.any Option.isNone = false
    let writes := newest ∧ s2.snapRead (at_ (sh.getD q.shself (0, 0))) 64 = .ok (bs, s3) ∧
      s3.restorePages (sh.map at_) (at_ (sh.getD q.shself (0, 0))) 0 (wordAt bs 2 / 2 ^ 32) = (st, s4)
    (q.busy = true → exec (.snapshot k p) s = .next (s.modStack k (fun x => { x with snap := { x.snap with rej := true } }))) ∧
    (q.busy = true →
      exec (.snapshotRestore k p) s = .next (s.modStack k (fun x => { x with snap := { x.snap with rej := true } }))) ∧
    (q.busy = false → s.wrap ≠ 0 → exec (.snapshot k p) s = .next (began 1)) ∧
    (q.busy = false → s.wrap ≠ 0 → exec (.snapshotRestore k p) s = .next (began 2)) ∧
    (idle → (s.part p).frozen = false → (s.part p).erel = false → exec (.snapshot k p) s = .next (ends (began 1) 1)) ∧
    (idle → (s.part p).frozen = false → (s.part p).erel = false → exec (.snapshotRestore k p) s = .next (ends (began 2) 1)) ∧
    (idle → exec (.snapshot k p) s = .next ((began 1).snapBegin k)) ∧
    (idle → exec (.snapshotRestore k p) s = .next ((began 2).snapRestore k)) ∧
    -- a snapshot begins: R387's status, or its slot's commit record is cleared
    (s.snapChecks k = .error st → s.snapBegin k = s.snapEnd k st) ∧
    (s.snapChecks k = .ok (pages, s1) → s1.hubWrite ((s1.stack k).snap.base slot) 64 0 = none → s.snapBegin k = s1.snapEnd k 4) ∧
    (s.snapChecks k = .ok (pages, s1) → s1.hubWrite ((s1.stack k).snap.base slot) 64 0 = some s2 →
      s.snapBegin k = (s2.modStack k (fun x => { x with snap := { x.snap with
        begun := true, slot := slot, todo := pages, mani := [], cut := s.sid, waitAt := none } })).snapPages k false
          (pages.length + 1)) ∧
    -- its pages
    (q.todo = pa :: rest → s.snapRead pa 65536 = .ok (bs, s1) →
      s.snapPages k late (n + 1) = match s1.snapPlace k bs late with
        | .entry kind loc h s2 => (s2.modStack k (fun x => { x with snap := { x.snap with
            todo := rest, mani := (pa, kind, loc, h) :: x.snap.mani, waitAt := none } })).snapPages k false n
        | .wait => s1.modStack k (fun x => { x with snap := { x.snap with waitAt := some (x.snap.waitAt.getD s.time) } })
        | .stop st s2 => s2.snapEnd k st) ∧
    (q.todo = pa :: rest → s.snapRead pa 65536 = .error c → s.snapPages k late (n + 1) = s.snapEnd k (status c 2 5)) ∧
    (q.todo = [] → s.snapPages k late (n + 1) = s.snapCommit k) ∧
    -- a restore
    ((s.part q.part).frozen = true → s.shardTable k = .error c → s.snapRestore k = s.snapEnd k (status c 4 5)) ∧
    (tables → known ≠ [] → commonStep known = none → s.snapRestore k = s2.snapEnd k 3) ∧
    (tables → known = [] ∨ commonStep known = some t → vs.any Option.isNone = true → s.snapRestore k = s2.snapEnd k 4) ∧
    (newest → s2.snapRead (at_ (sh.getD q.shself (0, 0))) 64 = .error c → s.snapRestore k = s2.snapEnd k (status c 4 5)) ∧
    (writes → st ≠ 0 → s.snapRestore k = s4.snapEnd k st) ∧
    (writes → st = 0 →
      s.snapRestore k = (s4.modStack k (fun x => { x with snap := { x.snap with rstep := w64 t } })).snapEnd k 0) ∧
    -- DEDUP_TIMEOUT
    (q.busy = true → s.wrap = 0 → q.cmd ≠ 2 → q.begun = true → q.waitAt = some n →
      exec (.dedupTimeout k) s = .next (s.snapPages k (decide (n + 2000000 ≤ s.time)) (q.todo.length + 1))) ∧
    (q.busy = true → s.wrap = 0 → q.cmd ≠ 2 → q.begun = false → exec (.dedupTimeout k) s = .next (s.snapBegin k)) ∧
    (q.busy = true → s.wrap = 0 → q.cmd = 2 → exec (.dedupTimeout k) s = .next (s.snapRestore k)) ∧
    (q.busy = false ∨ s.wrap ≠ 0 → exec (.dedupTimeout k) s = .next s)

/-- R373 to R379: a packet that is not acknowledged within 20 µs is sent again, eight times, and then what waits for it
fails: a SENDT with status 5, an access with the physical-address fault. A packet is performed once, in issue order,
answered where it asks for an answer and acknowledged; one for another cube goes on. A flit that fails its check or
breaks the sequence asks for a replay; while one is asked for, flits sent before it began are passed over, and the
eighth replay that fails in a row makes the link retrain; a flit that came before is dropped. Training resets a link,
or sends again what is not acknowledged. A contribution is kept until every member's is there for every word; then the
window takes the folds and the completion word rises by 1. PCIe writes and reads bytes at their homes, a line or a byte
at a time. R285, R372: a reply goes to the slot that its request reserved. Log 7 (where inbound
addresses and MSIs go), 74 (layout of packets), 75 (requests that wait), 76 and 138 (replays, giving up), 77 (lines that
do not take their bytes) and 139 (the members that an epoch waits for) say what of this the model chose; that an event
without its condition changes nothing is log 87. -/
def LinkAndDeviceEvents : Prop :=
  ∀ (s s1 s2 : State) (c : BitVec 8) (n : BitVec 16) (k w : Nat) (e : E2E) (p : Packet) (l j i : Nat) (f : Vec) (up : Bool)
    (v : BitVec 32) (a x : Word) (b : Byte) (h : HomeAt) (b1 b2 b3 : Bool) (t act q : Nat) (reply : List Byte) (o : TaskOut)
    (hi : BitVec 12) (es : List Contrib),
    let un := s.zen.unacked.find? (fun e => e.cube == c.toNat && e.seq == n.toNat)
    let others := s.zen.unacked.filter (fun x => x != e)
    let modL := fun (s : State) (g : Link → Link) =>
      { s with zen := { s.zen with links := put s.zen.links k (g (look s.zen.links k {})) } }
    let s' : State := { s with free := s.free + 1 }
    -- flits
    let link := look s.zen.links k {}
    let heard := link.up = true ∧ link.training = false ∧ bit link.lctl 0 = true
    let seq := f.extractLsb' 468 12
    let ahead := fun (x : BitVec 12) => (x - link.rxSeq).toNat
    let refused := heard ∧ (flitOk f = false ∨ (ahead seq < 2 ^ 11 ∧ seq ≠ link.rxSeq))
    let mark := if flitOk f = true then seq else link.rxSeq
    let again := refused ∧ link.hiSeq = some hi ∧ ¬ (flitOk f = true ∧ ahead hi < ahead seq)
    let good := heard ∧ flitOk f = true ∧ seq = link.rxSeq
    let parts := link.part ++ [f.extractLsb' 0 448]
    let ack := f.extractLsb' 456 12
    let asks := ack = link.txAck ∧ Config.evict s.free = true
    let took := modL s' (fun l => ({ l with
      rxSeq := l.rxSeq + 1, fails := 0, hiSeq := none, txAck := ack
      part := if flitCount (parts.headD 0) ≤ parts.length then [] else parts
      replay := l.replay.drop (ack - l.txAck).toNat, wire := if asks then l.wire ++ l.replay else l.wire } : Link).pump l.queue.length)
    -- packets that are given up
    let waits := s.zen.tasksOut.find? (fun o => o.cube == c.toNat && o.seq == n.toNat)
    let dropped := { s with zen := { s.zen with unacked := others } }
    let given := un = some e ∧ e.sentAt + 40000 ≤ s.time ∧ 8 ≤ e.tries
    -- collectives
    let g := look s.zen.groups k []
    let base := (g.getD 1 0).toNat / 64 * 64
    let aux := bits (g.getD 3 0).toNat 51 3 * 8
    let ours : Contrib := { group := k, cube := c.toNat, word := w, value := v }
    let epochs := if s.zen.contribs.any (fun c => c.group == k) = true then s.zen.epochs else put s.zen.epochs k (groupMembers g)
    let kept : State := { s with zen := { s.zen with contribs := s.zen.contribs ++ [ours], epochs := epochs } }
    let member := bit (g.getD 0 0).toNat 0 = true ∧ groupOpr g ≠ 4 ∧ groupMember g c.toNat = true ∧ w < groupWords g
    let ready := epochOf kept.zen.contribs k g (look epochs k [])
    let folded := (List.range (groupWords g)).foldl (fun s w =>
      s.putWord (base + 4 * w) 4 (foldWord (groupOpr g) (es.filter (fun e => e.word == w)))) kept
    let forgets := fun (u : State) (rest : List Contrib) =>
      ({ u with zen := { u.zen with
        contribs := rest
        epochs := if rest.any (fun c => c.group == k) = true then put u.zen.epochs k (groupMembers g) else drop u.zen.epochs k } } : State)
    let counted := s1.putWord aux 8 ((l + 1) % 2 ^ 64)
    -- packets that arrive
    let mine := p.cls ≠ 3 ∧ p.kind.toNat ≤ 10 ∧ p.dcube.toNat = s.cubeid
    let seen := look s.zen.acked p.scube.toNat []
    let fresh := mine ∧ p.kind ≠ 10 ∧ seen.contains p.e2e.toNat = false
    let now := (p.e2e.toNat :: seen).take (2 ^ 15)
    let noted := fun (s : State) => { s with zen := { s.zen with
      acked := put s.zen.acked p.scube.toNat now
      rxNext := put s.zen.rxNext p.scube.toNat (nextE2e now (look s.zen.rxNext p.scube.toNat 0) now.length) } }.ackPacket p
    -- PCIe and replies
    let completes := fun (u : State) (bs : List Byte) (poisoned : Bool) =>
      ({ u with zen := { u.zen with pcieOut := u.zen.pcieOut ++ [(a, bs, poisoned)] } } : State)
    let piece := Nat.min (128 - a.toNat % 128) reply.length
    let named := bits x.toNat 31 0
    let found := (s.part k).outst.find? (fun o => o.1 == named) = some (named, t, act, q, j)
    let popped := s.modPart k (fun y => { y with outst := y.outst.filter (fun o => o.1 != named) })
    let waiting := (popped.ctx t).act = act ∧ (popped.ctx t).st ≠ .free ∧ ((popped.core (coreOf t)).msg q j).st = .reply t act 0
    let msg : MsgSlot := { sender := BitVec.ofNat 32 (popped.ctxName t), n := bits x.toNat 35 32 + 1,
                           words := (List.range (bits x.toNat 35 32 + 1)).map (fun i => look (s.part k).rplw i 0) }
    (un = some e → e.sentAt + 40000 ≤ s.time → e.tries < 8 →
      exec (.e2eTimeout c n) s = .next ({ s with zen := { s.zen with
        unacked := others ++ [{ e with tries := e.tries + 1, sentAt := s.time }] } }.forward e.packet true)) ∧
    (given → waits = none → s.sentFor (c.toNat, n.toNat) = true →
      exec (.e2eTimeout c n) s = .next { dropped with zen := { dropped.zen with lost := s.zen.lost ++ [(c.toNat, n.toNat)] } }) ∧
    (given → waits = none → s.sentFor (c.toNat, n.toNat) = false → exec (.e2eTimeout c n) s = .next dropped) ∧
    (given → waits = some o →
      exec (.e2eTimeout c n) s = .next (({ dropped with zen := { dropped.zen with
        tasksOut := s.zen.tasksOut.erase o } } : State).answerTo o.tid o.act 5)) ∧
    (un = some e → s.time < e.sentAt + 40000 → exec (.e2eTimeout c n) s = .next s) ∧
    (un = none → exec (.e2eTimeout c n) s = .next s) ∧
    (p.cls = 3 ∨ 10 < p.kind.toNat → exec (.packetReceive k p) s = .next (s.countDrop k)) ∧
    (p.cls ≠ 3 → p.kind.toNat ≤ 10 → p.dcube.toNat ≠ s.cubeid → s.route? p.dcube.toNat false = some l →
      exec (.packetReceive k p) s = .next (s.sendOn l p)) ∧
    (p.cls ≠ 3 → p.kind.toNat ≤ 10 → p.dcube.toNat ≠ s.cubeid → s.route? p.dcube.toNat false = none →
      exec (.packetReceive k p) s = .next (s.countDrop k)) ∧
    (mine → p.kind = 10 →
      exec (.packetReceive k p) s = .next { s with zen := { s.zen with
        unacked := s.zen.unacked.filter (fun e => !(e.cube == p.scube.toNat && e.seq == p.e2e.toNat)) } }) ∧
    (mine → p.kind ≠ 10 → seen.contains p.e2e.toNat = true → exec (.packetReceive k p) s = .next (s.ackPacket p)) ∧
    (fresh → s.behind p = true → exec (.packetReceive k p) s = .next s) ∧
    (fresh → s.behind p = false → p.kind = 1 → s.serveWrite p p.pa.toNat = .ok reply s1 →
      exec (.packetReceive k p) s = .next (noted s1)) ∧
    (fresh → s.behind p = false → s.serve p = .ok reply s1 → asksReply p = true →
      exec (.packetReceive k p) s = .next (noted (s1.respond p kResponse reply false))) ∧
    (fresh → s.behind p = false → s.serve p = .ok reply s1 → asksReply p = false →
      exec (.packetReceive k p) s = .next (noted s1)) ∧
    (fresh → s.behind p = false → s.serve p = .poisoned reply s1 →
      exec (.packetReceive k p) s = .next (noted (s1.respond p kResponse reply true))) ∧
    (fresh → s.behind p = false → s.serve p = .refused →
      exec (.packetReceive k p) s = .next (noted (s.respond p kResponse [0x0D#8] false))) ∧
    (fresh → s.behind p = false → s.serve p = .moved h →
      exec (.packetReceive k p) s = .next (noted (s.respond p kMoved (homeBytes h) false))) ∧
    (fresh → s.behind p = false → s.serve p = .wait → exec (.packetReceive k p) s = .next s) ∧
    (refused → link.hiSeq = none →
      exec (.flitReceive k f) s = .next (modL s (fun l => { l with replc := l.replc + 1, hiSeq := some mark }))) ∧
    (refused → link.hiSeq = some hi → flitOk f = true → ahead hi < ahead seq →
      exec (.flitReceive k f) s = .next (modL s (fun l => { l with hiSeq := some seq }))) ∧
    (again → link.fails < 7 →
      exec (.flitReceive k f) s = .next (modL s (fun l =>
        { l with replc := l.replc + 1, fails := l.fails + 1, hiSeq := some mark }))) ∧
    (again → 7 ≤ link.fails →
      exec (.flitReceive k f) s = .next (modL s (fun l => { l with fails := 0, hiSeq := none, training := true }))) ∧
    (heard → flitOk f = true → 2 ^ 11 ≤ ahead seq → exec (.flitReceive k f) s = .next s) ∧
    (¬ heard → exec (.flitReceive k f) s = .next s) ∧
    (good → parts.length < flitCount (parts.headD 0) → exec (.flitReceive k f) s = .next took) ∧
    (good → flitCount (parts.headD 0) ≤ parts.length →
      exec (.flitReceive k f) s = .next (took.packetReceive k (packetOf (parts.flatMap flitBytes)))) ∧
    (up = true → link.up = true →
      exec (.linkTraining k up c) s = .next (modL s (fun l => { l with
        nbr := c.toNat, fails := 0, hiSeq := none, training := false, idSent := s.cubeid, wire := l.wire ++ l.replay }))) ∧
    (¬ (up = true ∧ link.up = true) →
      exec (.linkTraining k up c) s = .next (modL s (fun l => { l with
        up := up, nbr := if up then c.toNat else 0, fails := 0, hiSeq := none, training := false
        idSent := if up then s.cubeid else l.idSent
        part := [], rxSeq := 0, txSeq := 0, txAck := 0, replay := [], queue := [] }))) ∧
    (member → s.home? (base + 4 * w) = some h → h.cube = s.cubeid → ready = none →
      exec (.collectiveContribution k c.toNat w v) s = .next kept) ∧
    (member → s.home? (base + 4 * w) = some h → h.cube = s.cubeid → ready = some es → es ≠ [] →
      folded.hubRead aux 8 = some (l, s1) →
      exec (.collectiveContribution k c.toNat w v) s =
        .next (forgets counted (es.foldl (fun l e => l.erase e) counted.zen.contribs))) ∧
    (member → s.home? (base + 4 * w) = some h → h.cube ≠ s.cubeid → c.toNat = s.cubeid →
      exec (.collectiveContribution k c.toNat w v) s =
        .next (s.sendPacket (s.mkPacket h.cube 2 5 (base + 4 * w) k (leBytes 4 w ++ leBytes 4 v.toNat)))) ∧
    (¬ member → exec (.collectiveContribution k c.toNat w v) s = .next s) ∧
    (exec (.pcieInboundWrite a [b]) s = .next (match Config.iommu s.free a 1 with
      | none => s'
      | some page => s'.pcieLine (inPage page a) [b])) ∧
    (exec (.pcieInboundWrite a reply) s = .next (s'.pcieLines s.free a reply reply.length)) ∧
    (reply ≠ [] → s.pcieLines i a reply (j + 1) = (match Config.iommu i a 1 with
      | none => s
      | some page => s.pcieLine (inPage page a) (reply.take piece)).pcieLines i (a + w64 piece) (reply.drop piece) j) ∧
    (s.pcieLines i a [] j = s) ∧
    (s.hubWrite w 1 b.toNat = some s1 → s.pcieLine w [b] = s1) ∧
    (s.hubWrite w 1 b.toNat = none → s.pcieLine w [b] = s) ∧
    (reply.length ≠ 4 → s.pcieLine w reply = (s.hubWrite w reply.length (leNat reply)).getD s) ∧
    (reply.length = 4 → s.pcieLine w reply = match Config.imsicAt w with
      | some i => if leNat reply = 0 ∨ 2047 < leNat reply ∨ 8 < i % 16 then s
        else s.deliverMsi (i / 16 % 16) (i % 16) (leNat reply)
      | none => (s.hubWrite w 4 (leNat reply)).getD s) ∧
    (exec (.pcieInboundRead a 1) s = .next (match Config.iommu s.free (a + BitVec.ofNat 64 0) 0 with
      | none => completes s' [0xFF#8] false
      | some page => match s'.hubRead (inPage page (a + BitVec.ofNat 64 0)) 1 with
        | some (v, s2) => completes s2 [BitVec.ofNat 8 v] false
        | none => completes s' [0#8] true)) ∧
    (s'.pcieBytes s.free a l = (reply, b1, s1) → exec (.pcieInboundRead a l) s = .next (completes s1 reply b1)) ∧
    (s.pcieBytes i a l = (reply, b1, s1) → s.pcieBytes i a (l + 1) = match Config.iommu i (a + BitVec.ofNat 64 l) 0 with
      | none => (reply ++ [0xFF#8], b1, s1)
      | some page => match s1.hubRead (inPage page (a + BitVec.ofNat 64 l)) 1 with
        | some (v, s2) => (reply ++ [BitVec.ofNat 8 v], b1, s2)
        | none => (reply ++ [0#8], true, s1)) ∧
    (exec (.pcieHotPlug k b1 b2 b3) s = .next { s with zen := { s.zen with pcie := put s.zen.pcie k (b1, b2, b3) } }) ∧
    ((s.part k).outst.find? (fun o => o.1 == named) = none →
      exec (.rplctl k x) s = .next (s.modPart k (fun y => { y with rplErr := true }))) ∧
    (found → waiting → exec (.rplctl k x) s = .next ((popped.queueMsg (coreOf t) q j msg).wakeArrival t (w64 (2 ^ 63)))) ∧
    (found → ¬ waiting → exec (.rplctl k x) s = .next (popped.modPart k (fun y => { y with rplGone := true })))

/-- The events of snapshots, links and devices. -/
def Obligations.Snapshot_link_and_device_events : Prop := SnapshotEvents ∧ LinkAndDeviceEvents

/-- R394 to R399: a reset zeroes vaults and scratch, and DRAM too unless it is warm, and starts hart 0 in the boot
ROM with its cause; a spare map that fails its check halts it. R393, R397: the rollback counter advances within its
bounds, MEAS1 is extended, a report is started, refused or signed. R295, R300, R302: a register write reaches its
register, and one that reaches none changes nothing. -/
def Obligations.Boot_and_register_events : Prop :=
  ∀ (s s1 s2 : State) (v : BitVec 8) (m : BitVec 256) (a : BitVec 52) (x : Word) (h : HomeAt) (fi p : Nat) (r : Reg) (nonce : List Byte),
    let maps := (List.range 1024).all Config.spareMapOk
    let kept := fun (keep : Bool) => (s.resetMemory keep).renumber 0
    -- a reset written during a re-stripe leaves the home map as it is (R395, log 147)
    let mapped := fun (u : State) (cause : Nat) =>
      ({ u with hmap := if s.trans.busy = true ∧ (cause = 1 ∨ cause = 2) then s.hmap else [] } : State)
    let starts := fun (keep : Bool) (cause : Nat) => mapped ((kept keep).clean { rcause := cause, rbcnt := s.boot.rbcnt }
      [(0, { running := true })] (some (.hart 0))) cause
    let halts := fun (keep : Bool) (cause : Nat) =>
      mapped ((kept keep).clean { phase := .halted, fail := 1, rcause := cause, rbcnt := s.boot.rbcnt } [] none) cause
    let signed_ := s.boot.atat.toNat
    let buffer := s.boot.ataddr.toNat
    let homed := s.home? buffer = some h ∧ h.cube = s.cubeid ∧ h.stack = 0 ∧ paSpace buffer < 0xE
    let body := s1.reportBody
    let report := body ++ leBytes 7856 (Config.slhSign deviceSeed (nonce ++ body)).toNat
    (exec .powerOnReset s = .next (if maps then starts false 0 else halts false 0)) ∧
    (exec .rstctlWarm s = .next (if maps then starts true 1 else halts true 1)) ∧
    (exec .rstctlCold s = .next (if maps then starts false 2 else halts false 2)) ∧
    (exec .resetN s = .next (if maps then starts false 4 else halts false 4)) ∧
    (exec .powerLoss s = .next (s.clean { phase := .off, rbcnt := s.boot.rbcnt } [] none)) ∧
    (exec (.rbadv v) s = .next (if s.rbCount < v.toNat ∧ v.toNat ≤ s.boot.rbidx then
      { s with boot := { s.boot with rbcnt := v.toNat } } else s)) ∧
    (s.boot.atbusy = false →
      exec (.mext m) s = .next { s with boot := { s.boot with
        meas1 := BitVec.ofNat 256 (leNat (sha256 (leBytes 32 s.boot.meas1.toNat ++ leBytes 32 m.toNat))) } }) ∧
    (s.boot.atbusy = true →
      exec (.mext m) s = .next { s with boot := { s.boot with mextQ := s.boot.mextQ ++ [m] } }) ∧
    (s.boot.atbusy = false → homed → exec .atbusy s = .next { s with boot := { s.boot with atbusy := true, atat := s.boot.ataddr } }) ∧
    (s.boot.atbusy = true ∨ s.home? buffer = none →
      exec .atbusy s = .next { s with boot := { s.boot with aterr := true } }) ∧
    (s.boot.atbusy = true → s.snapRead signed_ 32 = .ok (nonce, s1) → s1.snapWrite (signed_ + 32) report = (true, s2) →
      s2.boot.mextQ = [] →
      exec .reportSigned s = .next { s2 with boot := { s2.boot with atbusy := false, mextQ := [] } }) ∧
    (s.boot.atbusy = true → s.snapRead signed_ 32 = .ok (nonce, s1) → s1.snapWrite (signed_ + 32) report = (false, s2) →
      s2.boot.mextQ = [] →
      exec .reportSigned s = .next { s2 with boot := { s2.boot with atbusy := false, mextQ := [], aterr := true } }) ∧
    (s.boot.atbusy = true → s.snapRead signed_ 32 = .error p → s.boot.mextQ = [] →
      exec .reportSigned s = .next { s with boot := { s.boot with atbusy := false, mextQ := [], aterr := true } }) ∧
    (s.boot.atbusy = false → exec .reportSigned s = .next s) ∧
    (s.reg? a.toNat = none → exec (.registerWrite a x) s = .next s) ∧
    (s.reg? a.toNat = some r → exec (.registerWrite a x) s = .next (s.writeReg r x)) ∧
    (s.reg? a.toNat = some (.field fi 0x202) →
      exec (.registerWrite a x) s = .next (s.modField fi (fun f => { f with tvec := x }))) ∧
    (s.reg? a.toNat = some (.field fi 0x203) →
      exec (.registerWrite a x) s = .next (s.modField fi (fun f => { f with flagor := f.flagor &&& ~~~(x.setWidth 5) }))) ∧
    (s.reg? a.toNat = some (.trap fi 0x1008) → exec (.registerWrite a x) s = exec (.tqfree fi x) s) ∧
    (s.reg? a.toNat = some (.eclipse p 8) →
      exec (.registerWrite a x) s = .next (s.modPart p (fun y => { y with etick := x &&& 0x0000FFFFFFFFFFFF })))

/-! ## Capability instructions of the harts -/

/-- R368 to R370: the capability instructions load, derive, move, revoke, read, check and count capabilities, read and
write through a cursor, and hand a capability to the cube; in a mode that may not use one, or with a granule that
fails its check, they take their exception. -/
def Obligations.Capability_instructions : Prop :=
  ∀ (z : ZFields) (s s1 s2 s3 s4 : State) (t t1 t2 : Bool) (c : Cap) (a b n : Nat) (u : CapUse),
    let h := s.hartNo
    let r := s.hart h
    let x1 := r.x z.rs1
    let x2 := r.x z.rs2
    let xd := r.x z.rd
    let al := fun (x : Word) => x.toNat % 16 = 0
    let rec_ := [a % 2 ^ 64, a / 2 ^ 64, b % 2 ^ 64, b / 2 ^ 64]
    let range := al x1 ∧ x2.toNat % 16 = 0 ∧ 16 ≤ x2.toNat ∧ x2.toNat ≤ 2 ^ 20
    let sup := isMHS r.mode = true
    let next := c.withAddr (c.addr + 8)
    let illegal := ({ s with free := s.free + 1 } : State).hartTakes h { code := 2, tval := Config.freeWord s.free, addr := false }
    (isM r.mode = true → al x1 → al x2 → capAt x2 s = .ok (t, c) s1 → c.lenOk = true → c.otype ≤ 4 → c.inBounds = true →
      putCap x1 c true s1 = .ok () s2 → exec (.cgrant z) s = .next (s2.hartDone h)) ∧
    (isM r.mode = false → s.blocked = false → exec (.cgrant z) s = .next illegal) ∧
    (isMHS r.mode = false → s.blocked = false →
      exec (.crevoke z) s = .next illegal ∧ exec (.ccount z) s = .next illegal ∧ exec (.chand z) s = .next illegal) ∧
    (al xd → al x1 → al x2 → capAt x1 s = .ok (true, c) s1 → hLoad x2 16 s1 = .ok (a, t1) s2 →
      hLoad (x2 + 16) 16 s2 = .ok (b, t2) s3 → deriveOk (s3.hart s3.hartNo).mode c rec_ = true →
      putCap xd (derived c rec_) true s3 = .ok () s4 → exec (.cderive z) s = .next (s4.hartDone h)) ∧
    (al x1 → al x2 → capAt x2 s = .ok (t, c) s1 → putCap x1 c t s1 = .ok () s2 →
      exec (.cmove z) s = .next (s2.hartDone h)) ∧
    (sup → range → untagAll x1 (x2.toNat / 16) s = .ok () s1 → exec (.crevoke z) s = .next (s1.hartDone h)) ∧
    (al x1 → x2.toNat ≤ 4 → capAt x1 s = .ok (t, c) s1 →
      exec (.cread z) s = .next ((s1.hartSets z.rd (capField t c x2.toNat)).hartDone h)) ∧
    (al x1 → useOf x2.toNat = some u → capAt x1 s = .ok (t, c) s1 →
      exec (.ccheck z) s = .next ((s1.hartSets z.rd (w64 (capCheck t c u))).hartDone h)) ∧
    (al x1 → capAt x1 s = .ok (t, c) s1 → cursorOk t c c.r = true → hLoad (w64 c.addr) 8 s1 = .ok (a, t1) s2 →
      putCap x1 next t s2 = .ok () s3 →
      exec (.cldadv z) s = .next ((s3.hartSets z.rd (w64 a)).hartDone h)) ∧
    (al x1 → capAt x1 s = .ok (t, c) s1 → cursorOk t c c.w = true → hStore (w64 c.addr) 8 x2.toNat false s1 = .ok () s2 →
      putCap x1 next t s2 = .ok () s3 → exec (.cstadv z) s = .next (s3.hartDone h)) ∧
    (sup → range → countTags x1 (x2.toNat / 16) s = .ok n s1 →
      exec (.ccount z) s = .next ((s1.hartSets z.rd (w64 n)).hartDone h)) ∧
    (sup → al x1 → x2 = 0 → capAt x1 s = .ok (t, c) s1 → capCheck t c useLaunchQ = 0 →
      c.holdsExtent (32 * 2 ^ s1.sched.logn) = true →
      exec (.chand z) s = .next ({ s1 with sched := { s1.sched with lqcap := c.reg, lqtag := true } }.hartDone h)) ∧
    (sup → al x1 → 0x100 ≤ x2.toNat → x2.toNat < 0x140 → capAt x1 s = .ok (t, c) s1 → capCheck t c useServiceQ = 0 →
      c.holdsExtent (64 * 2 ^ (s1.part (x2.toNat - 0x100)).sqlogn) = true →
      exec (.chand z) s = .next ((s1.modPart (x2.toNat - 0x100) (fun x => { x with sqcap := c.reg, sqtag := true })).hartDone h)) ∧
    (x1.toNat % 16 ≠ 0 → s.blocked = false →
      exec (.ccheck z) s = .next (s.hartTakes h { code := 24, tval := x1, addr := true }))

/-! ## What holds for every thread instruction -/

/-- R141, R153: an operand code or a port that its position does not accept raises the operand fault, with
bits [95:32] of the word; else an instruction whose guard is false only counts as issued. A word whose GUARD is
0b1000 does not decode, so its thread takes the illegal-instruction trap. -/
def Obligations.Guards_and_codes : Prop :=
  (∀ (op : Op) (f : Fields) (s : State), ((op.instr f).operandsOk = false ∨ portsOk s op f = false) →
    exec (op.instr f) s = .next (s.faultsOperand op f)) ∧
  (∀ (op : Op) (f : Fields) (s : State), (op.instr f).operandsOk = true → portsOk s op f = true →
    (s.me.p (f.guard.extractLsb' 0 3).toNat != f.guard.getLsbD 3) = false →
    exec (op.instr f) s = .next (s.onMe (fun x => x.retire .seq))) ∧
  (∀ (w : BitVec 96) (rest : List Byte), w.extractLsb' 84 4 = 8#4 → decode (leBytes 12 w.toNat ++ rest) = none) ∧
  (∀ (s s1 : State) (t : Nat) (d : Line), let x := s.ctx t
    pcLegal x.pc = true → s.fetchBlock t (x.pc - (x.pc &&& 0x7F)) = .data d s1 →
    decode (leBytes 12 (slotWord d (bits x.pc.toNat 3 0)).toNat) = none →
    s.fetch t = .done (s1.takeExact t { cause := 0x01, tval := (slotWord d (bits x.pc.toNat 3 0)).extractLsb' 32 64 }))

/-- R340 to R344: entry into the handler and what happens without it. Every window lands first. At level U with a
handler, a fault, a late fault and a posted-store refusal write TCAUSE, TVAL, TSTAT and TEPC, the level becomes S
and the PC TVEC; a replayable fault takes a slot of the trap queue as well. At level S, or without a handler, a
replayable fault parks the thread and any other writes a fatal record and starts the walk. -/
def Obligations.Faults_are_delivered : Prop :=
  ∀ (s : State) (t k : Nat) (e : Exc) (p : Pend) (r : Pending),
    let x := s.ctx t
    let fi := fieldOf t
    let f := s.field fi
    let s1 := s.landThese t (fun _ => true)
    let done := x.pend.all (fun q => q.done) = true
    let exact_ := done ∧ x.pend.find? x.lateDue = none ∧ e.cause ≠ 0x0E
    let late := done ∧ p.fault = some e ∧ p.sup = false
    let rpc := x.lone.getD x.pc
    let alone := if x.lone.isSome then 2 ^ 16 else 0
    let s2 := (s.modCtx t (fun y => { y with pend := y.pend.filter (fun q => q != p) })).landThese t (fun _ => true)
    let replay := e.cause = 0x10 ∨ e.cause = 0x11
    let enter := fun (u : State) (c tval tstat tepc rpc : Word) (slot : Option Nat) =>
      (u.leaveQueues t).modCtx t (fun y => { y with
        tcause := c, tval := tval, tstat := tstat, tepc := tepc, sup := true, pc := f.tvec, resume := rpc, tslot := slot,
        lone := none, wait := .none, ticket := none, answer := none, ending := false })
    let cause := fun (l q : Nat) => w64 (e.cause + 256 * l + 512 * q + (if e.eng then 1024 else 0) + e.loge * 2048 + e.code * 65536)
    let rec_ := fun (l act : Nat) (fpc rpc hc : Word) =>
      [w64 (e.cause + 256 * l + 512 + ctxIx t * 2 ^ 12 + coreOf t * 2 ^ 16 + s.lidOf t * 2 ^ 36 + act * 2 ^ 52 + 7 * 2 ^ 54),
       fpc, rpc, e.tval, hc, w64 s.sid, 0, 0]
    let room := f.freeSlots > 4 ∧ f.freeSlot? = some k
    (exact_ → x.sup = false → f.tvec ≠ 0 → e.cause ≠ 0x14 → ¬ replay →
      s.takeExact t e = enter s1 (cause 0 0) e.tval 0 x.pc rpc none) ∧
    (late → x.sup = false → f.tvec ≠ 0 → e.cause ≠ 0x14 → ¬ replay →
      s.takeLate t p = enter s2 (cause 1 0) e.tval 0 x.pc x.pc none) ∧
    (exact_ → x.sup = false → f.tvec ≠ 0 → replay → room →
      s.takeExact t e = enter (s1.writeRecord fi k (rec_ 0 3 x.pc rpc 0)) (cause 0 1) e.tval
        (w64 (alone + 2 ^ 15 + 256 * k)) x.pc rpc (some k)) ∧
    (late → x.sup = false → f.tvec ≠ 0 → replay → room →
      s.takeLate t p = enter (s2.writeRecord fi k (rec_ 1 3 p.pc x.pc 0)) (cause 1 1) e.tval
        (w64 (2 ^ 16 + 2 ^ 15 + 256 * k)) p.pc x.pc (some k)) ∧
    (x.refusal = some r → done → x.sup = false → f.tvec ≠ 0 →
      s.takeRefusal t = enter (s1.modCtx t (fun y => { y with refusal := none })) (w64 (0x0E + r.entry * 2048)) r.addr 0 x.pc x.pc none) ∧
    (exact_ → (x.sup = true ∨ f.tvec = 0) → replay → room →
      s.takeExact t e = (s1.writeRecord fi k (rec_ 0 0 x.pc rpc (if x.sup then x.tcause else 0))).modCtx t (fun y =>
        { y with st := .parked, wait := .slot k, stallAt := none, ending := false })) ∧
    (exact_ → replay → f.freeSlots ≤ 4 →
      s.takeExact t e = (s1.modCtx t (fun y =>
        { y with st := .parked, wait := .anySlot, stallAt := none, ending := false })).modField fi (fun g =>
        { g with tqwait := g.tqwait ++ [t] })) ∧
    (exact_ → (x.sup = true ∨ f.tvec = 0 ∨ e.cause = 0x14) → ¬ replay →
      s.takeExact t e = s1.fatal t e false x.pc rpc none)

/-- R70, R142, R146, R163, R184: what an operand code reads and where it writes. `x0` reads 0 and discards; `x1` to
`x7` are shared and `xN` from 8 lies in the window; `m` codes read words of the held message; the immediates are
widened; local codes name aK, aK or aK + sext(IMM), and the increments are made from the strides at issue. -/
def Obligations.Operand_codes : Prop :=
  ∀ (x : Ctx) (t n m l : Nat) (imm : BitVec 32) (c : BitVec 8) (v : Word) (u : Nat) (s s1 : State),
    let k := c.toNat
    let cut := fun (w : Nat) => w % 2 ^ tyWidth t
    let place := fun (i : Nat) => if i < 8 then i else 64 + x.wb + i - 8
    (x.x 0 = 0 ∧ x.setX 0 v = x) ∧
    (n ≠ 0 → (x.setX n v).x n = v ∧ (x.setX n v).xs = put x.xs (place n) v) ∧
    (m ≠ n → (x.setX n v).x m = x.x m) ∧
    (k < 0x40 → rd x t imm c s = .ok (cut (x.x k).toNat) s) ∧
    (0x60 ≤ k → k ≤ 0x6F → rd x t imm c s = .ok (cut (s.msgWord s.cur (k - 0x60)).toNat) s) ∧
    (k = 0x7E → rd x t imm c s = .ok (cut (imm.toNat * 2 ^ 32)) s) ∧
    (k = 0x7F → tyInt t = true → rd x t imm c s = .ok (cut (imm.signExtend 64).toNat) s) ∧
    (k = 0x7F → t = 8 ∨ t = 9 → rd x t imm c s = .ok (imm.toNat % 2 ^ 16) s) ∧
    (k = 0x7F → t = 10 → rd x t imm c s = .ok imm.toNat s) ∧
    (0x98 ≤ k → k ≤ 0x9F → rd x t imm c s = .ok (cut (x.k (k - 0x98)).toNat) s) ∧
    (0xA0 ≤ k → k ≤ 0xA7 → rd x t imm c s = .ok (cut (x.a (k - 0xA0)).toNat) s) ∧
    (0xA8 ≤ k → k ≤ 0xAF → rd x t imm c s = .ok (cut ((x.d (k - 0xA8)).signExtend 64).toNat) s) ∧
    (0xB0 ≤ k → k ≤ 0xB7 → rd x t imm c s = .ok (if x.p (k - 0xB0) then 1 else 0) s) ∧
    (0x80 ≤ k → k ≤ 0x97 → localLoc (if k < 0x88 then x.a (k - 0x80) else if k < 0x90 then x.a (k - 0x88)
        else x.a (k - 0x90) + imm.signExtend 64) (tyWidth t / 8) false s = .ok l s1 →
      rd x t imm c s = .ok (s1.mem.val l (tyWidth t / 8)) s1) ∧
    (k = 0 → wr x t imm c u s = .ok () (s.onMe (fun y => y))) ∧
    (0 < k → k < 0x40 → wr x t imm c u s = .ok () (s.onMe (fun y => { y with xs := put y.xs (place k) (extendTy t u) }))) ∧
    (0x98 ≤ k → k ≤ 0x9F → wr x t imm c u s = .ok () (s.onMe (fun y => y.setK (k - 0x98) ((extendTy t u).truncate 32)))) ∧
    (0xA0 ≤ k → k ≤ 0xA7 → wr x t imm c u s = .ok () (s.onMe (fun y => y.setA (k - 0xA0) (extendTy t u)))) ∧
    (0xA8 ≤ k → k ≤ 0xAF → wr x t imm c u s = .ok () (s.onMe (fun y => y.setD (k - 0xA8) ((extendTy t u).truncate 32)))) ∧
    (0xB1 ≤ k → k ≤ 0xB7 → wr x t imm c u s = .ok () (s.onMe (fun y => y.setP (k - 0xB0) (extendTy t u != 0)))) ∧
    (0x80 ≤ k → k ≤ 0x97 → localLoc (x.localAddr imm c) (tyWidth t / 8) true s = .ok l s1 →
      wr x t imm c u s = .ok () (s1.writeVault (coreOf s1.cur) (l % 65536) (tyWidth t / 8) (cut u))) ∧
    (0x88 ≤ k → k ≤ 0x8F → x.bump [c] = x.setA (k - 0x88) (x.a (k - 0x88) + (x.d (k - 0x88)).signExtend 64)) ∧
    (k < 0x88 ∨ 0x8F < k → x.bump [c] = x)

/-! ## Frames -/

/-- An instruction completes and changes scalar registers only: one of them, the bases of its (aK)+ codes, FPST by the
flags raised and, beyond these, what x says; no byte of memory, no vector register, no other context and no other unit
changes. -/
def ScalarFrame (i : Instr) (s : State) (x : Ctx) (but : Slot) (bumps reads : List (BitVec 8)) (fl : Flags) : Prop :=
  ∃ u, exec i s = .next u ∧ s.scalarsOnly u x but bumps reads fl

/-- An instruction completes and changes one vector register, the bases of its (aK)+ codes and FPST by the flags
raised, and nothing else. -/
def VectorFrame (i : Instr) (s : State) (x : Ctx) (k : Nat) (bumps reads : List (BitVec 8)) (fl : Flags) : Prop :=
  ∃ u, exec i s = .next u ∧ s.vectorOnly u x k bumps reads fl

/-- What the instructions that write no memory leave unchanged. The scalar mnemonics of the tables above with a
register as destination, the register moves, the truth values, LD from a local address and CSRR change their
destination, the bases of their (aK)+ codes and FPST; a write of MOVS changes the special register that it names and no
other; a branch or a loop changes no register, a call its link register and the window base, a return the window base. -/
def Obligations.Scalar_register_frames : Prop :=
  (∀ e ∈ scalarTwo ++ scalarOne ++ scalarMixed, ∀ (f : Fields) (s s1 s2 : State) (vs : List Nat), s.admits e.op f →
    isLocal f.dst = false → isPort f.dst = false →
    rdAll s.me f.imm (e.reads f) s = .ok vs s1 →
    wr s.me (e.dstTy f) f.imm f.dst (e.val f (s.me.mode f) vs).1 (s1.bumped (e.bumps f)) = .ok () s2 →
    ScalarFrame (e.op.instr f) s s.me (s.me.slotOf f.dst) (e.bumps f) ((e.reads f).map Prod.snd)
      (e.val f (s.me.mode f) vs).2) ∧
  (∀ (f : Fields) (s s1 : State) (a b v m : Nat),
    let x := s.me
    let n := f.imm.toNat
    let F := 8 * (f.sb.toNat % 8)
    let moved := fun (w : Nat) => ({ x with wb := w } : Ctx)
    let link := if f.dst = 0 then Slot.none else .x (xPlace (x.wb + F - 8) f.dst.toNat)
    let pred := Slot.p (f.dst.toNat - 0xB0)
    (s.admits .movi f → ScalarFrame (.movi f) s x (x.slotOf f.dst) [] [] 0) ∧
    (s.admits .movh f → ScalarFrame (.movh f) s x (x.slotOf f.dst) [] [] 0) ∧
    (s.admits .movsRead f → isLocal f.dst = false → isPort f.dst = false →
      ScalarFrame (.movsRead f) s x (x.slotOf f.dst) [] [] 0) ∧
    (s.admits .movsWrite f → rdAll x 0 [(3, f.sa)] s = .ok [a] s1 → movsOk n (w64 a) = true →
      ScalarFrame (.movsWrite f) s (x.setMovs n (w64 a)) .none [f.sa] [f.sa] 0) ∧
    (m ∈ [0x000, 0x001, 0x010, 0x011, 0x012, 0x013, 0x014, 0x015, 0x020, 0x030, 0x040, 0x041, 0x042, 0x043] → m ≠ n →
      n ∈ [0x000, 0x001, 0x010, 0x011, 0x012, 0x013, 0x014, 0x015, 0x020, 0x040, 0x041, 0x042, 0x043] →
      (x.setMovs n (w64 v)).movs m = x.movs m) ∧
    (s.admits .amov f → rdAll x f.imm [(3, f.sa), (3, f.sb)] s = .ok [a, b] s1 →
      ScalarFrame (.amov f) s (x.setD (dstA f) ((w64 b).truncate 32)) (.a (dstA f)) [f.sa, f.sb] [f.sa, f.sb] 0) ∧
    (s.admits .astr f → rdAll x f.imm [(3, f.sa)] s = .ok [a] s1 →
      ScalarFrame (.astr f) s x (.d (dstA f)) [f.sa] [f.sa] 0) ∧
    (s.admits .aadv f → rdAll x f.imm [(3, f.sa)] s = .ok [a] s1 →
      ScalarFrame (.aadv f) s x (.a (dstA f)) [f.sa] [f.sa] 0) ∧
    (s.admits .cmp f → rdAll x f.imm [(f.tyN, f.sa), (f.tyN, f.sb)] s = .ok [a, b] s1 →
      ScalarFrame (.cmp f) s x (x.slotOf f.dst) [f.sa, f.sb] [f.sa, f.sb] (cmpVal f.tyN f.sub.toNat a b).2) ∧
    (s.admits .test f → rdAll x f.imm [(f.tyN, f.sa), (f.tyN, f.sb)] s = .ok [a, b] s1 →
      ScalarFrame (.test f) s x (x.slotOf f.dst) [f.sa, f.sb] [f.sa, f.sb] 0) ∧
    (s.admits .pand f → ScalarFrame (.pand f) s x pred [] [] 0) ∧
    (s.admits .por f → ScalarFrame (.por f) s x pred [] [] 0) ∧
    (s.admits .pxor f → ScalarFrame (.pxor f) s x pred [] [] 0) ∧
    (s.admits .pnot f → ScalarFrame (.pnot f) s x pred [] [] 0) ∧
    (s.admits .pmov f → rdAll x f.imm [(3, f.sa)] s = .ok [a] s1 → ScalarFrame (.pmov f) s x pred [f.sa] [f.sa] 0) ∧
    (s.admits .nop f → ScalarFrame (.nop f) s x .none [] [] 0) ∧
    (s.admits .br f → ScalarFrame (.br f) s x .none [] [] 0) ∧
    (s.admits .brx f → rdAll x f.imm [(3, f.sa)] s = .ok [a] s1 → ScalarFrame (.brx f) s x .none [] [f.sa] 0) ∧
    (s.admits .call f → x.wb + F - 8 ≤ 456 → ScalarFrame (.call f) s (moved (x.wb + F - 8)) link [] [] 0) ∧
    (s.admits .callx f → rdAll x f.imm [(3, f.sa)] s = .ok [a] s1 → x.wb + F - 8 ≤ 456 →
      ScalarFrame (.callx f) s (moved (x.wb + F - 8)) link [] [f.sa] 0) ∧
    (s.admits .ret f → rdAll x f.imm [(3, f.sa)] s = .ok [a] s1 → F - 8 ≤ x.wb →
      ScalarFrame (.ret f) s (moved (x.wb - (F - 8))) .none [] [f.sa] 0) ∧
    (s.admits .loop f → bits n 31 16 = 0 ∨ x.loops.length < 2 → ScalarFrame (.loop f) s x .none [] [] 0) ∧
    (s.admits .loopx f → rdAll x f.imm [(3, f.sa)] s = .ok [a] s1 → w64 a = 0 ∨ x.loops.length < 2 →
      ScalarFrame (.loopx f) s x .none [] [f.sa] 0) ∧
    (s.admits .ld f → f.space = 0 → localRead (x.localAddr f.imm f.sa) (tyBytes f.tyN) s = .ok v s1 →
      ScalarFrame (.ld f) s x (x.slotOf f.dst) [f.sa] [] 0) ∧
    (s.admits .csrr f → csrReads x.sup n = true → s.accessed →
      ScalarFrame (.csrr f) s x (if f.dst = 0 then Slot.none else .x (xPlace x.wb f.dst.toNat)) [] [] 0))

/-- What the vector instructions that write no memory leave unchanged: those with a vector register as destination
change that register, the bases of their (aK)+ codes and FPST; those with a scalar destination change it; a long one
changes no register before it lands; a compare and a mask instruction change their lane-enable register; a vector load
from local addresses changes its register. VCNF counts the waits of the lanes. Nothing else changes. -/
def Obligations.Vector_register_frames : Prop :=
  (∀ e ∈ vectorTwo, ∀ (f : Fields) (s s1 s2 s3 : State) (a : Nat) (b : Nat → Nat), s.admits e.op f →
    isLocal f.dst = false → isPort f.dst = false →
    rdV s.me f.imm f.sa s = .ok a s1 → rdLanes s.me f.tyN f.imm f.sb s1 = .ok b s2 →
    let n := tyWidth f.tyN
    let g := fun i => e.val f (s.me.mode f) (laneOf n a i) (b i)
    wrV s.me f.imm f.dst n (s.me.laneOn f) (fun i => (g i).1) (s2.bumped [f.sa, f.sb, f.dst]) = .ok () s3 →
    VectorFrame (e.op.instr f) s s.me (f.dst.toNat - 0x40) [f.sa, f.sb] [f.sa, f.sb]
      (laneFlags (lanesOf n) (s.me.laneOn f) g)) ∧
  (∀ e ∈ vectorOne, ∀ (f : Fields) (s s1 : State) (a : Nat), s.admits e.op f →
    isLocal f.dst = false → isPort f.dst = false → rdV s.me f.imm f.sa s = .ok a s1 →
    VectorFrame (e.op.instr f) s s.me (f.dst.toNat - 0x40) [f.sa] [f.sa]
      (laneFlags (lanesOf (tyWidth f.tyN)) (s.me.laneOn f) (fun i => e.val f (s.me.mode f) (laneOf (tyWidth f.tyN) a i) 0))) ∧
  (∀ e ∈ vectorLong, ∀ (f : Fields) (s s1 : State) (a : Nat → Nat), s.admits e.1 f →
    rdLanes s.me f.tyN f.imm f.sa s = .ok a s1 → ScalarFrame (e.1.instr f) s s.me .none [f.sa] [f.sa] 0) ∧
  (∀ (f : Fields) (s s1 s2 s3 : State) (a c v w : Nat) (b ct : Nat → Nat) (k : Blk) (vs : List (Nat × Nat)),
    let x := s.me
    let d := f.dst.toNat - 0x40
    let n := tyWidth f.tyN
    let flags := laneFlags (lanesOf n) (x.laneOn f)
    let vd := isLocal f.dst = false ∧ isPort f.dst = false
    let dot := fun i => if tyInt f.tyN then
        (idot f.tyN f.sat (laneOf 32 c i) ((List.range (32 / n)).map (fun j => (laneOf n a (32 / n * i + j), b (32 / n * i + j)))), 0)
      else fdot (fmtOf f.tyN) (x.mode f) (laneOf 32 c i) (laneOf n a (2 * i)) (b (2 * i))
        (laneOf n a (2 * i + 1)) (b (2 * i + 1))
    let tree := fun (fill : Nat) (op : Nat → Nat → Nat × Flags) => treeSum op (lanesOf n).log2
      ((List.range (lanesOf n)).map (fun i => if x.laneOn f i then laneOf n a i else fill))
    let sum := tree 0 (fun p q => intOr f.tyN f.sat (intVal f.tyN p + intVal f.tyN q) (fadd51 (fmtOf f.tyN) (x.mode f) p q))
    let scan := scanLanes f.tyN f.sat (x.mode f) none ((List.range (lanesOf n)).map (fun i => (x.laneOn f i, laneOf n a i)))
    let half := if f.imm.getLsbD 0 then lanesOf n else 0
    let lo := if f.imm.getLsbD 8 then lanesOf (2 * n) else 0
    let on := fun j => decide (lo ≤ j) && decide (j < lo + lanesOf (2 * n)) && x.laneOn f j
    let cmp := fun i => cmpVal f.tyN f.sub.toNat (laneOf n a i) (b i)
    let ea := x.e f.sa.toNat
    let eb := x.e f.sb.toNat
    let mask := fun (i : Instr) (e : BitVec 64) => ScalarFrame i s (x.setE f.dst.toNat e) .none [] [] 0
    let counted := fun (at_ : Nat → Word) => ({ x with vcnf := x.vcnf + w64 (bankWaits (n / 8)
      (((x.lanes f).map at_).filterMap (fun a => s.vaultOff? s.cur a.toNat))) } : Ctx)
    let indexed := fun i => x.baseAddr f + w64i (sextI (laneOf n (x.v (f.sb.toNat - 0x40)).toNat i) n * ((n / 8 : Nat) : Int))
    (s.admits .vfma f → vd → rdV x f.imm f.sa s = .ok a s1 → rdLanes x f.tyN f.imm f.sb s1 = .ok b s2 →
      rdLanes x f.tyN f.imm f.sc s2 = .ok ct s3 →
      VectorFrame (.vfma f) s x d [f.sa, f.sb, f.sc] [f.sa, f.sb, f.sc]
        (flags (fun i => ffma (fmtOf f.tyN) (x.mode f) (laneOf n a i) (b i) (ct i)))) ∧
    (s.admits .vdot f → vd → rdV x f.imm f.sa s = .ok a s1 → rdLanes x f.tyN f.imm f.sb s1 = .ok b s2 →
      rdV x f.imm f.sc s2 = .ok c s3 →
      VectorFrame (.vdot f) s x d [f.sa, f.sb, f.sc] [f.sa, f.sb, f.sc] (laneFlags 16 (x.laneOn f) dot)) ∧
    (s.admits .vsel f → vd → rdV x f.imm f.sa s = .ok a s1 → rdLanes x f.tyN f.imm f.sb s1 = .ok b s2 →
      VectorFrame (.vsel f) s x d [f.sa, f.sb] [f.sa, f.sb] 0) ∧
    (s.admits .vdiv f → rdV x f.imm f.sa s = .ok a s1 → rdLanes x f.tyN f.imm f.sb s1 = .ok b s2 →
      ScalarFrame (.vdiv f) s x .none [f.sa, f.sb] [f.sa, f.sb] 0) ∧
    (s.admits .vbcast f → vd → rd x f.tyN f.imm f.sa s = .ok v s1 → VectorFrame (.vbcast f) s x d [] [f.sa] 0) ∧
    (s.admits .vext f → vd → rdV x f.imm f.sa s = .ok a s1 → rd x f.tyN f.imm f.sb s1 = .ok v s2 →
      ScalarFrame (.vext f) s x (x.slotOf f.dst) [f.sa] [f.sa, f.sb] 0) ∧
    (s.admits .vins f → vd → rd x f.tyN f.imm f.sa s = .ok a s1 → rd x f.tyN f.imm f.sb s1 = .ok v s2 →
      VectorFrame (.vins f) s x d [] [f.sa, f.sb] 0) ∧
    (s.admits .vshuf f → vd → rdV x f.imm f.sa s = .ok a s1 → rdV x f.imm f.sb s1 = .ok v s2 → rdV x f.imm f.sc s2 = .ok c s3 →
      VectorFrame (.vshuf f) s x d [f.sa, f.sb, f.sc] [f.sa, f.sb, f.sc] 0) ∧
    (s.admits .vrot f → vd → rdV x f.imm f.sa s = .ok a s1 → rd x f.tyN f.imm f.sb s1 = .ok v s2 →
      VectorFrame (.vrot f) s x d [f.sa] [f.sa, f.sb] 0) ∧
    (s.admits .vreds f → vd → rdV x f.imm f.sa s = .ok a s1 → ScalarFrame (.vreds f) s x (x.slotOf f.dst) [f.sa] [f.sa] sum.2) ∧
    (s.admits .vredmMin f → vd → rdV x f.imm f.sa s = .ok a s1 →
      ScalarFrame (.vredmMin f) s x (x.slotOf f.dst) [f.sa] [f.sa] (tree (redIdentity f.tyN false) (fnMin f.tyN)).2) ∧
    (s.admits .vredmMax f → vd → rdV x f.imm f.sa s = .ok a s1 →
      ScalarFrame (.vredmMax f) s x (x.slotOf f.dst) [f.sa] [f.sa] (tree (redIdentity f.tyN true) (fnMax f.tyN)).2) ∧
    (s.admits .vscan f → vd → rdV x f.imm f.sa s = .ok a s1 → VectorFrame (.vscan f) s x d [f.sa] [f.sa] scan.2) ∧
    (s.admits .vwidn f → vd → rdV x f.imm f.sa s = .ok a s1 → VectorFrame (.vwidn f) s x d [f.sa] [f.sa]
      (flags (fun i => convert f.sb.toNat f.tyN f.sat (x.mode f) (laneOf (n / 2) a (i + half))))) ∧
    (s.admits .vnarr f → vd → rdV x f.imm f.sa s = .ok a s1 → VectorFrame (.vnarr f) s x d [f.sa] [f.sa]
      (laneFlags (lanesOf n) on (fun j => narrow1 f.sb.toNat f.tyN f.sat (x.mode f) (bits f.imm.toNat 7 0) (laneOf (2 * n) a (j - lo))))) ∧
    (s.admits .vdqt f → vd → readBlock x (x.localAddr f.imm f.sa) s = .ok (w, k) s1 → VectorFrame (.vdqt f) s x d [f.sa] []
      (flags (fun i => dequantTy w (x.mode f) f.tyN k (i + if f.imm.getLsbD 0 then 16 else 0)))) ∧
    (s.admits .vsprs f → rdV x f.imm f.sa s = .ok a s1 → VectorFrame (.vsprs f) s x d [f.sa] [f.sa] 0) ∧
    (s.admits .vxpnd f → vd → rdV x f.imm f.sa s = .ok a s1 → VectorFrame (.vxpnd f) s x d [f.sa] [f.sa] 0) ∧
    (s.admits .viota f → vd → rd x f.tyN f.imm f.sa s = .ok v s1 → VectorFrame (.viota f) s x d [] [f.sa] 0) ∧
    (s.admits .vcmp f → rdV x f.imm f.sa s = .ok a s1 → rdLanes x f.tyN f.imm f.sb s1 = .ok b s2 →
      ScalarFrame (.vcmp f) s (x.setE f.dst.toNat (laneBits (lanesOf n) (fun i => x.laneOn f i && (cmp i).1))) .none
        [f.sa, f.sb] [f.sa, f.sb] (flags (fun i => (0, (cmp i).2)))) ∧
    (s.admits .vmaskAnd f → mask (.vmaskAnd f) (ea &&& eb)) ∧
    (s.admits .vmaskOr f → mask (.vmaskOr f) (ea ||| eb)) ∧
    (s.admits .vmaskXor f → mask (.vmaskXor f) (ea ^^^ eb)) ∧
    (s.admits .vmaskAndn f → mask (.vmaskAndn f) (ea &&& ~~~eb)) ∧
    (s.admits .vmaskNot f → mask (.vmaskNot f) (~~~ea)) ∧
    (s.admits .vmaskSet f → rd x 3 f.imm f.sa s = .ok v s1 →
      ScalarFrame (.vmaskSet f) s (x.setE f.dst.toNat (w64 v)) .none [] [f.sa] 0) ∧
    (s.admits .vmaskGet f → vd → ScalarFrame (.vmaskGet f) s x (x.slotOf f.dst) [] [] 0) ∧
    (s.admits .ldv f → f.tyN ≠ 12 → f.space = 0 → localRead (x.localAddr f.imm f.sa) 64 s = .ok v s1 →
      VectorFrame (.ldv f) s x d [f.sa] [] 0) ∧
    (s.admits .ldv f → f.tyN = 12 → readBlock x (x.localAddr f.imm f.sa) s = .ok (w, k) s1 → VectorFrame (.ldv f) s x d [f.sa] [] 0) ∧
    (s.admits .vlds f → f.space = 0 → rd64 x f.imm f.sb s = .ok (w64 v) s1 →
      readLanes x f (fun i => x.baseAddr f + w64 i * w64 v) s1 = .ok vs s2 →
      VectorFrame (.vlds f) s (counted (fun i => x.baseAddr f + w64 i * w64 v)) d [f.sa] [f.sb] 0) ∧
    (s.admits .vgath f → f.space = 0 → readLanes x f indexed s = .ok vs s1 →
      VectorFrame (.vgath f) s (counted indexed) d [f.sa] [] 0))

/-- The bytes [loc, loc + n) outside which a store changes nothing, as a condition on an address. -/
def fallsIn (loc n a : Nat) : Prop := loc ≤ a ∧ a < loc + n

/-- What is stored, and nowhere else. A scalar result with a local destination, and the local form of ST, change the
bytes of their width at the place, in the core's vault of 65,536 bytes, of the address that the operand names; a vector
with a local destination and the local form of STV change the bytes of their enabled lanes, VSTS and VSCAT those at the
addresses of their enabled lanes, and a block that is written the bytes of its mantissas and its exponent byte. A store that is performed, in the aperture, in scratch or at a home, changes the
bytes that its mask selects, beyond what recalling the copies of its line did; an atomic the bytes of its width. No
other byte changes. A load performed in the aperture, in scratch or from a line that the slice holds changes nothing; a
load or an atomic that is delayed changes only its context's list of accesses, and the packets and the translation that
it needs; a copy between local places, or from a global one, that enters the engine moves nothing yet and changes DST alone. -/
def Obligations.Store_frames : Prop :=
  (∀ e ∈ scalarTwo ++ scalarOne ++ scalarMixed, ∀ (f : Fields) (s s1 s2 : State) (vs : List Nat), s.memOk → s.admits e.op f →
    isLocal f.dst = true →
    rdAll s.me f.imm (e.reads f) s = .ok vs s1 →
    wr s.me (e.dstTy f) f.imm f.dst (e.val f (s.me.mode f) vs).1 (s1.bumped (e.bumps f)) = .ok () s2 →
    ∃ u off, exec (e.op.instr f) s = .next u ∧ s.vaultOff? s.cur (s.me.localAddr f.imm f.dst).toNat = some off ∧
      s.keepsBytes u (s.vaultLoc (coreOf s.cur) (off % 65536)) (tyBytes (e.dstTy f)) ∧
      u.mem.val (s.vaultLoc (coreOf s.cur) (off % 65536)) (tyBytes (e.dstTy f)) =
        (e.val f (s.me.mode f) vs).1 % 2 ^ tyWidth (e.dstTy f) ∧
      s.storesOnly u (e.bumps f) ((e.reads f).map Prod.snd)) ∧
  (∀ (f : Fields) (s s1 s2 : State) (b : Nat), s.memOk → s.admits .st f → f.space = 0 →
    rd s.me f.tyN f.imm f.sb s = .ok b s1 →
    localWrite (s.me.localAddr f.imm f.sa) (tyBytes f.tyN) b (s1.bumped [f.sa, f.sb]) = .ok () s2 →
    ∃ u off, exec (.st f) s = .next u ∧ s.vaultOff? s.cur (s.me.localAddr f.imm f.sa).toNat = some off ∧
      s.keepsBytes u (s.vaultLoc (coreOf s.cur) (off % 65536)) (tyBytes f.tyN) ∧
      u.mem.val (s.vaultLoc (coreOf s.cur) (off % 65536)) (tyBytes f.tyN) = b % 2 ^ tyWidth f.tyN ∧
      s.storesOnly u [f.sa, f.sb] [f.sb]) ∧
  (∀ e ∈ vectorTwo, ∀ (f : Fields) (s s1 s2 s3 : State) (a : Nat) (b : Nat → Nat), s.memOk → s.admits e.op f →
    tyWidth f.tyN ≠ 0 → isLocal f.dst = true →
    rdV s.me f.imm f.sa s = .ok a s1 → rdLanes s.me f.tyN f.imm f.sb s1 = .ok b s2 →
    let n := tyWidth f.tyN
    let g := fun i => e.val f (s.me.mode f) (laneOf n a i) (b i)
    wrV s.me f.imm f.dst n (s.me.laneOn f) (fun i => (g i).1) (s2.bumped [f.sa, f.sb, f.dst]) = .ok () s3 →
    ∃ u off, exec (e.op.instr f) s = .next u ∧ s.vaultOff? s.cur (s.me.localAddr f.imm f.dst).toNat = some off ∧
      (∀ a, (∀ i ∈ s.me.lanes f, ¬ fallsIn (s.vaultLoc (coreOf s.cur) (off % 65536) + n / 8 * i) (n / 8) a) →
        u.byteAt a = s.byteAt a) ∧
      (∀ i ∈ s.me.lanes f, u.mem.val (s.vaultLoc (coreOf s.cur) (off % 65536) + n / 8 * i) (n / 8) = (g i).1 % 2 ^ n) ∧
      s.storesOnly u [f.sa, f.sb, f.dst] [f.sa, f.sb]) ∧
  (∀ (f : Fields) (s s1 s2 : State) (v l : Nat), s.memOk → s.admits .stv f → tyWidth f.tyN ≠ 0 → f.space = 0 →
    rdV s.me f.imm f.sb s = .ok v s1 → localLoc (s.me.localAddr f.imm f.sa) 64 true s1 = .ok l s2 →
    let n := tyWidth f.tyN
    ∃ u off, exec (.stv f) s = .next u ∧ s.vaultOff? s.cur (s.me.localAddr f.imm f.sa).toNat = some off ∧
      (∀ a, (∀ i ∈ s.me.lanes f, ¬ fallsIn (s.vaultLoc (coreOf s.cur) (off % 65536) + n / 8 * i) (n / 8) a) →
        u.byteAt a = s.byteAt a) ∧
      (∀ i ∈ s.me.lanes f, u.mem.val (s.vaultLoc (coreOf s.cur) (off % 65536) + n / 8 * i) (n / 8) = laneOf n v i) ∧
      s.storesOnly u [f.sa, f.sb] [f.sb]) ∧
  (∀ (f : Fields) (s s0 s1 : State) (b : Word) (ls : List (Nat × Nat)),
    let n := tyWidth f.tyN / 8
    let strided := fun i => s.me.baseAddr f + w64 i * b
    let indexed := fun i => s.me.baseAddr f + w64i (sextI (laneOf (tyWidth f.tyN) (s.me.v (f.sb.toNat - 0x40)).toNat i)
      (tyWidth f.tyN) * ((n : Nat) : Int))
    let stores := fun (i : Instr) (at_ : Nat → Word) (reads : List (BitVec 8)) => ∃ u, exec i s = .next u ∧
      (∀ e ∈ ls, e.1 ∈ s.me.lanes f ∧ ∃ off, s.vaultOff? s.cur (at_ e.1).toNat = some off ∧ e.2 = s.vaultLoc (coreOf s.cur) off) ∧
      (∀ a, (∀ e ∈ ls, ¬ fallsIn (s.vaultLoc (coreOf s.cur) (e.2 % 65536)) n a) → u.byteAt a = s.byteAt a) ∧
      s.storesOnly u [f.sa] reads
    (s.admits .vsts f → f.space = 0 → rd64 s.me f.imm f.sb s = .ok b s0 → placeLanes s.me f strided s0 = .ok ls s1 →
      stores (.vsts f) strided [f.sb]) ∧
    (s.admits .vscat f → f.space = 0 → placeLanes s.me f indexed s = .ok ls s1 → stores (.vscat f) indexed [])) ∧
  (∀ (f : Fields) (s s1 s2 s3 s4 : State) (a b no : Nat) (fmt : BitVec 8) (k : Blk),
    let place := fun (c : Nat) => (s.vaultOff? s.cur c).map (s.vaultLoc (coreOf s.cur))
    let block := fun (i : Instr) (at_ : Word) (bumps : List (BitVec 8)) => ∃ u, exec i s = .next u ∧
      (∀ c, (∀ j, j < 4 * fmtWidth fmt → place (at_.toNat + j) ≠ some c) → place (expAddr at_ no).toNat ≠ some c →
        u.byteAt c = s.byteAt c) ∧
      s.keepsOthers u ∧ s.me.keepsRegisters (u.ctx s.cur) .none bumps ∧ (u.ctx s.cur).vs = s.me.vs
    let incs := if tyWidth f.tyN = 32 then [f.sa, f.sb, f.dst] else [f.sa, f.dst]
    (s.admits .vqnt f → rdV s.me f.imm f.sa s = .ok a s1 →
      (if tyWidth f.tyN = 32 then rdV s.me f.imm f.sb else pure 0) s1 = .ok b s2 →
      blockAt s.me (s.me.localAddr f.imm f.dst) s2 = .ok (fmt, no) s3 →
      writeBlock (s.me.localAddr f.imm f.dst) fmt no k (s3.bumped incs) = .ok () s4 →
      block (.vqnt f) (s.me.localAddr f.imm f.dst) incs) ∧
    (s.admits .stv f → f.tyN = 12 → blockAt s.me (s.me.localAddr f.imm f.sa) s = .ok (fmt, no) s1 →
      writeBlock (s.me.localAddr f.imm f.sa) fmt no k (s1.bumped [f.sa]) = .ok () s2 →
      block (.stv f) (s.me.localAddr f.imm f.sa) [f.sa])) ∧
  (∀ (s u : State) (t cls pa n mask v : Nat), s.memOk → 0xE ≤ paSpace pa → s.store t cls pa n mask v = .ok () u →
    ∀ a, u.byteAt a = if pa ≤ a ∧ a < pa + n ∧ bit mask (a - pa) = true then BitVec.ofNat 8 (v / 256 ^ (a - pa))
      else s.byteAt a) ∧
  (∀ (s u : State) (h : HomeAt) (pa n mask v : Nat), (s.clearCopies h (pa / 128)).memOk → h.loc % 128 = pa % 128 →
    pa % 128 + n ≤ 128 → s.storeDirect h pa n mask v = .ok () u →
    ∀ a, u.byteAt a = if h.loc ≤ a ∧ a < h.loc + n ∧ bit mask (a - h.loc) = true then BitVec.ofNat 8 (v / 256 ^ (a - h.loc))
      else (s.clearCopies h (pa / 128)).byteAt a) ∧
  (∀ (s u : State) (t pa n v : Nat) (g : Nat → Option Nat), 0xE ≤ paSpace pa → s.rmw t pa n g = .ok v u → s.keepsBytes u pa n) ∧
  (∀ (s u : State) (h : HomeAt) (t pa n v : Nat) (g : Nat → Option Nat), paSpace pa < 0xE → s.home? pa = some h →
    (s.clearCopies h (pa / 128)).memOk → h.loc % 128 = pa % 128 → pa % 128 + n ≤ 128 → s.rmw t pa n g = .ok v u →
    (s.clearCopies h (pa / 128)).keepsBytes u h.loc n) ∧
  (∀ (s u : State) (t cls pa n v : Nat), 0xE ≤ paSpace pa → s.load t cls pa n = .ok v u → u = s) ∧
  (∀ (s u : State) (t pa n v : Nat) (l : L2Line) (h : HomeAt), paSpace pa < 0xE → s.home? pa = some h → h.cube = s.cubeid →
    s.held? (fieldOf t) (pa / 128) = some l → l.st ≠ .l → s.load t 0 pa n = .ok v u → u = s) ∧
  (∀ (s : State) (la : Nat) (w : Work), s.me.delay = true →
    let u := (s.accesses la w).retired s.cur .seq
    s.keepsMemory u ∧ s.keepsOthers u ∧ { u with ctxs := s.ctxs, zen := s.zen } = s ∧ s.me.sameButRegisters (u.ctx s.cur) ∧
    s.me.keepsRegisters (u.ctx s.cur) .none [] ∧ (u.ctx s.cur).vs = s.me.vs ∧ (u.ctx s.cur).fpst = s.me.fpst) ∧
  (∀ (s : State) (dst : BitVec 8) (kind : CopyKind) (cls : Nat) (segs : List Seg) (gsrc : Bool)
      (ents : List (List (Nat × Nat))) (srcs dsts : List (Nat × Nat)),
    let u := (s.copyIssued s.me dst kind cls segs gsrc false ents srcs dsts).retired s.cur .seq
    s.keepsMemory u ∧ s.keepsOthers u ∧ { u with ctxs := s.ctxs, cores := s.cores } = s ∧
    (∀ c, { u.core c with copies := (s.core c).copies, sb := (s.core c).sb } = s.core c) ∧
    ({ s.me with copySeq := (u.ctx s.cur).copySeq } : Ctx).sameButRegisters (u.ctx s.cur) ∧
    s.me.keepsRegisters (u.ctx s.cur) (.x (xPlace s.me.wb dst.toNat)) [] ∧ (u.ctx s.cur).vs = s.me.vs)

/-! ## Reset and steps -/

/-- R12, R22, R394: what reset leaves. Every context is FREE, memory reads zero and is in canonical form, every slot
of a directory has generation 1 and every table is empty; the counter is 0, no field has a partition or a launch,
no partition is enabled, and hart 0 alone runs, in M-mode, to start the boot ROM. -/
def Obligations.Reset_state : Prop :=
  State.reset.memOk ∧
  (∀ a, State.reset.byteAt a = 0) ∧
  (∀ t, (State.reset.ctx t).st = .free) ∧
  (∀ k slot, (State.reset.stack k).gen slot = 1 ∧ look? (State.reset.stack k).dir slot = none) ∧
  (∀ fi, (State.reset.field fi).fpart = 0 ∧ (State.reset.field fi).flid = 0 ∧ (State.reset.field fi).l2 = [] ∧
    (State.reset.field fi).tqvalid = 0 ∧ (State.reset.field fi).tasks = []) ∧
  (∀ p, bit (State.reset.part p).pctl 0 = false) ∧
  State.reset.sid = 0 ∧ State.reset.zen.cache = [] ∧
  (∀ k, bit (look State.reset.zen.links k {}).lctl 0 = false) ∧
  ((State.reset.hart 0).running = true ∧ (State.reset.hart 0).mode = .m ∧ State.reset.boot.phase = .rom ∧
    State.reset.turn = some (.hart 0)) ∧
  (∀ h, h ≠ 0 → (State.reset.hart h).running = false)

/-- Every step keeps the memory in its canonical form: addresses strictly rising, no byte listed that equals what an
unlisted location reads as. -/
def Obligations.Steps_keep_memory_canonical : Prop :=
  ∀ (s u : State), s.memOk → step s = .next u → u.memOk

/-- R17, R138, R153, R365, R368: a step whose turn it is for a thread that can issue runs the instruction that its block
holds in the slot of its PC; one for a hart the word at its pc, as a capability instruction or as RISC-V has it, unless an
interrupt is due; one for an event that event. The turn is spent. Only where an access in it is held by the copy engine
(R115, log 136) is the state before it kept. -/
def Obligations.Steps_run_what_is_decoded : Prop :=
  (∀ (s s1 : State) (t : Nat) (i : Instr) (d : Line) (rest : List Byte),
    let x := s.ctx t
    let s0 : State := { s with turn := none, cur := t }
    -- its turn after a slot of the trap queue was freed is spent as well (R344)
    let s' := if (s0.field (fieldOf t)).tqgo.contains t then
      s0.modField (fieldOf t) (fun f => { f with tqgo := f.tqgo.erase t }) else s0
    s.turn = some (.thread t) → s.stopped (coreOf t) = false → x.mayGo = true → x.toPost = [] →
    (x.refusal.isSome && !x.sup && x.lone.isNone && !x.exchanging) = false →
    x.pend.find? (fun p => x.lateDue p && dueNow x.pend p) = none →
    x.pend.filter (fun p => dueNow x.pend p && p.fault.isNone) = [] → x.openAcquire = false →
    pcLegal x.pc = true → s'.fetchBlock t (x.pc - (x.pc &&& 0x7F)) = .data d s1 →
    decode (leBytes 12 (slotWord d (bits x.pc.toNat 3 0)).toNat) = some (i, rest) →
    WellFormed i ∧ ∃ u, exec i (s1.touch t i) = .next u ∧ step s = .next (s.settle none { u with turn := none })) ∧
  (∀ (s s1 : State) (h w : Nat),
    let s' := s.setHart h { s.hart h with running := true }
    s.turn = some (.hart h) → (s.boot.phase ≠ .rom ∨ h ≠ 0) → (s'.hart h).interrupted s'.zen.mtime.toNat = none →
    hFetchWord s' = .ok w s1 →
    (∀ (i : Instr) (rest : List Byte), w % 4 = 3 → decodeHart (leBytes 4 w) = some (i, rest) →
      WellFormed i ∧ ∃ u, exec i s1 = .next u ∧ step s = .next (s.settle none { u with turn := none })) ∧
    (w % 4 ≠ 3 ∨ decodeHart (leBytes 4 w) = none →
      step s = .next (s.settle none { s1.rvStep w with turn := none }))) ∧
  (∀ (s : State) (i : Instr), s.turn = some (.event i) →
    ∃ u, exec i { s with turn := none } = .next u ∧ step s = .next (s.settle (some i) u)) ∧
  (∀ (s u : State) (i : Option Instr), u.blocked = false → s.settle i u = u)

/-- Fields that are all zero. -/
def noFields : Fields where
  guard := 0
  la := 0
  dst := 0
  sa := 0
  sb := 0
  ty := 0
  mod := 0
  hint := 0
  sub := 0
  imm := 0

/-- Words written out from R137, R147, R152 and the descriptions' SUB values, a few of each kind of instruction. -/
def sampleWords : List (Nat × Instr) :=
  [(0x0100050607_3E0000_00000000, .add { noFields with dst := 5, sa := 6, sb := 7, ty := 3, mod := 0xE0 }),
   (0x0300090000_000001_DEADBEEF, .movi { noFields with dst := 9, sub := 1, imm := 0xDEADBEEF }),
   (0x0400040506_AE8000_00000007, .fma { noFields with dst := 4, sa := 5, sb := 6, ty := 0xA, mod := 0xE8, imm := 7 }),
   (0x0600B1B2B3_000000_00000000, .pand { noFields with dst := 0xB1, sa := 0xB2, sb := 0xB3 }),
   (0x08000F0003_000002_00000005, .call { noFields with dst := 0xF, sb := 3, sub := 2, imm := 5 }),
   (0x0800000000_000005_00040004, .loop { noFields with sub := 5, imm := 0x00040004 }),
   (0x1000444445_1F0000_00000000, .vadd { noFields with dst := 0x44, sa := 0x44, sb := 0x45, ty := 1, mod := 0xF0 }),
   (0x1500434202_110002_00000004, .vnarr { noFields with dst := 0x43, sa := 0x42, sb := 2, ty := 1, mod := 0x10, sub := 2, imm := 4 }),
   (0x2032050400_A40000_00000008,
     .ld { noFields with guard := 3, la := 2, dst := 5, sa := 4, ty := 0xA, mod := 0x40, imm := 8 }),
   (0x2000000000_02400B_00000000, .fence { noFields with mod := 0x24, sub := 0x0B }),
   (0x210309040A_378008_00000010,
     .atcas { noFields with la := 3, dst := 9, sa := 4, sb := 0xA, ty := 3, mod := 0x78, sub := 8, imm := 0x10 }),
   (0x2800048299_000002_00000000, .mmaLocal { noFields with dst := 4, sa := 0x82, sb := 0x99, sub := 2 }),
   (0x2900001E09_000000_00000002, .send { noFields with sa := 0x1E, sb := 9, imm := 2 }),
   (0x2B00000000_035000_00000000, .bar { noFields with mod := 0x35 }),
   (0x2B00001E7F_000003_00000001, .wake { noFields with sa := 0x1E, sb := 0x7F, sub := 3, imm := 1 })]

/-- R137, R152, R153, R368: the sample words decode to the instructions they stand for, the worked examples of the
encoding among them, and so do two words of capability instructions. -/
def Obligations.Sample_words_decode : Prop :=
  (∀ e ∈ sampleWords, decodeTableWord 96 e.1 = some e.2) ∧
  decodeTableWord 32 0x02B5060B = some (.cderive { rd := 12, rs1 := 10, rs2 := 11 }) ∧
  decodeTableWord 32 0x06C5000B = some (.crevoke { rd := 0, rs1 := 10, rs2 := 12 })
end

