-- ==== Sys2Proof/Laws/Dispatch.lean ====
section
/-! SUPPORT. Each thread instruction is the issue of its body, one lemma per mnemonic. -/

namespace Sys2Proof.Machine

open Sys2Proof

theorem exec_br (f : Fields) (s : State) : exec (.br f) s = issue .br bodyBr f s := rfl
theorem exec_brx (f : Fields) (s : State) : exec (.brx f) s = issue .brx bodyBrx f s := rfl
theorem exec_call (f : Fields) (s : State) : exec (.call f) s = issue .call bodyCall f s := rfl
theorem exec_callx (f : Fields) (s : State) : exec (.callx f) s = issue .callx bodyCallx f s := rfl
theorem exec_ret (f : Fields) (s : State) : exec (.ret f) s = issue .ret bodyRet f s := rfl
theorem exec_loop (f : Fields) (s : State) : exec (.loop f) s = issue .loop bodyLoop f s := rfl
theorem exec_loopx (f : Fields) (s : State) : exec (.loopx f) s = issue .loopx bodyLoopx f s := rfl
theorem exec_nop (f : Fields) (s : State) : exec (.nop f) s = issue .nop bodyNop f s := rfl
theorem exec_yield (f : Fields) (s : State) : exec (.yield f) s = issue .yield bodyYield f s := rfl
theorem exec_waitl (f : Fields) (s : State) : exec (.waitl f) s = issue .waitl bodyWaitl f s := rfl
theorem exec_cpyIn (f : Fields) (s : State) : exec (.cpyIn f) s = issue .cpyIn bodyCpyIn f s := rfl
theorem exec_cpyOut (f : Fields) (s : State) : exec (.cpyOut f) s = issue .cpyOut bodyCpyOut f s := rfl
theorem exec_cpyGlobal (f : Fields) (s : State) : exec (.cpyGlobal f) s = issue .cpyGlobal bodyCpyGlobal f s := rfl
theorem exec_cpy2dIn (f : Fields) (s : State) : exec (.cpy2dIn f) s = issue .cpy2dIn bodyCpy2dIn f s := rfl
theorem exec_cpy2dOut (f : Fields) (s : State) : exec (.cpy2dOut f) s = issue .cpy2dOut bodyCpy2dOut f s := rfl
theorem exec_cpyl (f : Fields) (s : State) : exec (.cpyl f) s = issue .cpyl bodyCpyl f s := rfl
theorem exec_cwait (f : Fields) (s : State) : exec (.cwait f) s = issue .cwait bodyCwait f s := rfl
theorem exec_mldbLocal (f : Fields) (s : State) : exec (.mldbLocal f) s = issue .mldbLocal bodyMldbLocal f s := rfl
theorem exec_mldbTile (f : Fields) (s : State) : exec (.mldbTile f) s = issue .mldbTile bodyMldbTile f s := rfl
theorem exec_mmaLocal (f : Fields) (s : State) : exec (.mmaLocal f) s = issue .mmaLocal bodyMmaLocal f s := rfl
theorem exec_mmaTile (f : Fields) (s : State) : exec (.mmaTile f) s = issue .mmaTile bodyMmaTile f s := rfl
theorem exec_mclr (f : Fields) (s : State) : exec (.mclr f) s = issue .mclr bodyMclr f s := rfl
theorem exec_mdrn (f : Fields) (s : State) : exec (.mdrn f) s = issue .mdrn bodyMdrn f s := rfl
theorem exec_mhnd (f : Fields) (s : State) : exec (.mhnd f) s = issue .mhnd bodyMhnd f s := rfl
theorem exec_mwait (f : Fields) (s : State) : exec (.mwait f) s = issue .mwait bodyMwait f s := rfl
theorem exec_mcmd (f : Fields) (s : State) : exec (.mcmd f) s = issue .mcmd bodyMcmd f s := rfl
theorem exec_mstat (f : Fields) (s : State) : exec (.mstat f) s = issue .mstat bodyMstat f s := rfl
theorem exec_ld (f : Fields) (s : State) : exec (.ld f) s = issue .ld bodyLd f s := rfl
theorem exec_st (f : Fields) (s : State) : exec (.st f) s = issue .st bodySt f s := rfl
theorem exec_ldv (f : Fields) (s : State) : exec (.ldv f) s = issue .ldv bodyLdv f s := rfl
theorem exec_stv (f : Fields) (s : State) : exec (.stv f) s = issue .stv bodyStv f s := rfl
theorem exec_vlds (f : Fields) (s : State) : exec (.vlds f) s = issue .vlds bodyVlds f s := rfl
theorem exec_vsts (f : Fields) (s : State) : exec (.vsts f) s = issue .vsts bodyVsts f s := rfl
theorem exec_vgath (f : Fields) (s : State) : exec (.vgath f) s = issue .vgath bodyVgath f s := rfl
theorem exec_vscat (f : Fields) (s : State) : exec (.vscat f) s = issue .vscat bodyVscat f s := rfl
theorem exec_pref (f : Fields) (s : State) : exec (.pref f) s = issue .pref bodyPref f s := rfl
theorem exec_wbk (f : Fields) (s : State) : exec (.wbk f) s = issue .wbk bodyWbk f s := rfl
theorem exec_invl (f : Fields) (s : State) : exec (.invl f) s = issue .invl bodyInvl f s := rfl
theorem exec_fence (f : Fields) (s : State) : exec (.fence f) s = issue .fence bodyFence f s := rfl
theorem exec_atadd (f : Fields) (s : State) : exec (.atadd f) s = issue .atadd bodyAtadd f s := rfl
theorem exec_atsub (f : Fields) (s : State) : exec (.atsub f) s = issue .atsub bodyAtsub f s := rfl
theorem exec_atmin (f : Fields) (s : State) : exec (.atmin f) s = issue .atmin bodyAtmin f s := rfl
theorem exec_atmax (f : Fields) (s : State) : exec (.atmax f) s = issue .atmax bodyAtmax f s := rfl
theorem exec_atand (f : Fields) (s : State) : exec (.atand f) s = issue .atand bodyAtand f s := rfl
theorem exec_ator (f : Fields) (s : State) : exec (.ator f) s = issue .ator bodyAtor f s := rfl
theorem exec_atxor (f : Fields) (s : State) : exec (.atxor f) s = issue .atxor bodyAtxor f s := rfl
theorem exec_atswp (f : Fields) (s : State) : exec (.atswp f) s = issue .atswp bodyAtswp f s := rfl
theorem exec_atcas (f : Fields) (s : State) : exec (.atcas f) s = issue .atcas bodyAtcas f s := rfl
theorem exec_atfadd (f : Fields) (s : State) : exec (.atfadd f) s = issue .atfadd bodyAtfadd f s := rfl
theorem exec_atinc (f : Fields) (s : State) : exec (.atinc f) s = issue .atinc bodyAtinc f s := rfl
theorem exec_send (f : Fields) (s : State) : exec (.send f) s = issue .send bodySend f s := rfl
theorem exec_sendv (f : Fields) (s : State) : exec (.sendv f) s = issue .sendv bodySendv f s := rfl
theorem exec_sendt (f : Fields) (s : State) : exec (.sendt f) s = issue .sendt bodySendt f s := rfl
theorem exec_rls (f : Fields) (s : State) : exec (.rls f) s = issue .rls bodyRls f s := rfl
theorem exec_poll (f : Fields) (s : State) : exec (.poll f) s = issue .poll bodyPoll f s := rfl
theorem exec_waitq (f : Fields) (s : State) : exec (.waitq f) s = issue .waitq bodyWaitq f s := rfl
theorem exec_add (f : Fields) (s : State) : exec (.add f) s = issue .add bodyAdd f s := rfl
theorem exec_sub (f : Fields) (s : State) : exec (.sub f) s = issue .sub bodySub f s := rfl
theorem exec_mul (f : Fields) (s : State) : exec (.mul f) s = issue .mul bodyMul f s := rfl
theorem exec_mulh (f : Fields) (s : State) : exec (.mulh f) s = issue .mulh bodyMulh f s := rfl
theorem exec_div (f : Fields) (s : State) : exec (.div f) s = issue .div bodyDiv f s := rfl
theorem exec_rem (f : Fields) (s : State) : exec (.rem f) s = issue .rem bodyRem f s := rfl
theorem exec_min (f : Fields) (s : State) : exec (.min f) s = issue .min bodyMin f s := rfl
theorem exec_max (f : Fields) (s : State) : exec (.max f) s = issue .max bodyMax f s := rfl
theorem exec_and (f : Fields) (s : State) : exec (.and f) s = issue .and bodyAnd f s := rfl
theorem exec_or (f : Fields) (s : State) : exec (.or f) s = issue .or bodyOr f s := rfl
theorem exec_xor (f : Fields) (s : State) : exec (.xor f) s = issue .xor bodyXor f s := rfl
theorem exec_andn (f : Fields) (s : State) : exec (.andn f) s = issue .andn bodyAndn f s := rfl
theorem exec_orn (f : Fields) (s : State) : exec (.orn f) s = issue .orn bodyOrn f s := rfl
theorem exec_shl (f : Fields) (s : State) : exec (.shl f) s = issue .shl bodyShl f s := rfl
theorem exec_shr (f : Fields) (s : State) : exec (.shr f) s = issue .shr bodyShr f s := rfl
theorem exec_sha (f : Fields) (s : State) : exec (.sha f) s = issue .sha bodySha f s := rfl
theorem exec_rol (f : Fields) (s : State) : exec (.rol f) s = issue .rol bodyRol f s := rfl
theorem exec_neg (f : Fields) (s : State) : exec (.neg f) s = issue .neg bodyNeg f s := rfl
theorem exec_abs (f : Fields) (s : State) : exec (.abs f) s = issue .abs bodyAbs f s := rfl
theorem exec_not (f : Fields) (s : State) : exec (.not f) s = issue .not bodyNot f s := rfl
theorem exec_clz (f : Fields) (s : State) : exec (.clz f) s = issue .clz bodyClz f s := rfl
theorem exec_ctz (f : Fields) (s : State) : exec (.ctz f) s = issue .ctz bodyCtz f s := rfl
theorem exec_popc (f : Fields) (s : State) : exec (.popc f) s = issue .popc bodyPopc f s := rfl
theorem exec_brev (f : Fields) (s : State) : exec (.brev f) s = issue .brev bodyBrev f s := rfl
theorem exec_bfx (f : Fields) (s : State) : exec (.bfx f) s = issue .bfx bodyBfx f s := rfl
theorem exec_bfi (f : Fields) (s : State) : exec (.bfi f) s = issue .bfi bodyBfi f s := rfl
theorem exec_sext (f : Fields) (s : State) : exec (.sext f) s = issue .sext bodySext f s := rfl
theorem exec_zext (f : Fields) (s : State) : exec (.zext f) s = issue .zext bodyZext f s := rfl
theorem exec_mov (f : Fields) (s : State) : exec (.mov f) s = issue .mov bodyMov f s := rfl
theorem exec_movi (f : Fields) (s : State) : exec (.movi f) s = issue .movi bodyMovi f s := rfl
theorem exec_movh (f : Fields) (s : State) : exec (.movh f) s = issue .movh bodyMovh f s := rfl
theorem exec_sel (f : Fields) (s : State) : exec (.sel f) s = issue .sel bodySel f s := rfl
theorem exec_cmp (f : Fields) (s : State) : exec (.cmp f) s = issue .cmp bodyCmp f s := rfl
theorem exec_test (f : Fields) (s : State) : exec (.test f) s = issue .test bodyTest f s := rfl
theorem exec_fma (f : Fields) (s : State) : exec (.fma f) s = issue .fma bodyFma f s := rfl
theorem exec_sqrt (f : Fields) (s : State) : exec (.sqrt f) s = issue .sqrt bodySqrt f s := rfl
theorem exec_cvt (f : Fields) (s : State) : exec (.cvt f) s = issue .cvt bodyCvt f s := rfl
theorem exec_fclass (f : Fields) (s : State) : exec (.fclass f) s = issue .fclass bodyFclass f s := rfl
theorem exec_rndi (f : Fields) (s : State) : exec (.rndi f) s = issue .rndi bodyRndi f s := rfl
theorem exec_movsRead (f : Fields) (s : State) : exec (.movsRead f) s = issue .movsRead bodyMovsRead f s := rfl
theorem exec_movsWrite (f : Fields) (s : State) : exec (.movsWrite f) s = issue .movsWrite bodyMovsWrite f s := rfl
theorem exec_amov (f : Fields) (s : State) : exec (.amov f) s = issue .amov bodyAmov f s := rfl
theorem exec_astr (f : Fields) (s : State) : exec (.astr f) s = issue .astr bodyAstr f s := rfl
theorem exec_aadv (f : Fields) (s : State) : exec (.aadv f) s = issue .aadv bodyAadv f s := rfl
theorem exec_lea (f : Fields) (s : State) : exec (.lea f) s = issue .lea bodyLea f s := rfl
theorem exec_pand (f : Fields) (s : State) : exec (.pand f) s = issue .pand bodyPand f s := rfl
theorem exec_por (f : Fields) (s : State) : exec (.por f) s = issue .por bodyPor f s := rfl
theorem exec_pxor (f : Fields) (s : State) : exec (.pxor f) s = issue .pxor bodyPxor f s := rfl
theorem exec_pnot (f : Fields) (s : State) : exec (.pnot f) s = issue .pnot bodyPnot f s := rfl
theorem exec_pmov (f : Fields) (s : State) : exec (.pmov f) s = issue .pmov bodyPmov f s := rfl
theorem exec_bar (f : Fields) (s : State) : exec (.bar f) s = issue .bar bodyBar f s := rfl
theorem exec_bara (f : Fields) (s : State) : exec (.bara f) s = issue .bara bodyBara f s := rfl
theorem exec_barw (f : Fields) (s : State) : exec (.barw f) s = issue .barw bodyBarw f s := rfl
theorem exec_wake (f : Fields) (s : State) : exec (.wake f) s = issue .wake bodyWake f s := rfl
theorem exec_sleep (f : Fields) (s : State) : exec (.sleep f) s = issue .sleep bodySleep f s := rfl
theorem exec_evq (f : Fields) (s : State) : exec (.evq f) s = issue .evq bodyEvq f s := rfl
theorem exec_ratq (f : Fields) (s : State) : exec (.ratq f) s = issue .ratq bodyRatq f s := rfl
theorem exec_ratr (f : Fields) (s : State) : exec (.ratr f) s = issue .ratr bodyRatr f s := rfl
theorem exec_trap (f : Fields) (s : State) : exec (.trap f) s = issue .trap bodyTrap f s := rfl
theorem exec_sysc (f : Fields) (s : State) : exec (.sysc f) s = issue .sysc bodySysc f s := rfl
theorem exec_sret (f : Fields) (s : State) : exec (.sret f) s = issue .sret bodySret f s := rfl
theorem exec_csrr (f : Fields) (s : State) : exec (.csrr f) s = issue .csrr bodyCsrr f s := rfl
theorem exec_csrw (f : Fields) (s : State) : exec (.csrw f) s = issue .csrw bodyCsrw f s := rfl
theorem exec_csrx (f : Fields) (s : State) : exec (.csrx f) s = issue .csrx bodyCsrx f s := rfl
theorem exec_tlbiVa (f : Fields) (s : State) : exec (.tlbiVa f) s = issue .tlbiVa bodyTlbiVa f s := rfl
theorem exec_tlbiAs (f : Fields) (s : State) : exec (.tlbiAs f) s = issue .tlbiAs bodyTlbiAs f s := rfl
theorem exec_tlbiAll (f : Fields) (s : State) : exec (.tlbiAll f) s = issue .tlbiAll bodyTlbiAll f s := rfl
theorem exec_irq (f : Fields) (s : State) : exec (.irq f) s = issue .irq bodyIrq f s := rfl
theorem exec_bkpt (f : Fields) (s : State) : exec (.bkpt f) s = issue .bkpt bodyBkpt f s := rfl
theorem exec_halt (f : Fields) (s : State) : exec (.halt f) s = issue .halt bodyHalt f s := rfl
theorem exec_spawn (f : Fields) (s : State) : exec (.spawn f) s = issue .spawn bodySpawn f s := rfl
theorem exec_spawnr (f : Fields) (s : State) : exec (.spawnr f) s = issue .spawnr bodySpawnr f s := rfl
theorem exec_rnext (f : Fields) (s : State) : exec (.rnext f) s = issue .rnext bodyRnext f s := rfl
theorem exec_done (f : Fields) (s : State) : exec (.done f) s = issue .done bodyDone f s := rfl
theorem exec_lnch (f : Fields) (s : State) : exec (.lnch f) s = issue .lnch bodyLnch f s := rfl
theorem exec_wcfg (f : Fields) (s : State) : exec (.wcfg f) s = issue .wcfg bodyWcfg f s := rfl
theorem exec_wqry (f : Fields) (s : State) : exec (.wqry f) s = issue .wqry bodyWqry f s := rfl
theorem exec_tobj (f : Fields) (s : State) : exec (.tobj f) s = issue .tobj bodyTobj f s := rfl
theorem exec_tdefBox (f : Fields) (s : State) : exec (.tdefBox f) s = issue .tdefBox bodyTdefBox f s := rfl
theorem exec_tdefSpan (f : Fields) (s : State) : exec (.tdefSpan f) s = issue .tdefSpan bodyTdefSpan f s := rfl
theorem exec_tacq (f : Fields) (s : State) : exec (.tacq f) s = issue .tacq bodyTacq f s := rfl
theorem exec_ttry (f : Fields) (s : State) : exec (.ttry f) s = issue .ttry bodyTtry f s := rfl
theorem exec_trel (f : Fields) (s : State) : exec (.trel f) s = issue .trel bodyTrel f s := rfl
theorem exec_tdrop (f : Fields) (s : State) : exec (.tdrop f) s = issue .tdrop bodyTdrop f s := rfl
theorem exec_tqry (f : Fields) (s : State) : exec (.tqry f) s = issue .tqry bodyTqry f s := rfl
theorem exec_tsplt (f : Fields) (s : State) : exec (.tsplt f) s = issue .tsplt bodyTsplt f s := rfl
theorem exec_vadd (f : Fields) (s : State) : exec (.vadd f) s = issue .vadd bodyVadd f s := rfl
theorem exec_vsub (f : Fields) (s : State) : exec (.vsub f) s = issue .vsub bodyVsub f s := rfl
theorem exec_vmul (f : Fields) (s : State) : exec (.vmul f) s = issue .vmul bodyVmul f s := rfl
theorem exec_vfma (f : Fields) (s : State) : exec (.vfma f) s = issue .vfma bodyVfma f s := rfl
theorem exec_vmin (f : Fields) (s : State) : exec (.vmin f) s = issue .vmin bodyVmin f s := rfl
theorem exec_vmax (f : Fields) (s : State) : exec (.vmax f) s = issue .vmax bodyVmax f s := rfl
theorem exec_vdiv (f : Fields) (s : State) : exec (.vdiv f) s = issue .vdiv bodyVdiv f s := rfl
theorem exec_vand (f : Fields) (s : State) : exec (.vand f) s = issue .vand bodyVand f s := rfl
theorem exec_vor (f : Fields) (s : State) : exec (.vor f) s = issue .vor bodyVor f s := rfl
theorem exec_vxor (f : Fields) (s : State) : exec (.vxor f) s = issue .vxor bodyVxor f s := rfl
theorem exec_vshl (f : Fields) (s : State) : exec (.vshl f) s = issue .vshl bodyVshl f s := rfl
theorem exec_vshr (f : Fields) (s : State) : exec (.vshr f) s = issue .vshr bodyVshr f s := rfl
theorem exec_vsha (f : Fields) (s : State) : exec (.vsha f) s = issue .vsha bodyVsha f s := rfl
theorem exec_vdot (f : Fields) (s : State) : exec (.vdot f) s = issue .vdot bodyVdot f s := rfl
theorem exec_vabs (f : Fields) (s : State) : exec (.vabs f) s = issue .vabs bodyVabs f s := rfl
theorem exec_vneg (f : Fields) (s : State) : exec (.vneg f) s = issue .vneg bodyVneg f s := rfl
theorem exec_vsqrt (f : Fields) (s : State) : exec (.vsqrt f) s = issue .vsqrt bodyVsqrt f s := rfl
theorem exec_vrcp (f : Fields) (s : State) : exec (.vrcp f) s = issue .vrcp bodyVrcp f s := rfl
theorem exec_vrsq (f : Fields) (s : State) : exec (.vrsq f) s = issue .vrsq bodyVrsq f s := rfl
theorem exec_vexp2 (f : Fields) (s : State) : exec (.vexp2 f) s = issue .vexp2 bodyVexp2 f s := rfl
theorem exec_vcmp (f : Fields) (s : State) : exec (.vcmp f) s = issue .vcmp bodyVcmp f s := rfl
theorem exec_vsel (f : Fields) (s : State) : exec (.vsel f) s = issue .vsel bodyVsel f s := rfl
theorem exec_vmaskAnd (f : Fields) (s : State) : exec (.vmaskAnd f) s = issue .vmaskAnd bodyVmaskAnd f s := rfl
theorem exec_vmaskOr (f : Fields) (s : State) : exec (.vmaskOr f) s = issue .vmaskOr bodyVmaskOr f s := rfl
theorem exec_vmaskXor (f : Fields) (s : State) : exec (.vmaskXor f) s = issue .vmaskXor bodyVmaskXor f s := rfl
theorem exec_vmaskAndn (f : Fields) (s : State) : exec (.vmaskAndn f) s = issue .vmaskAndn bodyVmaskAndn f s := rfl
theorem exec_vmaskNot (f : Fields) (s : State) : exec (.vmaskNot f) s = issue .vmaskNot bodyVmaskNot f s := rfl
theorem exec_vmaskSet (f : Fields) (s : State) : exec (.vmaskSet f) s = issue .vmaskSet bodyVmaskSet f s := rfl
theorem exec_vmaskGet (f : Fields) (s : State) : exec (.vmaskGet f) s = issue .vmaskGet bodyVmaskGet f s := rfl
theorem exec_viota (f : Fields) (s : State) : exec (.viota f) s = issue .viota bodyViota f s := rfl
theorem exec_vmov (f : Fields) (s : State) : exec (.vmov f) s = issue .vmov bodyVmov f s := rfl
theorem exec_vbcast (f : Fields) (s : State) : exec (.vbcast f) s = issue .vbcast bodyVbcast f s := rfl
theorem exec_vext (f : Fields) (s : State) : exec (.vext f) s = issue .vext bodyVext f s := rfl
theorem exec_vins (f : Fields) (s : State) : exec (.vins f) s = issue .vins bodyVins f s := rfl
theorem exec_vshuf (f : Fields) (s : State) : exec (.vshuf f) s = issue .vshuf bodyVshuf f s := rfl
theorem exec_vrot (f : Fields) (s : State) : exec (.vrot f) s = issue .vrot bodyVrot f s := rfl
theorem exec_vreds (f : Fields) (s : State) : exec (.vreds f) s = issue .vreds bodyVreds f s := rfl
theorem exec_vredmMin (f : Fields) (s : State) : exec (.vredmMin f) s = issue .vredmMin bodyVredmMin f s := rfl
theorem exec_vredmMax (f : Fields) (s : State) : exec (.vredmMax f) s = issue .vredmMax bodyVredmMax f s := rfl
theorem exec_vscan (f : Fields) (s : State) : exec (.vscan f) s = issue .vscan bodyVscan f s := rfl
theorem exec_vcvt (f : Fields) (s : State) : exec (.vcvt f) s = issue .vcvt bodyVcvt f s := rfl
theorem exec_vwidn (f : Fields) (s : State) : exec (.vwidn f) s = issue .vwidn bodyVwidn f s := rfl
theorem exec_vnarr (f : Fields) (s : State) : exec (.vnarr f) s = issue .vnarr bodyVnarr f s := rfl
theorem exec_vqnt (f : Fields) (s : State) : exec (.vqnt f) s = issue .vqnt bodyVqnt f s := rfl
theorem exec_vdqt (f : Fields) (s : State) : exec (.vdqt f) s = issue .vdqt bodyVdqt f s := rfl
theorem exec_vsprs (f : Fields) (s : State) : exec (.vsprs f) s = issue .vsprs bodyVsprs f s := rfl
theorem exec_vxpnd (f : Fields) (s : State) : exec (.vxpnd f) s = issue .vxpnd bodyVxpnd f s := rfl

/-- Every thread instruction is the issue of some body. -/
theorem exec_issues (op : Op) (f : Fields) : ∃ body, ∀ s, exec (op.instr f) s = issue op body f s := by
  cases op <;> exact ⟨_, fun _ => rfl⟩

end Sys2Proof.Machine
end

