-- ==== Sys2Proof/Laws/Issue.lean ====
section
/-! SUPPORT. What the monad of the meanings does, and what the issue of an instruction can do. -/

namespace Sys2Proof.Machine

open Sys2Proof

/-! ## The fields of an instruction that re-executes alone: only LA differs (R341) -/

@[simp] theorem Ctx.aloneFields_sa (x : Ctx) (f : Fields) : (x.aloneFields f).sa = f.sa := by
  unfold Ctx.aloneFields; split <;> rfl
@[simp] theorem Ctx.aloneFields_sb (x : Ctx) (f : Fields) : (x.aloneFields f).sb = f.sb := by
  unfold Ctx.aloneFields; split <;> rfl
@[simp] theorem Ctx.aloneFields_dst (x : Ctx) (f : Fields) : (x.aloneFields f).dst = f.dst := by
  unfold Ctx.aloneFields; split <;> rfl
@[simp] theorem Ctx.aloneFields_imm (x : Ctx) (f : Fields) : (x.aloneFields f).imm = f.imm := by
  unfold Ctx.aloneFields; split <;> rfl
@[simp] theorem Ctx.aloneFields_sub (x : Ctx) (f : Fields) : (x.aloneFields f).sub = f.sub := by
  unfold Ctx.aloneFields; split <;> rfl
@[simp] theorem Ctx.aloneFields_ty (x : Ctx) (f : Fields) : (x.aloneFields f).ty = f.ty := by
  unfold Ctx.aloneFields; split <;> rfl
@[simp] theorem Ctx.aloneFields_mod (x : Ctx) (f : Fields) : (x.aloneFields f).mod = f.mod := by
  unfold Ctx.aloneFields; split <;> rfl
@[simp] theorem Ctx.aloneFields_tyN (x : Ctx) (f : Fields) : (x.aloneFields f).tyN = f.tyN := by
  simp [Fields.tyN]
@[simp] theorem Ctx.aloneFields_sc (x : Ctx) (f : Fields) : (x.aloneFields f).sc = f.sc := by
  simp [Fields.sc]
@[simp] theorem Ctx.aloneFields_sat (x : Ctx) (f : Fields) : (x.aloneFields f).sat = f.sat := by
  simp [Fields.sat]
@[simp] theorem Ctx.aloneFields_rnd (x : Ctx) (f : Fields) : (x.aloneFields f).rnd = f.rnd := by
  unfold Fields.rnd; rw [Ctx.aloneFields_mod]
@[simp] theorem Ctx.aloneFields_csrc (x : Ctx) (f : Fields) : (x.aloneFields f).csrc = f.csrc := by
  unfold Fields.csrc; rw [Ctx.aloneFields_mod]
@[simp] theorem Ctx.aloneFields_mask (x : Ctx) (f : Fields) : (x.aloneFields f).mask = f.mask := by
  unfold Fields.mask; rw [Ctx.aloneFields_mod]
@[simp] theorem Ctx.aloneFields_space (x : Ctx) (f : Fields) : (x.aloneFields f).space = f.space := by
  unfold Fields.space; rw [Ctx.aloneFields_mod]
@[simp] theorem Ctx.aloneFields_clsM (x : Ctx) (f : Fields) : (x.aloneFields f).clsM = f.clsM := by
  unfold Fields.clsM; rw [Ctx.aloneFields_mod]
@[simp] theorem Ctx.aloneFields_clsT (x : Ctx) (f : Fields) : (x.aloneFields f).clsT = f.clsT := by
  unfold Fields.clsT; rw [Ctx.aloneFields_mod]
@[simp] theorem Ctx.aloneFields_ord (x : Ctx) (f : Fields) : (x.aloneFields f).ord = f.ord := by
  unfold Fields.ord; rw [Ctx.aloneFields_mod]
@[simp] theorem Ctx.aloneFields_scope (x : Ctx) (f : Fields) : (x.aloneFields f).scope = f.scope := by
  unfold Fields.scope; rw [Ctx.aloneFields_mod]
@[simp] theorem Ctx.aloneFields_xbits (x : Ctx) (f : Fields) : (x.aloneFields f).xbits = f.xbits := by
  unfold Fields.xbits; rw [Ctx.aloneFields_mod]
@[simp] theorem Ctx.mode_aloneFields (x y : Ctx) (f : Fields) : y.mode (x.aloneFields f) = y.mode f := by
  unfold Ctx.mode; rw [Ctx.aloneFields_rnd]
@[simp] theorem Ctx.laneOn_aloneFields (x y : Ctx) (f : Fields) : y.laneOn (x.aloneFields f) = y.laneOn f := by
  funext i; unfold Ctx.laneOn; rw [Ctx.aloneFields_mask]
@[simp] theorem Ctx.globalAddr_aloneFields (x y : Ctx) (f : Fields) : y.globalAddr (x.aloneFields f) = y.globalAddr f := by
  unfold Ctx.globalAddr; simp

@[simp] theorem dstA_aloneFields (x : Ctx) (f : Fields) : dstA (x.aloneFields f) = dstA f := by
  unfold dstA; rw [Ctx.aloneFields_dst]
@[simp] theorem frameSize_aloneFields (x : Ctx) (f : Fields) : frameSize (x.aloneFields f) = frameSize f := by
  unfold frameSize; rw [Ctx.aloneFields_sb]
@[simp] theorem Ctx.lanes_aloneFields (x y : Ctx) (f : Fields) : y.lanes (x.aloneFields f) = y.lanes f := by
  unfold Ctx.lanes; simp
@[simp] theorem Ctx.baseAddr_aloneFields (x y : Ctx) (f : Fields) : y.baseAddr (x.aloneFields f) = y.baseAddr f := by
  unfold Ctx.baseAddr; simp

/-! ## Running the monad -/

theorem M.run_pure {α : Type} (a : α) (s : State) : (pure a : M α) s = .ok a s := rfl
theorem M.run_bind {α β : Type} (m : M α) (k : α → M β) (s : State) :
    (m >>= k) s = (match m s with | .ok a t => k a t | .error e t => .error e t) := by
  simp only [bind, EStateM.bind]; cases m s <;> rfl
/-- A computation that has completed is followed by the rest. -/
theorem M.run_bind_ok {α β : Type} {m : M α} {k : α → M β} {s t : State} {a : α} (h : m s = .ok a t) :
    (m >>= k) s = k a t := by rw [M.run_bind, h]
theorem M.run_map {α β : Type} (g : α → β) (m : M α) (s : State) :
    (g <$> m) s = (match m s with | .ok a t => .ok (g a) t | .error e t => .error e t) := by
  simp only [Functor.map, EStateM.map]; cases m s <;> rfl
theorem M.run_throw {α : Type} (e : Stop) (s : State) : (throw e : M α) s = .error e s := rfl
theorem M.run_get (s : State) : (get : M State) s = .ok s s := rfl
theorem M.run_set (t s : State) : (set t : M Unit) s = .ok ⟨⟩ t := rfl
theorem M.run_getCtx (s : State) : getCtx s = .ok s.me s := rfl
theorem M.run_modCtx (g : Ctx → Ctx) (s : State) : modCtx g s = .ok () (s.onMe g) := rfl
theorem M.run_getCore (s : State) : getCore s = .ok (s.core (coreOf s.cur)) s := rfl
theorem M.run_modCore (g : Core → Core) (s : State) : modCore g s = .ok () (s.modCore (coreOf s.cur) g) := rfl
theorem M.run_getField (s : State) : getField s = .ok (s.field (fieldOf s.cur)) s := rfl
theorem M.run_modField (g : Field → Field) (s : State) :
    modField g s = .ok () (s.modField (fieldOf s.cur) g) := rfl
theorem M.run_act (g : State → State) (s : State) : act g s = .ok () (g s) := rfl
theorem M.run_ask {α : Type} (g : State → α) (s : State) : ask g s = .ok (g s) s := rfl
theorem M.run_freeNat (s : State) : freeNat s = .ok s.tick.1 s.tick.2 := rfl
theorem M.run_bump (cs : List (BitVec 8)) (s : State) : bump cs s = .ok () (s.bumped cs) := rfl
theorem M.run_raiseFlags (fl : Flags) (s : State) : raiseFlags fl s = .ok () (s.raiseFlags s.cur fl) := rfl
theorem M.run_raise {α : Type} (c : Nat) (v : Word) (s : State) :
    (raise c v : M α) s = .error (.exc { cause := c, tval := v }) s := rfl
theorem M.run_need (b : Bool) (c : Nat) (v : Word) (s : State) :
    need b c v s = if b then .ok () s else .error (.exc { cause := c, tval := v }) s := by
  unfold need; cases b <;> rfl
theorem M.run_needOp (b : Bool) (s : State) :
    needOp b s = if b then .ok () s else .error (.exc { cause := cOperand, tval := 0 }) s := M.run_need ..
theorem M.run_waitFor (b : Bool) (s : State) : waitFor b s = if b then .ok () s else .error .stall s := by
  unfold waitFor; cases b <;> rfl
theorem M.run_pushPend (f : Fields) (r : Result) (fl : Flags) (s : State) :
    pushPend f r fl s = .ok () (s.awaits f.la.toNat r fl) := rfl

/-- A computation that only reads and changes the state is followed by the rest. -/
theorem M.run_lam {α β : Type} (g : State → α) (h : State → State) (k : α → M β) (s : State) :
    (((fun s => EStateM.Result.ok (g s) (h s)) : M α) >>= k) s = k (g s) (h s) := rfl

/-- Reading one operand after others. -/
theorem rdAll_cons {x : Ctx} {imm : BitVec 32} {t : Nat} {c : BitVec 8} {l : List (Nat × BitVec 8)} {s s2 : State}
    {vs : List Nat} (h : rdAll x imm ((t, c) :: l) s = .ok vs s2) :
    ∃ v s1 ws, rd x t imm c s = .ok v s1 ∧ rdAll x imm l s1 = .ok ws s2 ∧ vs = v :: ws := by
  unfold rdAll at h
  rw [M.run_bind] at h
  cases hr : rd x t imm c s with
  | ok v s1 =>
    rw [hr] at h
    simp only [M.run_bind] at h
    cases hq : rdAll x imm l s1 with
    | ok ws s3 =>
      rw [hq] at h
      simp only [M.run_pure] at h
      cases h
      exact ⟨v, s1, ws, rfl, hq, rfl⟩
    | error e s3 => rw [hq] at h; cases h
  | error e s1 => rw [hr] at h; cases h

theorem rdAll_nil {x : Ctx} {imm : BitVec 32} {s s2 : State} {vs : List Nat} (h : rdAll x imm [] s = .ok vs s2) :
    vs = [] ∧ s2 = s := by
  unfold rdAll at h; cases h; exact ⟨rfl, rfl⟩

/-! ## What the issue of an instruction can do (R153) -/

/-- Its checks pass and its body completes: the instruction retires. -/
theorem issue_completes {op : Op} {body : Fields → M Ctl} {f : Fields} {s t : State} {ctl : Ctl}
    (h : s.admits op f) (hb : body (s.me.aloneFields f) s = .ok ctl t) :
    issue op body f s = .next (t.retired s.cur ctl) := by
  obtain ⟨h1, h2, h3⟩ := h
  simp only [State.me] at h3 hb
  simp [issue, State.issue, h1, h2, h3, hb, State.retired]

/-- The same, for a state given in another form. -/
theorem issue_completes' {op : Op} {body : Fields → M Ctl} {f : Fields} {s t u : State} {ctl : Ctl}
    (h : s.admits op f) (hb : body (s.me.aloneFields f) s = .ok ctl t) (hu : t.retired s.cur ctl = u) :
    issue op body f s = .next u := by rw [issue_completes h hb, hu]

/-- Its body finds an exact fault: the fault is taken. -/
theorem issue_faults {op : Op} {body : Fields → M Ctl} {f : Fields} {s t : State} {e : Exc}
    (h : s.admits op f) (hb : body (s.me.aloneFields f) s = .error (.exc e) t) :
    issue op body f s = .next (s.takeExact s.cur (fillTval op f e)) := by
  obtain ⟨h1, h2, h3⟩ := h
  simp only [State.me] at h3 hb
  simp [issue, State.issue, h1, h2, h3, hb]

/-- Its body stalls: nothing changes. -/
theorem issue_stalls {op : Op} {body : Fields → M Ctl} {f : Fields} {s t : State}
    (h : s.admits op f) (hb : body (s.me.aloneFields f) s = .error .stall t) :
    issue op body f s = .next s := by
  obtain ⟨h1, h2, h3⟩ := h
  simp only [State.me] at h3 hb
  simp [issue, State.issue, h1, h2, h3, hb]

/-- Its body waits and keeps what was done. -/
theorem issue_waits {op : Op} {body : Fields → M Ctl} {f : Fields} {s t : State}
    (h : s.admits op f) (hb : body (s.me.aloneFields f) s = .error .stallKeep t) :
    issue op body f s = .next t := by
  obtain ⟨h1, h2, h3⟩ := h
  simp only [State.me] at h3 hb
  simp [issue, State.issue, h1, h2, h3, hb]

/-- An operand code that a position does not accept, or a port without a neighbour. -/
theorem issue_refuses_codes {op : Op} {body : Fields → M Ctl} {f : Fields} {s : State}
    (h : (op.instr f).operandsOk = false ∨ portsOk s op f = false) :
    issue op body f s = .next (s.takeExact s.cur { cause := cOperand, tval := faultValue op f }) := by
  rcases h with h | h <;> simp [issue, State.issue, h]

/-- A guard that does not hold: the instruction retires without effect. -/
theorem issue_skips {op : Op} {body : Fields → M Ctl} {f : Fields} {s : State}
    (h1 : (op.instr f).operandsOk = true) (h2 : portsOk s op f = true) (h3 : s.me.guard f = false) :
    issue op body f s = .next (s.retired s.cur .seq) := by
  simp only [State.me] at h3
  simp [issue, State.issue, h1, h2, h3, State.retired]

/-! ## Waits and shared effects -/

theorem M.run_pushWork (f : Fields) (w : Work) (s : State) :
    pushWork f w s = .ok () (s.accesses f.la.toNat w) := rfl

/-- What a release waits for is over: it goes on. -/
theorem releaseOrder_ok {s : State} (h : s.released) : releaseOrder s = .ok () s := by
  obtain ⟨h1, h2⟩ := h
  simp only [releaseOrder, M.run_bind, M.run_ask, M.run_getCtx, M.run_waitFor, h1, h2, if_true, Bool.not_false]

/-- What an access to a control register waits for is over: it goes on. -/
theorem accessesDone_ok {s : State} (h : s.accessed) : accessesDone s = .ok () s := by
  obtain ⟨h1, h2, h3⟩ := h
  simp only [accessesDone, M.run_bind, M.run_ask, M.run_getCtx, M.run_getCore, M.run_waitFor, releaseOrder_ok h1, h2, h3,
    if_true, Bool.not_false]

/-- The same for a release that raises a refusal: none is there, or it is held back in a handler. -/
theorem releaseWaits_ok {s : State} (h : s.released) (hr : s.meetsNoRefusal) : releaseWaits s = .ok () s := by
  obtain ⟨h1, h2⟩ := h
  by_cases hl : s.me.lone.isSome = true
  · simp only [releaseWaits, M.run_bind, M.run_getCtx, hl, if_true]; rfl
  simp only [releaseWaits, M.run_bind, M.run_ask, M.run_getCtx, M.run_waitFor, h1, if_true, hl, if_false, Bool.false_eq_true]
  cases hx : s.me.refusal with
  | none => simp only [M.run_bind, M.run_ask, M.run_waitFor, h2, if_true, Bool.not_false]
  | some r =>
    have hs : s.me.sup = true := hr.resolve_left (by simp [hx])
    simp only [hs, M.run_bind, M.run_ask, M.run_waitFor, h2, if_true, Bool.not_false]

/-- No earlier access of the thread is open: the access goes on. -/
theorem inOrder_ok {s : State} {els : List Elem} (h : s.ordered els) : inOrder els s = .ok () s := by
  obtain ⟨h1, h2⟩ := h
  simp only [inOrder, M.run_bind, M.run_ask, M.run_getCtx, M.run_waitFor, h1, h2, if_true, Bool.not_false]

/-- The array queue has room: the operation enters. -/
theorem pushArray_ok {s : State} (op : ArrOp) (h : s.me.arrQ.length < 8) :
    pushArray op s = .ok s.me.arrSeq (s.arrayQueued op) := by
  simp only [pushArray, M.run_bind, M.run_ask, M.run_getCtx, M.run_waitFor, h, decide_true, if_true, M.run_modCtx, M.run_pure]
  rfl

/-- The scoreboard has room: the copy enters. -/
theorem pushCopy_ok {s : State} {x : Ctx} {f : Fields} {kind : CopyKind} {cls : Nat} {segs : List Seg} {a b : Bool}
    {ents : List (List (Nat × Nat))} {src dst : List (Nat × Nat)} (h : s.sbRoom ents.length) :
    pushCopy x f kind cls segs a b ents src dst s = .ok () (s.copyIssued x f.dst kind cls segs a b ents src dst) := by
  unfold State.sbRoom at h
  simp only [pushCopy, M.run_bind, M.run_ask, M.run_getCore, M.run_waitFor, h, decide_true, if_true, M.run_act]
  rfl

end Sys2Proof.Machine
end

