-- ==== Sys2Proof/Laws/State.lean ====
section
/-! SUPPORT. What each update of the state does to each of its fields. -/

namespace Sys2Proof.Machine

open Sys2Proof

/-! ## setCtx -/

@[simp] theorem State.setCtx_cur (s : State) (t : Nat) (c : Ctx) : (s.setCtx t c).cur = s.cur := rfl
@[simp] theorem State.setCtx_turn (s : State) (t : Nat) (c : Ctx) : (s.setCtx t c).turn = s.turn := rfl
@[simp] theorem State.setCtx_agenda (s : State) (t : Nat) (c : Ctx) : (s.setCtx t c).agenda = s.agenda := rfl
@[simp] theorem State.setCtx_free (s : State) (t : Nat) (c : Ctx) : (s.setCtx t c).free = s.free := rfl
@[simp] theorem State.setCtx_time (s : State) (t : Nat) (c : Ctx) : (s.setCtx t c).time = s.time := rfl
@[simp] theorem State.setCtx_held (s : State) (t : Nat) (c : Ctx) : (s.setCtx t c).held = s.held := rfl
@[simp] theorem State.setCtx_mem (s : State) (t : Nat) (c : Ctx) : (s.setCtx t c).mem = s.mem := rfl
@[simp] theorem State.setCtx_syn (s : State) (t : Nat) (c : Ctx) : (s.setCtx t c).syn = s.syn := rfl
@[simp] theorem State.setCtx_bad (s : State) (t : Nat) (c : Ctx) : (s.setCtx t c).bad = s.bad := rfl
@[simp] theorem State.setCtx_tags (s : State) (t : Nat) (c : Ctx) : (s.setCtx t c).tags = s.tags := rfl
@[simp] theorem State.setCtx_ctxs (s : State) (t : Nat) (c : Ctx) : (s.setCtx t c).ctxs = put s.ctxs t c := rfl
@[simp] theorem State.setCtx_cores (s : State) (t : Nat) (c : Ctx) : (s.setCtx t c).cores = s.cores := rfl
@[simp] theorem State.setCtx_fields (s : State) (t : Nat) (c : Ctx) : (s.setCtx t c).fields = s.fields := rfl
@[simp] theorem State.setCtx_stks (s : State) (t : Nat) (c : Ctx) : (s.setCtx t c).stks = s.stks := rfl
@[simp] theorem State.setCtx_parts (s : State) (t : Nat) (c : Ctx) : (s.setCtx t c).parts = s.parts := rfl
@[simp] theorem State.setCtx_hmap (s : State) (t : Nat) (c : Ctx) : (s.setCtx t c).hmap = s.hmap := rfl
@[simp] theorem State.setCtx_cubeid (s : State) (t : Nat) (c : Ctx) : (s.setCtx t c).cubeid = s.cubeid := rfl
@[simp] theorem State.setCtx_sid (s : State) (t : Nat) (c : Ctx) : (s.setCtx t c).sid = s.sid := rfl
@[simp] theorem State.setCtx_wrapn (s : State) (t : Nat) (c : Ctx) : (s.setCtx t c).wrapn = s.wrapn := rfl
@[simp] theorem State.setCtx_lease (s : State) (t : Nat) (c : Ctx) : (s.setCtx t c).lease = s.lease := rfl
@[simp] theorem State.setCtx_master (s : State) (t : Nat) (c : Ctx) : (s.setCtx t c).master = s.master := rfl
@[simp] theorem State.setCtx_blost (s : State) (t : Nat) (c : Ctx) : (s.setCtx t c).blost = s.blost := rfl
@[simp] theorem State.setCtx_biid (s : State) (t : Nat) (c : Ctx) : (s.setCtx t c).biid = s.biid := rfl
@[simp] theorem State.setCtx_sidHold (s : State) (t : Nat) (c : Ctx) : (s.setCtx t c).sidHold = s.sidHold := rfl
@[simp] theorem State.setCtx_beaconAt (s : State) (t : Nat) (c : Ctx) : (s.setCtx t c).beaconAt = s.beaconAt := rfl
@[simp] theorem State.setCtx_tap (s : State) (t : Nat) (c : Ctx) : (s.setCtx t c).tap = s.tap := rfl
@[simp] theorem State.setCtx_wrap (s : State) (t : Nat) (c : Ctx) : (s.setCtx t c).wrap = s.wrap := rfl
@[simp] theorem State.setCtx_sched (s : State) (t : Nat) (c : Ctx) : (s.setCtx t c).sched = s.sched := rfl
@[simp] theorem State.setCtx_trans (s : State) (t : Nat) (c : Ctx) : (s.setCtx t c).trans = s.trans := rfl
@[simp] theorem State.setCtx_mer (s : State) (t : Nat) (c : Ctx) : (s.setCtx t c).mer = s.mer := rfl
@[simp] theorem State.setCtx_zen (s : State) (t : Nat) (c : Ctx) : (s.setCtx t c).zen = s.zen := rfl
@[simp] theorem State.setCtx_boot (s : State) (t : Nat) (c : Ctx) : (s.setCtx t c).boot = s.boot := rfl

/-! ## setCore -/

@[simp] theorem State.setCore_cur (s : State) (n : Nat) (c : Core) : (s.setCore n c).cur = s.cur := rfl
@[simp] theorem State.setCore_turn (s : State) (n : Nat) (c : Core) : (s.setCore n c).turn = s.turn := rfl
@[simp] theorem State.setCore_agenda (s : State) (n : Nat) (c : Core) : (s.setCore n c).agenda = s.agenda := rfl
@[simp] theorem State.setCore_free (s : State) (n : Nat) (c : Core) : (s.setCore n c).free = s.free := rfl
@[simp] theorem State.setCore_time (s : State) (n : Nat) (c : Core) : (s.setCore n c).time = s.time := rfl
@[simp] theorem State.setCore_held (s : State) (n : Nat) (c : Core) : (s.setCore n c).held = s.held := rfl
@[simp] theorem State.setCore_mem (s : State) (n : Nat) (c : Core) : (s.setCore n c).mem = s.mem := rfl
@[simp] theorem State.setCore_syn (s : State) (n : Nat) (c : Core) : (s.setCore n c).syn = s.syn := rfl
@[simp] theorem State.setCore_bad (s : State) (n : Nat) (c : Core) : (s.setCore n c).bad = s.bad := rfl
@[simp] theorem State.setCore_tags (s : State) (n : Nat) (c : Core) : (s.setCore n c).tags = s.tags := rfl
@[simp] theorem State.setCore_ctxs (s : State) (n : Nat) (c : Core) : (s.setCore n c).ctxs = s.ctxs := rfl
@[simp] theorem State.setCore_cores (s : State) (n : Nat) (c : Core) : (s.setCore n c).cores = put s.cores n c := rfl
@[simp] theorem State.setCore_fields (s : State) (n : Nat) (c : Core) : (s.setCore n c).fields = s.fields := rfl
@[simp] theorem State.setCore_stks (s : State) (n : Nat) (c : Core) : (s.setCore n c).stks = s.stks := rfl
@[simp] theorem State.setCore_parts (s : State) (n : Nat) (c : Core) : (s.setCore n c).parts = s.parts := rfl
@[simp] theorem State.setCore_hmap (s : State) (n : Nat) (c : Core) : (s.setCore n c).hmap = s.hmap := rfl
@[simp] theorem State.setCore_cubeid (s : State) (n : Nat) (c : Core) : (s.setCore n c).cubeid = s.cubeid := rfl
@[simp] theorem State.setCore_sid (s : State) (n : Nat) (c : Core) : (s.setCore n c).sid = s.sid := rfl
@[simp] theorem State.setCore_wrapn (s : State) (n : Nat) (c : Core) : (s.setCore n c).wrapn = s.wrapn := rfl
@[simp] theorem State.setCore_lease (s : State) (n : Nat) (c : Core) : (s.setCore n c).lease = s.lease := rfl
@[simp] theorem State.setCore_master (s : State) (n : Nat) (c : Core) : (s.setCore n c).master = s.master := rfl
@[simp] theorem State.setCore_blost (s : State) (n : Nat) (c : Core) : (s.setCore n c).blost = s.blost := rfl
@[simp] theorem State.setCore_biid (s : State) (n : Nat) (c : Core) : (s.setCore n c).biid = s.biid := rfl
@[simp] theorem State.setCore_sidHold (s : State) (n : Nat) (c : Core) : (s.setCore n c).sidHold = s.sidHold := rfl
@[simp] theorem State.setCore_beaconAt (s : State) (n : Nat) (c : Core) : (s.setCore n c).beaconAt = s.beaconAt := rfl
@[simp] theorem State.setCore_tap (s : State) (n : Nat) (c : Core) : (s.setCore n c).tap = s.tap := rfl
@[simp] theorem State.setCore_wrap (s : State) (n : Nat) (c : Core) : (s.setCore n c).wrap = s.wrap := rfl
@[simp] theorem State.setCore_sched (s : State) (n : Nat) (c : Core) : (s.setCore n c).sched = s.sched := rfl
@[simp] theorem State.setCore_trans (s : State) (n : Nat) (c : Core) : (s.setCore n c).trans = s.trans := rfl
@[simp] theorem State.setCore_mer (s : State) (n : Nat) (c : Core) : (s.setCore n c).mer = s.mer := rfl
@[simp] theorem State.setCore_zen (s : State) (n : Nat) (c : Core) : (s.setCore n c).zen = s.zen := rfl
@[simp] theorem State.setCore_boot (s : State) (n : Nat) (c : Core) : (s.setCore n c).boot = s.boot := rfl

/-! ## setField -/

@[simp] theorem State.setField_cur (s : State) (n : Nat) (f : Field) : (s.setField n f).cur = s.cur := rfl
@[simp] theorem State.setField_turn (s : State) (n : Nat) (f : Field) : (s.setField n f).turn = s.turn := rfl
@[simp] theorem State.setField_agenda (s : State) (n : Nat) (f : Field) : (s.setField n f).agenda = s.agenda := rfl
@[simp] theorem State.setField_free (s : State) (n : Nat) (f : Field) : (s.setField n f).free = s.free := rfl
@[simp] theorem State.setField_time (s : State) (n : Nat) (f : Field) : (s.setField n f).time = s.time := rfl
@[simp] theorem State.setField_held (s : State) (n : Nat) (f : Field) : (s.setField n f).held = s.held := rfl
@[simp] theorem State.setField_mem (s : State) (n : Nat) (f : Field) : (s.setField n f).mem = s.mem := rfl
@[simp] theorem State.setField_syn (s : State) (n : Nat) (f : Field) : (s.setField n f).syn = s.syn := rfl
@[simp] theorem State.setField_bad (s : State) (n : Nat) (f : Field) : (s.setField n f).bad = s.bad := rfl
@[simp] theorem State.setField_tags (s : State) (n : Nat) (f : Field) : (s.setField n f).tags = s.tags := rfl
@[simp] theorem State.setField_ctxs (s : State) (n : Nat) (f : Field) : (s.setField n f).ctxs = s.ctxs := rfl
@[simp] theorem State.setField_cores (s : State) (n : Nat) (f : Field) : (s.setField n f).cores = s.cores := rfl
@[simp] theorem State.setField_fields (s : State) (n : Nat) (f : Field) : (s.setField n f).fields = put s.fields n f := rfl
@[simp] theorem State.setField_stks (s : State) (n : Nat) (f : Field) : (s.setField n f).stks = s.stks := rfl
@[simp] theorem State.setField_parts (s : State) (n : Nat) (f : Field) : (s.setField n f).parts = s.parts := rfl
@[simp] theorem State.setField_hmap (s : State) (n : Nat) (f : Field) : (s.setField n f).hmap = s.hmap := rfl
@[simp] theorem State.setField_cubeid (s : State) (n : Nat) (f : Field) : (s.setField n f).cubeid = s.cubeid := rfl
@[simp] theorem State.setField_sid (s : State) (n : Nat) (f : Field) : (s.setField n f).sid = s.sid := rfl
@[simp] theorem State.setField_wrapn (s : State) (n : Nat) (f : Field) : (s.setField n f).wrapn = s.wrapn := rfl
@[simp] theorem State.setField_lease (s : State) (n : Nat) (f : Field) : (s.setField n f).lease = s.lease := rfl
@[simp] theorem State.setField_master (s : State) (n : Nat) (f : Field) : (s.setField n f).master = s.master := rfl
@[simp] theorem State.setField_blost (s : State) (n : Nat) (f : Field) : (s.setField n f).blost = s.blost := rfl
@[simp] theorem State.setField_biid (s : State) (n : Nat) (f : Field) : (s.setField n f).biid = s.biid := rfl
@[simp] theorem State.setField_sidHold (s : State) (n : Nat) (f : Field) : (s.setField n f).sidHold = s.sidHold := rfl
@[simp] theorem State.setField_beaconAt (s : State) (n : Nat) (f : Field) : (s.setField n f).beaconAt = s.beaconAt := rfl
@[simp] theorem State.setField_tap (s : State) (n : Nat) (f : Field) : (s.setField n f).tap = s.tap := rfl
@[simp] theorem State.setField_wrap (s : State) (n : Nat) (f : Field) : (s.setField n f).wrap = s.wrap := rfl
@[simp] theorem State.setField_sched (s : State) (n : Nat) (f : Field) : (s.setField n f).sched = s.sched := rfl
@[simp] theorem State.setField_trans (s : State) (n : Nat) (f : Field) : (s.setField n f).trans = s.trans := rfl
@[simp] theorem State.setField_mer (s : State) (n : Nat) (f : Field) : (s.setField n f).mer = s.mer := rfl
@[simp] theorem State.setField_zen (s : State) (n : Nat) (f : Field) : (s.setField n f).zen = s.zen := rfl
@[simp] theorem State.setField_boot (s : State) (n : Nat) (f : Field) : (s.setField n f).boot = s.boot := rfl

/-! ## setStack -/

@[simp] theorem State.setStack_cur (s : State) (n : Nat) (k : Stack) : (s.setStack n k).cur = s.cur := rfl
@[simp] theorem State.setStack_turn (s : State) (n : Nat) (k : Stack) : (s.setStack n k).turn = s.turn := rfl
@[simp] theorem State.setStack_agenda (s : State) (n : Nat) (k : Stack) : (s.setStack n k).agenda = s.agenda := rfl
@[simp] theorem State.setStack_free (s : State) (n : Nat) (k : Stack) : (s.setStack n k).free = s.free := rfl
@[simp] theorem State.setStack_time (s : State) (n : Nat) (k : Stack) : (s.setStack n k).time = s.time := rfl
@[simp] theorem State.setStack_held (s : State) (n : Nat) (k : Stack) : (s.setStack n k).held = s.held := rfl
@[simp] theorem State.setStack_mem (s : State) (n : Nat) (k : Stack) : (s.setStack n k).mem = s.mem := rfl
@[simp] theorem State.setStack_syn (s : State) (n : Nat) (k : Stack) : (s.setStack n k).syn = s.syn := rfl
@[simp] theorem State.setStack_bad (s : State) (n : Nat) (k : Stack) : (s.setStack n k).bad = s.bad := rfl
@[simp] theorem State.setStack_tags (s : State) (n : Nat) (k : Stack) : (s.setStack n k).tags = s.tags := rfl
@[simp] theorem State.setStack_ctxs (s : State) (n : Nat) (k : Stack) : (s.setStack n k).ctxs = s.ctxs := rfl
@[simp] theorem State.setStack_cores (s : State) (n : Nat) (k : Stack) : (s.setStack n k).cores = s.cores := rfl
@[simp] theorem State.setStack_fields (s : State) (n : Nat) (k : Stack) : (s.setStack n k).fields = s.fields := rfl
@[simp] theorem State.setStack_stks (s : State) (n : Nat) (k : Stack) : (s.setStack n k).stks = put s.stks n k := rfl
@[simp] theorem State.setStack_parts (s : State) (n : Nat) (k : Stack) : (s.setStack n k).parts = s.parts := rfl
@[simp] theorem State.setStack_hmap (s : State) (n : Nat) (k : Stack) : (s.setStack n k).hmap = s.hmap := rfl
@[simp] theorem State.setStack_cubeid (s : State) (n : Nat) (k : Stack) : (s.setStack n k).cubeid = s.cubeid := rfl
@[simp] theorem State.setStack_sid (s : State) (n : Nat) (k : Stack) : (s.setStack n k).sid = s.sid := rfl
@[simp] theorem State.setStack_wrapn (s : State) (n : Nat) (k : Stack) : (s.setStack n k).wrapn = s.wrapn := rfl
@[simp] theorem State.setStack_lease (s : State) (n : Nat) (k : Stack) : (s.setStack n k).lease = s.lease := rfl
@[simp] theorem State.setStack_master (s : State) (n : Nat) (k : Stack) : (s.setStack n k).master = s.master := rfl
@[simp] theorem State.setStack_blost (s : State) (n : Nat) (k : Stack) : (s.setStack n k).blost = s.blost := rfl
@[simp] theorem State.setStack_biid (s : State) (n : Nat) (k : Stack) : (s.setStack n k).biid = s.biid := rfl
@[simp] theorem State.setStack_sidHold (s : State) (n : Nat) (k : Stack) : (s.setStack n k).sidHold = s.sidHold := rfl
@[simp] theorem State.setStack_beaconAt (s : State) (n : Nat) (k : Stack) : (s.setStack n k).beaconAt = s.beaconAt := rfl
@[simp] theorem State.setStack_tap (s : State) (n : Nat) (k : Stack) : (s.setStack n k).tap = s.tap := rfl
@[simp] theorem State.setStack_wrap (s : State) (n : Nat) (k : Stack) : (s.setStack n k).wrap = s.wrap := rfl
@[simp] theorem State.setStack_sched (s : State) (n : Nat) (k : Stack) : (s.setStack n k).sched = s.sched := rfl
@[simp] theorem State.setStack_trans (s : State) (n : Nat) (k : Stack) : (s.setStack n k).trans = s.trans := rfl
@[simp] theorem State.setStack_mer (s : State) (n : Nat) (k : Stack) : (s.setStack n k).mer = s.mer := rfl
@[simp] theorem State.setStack_zen (s : State) (n : Nat) (k : Stack) : (s.setStack n k).zen = s.zen := rfl
@[simp] theorem State.setStack_boot (s : State) (n : Nat) (k : Stack) : (s.setStack n k).boot = s.boot := rfl

/-! ## setPart -/

@[simp] theorem State.setPart_cur (s : State) (n : Nat) (p : Part) : (s.setPart n p).cur = s.cur := rfl
@[simp] theorem State.setPart_turn (s : State) (n : Nat) (p : Part) : (s.setPart n p).turn = s.turn := rfl
@[simp] theorem State.setPart_agenda (s : State) (n : Nat) (p : Part) : (s.setPart n p).agenda = s.agenda := rfl
@[simp] theorem State.setPart_free (s : State) (n : Nat) (p : Part) : (s.setPart n p).free = s.free := rfl
@[simp] theorem State.setPart_time (s : State) (n : Nat) (p : Part) : (s.setPart n p).time = s.time := rfl
@[simp] theorem State.setPart_held (s : State) (n : Nat) (p : Part) : (s.setPart n p).held = s.held := rfl
@[simp] theorem State.setPart_mem (s : State) (n : Nat) (p : Part) : (s.setPart n p).mem = s.mem := rfl
@[simp] theorem State.setPart_syn (s : State) (n : Nat) (p : Part) : (s.setPart n p).syn = s.syn := rfl
@[simp] theorem State.setPart_bad (s : State) (n : Nat) (p : Part) : (s.setPart n p).bad = s.bad := rfl
@[simp] theorem State.setPart_tags (s : State) (n : Nat) (p : Part) : (s.setPart n p).tags = s.tags := rfl
@[simp] theorem State.setPart_ctxs (s : State) (n : Nat) (p : Part) : (s.setPart n p).ctxs = s.ctxs := rfl
@[simp] theorem State.setPart_cores (s : State) (n : Nat) (p : Part) : (s.setPart n p).cores = s.cores := rfl
@[simp] theorem State.setPart_fields (s : State) (n : Nat) (p : Part) : (s.setPart n p).fields = s.fields := rfl
@[simp] theorem State.setPart_stks (s : State) (n : Nat) (p : Part) : (s.setPart n p).stks = s.stks := rfl
@[simp] theorem State.setPart_parts (s : State) (n : Nat) (p : Part) : (s.setPart n p).parts = put s.parts n p := rfl
@[simp] theorem State.setPart_hmap (s : State) (n : Nat) (p : Part) : (s.setPart n p).hmap = s.hmap := rfl
@[simp] theorem State.setPart_cubeid (s : State) (n : Nat) (p : Part) : (s.setPart n p).cubeid = s.cubeid := rfl
@[simp] theorem State.setPart_sid (s : State) (n : Nat) (p : Part) : (s.setPart n p).sid = s.sid := rfl
@[simp] theorem State.setPart_wrapn (s : State) (n : Nat) (p : Part) : (s.setPart n p).wrapn = s.wrapn := rfl
@[simp] theorem State.setPart_lease (s : State) (n : Nat) (p : Part) : (s.setPart n p).lease = s.lease := rfl
@[simp] theorem State.setPart_master (s : State) (n : Nat) (p : Part) : (s.setPart n p).master = s.master := rfl
@[simp] theorem State.setPart_blost (s : State) (n : Nat) (p : Part) : (s.setPart n p).blost = s.blost := rfl
@[simp] theorem State.setPart_biid (s : State) (n : Nat) (p : Part) : (s.setPart n p).biid = s.biid := rfl
@[simp] theorem State.setPart_sidHold (s : State) (n : Nat) (p : Part) : (s.setPart n p).sidHold = s.sidHold := rfl
@[simp] theorem State.setPart_beaconAt (s : State) (n : Nat) (p : Part) : (s.setPart n p).beaconAt = s.beaconAt := rfl
@[simp] theorem State.setPart_tap (s : State) (n : Nat) (p : Part) : (s.setPart n p).tap = s.tap := rfl
@[simp] theorem State.setPart_wrap (s : State) (n : Nat) (p : Part) : (s.setPart n p).wrap = s.wrap := rfl
@[simp] theorem State.setPart_sched (s : State) (n : Nat) (p : Part) : (s.setPart n p).sched = s.sched := rfl
@[simp] theorem State.setPart_trans (s : State) (n : Nat) (p : Part) : (s.setPart n p).trans = s.trans := rfl
@[simp] theorem State.setPart_mer (s : State) (n : Nat) (p : Part) : (s.setPart n p).mer = s.mer := rfl
@[simp] theorem State.setPart_zen (s : State) (n : Nat) (p : Part) : (s.setPart n p).zen = s.zen := rfl
@[simp] theorem State.setPart_boot (s : State) (n : Nat) (p : Part) : (s.setPart n p).boot = s.boot := rfl

/-! ## setHart -/

@[simp] theorem State.setHart_cur (s : State) (n : Nat) (h : Hart) : (s.setHart n h).cur = s.cur := rfl
@[simp] theorem State.setHart_turn (s : State) (n : Nat) (h : Hart) : (s.setHart n h).turn = s.turn := rfl
@[simp] theorem State.setHart_agenda (s : State) (n : Nat) (h : Hart) : (s.setHart n h).agenda = s.agenda := rfl
@[simp] theorem State.setHart_free (s : State) (n : Nat) (h : Hart) : (s.setHart n h).free = s.free := rfl
@[simp] theorem State.setHart_time (s : State) (n : Nat) (h : Hart) : (s.setHart n h).time = s.time := rfl
@[simp] theorem State.setHart_held (s : State) (n : Nat) (h : Hart) : (s.setHart n h).held = s.held := rfl
@[simp] theorem State.setHart_mem (s : State) (n : Nat) (h : Hart) : (s.setHart n h).mem = s.mem := rfl
@[simp] theorem State.setHart_syn (s : State) (n : Nat) (h : Hart) : (s.setHart n h).syn = s.syn := rfl
@[simp] theorem State.setHart_bad (s : State) (n : Nat) (h : Hart) : (s.setHart n h).bad = s.bad := rfl
@[simp] theorem State.setHart_tags (s : State) (n : Nat) (h : Hart) : (s.setHart n h).tags = s.tags := rfl
@[simp] theorem State.setHart_ctxs (s : State) (n : Nat) (h : Hart) : (s.setHart n h).ctxs = s.ctxs := rfl
@[simp] theorem State.setHart_cores (s : State) (n : Nat) (h : Hart) : (s.setHart n h).cores = s.cores := rfl
@[simp] theorem State.setHart_fields (s : State) (n : Nat) (h : Hart) : (s.setHart n h).fields = s.fields := rfl
@[simp] theorem State.setHart_stks (s : State) (n : Nat) (h : Hart) : (s.setHart n h).stks = s.stks := rfl
@[simp] theorem State.setHart_parts (s : State) (n : Nat) (h : Hart) : (s.setHart n h).parts = s.parts := rfl
@[simp] theorem State.setHart_hmap (s : State) (n : Nat) (h : Hart) : (s.setHart n h).hmap = s.hmap := rfl
@[simp] theorem State.setHart_cubeid (s : State) (n : Nat) (h : Hart) : (s.setHart n h).cubeid = s.cubeid := rfl
@[simp] theorem State.setHart_sid (s : State) (n : Nat) (h : Hart) : (s.setHart n h).sid = s.sid := rfl
@[simp] theorem State.setHart_wrapn (s : State) (n : Nat) (h : Hart) : (s.setHart n h).wrapn = s.wrapn := rfl
@[simp] theorem State.setHart_lease (s : State) (n : Nat) (h : Hart) : (s.setHart n h).lease = s.lease := rfl
@[simp] theorem State.setHart_master (s : State) (n : Nat) (h : Hart) : (s.setHart n h).master = s.master := rfl
@[simp] theorem State.setHart_blost (s : State) (n : Nat) (h : Hart) : (s.setHart n h).blost = s.blost := rfl
@[simp] theorem State.setHart_biid (s : State) (n : Nat) (h : Hart) : (s.setHart n h).biid = s.biid := rfl
@[simp] theorem State.setHart_sidHold (s : State) (n : Nat) (h : Hart) : (s.setHart n h).sidHold = s.sidHold := rfl
@[simp] theorem State.setHart_beaconAt (s : State) (n : Nat) (h : Hart) : (s.setHart n h).beaconAt = s.beaconAt := rfl
@[simp] theorem State.setHart_tap (s : State) (n : Nat) (h : Hart) : (s.setHart n h).tap = s.tap := rfl
@[simp] theorem State.setHart_wrap (s : State) (n : Nat) (h : Hart) : (s.setHart n h).wrap = s.wrap := rfl
@[simp] theorem State.setHart_sched (s : State) (n : Nat) (h : Hart) : (s.setHart n h).sched = s.sched := rfl
@[simp] theorem State.setHart_trans (s : State) (n : Nat) (h : Hart) : (s.setHart n h).trans = s.trans := rfl
@[simp] theorem State.setHart_mer (s : State) (n : Nat) (h : Hart) : (s.setHart n h).mer = s.mer := rfl
@[simp] theorem State.setHart_zen (s : State) (n : Nat) (h : Hart) : (s.setHart n h).zen = { s.zen with harts := put s.zen.harts n h } := rfl
@[simp] theorem State.setHart_boot (s : State) (n : Nat) (h : Hart) : (s.setHart n h).boot = s.boot := rfl

/-! ## modCtx -/

@[simp] theorem State.modCtx_cur (s : State) (t : Nat) (g : Ctx → Ctx) : (s.modCtx t g).cur = s.cur := rfl
@[simp] theorem State.modCtx_turn (s : State) (t : Nat) (g : Ctx → Ctx) : (s.modCtx t g).turn = s.turn := rfl
@[simp] theorem State.modCtx_agenda (s : State) (t : Nat) (g : Ctx → Ctx) : (s.modCtx t g).agenda = s.agenda := rfl
@[simp] theorem State.modCtx_free (s : State) (t : Nat) (g : Ctx → Ctx) : (s.modCtx t g).free = s.free := rfl
@[simp] theorem State.modCtx_time (s : State) (t : Nat) (g : Ctx → Ctx) : (s.modCtx t g).time = s.time := rfl
@[simp] theorem State.modCtx_held (s : State) (t : Nat) (g : Ctx → Ctx) : (s.modCtx t g).held = s.held := rfl
@[simp] theorem State.modCtx_mem (s : State) (t : Nat) (g : Ctx → Ctx) : (s.modCtx t g).mem = s.mem := rfl
@[simp] theorem State.modCtx_syn (s : State) (t : Nat) (g : Ctx → Ctx) : (s.modCtx t g).syn = s.syn := rfl
@[simp] theorem State.modCtx_bad (s : State) (t : Nat) (g : Ctx → Ctx) : (s.modCtx t g).bad = s.bad := rfl
@[simp] theorem State.modCtx_tags (s : State) (t : Nat) (g : Ctx → Ctx) : (s.modCtx t g).tags = s.tags := rfl
@[simp] theorem State.modCtx_ctxs (s : State) (t : Nat) (g : Ctx → Ctx) : (s.modCtx t g).ctxs = put s.ctxs t (g (s.ctx t)) := rfl
@[simp] theorem State.modCtx_cores (s : State) (t : Nat) (g : Ctx → Ctx) : (s.modCtx t g).cores = s.cores := rfl
@[simp] theorem State.modCtx_fields (s : State) (t : Nat) (g : Ctx → Ctx) : (s.modCtx t g).fields = s.fields := rfl
@[simp] theorem State.modCtx_stks (s : State) (t : Nat) (g : Ctx → Ctx) : (s.modCtx t g).stks = s.stks := rfl
@[simp] theorem State.modCtx_parts (s : State) (t : Nat) (g : Ctx → Ctx) : (s.modCtx t g).parts = s.parts := rfl
@[simp] theorem State.modCtx_hmap (s : State) (t : Nat) (g : Ctx → Ctx) : (s.modCtx t g).hmap = s.hmap := rfl
@[simp] theorem State.modCtx_cubeid (s : State) (t : Nat) (g : Ctx → Ctx) : (s.modCtx t g).cubeid = s.cubeid := rfl
@[simp] theorem State.modCtx_sid (s : State) (t : Nat) (g : Ctx → Ctx) : (s.modCtx t g).sid = s.sid := rfl
@[simp] theorem State.modCtx_wrapn (s : State) (t : Nat) (g : Ctx → Ctx) : (s.modCtx t g).wrapn = s.wrapn := rfl
@[simp] theorem State.modCtx_lease (s : State) (t : Nat) (g : Ctx → Ctx) : (s.modCtx t g).lease = s.lease := rfl
@[simp] theorem State.modCtx_master (s : State) (t : Nat) (g : Ctx → Ctx) : (s.modCtx t g).master = s.master := rfl
@[simp] theorem State.modCtx_blost (s : State) (t : Nat) (g : Ctx → Ctx) : (s.modCtx t g).blost = s.blost := rfl
@[simp] theorem State.modCtx_biid (s : State) (t : Nat) (g : Ctx → Ctx) : (s.modCtx t g).biid = s.biid := rfl
@[simp] theorem State.modCtx_sidHold (s : State) (t : Nat) (g : Ctx → Ctx) : (s.modCtx t g).sidHold = s.sidHold := rfl
@[simp] theorem State.modCtx_beaconAt (s : State) (t : Nat) (g : Ctx → Ctx) : (s.modCtx t g).beaconAt = s.beaconAt := rfl
@[simp] theorem State.modCtx_tap (s : State) (t : Nat) (g : Ctx → Ctx) : (s.modCtx t g).tap = s.tap := rfl
@[simp] theorem State.modCtx_wrap (s : State) (t : Nat) (g : Ctx → Ctx) : (s.modCtx t g).wrap = s.wrap := rfl
@[simp] theorem State.modCtx_sched (s : State) (t : Nat) (g : Ctx → Ctx) : (s.modCtx t g).sched = s.sched := rfl
@[simp] theorem State.modCtx_trans (s : State) (t : Nat) (g : Ctx → Ctx) : (s.modCtx t g).trans = s.trans := rfl
@[simp] theorem State.modCtx_mer (s : State) (t : Nat) (g : Ctx → Ctx) : (s.modCtx t g).mer = s.mer := rfl
@[simp] theorem State.modCtx_zen (s : State) (t : Nat) (g : Ctx → Ctx) : (s.modCtx t g).zen = s.zen := rfl
@[simp] theorem State.modCtx_boot (s : State) (t : Nat) (g : Ctx → Ctx) : (s.modCtx t g).boot = s.boot := rfl

/-! ## modCore -/

@[simp] theorem State.modCore_cur (s : State) (n : Nat) (g : Core → Core) : (s.modCore n g).cur = s.cur := rfl
@[simp] theorem State.modCore_turn (s : State) (n : Nat) (g : Core → Core) : (s.modCore n g).turn = s.turn := rfl
@[simp] theorem State.modCore_agenda (s : State) (n : Nat) (g : Core → Core) : (s.modCore n g).agenda = s.agenda := rfl
@[simp] theorem State.modCore_free (s : State) (n : Nat) (g : Core → Core) : (s.modCore n g).free = s.free := rfl
@[simp] theorem State.modCore_time (s : State) (n : Nat) (g : Core → Core) : (s.modCore n g).time = s.time := rfl
@[simp] theorem State.modCore_held (s : State) (n : Nat) (g : Core → Core) : (s.modCore n g).held = s.held := rfl
@[simp] theorem State.modCore_mem (s : State) (n : Nat) (g : Core → Core) : (s.modCore n g).mem = s.mem := rfl
@[simp] theorem State.modCore_syn (s : State) (n : Nat) (g : Core → Core) : (s.modCore n g).syn = s.syn := rfl
@[simp] theorem State.modCore_bad (s : State) (n : Nat) (g : Core → Core) : (s.modCore n g).bad = s.bad := rfl
@[simp] theorem State.modCore_tags (s : State) (n : Nat) (g : Core → Core) : (s.modCore n g).tags = s.tags := rfl
@[simp] theorem State.modCore_ctxs (s : State) (n : Nat) (g : Core → Core) : (s.modCore n g).ctxs = s.ctxs := rfl
@[simp] theorem State.modCore_cores (s : State) (n : Nat) (g : Core → Core) : (s.modCore n g).cores = put s.cores n (g (s.core n)) := rfl
@[simp] theorem State.modCore_fields (s : State) (n : Nat) (g : Core → Core) : (s.modCore n g).fields = s.fields := rfl
@[simp] theorem State.modCore_stks (s : State) (n : Nat) (g : Core → Core) : (s.modCore n g).stks = s.stks := rfl
@[simp] theorem State.modCore_parts (s : State) (n : Nat) (g : Core → Core) : (s.modCore n g).parts = s.parts := rfl
@[simp] theorem State.modCore_hmap (s : State) (n : Nat) (g : Core → Core) : (s.modCore n g).hmap = s.hmap := rfl
@[simp] theorem State.modCore_cubeid (s : State) (n : Nat) (g : Core → Core) : (s.modCore n g).cubeid = s.cubeid := rfl
@[simp] theorem State.modCore_sid (s : State) (n : Nat) (g : Core → Core) : (s.modCore n g).sid = s.sid := rfl
@[simp] theorem State.modCore_wrapn (s : State) (n : Nat) (g : Core → Core) : (s.modCore n g).wrapn = s.wrapn := rfl
@[simp] theorem State.modCore_lease (s : State) (n : Nat) (g : Core → Core) : (s.modCore n g).lease = s.lease := rfl
@[simp] theorem State.modCore_master (s : State) (n : Nat) (g : Core → Core) : (s.modCore n g).master = s.master := rfl
@[simp] theorem State.modCore_blost (s : State) (n : Nat) (g : Core → Core) : (s.modCore n g).blost = s.blost := rfl
@[simp] theorem State.modCore_biid (s : State) (n : Nat) (g : Core → Core) : (s.modCore n g).biid = s.biid := rfl
@[simp] theorem State.modCore_sidHold (s : State) (n : Nat) (g : Core → Core) : (s.modCore n g).sidHold = s.sidHold := rfl
@[simp] theorem State.modCore_beaconAt (s : State) (n : Nat) (g : Core → Core) : (s.modCore n g).beaconAt = s.beaconAt := rfl
@[simp] theorem State.modCore_tap (s : State) (n : Nat) (g : Core → Core) : (s.modCore n g).tap = s.tap := rfl
@[simp] theorem State.modCore_wrap (s : State) (n : Nat) (g : Core → Core) : (s.modCore n g).wrap = s.wrap := rfl
@[simp] theorem State.modCore_sched (s : State) (n : Nat) (g : Core → Core) : (s.modCore n g).sched = s.sched := rfl
@[simp] theorem State.modCore_trans (s : State) (n : Nat) (g : Core → Core) : (s.modCore n g).trans = s.trans := rfl
@[simp] theorem State.modCore_mer (s : State) (n : Nat) (g : Core → Core) : (s.modCore n g).mer = s.mer := rfl
@[simp] theorem State.modCore_zen (s : State) (n : Nat) (g : Core → Core) : (s.modCore n g).zen = s.zen := rfl
@[simp] theorem State.modCore_boot (s : State) (n : Nat) (g : Core → Core) : (s.modCore n g).boot = s.boot := rfl

/-! ## modField -/

@[simp] theorem State.modField_cur (s : State) (n : Nat) (g : Field → Field) : (s.modField n g).cur = s.cur := rfl
@[simp] theorem State.modField_turn (s : State) (n : Nat) (g : Field → Field) : (s.modField n g).turn = s.turn := rfl
@[simp] theorem State.modField_agenda (s : State) (n : Nat) (g : Field → Field) : (s.modField n g).agenda = s.agenda := rfl
@[simp] theorem State.modField_free (s : State) (n : Nat) (g : Field → Field) : (s.modField n g).free = s.free := rfl
@[simp] theorem State.modField_time (s : State) (n : Nat) (g : Field → Field) : (s.modField n g).time = s.time := rfl
@[simp] theorem State.modField_held (s : State) (n : Nat) (g : Field → Field) : (s.modField n g).held = s.held := rfl
@[simp] theorem State.modField_mem (s : State) (n : Nat) (g : Field → Field) : (s.modField n g).mem = s.mem := rfl
@[simp] theorem State.modField_syn (s : State) (n : Nat) (g : Field → Field) : (s.modField n g).syn = s.syn := rfl
@[simp] theorem State.modField_bad (s : State) (n : Nat) (g : Field → Field) : (s.modField n g).bad = s.bad := rfl
@[simp] theorem State.modField_tags (s : State) (n : Nat) (g : Field → Field) : (s.modField n g).tags = s.tags := rfl
@[simp] theorem State.modField_ctxs (s : State) (n : Nat) (g : Field → Field) : (s.modField n g).ctxs = s.ctxs := rfl
@[simp] theorem State.modField_cores (s : State) (n : Nat) (g : Field → Field) : (s.modField n g).cores = s.cores := rfl
@[simp] theorem State.modField_fields (s : State) (n : Nat) (g : Field → Field) : (s.modField n g).fields = put s.fields n (g (s.field n)) := rfl
@[simp] theorem State.modField_stks (s : State) (n : Nat) (g : Field → Field) : (s.modField n g).stks = s.stks := rfl
@[simp] theorem State.modField_parts (s : State) (n : Nat) (g : Field → Field) : (s.modField n g).parts = s.parts := rfl
@[simp] theorem State.modField_hmap (s : State) (n : Nat) (g : Field → Field) : (s.modField n g).hmap = s.hmap := rfl
@[simp] theorem State.modField_cubeid (s : State) (n : Nat) (g : Field → Field) : (s.modField n g).cubeid = s.cubeid := rfl
@[simp] theorem State.modField_sid (s : State) (n : Nat) (g : Field → Field) : (s.modField n g).sid = s.sid := rfl
@[simp] theorem State.modField_wrapn (s : State) (n : Nat) (g : Field → Field) : (s.modField n g).wrapn = s.wrapn := rfl
@[simp] theorem State.modField_lease (s : State) (n : Nat) (g : Field → Field) : (s.modField n g).lease = s.lease := rfl
@[simp] theorem State.modField_master (s : State) (n : Nat) (g : Field → Field) : (s.modField n g).master = s.master := rfl
@[simp] theorem State.modField_blost (s : State) (n : Nat) (g : Field → Field) : (s.modField n g).blost = s.blost := rfl
@[simp] theorem State.modField_biid (s : State) (n : Nat) (g : Field → Field) : (s.modField n g).biid = s.biid := rfl
@[simp] theorem State.modField_sidHold (s : State) (n : Nat) (g : Field → Field) : (s.modField n g).sidHold = s.sidHold := rfl
@[simp] theorem State.modField_beaconAt (s : State) (n : Nat) (g : Field → Field) : (s.modField n g).beaconAt = s.beaconAt := rfl
@[simp] theorem State.modField_tap (s : State) (n : Nat) (g : Field → Field) : (s.modField n g).tap = s.tap := rfl
@[simp] theorem State.modField_wrap (s : State) (n : Nat) (g : Field → Field) : (s.modField n g).wrap = s.wrap := rfl
@[simp] theorem State.modField_sched (s : State) (n : Nat) (g : Field → Field) : (s.modField n g).sched = s.sched := rfl
@[simp] theorem State.modField_trans (s : State) (n : Nat) (g : Field → Field) : (s.modField n g).trans = s.trans := rfl
@[simp] theorem State.modField_mer (s : State) (n : Nat) (g : Field → Field) : (s.modField n g).mer = s.mer := rfl
@[simp] theorem State.modField_zen (s : State) (n : Nat) (g : Field → Field) : (s.modField n g).zen = s.zen := rfl
@[simp] theorem State.modField_boot (s : State) (n : Nat) (g : Field → Field) : (s.modField n g).boot = s.boot := rfl

/-! ## modStack -/

@[simp] theorem State.modStack_cur (s : State) (n : Nat) (g : Stack → Stack) : (s.modStack n g).cur = s.cur := rfl
@[simp] theorem State.modStack_turn (s : State) (n : Nat) (g : Stack → Stack) : (s.modStack n g).turn = s.turn := rfl
@[simp] theorem State.modStack_agenda (s : State) (n : Nat) (g : Stack → Stack) : (s.modStack n g).agenda = s.agenda := rfl
@[simp] theorem State.modStack_free (s : State) (n : Nat) (g : Stack → Stack) : (s.modStack n g).free = s.free := rfl
@[simp] theorem State.modStack_time (s : State) (n : Nat) (g : Stack → Stack) : (s.modStack n g).time = s.time := rfl
@[simp] theorem State.modStack_held (s : State) (n : Nat) (g : Stack → Stack) : (s.modStack n g).held = s.held := rfl
@[simp] theorem State.modStack_mem (s : State) (n : Nat) (g : Stack → Stack) : (s.modStack n g).mem = s.mem := rfl
@[simp] theorem State.modStack_syn (s : State) (n : Nat) (g : Stack → Stack) : (s.modStack n g).syn = s.syn := rfl
@[simp] theorem State.modStack_bad (s : State) (n : Nat) (g : Stack → Stack) : (s.modStack n g).bad = s.bad := rfl
@[simp] theorem State.modStack_tags (s : State) (n : Nat) (g : Stack → Stack) : (s.modStack n g).tags = s.tags := rfl
@[simp] theorem State.modStack_ctxs (s : State) (n : Nat) (g : Stack → Stack) : (s.modStack n g).ctxs = s.ctxs := rfl
@[simp] theorem State.modStack_cores (s : State) (n : Nat) (g : Stack → Stack) : (s.modStack n g).cores = s.cores := rfl
@[simp] theorem State.modStack_fields (s : State) (n : Nat) (g : Stack → Stack) : (s.modStack n g).fields = s.fields := rfl
@[simp] theorem State.modStack_stks (s : State) (n : Nat) (g : Stack → Stack) : (s.modStack n g).stks = put s.stks n (g (s.stack n)) := rfl
@[simp] theorem State.modStack_parts (s : State) (n : Nat) (g : Stack → Stack) : (s.modStack n g).parts = s.parts := rfl
@[simp] theorem State.modStack_hmap (s : State) (n : Nat) (g : Stack → Stack) : (s.modStack n g).hmap = s.hmap := rfl
@[simp] theorem State.modStack_cubeid (s : State) (n : Nat) (g : Stack → Stack) : (s.modStack n g).cubeid = s.cubeid := rfl
@[simp] theorem State.modStack_sid (s : State) (n : Nat) (g : Stack → Stack) : (s.modStack n g).sid = s.sid := rfl
@[simp] theorem State.modStack_wrapn (s : State) (n : Nat) (g : Stack → Stack) : (s.modStack n g).wrapn = s.wrapn := rfl
@[simp] theorem State.modStack_lease (s : State) (n : Nat) (g : Stack → Stack) : (s.modStack n g).lease = s.lease := rfl
@[simp] theorem State.modStack_master (s : State) (n : Nat) (g : Stack → Stack) : (s.modStack n g).master = s.master := rfl
@[simp] theorem State.modStack_blost (s : State) (n : Nat) (g : Stack → Stack) : (s.modStack n g).blost = s.blost := rfl
@[simp] theorem State.modStack_biid (s : State) (n : Nat) (g : Stack → Stack) : (s.modStack n g).biid = s.biid := rfl
@[simp] theorem State.modStack_sidHold (s : State) (n : Nat) (g : Stack → Stack) : (s.modStack n g).sidHold = s.sidHold := rfl
@[simp] theorem State.modStack_beaconAt (s : State) (n : Nat) (g : Stack → Stack) : (s.modStack n g).beaconAt = s.beaconAt := rfl
@[simp] theorem State.modStack_tap (s : State) (n : Nat) (g : Stack → Stack) : (s.modStack n g).tap = s.tap := rfl
@[simp] theorem State.modStack_wrap (s : State) (n : Nat) (g : Stack → Stack) : (s.modStack n g).wrap = s.wrap := rfl
@[simp] theorem State.modStack_sched (s : State) (n : Nat) (g : Stack → Stack) : (s.modStack n g).sched = s.sched := rfl
@[simp] theorem State.modStack_trans (s : State) (n : Nat) (g : Stack → Stack) : (s.modStack n g).trans = s.trans := rfl
@[simp] theorem State.modStack_mer (s : State) (n : Nat) (g : Stack → Stack) : (s.modStack n g).mer = s.mer := rfl
@[simp] theorem State.modStack_zen (s : State) (n : Nat) (g : Stack → Stack) : (s.modStack n g).zen = s.zen := rfl
@[simp] theorem State.modStack_boot (s : State) (n : Nat) (g : Stack → Stack) : (s.modStack n g).boot = s.boot := rfl

/-! ## modPart -/

@[simp] theorem State.modPart_cur (s : State) (n : Nat) (g : Part → Part) : (s.modPart n g).cur = s.cur := rfl
@[simp] theorem State.modPart_turn (s : State) (n : Nat) (g : Part → Part) : (s.modPart n g).turn = s.turn := rfl
@[simp] theorem State.modPart_agenda (s : State) (n : Nat) (g : Part → Part) : (s.modPart n g).agenda = s.agenda := rfl
@[simp] theorem State.modPart_free (s : State) (n : Nat) (g : Part → Part) : (s.modPart n g).free = s.free := rfl
@[simp] theorem State.modPart_time (s : State) (n : Nat) (g : Part → Part) : (s.modPart n g).time = s.time := rfl
@[simp] theorem State.modPart_held (s : State) (n : Nat) (g : Part → Part) : (s.modPart n g).held = s.held := rfl
@[simp] theorem State.modPart_mem (s : State) (n : Nat) (g : Part → Part) : (s.modPart n g).mem = s.mem := rfl
@[simp] theorem State.modPart_syn (s : State) (n : Nat) (g : Part → Part) : (s.modPart n g).syn = s.syn := rfl
@[simp] theorem State.modPart_bad (s : State) (n : Nat) (g : Part → Part) : (s.modPart n g).bad = s.bad := rfl
@[simp] theorem State.modPart_tags (s : State) (n : Nat) (g : Part → Part) : (s.modPart n g).tags = s.tags := rfl
@[simp] theorem State.modPart_ctxs (s : State) (n : Nat) (g : Part → Part) : (s.modPart n g).ctxs = s.ctxs := rfl
@[simp] theorem State.modPart_cores (s : State) (n : Nat) (g : Part → Part) : (s.modPart n g).cores = s.cores := rfl
@[simp] theorem State.modPart_fields (s : State) (n : Nat) (g : Part → Part) : (s.modPart n g).fields = s.fields := rfl
@[simp] theorem State.modPart_stks (s : State) (n : Nat) (g : Part → Part) : (s.modPart n g).stks = s.stks := rfl
@[simp] theorem State.modPart_parts (s : State) (n : Nat) (g : Part → Part) : (s.modPart n g).parts = put s.parts n (g (s.part n)) := rfl
@[simp] theorem State.modPart_hmap (s : State) (n : Nat) (g : Part → Part) : (s.modPart n g).hmap = s.hmap := rfl
@[simp] theorem State.modPart_cubeid (s : State) (n : Nat) (g : Part → Part) : (s.modPart n g).cubeid = s.cubeid := rfl
@[simp] theorem State.modPart_sid (s : State) (n : Nat) (g : Part → Part) : (s.modPart n g).sid = s.sid := rfl
@[simp] theorem State.modPart_wrapn (s : State) (n : Nat) (g : Part → Part) : (s.modPart n g).wrapn = s.wrapn := rfl
@[simp] theorem State.modPart_lease (s : State) (n : Nat) (g : Part → Part) : (s.modPart n g).lease = s.lease := rfl
@[simp] theorem State.modPart_master (s : State) (n : Nat) (g : Part → Part) : (s.modPart n g).master = s.master := rfl
@[simp] theorem State.modPart_blost (s : State) (n : Nat) (g : Part → Part) : (s.modPart n g).blost = s.blost := rfl
@[simp] theorem State.modPart_biid (s : State) (n : Nat) (g : Part → Part) : (s.modPart n g).biid = s.biid := rfl
@[simp] theorem State.modPart_sidHold (s : State) (n : Nat) (g : Part → Part) : (s.modPart n g).sidHold = s.sidHold := rfl
@[simp] theorem State.modPart_beaconAt (s : State) (n : Nat) (g : Part → Part) : (s.modPart n g).beaconAt = s.beaconAt := rfl
@[simp] theorem State.modPart_tap (s : State) (n : Nat) (g : Part → Part) : (s.modPart n g).tap = s.tap := rfl
@[simp] theorem State.modPart_wrap (s : State) (n : Nat) (g : Part → Part) : (s.modPart n g).wrap = s.wrap := rfl
@[simp] theorem State.modPart_sched (s : State) (n : Nat) (g : Part → Part) : (s.modPart n g).sched = s.sched := rfl
@[simp] theorem State.modPart_trans (s : State) (n : Nat) (g : Part → Part) : (s.modPart n g).trans = s.trans := rfl
@[simp] theorem State.modPart_mer (s : State) (n : Nat) (g : Part → Part) : (s.modPart n g).mer = s.mer := rfl
@[simp] theorem State.modPart_zen (s : State) (n : Nat) (g : Part → Part) : (s.modPart n g).zen = s.zen := rfl
@[simp] theorem State.modPart_boot (s : State) (n : Nat) (g : Part → Part) : (s.modPart n g).boot = s.boot := rfl

/-! ## post -/

@[simp] theorem State.post_cur (s : State) (i : Instr) : (s.post i).cur = s.cur := rfl
@[simp] theorem State.post_turn (s : State) (i : Instr) : (s.post i).turn = s.turn := rfl
@[simp] theorem State.post_agenda (s : State) (i : Instr) : (s.post i).agenda = s.agenda ++ [i] := rfl
@[simp] theorem State.post_free (s : State) (i : Instr) : (s.post i).free = s.free := rfl
@[simp] theorem State.post_time (s : State) (i : Instr) : (s.post i).time = s.time := rfl
@[simp] theorem State.post_held (s : State) (i : Instr) : (s.post i).held = s.held := rfl
@[simp] theorem State.post_mem (s : State) (i : Instr) : (s.post i).mem = s.mem := rfl
@[simp] theorem State.post_syn (s : State) (i : Instr) : (s.post i).syn = s.syn := rfl
@[simp] theorem State.post_bad (s : State) (i : Instr) : (s.post i).bad = s.bad := rfl
@[simp] theorem State.post_tags (s : State) (i : Instr) : (s.post i).tags = s.tags := rfl
@[simp] theorem State.post_ctxs (s : State) (i : Instr) : (s.post i).ctxs = s.ctxs := rfl
@[simp] theorem State.post_cores (s : State) (i : Instr) : (s.post i).cores = s.cores := rfl
@[simp] theorem State.post_fields (s : State) (i : Instr) : (s.post i).fields = s.fields := rfl
@[simp] theorem State.post_stks (s : State) (i : Instr) : (s.post i).stks = s.stks := rfl
@[simp] theorem State.post_parts (s : State) (i : Instr) : (s.post i).parts = s.parts := rfl
@[simp] theorem State.post_hmap (s : State) (i : Instr) : (s.post i).hmap = s.hmap := rfl
@[simp] theorem State.post_cubeid (s : State) (i : Instr) : (s.post i).cubeid = s.cubeid := rfl
@[simp] theorem State.post_sid (s : State) (i : Instr) : (s.post i).sid = s.sid := rfl
@[simp] theorem State.post_wrapn (s : State) (i : Instr) : (s.post i).wrapn = s.wrapn := rfl
@[simp] theorem State.post_lease (s : State) (i : Instr) : (s.post i).lease = s.lease := rfl
@[simp] theorem State.post_master (s : State) (i : Instr) : (s.post i).master = s.master := rfl
@[simp] theorem State.post_blost (s : State) (i : Instr) : (s.post i).blost = s.blost := rfl
@[simp] theorem State.post_biid (s : State) (i : Instr) : (s.post i).biid = s.biid := rfl
@[simp] theorem State.post_sidHold (s : State) (i : Instr) : (s.post i).sidHold = s.sidHold := rfl
@[simp] theorem State.post_beaconAt (s : State) (i : Instr) : (s.post i).beaconAt = s.beaconAt := rfl
@[simp] theorem State.post_tap (s : State) (i : Instr) : (s.post i).tap = s.tap := rfl
@[simp] theorem State.post_wrap (s : State) (i : Instr) : (s.post i).wrap = s.wrap := rfl
@[simp] theorem State.post_sched (s : State) (i : Instr) : (s.post i).sched = s.sched := rfl
@[simp] theorem State.post_trans (s : State) (i : Instr) : (s.post i).trans = s.trans := rfl
@[simp] theorem State.post_mer (s : State) (i : Instr) : (s.post i).mer = s.mer := rfl
@[simp] theorem State.post_zen (s : State) (i : Instr) : (s.post i).zen = s.zen := rfl
@[simp] theorem State.post_boot (s : State) (i : Instr) : (s.post i).boot = s.boot := rfl

/-! ## Maps -/

/-- A key that was just put reads back. -/
@[simp] theorem look_put_self {α : Type} (m : Map α) (k : Nat) (v d : α) : look (put m k v) k d = v := by
  induction m with
  | nil => simp [put, look]
  | cons e t ih =>
    obtain ⟨j, w⟩ := e
    simp only [put]
    split
    · simp [look]
    · split
      · simp [look]
      · simp [look, *]

/-- A put leaves every other key alone. -/
theorem look_put_other {α : Type} (m : Map α) {k j : Nat} (v d : α) (h : j ≠ k) : look (put m k v) j d = look m j d := by
  induction m with
  | nil => simp [put, look, h]
  | cons e t ih =>
    obtain ⟨i, w⟩ := e
    simp only [put]
    split
    · subst_vars; simp [look, h]
    · split
      · simp [look, h]
      · simp [look, ih]

/-- The same for reading an entry that may not be there. -/
@[simp] theorem look?_put_self {α : Type} (m : Map α) (k : Nat) (v : α) : look? (put m k v) k = some v := by
  induction m with
  | nil => simp [put, look?]
  | cons e t ih =>
    obtain ⟨j, w⟩ := e
    simp only [put]
    split
    · simp [look?]
    · split
      · simp [look?]
      · simp [look?, *]

theorem look?_put_other {α : Type} (m : Map α) {k j : Nat} (v : α) (h : j ≠ k) : look? (put m k v) j = look? m j := by
  induction m with
  | nil => simp [put, look?, h]
  | cons e t ih =>
    obtain ⟨i, w⟩ := e
    simp only [put]
    split
    · subst_vars; simp [look?, h]
    · split
      · simp [look?, h]
      · simp [look?, ih]

/-- A dropped key reads as not listed. -/
@[simp] theorem look?_drop_self {α : Type} (m : Map α) (k : Nat) : look? (drop m k) k = none := by
  induction m with
  | nil => rfl
  | cons e t ih =>
    obtain ⟨j, w⟩ := e
    simp only [drop]
    split
    · exact ih
    · simp [look?, *]

theorem look?_drop_other {α : Type} (m : Map α) {k j : Nat} (h : j ≠ k) : look? (drop m k) j = look? m j := by
  induction m with
  | nil => rfl
  | cons e t ih =>
    obtain ⟨i, w⟩ := e
    simp only [drop]
    split
    · subst_vars; simp [look?, ih, h]
    · simp [look?, ih]

/-- The second of two puts of one key stands. -/
theorem put_put {α : Type} (m : Map α) (k : Nat) (a b : α) : put (put m k a) k b = put m k b := by
  induction m with
  | nil => simp [put]
  | cons e t ih =>
    obtain ⟨j, v⟩ := e
    simp only [put]
    split
    · simp [put]
    · split
      · simp [put]
      · simp [put, *]

/-! ## Parts of the state after an update -/

@[simp] theorem State.ctx_setCtx (s : State) (t : Nat) (c : Ctx) : (s.setCtx t c).ctx t = c := look_put_self ..
theorem State.ctx_setCtx_other (s : State) {j t : Nat} (c : Ctx) (h' : j ≠ t) : (s.setCtx t c).ctx j = s.ctx j :=
  look_put_other _ _ _ h'
@[simp] theorem State.ctx_modCtx (s : State) (n : Nat) (g : Ctx → Ctx) : (s.modCtx n g).ctx n = g (s.ctx n) := look_put_self ..
theorem State.ctx_modCtx_other (s : State) {j n : Nat} (g : Ctx → Ctx) (h' : j ≠ n) : (s.modCtx n g).ctx j = s.ctx j :=
  look_put_other _ _ _ h'
theorem State.modCtx_modCtx (s : State) (n : Nat) (g h : Ctx → Ctx) : (s.modCtx n g).modCtx n h = s.modCtx n (fun x => h (g x)) := by
  simp only [State.modCtx, State.setCtx, State.ctx, put_put, look_put_self]
@[simp] theorem State.ctx_setCore (s : State) (j n : Nat) (c : Core) : (s.setCore n c).ctx j = s.ctx j := rfl
@[simp] theorem State.ctx_modCore (s : State) (j n : Nat) (g : Core → Core) : (s.modCore n g).ctx j = s.ctx j := rfl
@[simp] theorem State.ctx_setField (s : State) (j n : Nat) (f : Field) : (s.setField n f).ctx j = s.ctx j := rfl
@[simp] theorem State.ctx_modField (s : State) (j n : Nat) (g : Field → Field) : (s.modField n g).ctx j = s.ctx j := rfl
@[simp] theorem State.ctx_setStack (s : State) (j n : Nat) (k : Stack) : (s.setStack n k).ctx j = s.ctx j := rfl
@[simp] theorem State.ctx_modStack (s : State) (j n : Nat) (g : Stack → Stack) : (s.modStack n g).ctx j = s.ctx j := rfl
@[simp] theorem State.ctx_setPart (s : State) (j n : Nat) (p : Part) : (s.setPart n p).ctx j = s.ctx j := rfl
@[simp] theorem State.ctx_modPart (s : State) (j n : Nat) (g : Part → Part) : (s.modPart n g).ctx j = s.ctx j := rfl
@[simp] theorem State.ctx_setHart (s : State) (j n : Nat) (h : Hart) : (s.setHart n h).ctx j = s.ctx j := rfl
@[simp] theorem State.ctx_post (s : State) (j : Nat) (i : Instr) : (s.post i).ctx j = s.ctx j := rfl

@[simp] theorem State.core_setCore (s : State) (n : Nat) (c : Core) : (s.setCore n c).core n = c := look_put_self ..
theorem State.core_setCore_other (s : State) {j n : Nat} (c : Core) (h' : j ≠ n) : (s.setCore n c).core j = s.core j :=
  look_put_other _ _ _ h'
@[simp] theorem State.core_modCore (s : State) (n : Nat) (g : Core → Core) : (s.modCore n g).core n = g (s.core n) := look_put_self ..
theorem State.core_modCore_other (s : State) {j n : Nat} (g : Core → Core) (h' : j ≠ n) : (s.modCore n g).core j = s.core j :=
  look_put_other _ _ _ h'
theorem State.modCore_modCore (s : State) (n : Nat) (g h : Core → Core) : (s.modCore n g).modCore n h = s.modCore n (fun x => h (g x)) := by
  simp only [State.modCore, State.setCore, State.core, put_put, look_put_self]
@[simp] theorem State.core_setCtx (s : State) (j t : Nat) (c : Ctx) : (s.setCtx t c).core j = s.core j := rfl
@[simp] theorem State.core_modCtx (s : State) (j n : Nat) (g : Ctx → Ctx) : (s.modCtx n g).core j = s.core j := rfl
@[simp] theorem State.core_setField (s : State) (j n : Nat) (f : Field) : (s.setField n f).core j = s.core j := rfl
@[simp] theorem State.core_modField (s : State) (j n : Nat) (g : Field → Field) : (s.modField n g).core j = s.core j := rfl
@[simp] theorem State.core_setStack (s : State) (j n : Nat) (k : Stack) : (s.setStack n k).core j = s.core j := rfl
@[simp] theorem State.core_modStack (s : State) (j n : Nat) (g : Stack → Stack) : (s.modStack n g).core j = s.core j := rfl
@[simp] theorem State.core_setPart (s : State) (j n : Nat) (p : Part) : (s.setPart n p).core j = s.core j := rfl
@[simp] theorem State.core_modPart (s : State) (j n : Nat) (g : Part → Part) : (s.modPart n g).core j = s.core j := rfl
@[simp] theorem State.core_setHart (s : State) (j n : Nat) (h : Hart) : (s.setHart n h).core j = s.core j := rfl
@[simp] theorem State.core_post (s : State) (j : Nat) (i : Instr) : (s.post i).core j = s.core j := rfl

@[simp] theorem State.field_setField (s : State) (n : Nat) (f : Field) : (s.setField n f).field n = f := look_put_self ..
theorem State.field_setField_other (s : State) {j n : Nat} (f : Field) (h' : j ≠ n) : (s.setField n f).field j = s.field j :=
  look_put_other _ _ _ h'
@[simp] theorem State.field_modField (s : State) (n : Nat) (g : Field → Field) : (s.modField n g).field n = g (s.field n) := look_put_self ..
theorem State.field_modField_other (s : State) {j n : Nat} (g : Field → Field) (h' : j ≠ n) : (s.modField n g).field j = s.field j :=
  look_put_other _ _ _ h'
theorem State.modField_modField (s : State) (n : Nat) (g h : Field → Field) : (s.modField n g).modField n h = s.modField n (fun x => h (g x)) := by
  simp only [State.modField, State.setField, State.field, put_put, look_put_self]
@[simp] theorem State.field_setCtx (s : State) (j t : Nat) (c : Ctx) : (s.setCtx t c).field j = s.field j := rfl
@[simp] theorem State.field_modCtx (s : State) (j n : Nat) (g : Ctx → Ctx) : (s.modCtx n g).field j = s.field j := rfl
@[simp] theorem State.field_setCore (s : State) (j n : Nat) (c : Core) : (s.setCore n c).field j = s.field j := rfl
@[simp] theorem State.field_modCore (s : State) (j n : Nat) (g : Core → Core) : (s.modCore n g).field j = s.field j := rfl
@[simp] theorem State.field_setStack (s : State) (j n : Nat) (k : Stack) : (s.setStack n k).field j = s.field j := rfl
@[simp] theorem State.field_modStack (s : State) (j n : Nat) (g : Stack → Stack) : (s.modStack n g).field j = s.field j := rfl
@[simp] theorem State.field_setPart (s : State) (j n : Nat) (p : Part) : (s.setPart n p).field j = s.field j := rfl
@[simp] theorem State.field_modPart (s : State) (j n : Nat) (g : Part → Part) : (s.modPart n g).field j = s.field j := rfl
@[simp] theorem State.field_setHart (s : State) (j n : Nat) (h : Hart) : (s.setHart n h).field j = s.field j := rfl
@[simp] theorem State.field_post (s : State) (j : Nat) (i : Instr) : (s.post i).field j = s.field j := rfl

@[simp] theorem State.stack_setStack (s : State) (n : Nat) (k : Stack) : (s.setStack n k).stack n = k := look_put_self ..
theorem State.stack_setStack_other (s : State) {j n : Nat} (k : Stack) (h' : j ≠ n) : (s.setStack n k).stack j = s.stack j :=
  look_put_other _ _ _ h'
@[simp] theorem State.stack_modStack (s : State) (n : Nat) (g : Stack → Stack) : (s.modStack n g).stack n = g (s.stack n) := look_put_self ..
theorem State.stack_modStack_other (s : State) {j n : Nat} (g : Stack → Stack) (h' : j ≠ n) : (s.modStack n g).stack j = s.stack j :=
  look_put_other _ _ _ h'
theorem State.modStack_modStack (s : State) (n : Nat) (g h : Stack → Stack) : (s.modStack n g).modStack n h = s.modStack n (fun x => h (g x)) := by
  simp only [State.modStack, State.setStack, State.stack, put_put, look_put_self]
@[simp] theorem State.stack_setCtx (s : State) (j t : Nat) (c : Ctx) : (s.setCtx t c).stack j = s.stack j := rfl
@[simp] theorem State.stack_modCtx (s : State) (j n : Nat) (g : Ctx → Ctx) : (s.modCtx n g).stack j = s.stack j := rfl
@[simp] theorem State.stack_setCore (s : State) (j n : Nat) (c : Core) : (s.setCore n c).stack j = s.stack j := rfl
@[simp] theorem State.stack_modCore (s : State) (j n : Nat) (g : Core → Core) : (s.modCore n g).stack j = s.stack j := rfl
@[simp] theorem State.stack_setField (s : State) (j n : Nat) (f : Field) : (s.setField n f).stack j = s.stack j := rfl
@[simp] theorem State.stack_modField (s : State) (j n : Nat) (g : Field → Field) : (s.modField n g).stack j = s.stack j := rfl
@[simp] theorem State.stack_setPart (s : State) (j n : Nat) (p : Part) : (s.setPart n p).stack j = s.stack j := rfl
@[simp] theorem State.stack_modPart (s : State) (j n : Nat) (g : Part → Part) : (s.modPart n g).stack j = s.stack j := rfl
@[simp] theorem State.stack_setHart (s : State) (j n : Nat) (h : Hart) : (s.setHart n h).stack j = s.stack j := rfl
@[simp] theorem State.stack_post (s : State) (j : Nat) (i : Instr) : (s.post i).stack j = s.stack j := rfl

@[simp] theorem State.part_setPart (s : State) (n : Nat) (p : Part) : (s.setPart n p).part n = p := look_put_self ..
theorem State.part_setPart_other (s : State) {j n : Nat} (p : Part) (h' : j ≠ n) : (s.setPart n p).part j = s.part j :=
  look_put_other _ _ _ h'
@[simp] theorem State.part_modPart (s : State) (n : Nat) (g : Part → Part) : (s.modPart n g).part n = g (s.part n) := look_put_self ..
theorem State.part_modPart_other (s : State) {j n : Nat} (g : Part → Part) (h' : j ≠ n) : (s.modPart n g).part j = s.part j :=
  look_put_other _ _ _ h'
theorem State.modPart_modPart (s : State) (n : Nat) (g h : Part → Part) : (s.modPart n g).modPart n h = s.modPart n (fun x => h (g x)) := by
  simp only [State.modPart, State.setPart, State.part, put_put, look_put_self]
@[simp] theorem State.part_setCtx (s : State) (j t : Nat) (c : Ctx) : (s.setCtx t c).part j = s.part j := rfl
@[simp] theorem State.part_modCtx (s : State) (j n : Nat) (g : Ctx → Ctx) : (s.modCtx n g).part j = s.part j := rfl
@[simp] theorem State.part_setCore (s : State) (j n : Nat) (c : Core) : (s.setCore n c).part j = s.part j := rfl
@[simp] theorem State.part_modCore (s : State) (j n : Nat) (g : Core → Core) : (s.modCore n g).part j = s.part j := rfl
@[simp] theorem State.part_setField (s : State) (j n : Nat) (f : Field) : (s.setField n f).part j = s.part j := rfl
@[simp] theorem State.part_modField (s : State) (j n : Nat) (g : Field → Field) : (s.modField n g).part j = s.part j := rfl
@[simp] theorem State.part_setStack (s : State) (j n : Nat) (k : Stack) : (s.setStack n k).part j = s.part j := rfl
@[simp] theorem State.part_modStack (s : State) (j n : Nat) (g : Stack → Stack) : (s.modStack n g).part j = s.part j := rfl
@[simp] theorem State.part_setHart (s : State) (j n : Nat) (h : Hart) : (s.setHart n h).part j = s.part j := rfl
@[simp] theorem State.part_post (s : State) (j : Nat) (i : Instr) : (s.post i).part j = s.part j := rfl

@[simp] theorem State.hart_setHart (s : State) (n : Nat) (h : Hart) : (s.setHart n h).hart n = h := look_put_self ..
theorem State.hart_setHart_other (s : State) {j n : Nat} (h : Hart) (h' : j ≠ n) : (s.setHart n h).hart j = s.hart j :=
  look_put_other _ _ _ h'
@[simp] theorem State.hart_setCtx (s : State) (j t : Nat) (c : Ctx) : (s.setCtx t c).hart j = s.hart j := rfl
@[simp] theorem State.hart_modCtx (s : State) (j n : Nat) (g : Ctx → Ctx) : (s.modCtx n g).hart j = s.hart j := rfl
@[simp] theorem State.hart_setCore (s : State) (j n : Nat) (c : Core) : (s.setCore n c).hart j = s.hart j := rfl
@[simp] theorem State.hart_modCore (s : State) (j n : Nat) (g : Core → Core) : (s.modCore n g).hart j = s.hart j := rfl
@[simp] theorem State.hart_setField (s : State) (j n : Nat) (f : Field) : (s.setField n f).hart j = s.hart j := rfl
@[simp] theorem State.hart_modField (s : State) (j n : Nat) (g : Field → Field) : (s.modField n g).hart j = s.hart j := rfl
@[simp] theorem State.hart_setStack (s : State) (j n : Nat) (k : Stack) : (s.setStack n k).hart j = s.hart j := rfl
@[simp] theorem State.hart_modStack (s : State) (j n : Nat) (g : Stack → Stack) : (s.modStack n g).hart j = s.hart j := rfl
@[simp] theorem State.hart_setPart (s : State) (j n : Nat) (p : Part) : (s.setPart n p).hart j = s.hart j := rfl
@[simp] theorem State.hart_modPart (s : State) (j n : Nat) (g : Part → Part) : (s.modPart n g).hart j = s.hart j := rfl
@[simp] theorem State.hart_post (s : State) (j : Nat) (i : Instr) : (s.post i).hart j = s.hart j := rfl

end Sys2Proof.Machine
end

