-- ==== Sys2Proof/Laws/Operands.lean ====
section
/-! SUPPORT. Operands: what each class of codes reads and writes (R142, R146, R163), and the registers
of a context after one is written. -/

namespace Sys2Proof.Machine

open Sys2Proof

/-! ## Classes of operand codes -/

theorem inR_true {lo hi : Nat} {c : BitVec 8} (h1 : lo ≤ c.toNat) (h2 : c.toNat ≤ hi) : inR lo hi c = true := by
  simp [inR, h1, h2]
theorem inR_false {lo hi : Nat} {c : BitVec 8} (h : c.toNat < lo ∨ hi < c.toNat) : inR lo hi c = false := by
  simp only [inR, Bool.and_eq_false_iff, decide_eq_false_iff_not]; omega

/-! ## Registers -/

theorem Ctx.x_zero (x : Ctx) : x.x 0 = 0 := rfl
theorem Ctx.setX_zero (x : Ctx) (v : Word) : x.setX 0 v = x := rfl

/-- Two registers of one window stand at different places. -/
theorem xPlace_inj {wb n m : Nat} (h : xPlace wb n = xPlace wb m) : n = m := by
  unfold xPlace at h; split at h <;> split at h <;> omega

theorem Ctx.x_setX (x : Ctx) {n : Nat} (h : n ≠ 0) (v : Word) : (x.setX n v).x n = v := by
  simp [Ctx.setX, Ctx.x, h]

theorem Ctx.x_setX_other (x : Ctx) {n m : Nat} (h : m ≠ n) (v : Word) : (x.setX n v).x m = x.x m := by
  by_cases hn : n = 0
  · subst hn; rfl
  · by_cases hm : m = 0
    · subst hm; rfl
    · simp only [Ctx.setX, Ctx.x, if_neg hn, if_neg hm]
      exact look_put_other _ _ _ (fun e => h (xPlace_inj e))

/-- Writing a predicate changes no other. -/
theorem Ctx.p_setP_other (x : Ctx) {n m : Nat} (h : m ≠ n) (b : Bool) : (x.setP n b).p m = x.p m := by
  unfold Ctx.setP
  split
  · rfl
  · unfold Ctx.p
    congr 1
    by_cases h8 : m < 8
    · have hd : m < n ∨ m - n ≠ 0 := by omega
      cases b <;> rcases hd with hd | hd <;> simp [h8, hd]
    · rw [BitVec.getLsbD_of_ge _ _ (by omega), BitVec.getLsbD_of_ge _ _ (by omega)]

/-- Writing a predicate changes only the predicates. -/
theorem Ctx.setP_eq (x : Ctx) (n : Nat) (b : Bool) : x.setP n b = { x with preds := (x.setP n b).preds } := by
  unfold Ctx.setP; split <;> rfl

/-- A register takes a value; every other place keeps its own. -/
theorem Ctx.slotVal_setSlot_other (x : Ctx) {sl sm : Slot} (h : sm ≠ sl) (v : Word) :
    (x.setSlot sl v).slotVal sm = x.slotVal sm := by
  cases sl with
  | none => rfl
  | p n =>
    simp only [Ctx.setSlot]
    cases sm with
    | p m => simp only [Ctx.slotVal]; rw [Ctx.p_setP_other]; intro e; exact h (by rw [e])
    | _ => rw [Ctx.setP_eq]; rfl
  | x n =>
    cases sm with
    | x m => simp only [Ctx.setSlot, Ctx.slotVal]; rw [look_put_other]; intro e; exact h (by rw [e])
    | _ => rfl
  | a n =>
    cases sm with
    | a m =>
      simp only [Ctx.setSlot, Ctx.slotVal, Ctx.setA, Ctx.a]; rw [look_put_other]; intro e; exact h (by rw [e])
    | _ => rfl
  | d n =>
    cases sm with
    | d m =>
      simp only [Ctx.setSlot, Ctx.slotVal, Ctx.setD, Ctx.d]; rw [look_put_other]; intro e; exact h (by rw [e])
    | _ => rfl
  | k n =>
    cases sm with
    | k m =>
      simp only [Ctx.setSlot, Ctx.slotVal, Ctx.setK, Ctx.k]; rw [look_put_other]; intro e; exact h (by rw [e])
    | _ => rfl

/-! ## Reading -/

theorem rd_x {x : Ctx} {t : Nat} {imm : BitVec 32} {c : BitVec 8} {s : State} (h : c.toNat < 0x40) :
    rd x t imm c s = .ok ((x.x c.toNat).toNat % 2 ^ tyWidth t) s := by
  unfold rd; rw [if_pos h]; rfl

theorem rd_m {x : Ctx} {t : Nat} {imm : BitVec 32} {c : BitVec 8} {s : State} (h1 : 0x60 ≤ c.toNat) (h2 : c.toNat ≤ 0x6F) :
    rd x t imm c s = .ok ((s.msgWord s.cur (c.toNat - 0x60)).toNat % 2 ^ tyWidth t) s := by
  unfold rd Sys2Proof.isM; rw [if_neg (by omega), if_pos (inR_true h1 h2)]; rfl

theorem rd_imm {x : Ctx} {t : Nat} {imm : BitVec 32} {c : BitVec 8} {s : State} (h : c.toNat = 0x7F) :
    rd x t imm c s = .ok (immVal t imm) s := by
  unfold rd Sys2Proof.isM isPort
  rw [if_neg (by omega), if_neg (by rw [inR_false (by omega)]; simp), if_neg (by rw [inR_false (by omega)]; simp),
    if_neg (by omega), if_pos h]
  rfl

theorem rd_immHigh {x : Ctx} {t : Nat} {imm : BitVec 32} {c : BitVec 8} {s : State} (h : c.toNat = 0x7E) :
    rd x t imm c s = .ok (imm.toNat * 2 ^ 32 % 2 ^ tyWidth t) s := by
  unfold rd Sys2Proof.isM isPort
  rw [if_neg (by omega), if_neg (by rw [inR_false (by omega)]; simp), if_neg (by rw [inR_false (by omega)]; simp), if_pos h]
  rfl

theorem rd_local {x : Ctx} {t : Nat} {imm : BitVec 32} {c : BitVec 8} {s : State} (h1 : 0x80 ≤ c.toNat) (h2 : c.toNat ≤ 0x97) :
    rd x t imm c s = localRead (x.localAddr imm c) (tyBytes t) s := by
  unfold rd Sys2Proof.isM isPort isLocal
  rw [if_neg (by omega), if_neg (by rw [inR_false (by omega)]; simp), if_neg (by rw [inR_false (by omega)]; simp),
    if_neg (by omega), if_neg (by omega), if_pos (inR_true h1 h2)]

theorem rd_k {x : Ctx} {t : Nat} {imm : BitVec 32} {c : BitVec 8} {s : State} (h1 : 0x98 ≤ c.toNat) (h2 : c.toNat ≤ 0x9F) :
    rd x t imm c s = .ok ((x.k (c.toNat - 0x98)).toNat % 2 ^ tyWidth t) s := by
  unfold rd Sys2Proof.isM isPort isLocal isK
  rw [if_neg (by omega), if_neg (by rw [inR_false (by omega)]; simp), if_neg (by rw [inR_false (by omega)]; simp),
    if_neg (by omega), if_neg (by omega), if_neg (by rw [inR_false (by omega)]; simp), if_pos (inR_true h1 h2)]
  rfl

theorem rd_a {x : Ctx} {t : Nat} {imm : BitVec 32} {c : BitVec 8} {s : State} (h1 : 0xA0 ≤ c.toNat) (h2 : c.toNat ≤ 0xA7) :
    rd x t imm c s = .ok ((x.a (c.toNat - 0xA0)).toNat % 2 ^ tyWidth t) s := by
  unfold rd Sys2Proof.isM isPort isLocal isK isA
  rw [if_neg (by omega), if_neg (by rw [inR_false (by omega)]; simp), if_neg (by rw [inR_false (by omega)]; simp),
    if_neg (by omega), if_neg (by omega), if_neg (by rw [inR_false (by omega)]; simp),
    if_neg (by rw [inR_false (by omega)]; simp), if_pos (inR_true h1 h2)]
  rfl

theorem rd_d {x : Ctx} {t : Nat} {imm : BitVec 32} {c : BitVec 8} {s : State} (h1 : 0xA8 ≤ c.toNat) (h2 : c.toNat ≤ 0xAF) :
    rd x t imm c s = .ok (((x.d (c.toNat - 0xA8)).signExtend 64).toNat % 2 ^ tyWidth t) s := by
  unfold rd Sys2Proof.isM isPort isLocal isK isA isAD
  rw [if_neg (by omega), if_neg (by rw [inR_false (by omega)]; simp), if_neg (by rw [inR_false (by omega)]; simp),
    if_neg (by omega), if_neg (by omega), if_neg (by rw [inR_false (by omega)]; simp),
    if_neg (by rw [inR_false (by omega)]; simp), if_neg (by rw [inR_false (by omega)]; simp),
    if_pos (inR_true (by omega) h2)]
  rfl

theorem rd_p {x : Ctx} {t : Nat} {imm : BitVec 32} {c : BitVec 8} {s : State} (h1 : 0xB0 ≤ c.toNat) (h2 : c.toNat ≤ 0xB7) :
    rd x t imm c s = .ok (b2w (x.p (c.toNat - 0xB0))).toNat s := by
  unfold rd Sys2Proof.isM isPort isLocal isK isA isAD isP
  rw [if_neg (by omega), if_neg (by rw [inR_false (by omega)]; simp), if_neg (by rw [inR_false (by omega)]; simp),
    if_neg (by omega), if_neg (by omega), if_neg (by rw [inR_false (by omega)]; simp),
    if_neg (by rw [inR_false (by omega)]; simp), if_neg (by rw [inR_false (by omega)]; simp),
    if_neg (by rw [inR_false (by omega)]; simp), if_pos (inR_true h1 h2)]
  rfl

/-! ## Writing -/

/-- A register destination: the place named at issue takes the extended result. -/
theorem wr_register {x : Ctx} {t : Nat} {imm : BitVec 32} {c : BitVec 8} {v : Nat} {s : State}
    (h1 : isLocal c = false) (h2 : isPort c = false) :
    wr x t imm c v s = .ok () (s.onMe (fun y => y.setSlot (x.slotOf c) (extendTy t v))) := by
  unfold wr; simp only [h1, h2, Bool.false_eq_true, if_false]; rfl

/-- A local destination. -/
theorem wr_local {x : Ctx} {t : Nat} {imm : BitVec 32} {c : BitVec 8} {v : Nat} {s : State} (h : isLocal c = true) :
    wr x t imm c v s = localWrite (x.localAddr imm c) (tyBytes t) (v % 2 ^ tyWidth t) s := by
  unfold wr; simp only [h, if_true]

/-! ## What reading an operand can change: the port queues of cores -/

/-- A state that differs from another only in its cores. -/
def State.onlyCores (s u : State) : Prop := { u with cores := s.cores } = s

theorem State.onlyCores_refl (s : State) : s.onlyCores s := rfl
theorem State.onlyCores_trans {s u w : State} (h : s.onlyCores u) (g : u.onlyCores w) : s.onlyCores w := by
  unfold State.onlyCores at *; rw [← h, ← g]

theorem M.pure_ok {α : Type} {a b : α} {s u : State} (h : (pure a : M α) s = .ok b u) : u = s ∧ b = a := by
  cases h; exact ⟨rfl, rfl⟩

theorem portRead_frame {p : Nat} {v : Vec} {s u : State} (h : portRead p s = .ok v u) : s.onlyCores u := by
  simp only [portRead, M.run_bind, M.run_ask, M.run_waitFor, M.run_getCore] at h
  cases hp : s.ownVaultOpen s.cur
  · simp only [hp, Bool.not_false, if_true] at h
    cases hq : look (s.core (coreOf s.cur)).ports p []
    · rw [hq] at h; cases h
    · rw [hq] at h
      cases h
      rfl
  · simp [hp] at h

theorem localLoc_frame {a : Word} {n l : Nat} {st : Bool} {s u : State} (h : localLoc a n st s = .ok l u) :
    u = s ∧ ∃ o, s.vaultOff? s.cur a.toNat = some o ∧ l = s.vaultLoc (coreOf s.cur) o := by
  simp only [localLoc, M.run_bind, M.run_get] at h
  cases hf : s.localFault s.cur a.toNat n n
  · cases ho : s.vaultOff? s.cur a.toNat
    · simp only [hf, ho] at h; cases h
    · simp only [hf, ho, M.run_bind, M.run_waitFor] at h
      split at h
      · rename_i h1
        split at h1
        · cases h1
          split at h
          · rename_i h2
            split at h2
            · cases h2
              split at h
              · cases h
              · cases h
                exact ⟨rfl, _, rfl, rfl⟩
            · cases h2
          · cases h
        · cases h1
      · cases h
  · simp only [hf] at h; cases h

theorem localRead_frame {a : Word} {n v : Nat} {s u : State} (h : localRead a n s = .ok v u) : u = s := by
  simp only [localRead, M.run_bind, M.run_ask] at h
  split at h
  · rename_i h1
    obtain ⟨rfl, -⟩ := localLoc_frame h1
    cases h
    rfl
  · cases h

theorem rd_frame {x : Ctx} {t : Nat} {imm : BitVec 32} {c : BitVec 8} {v : Nat} {s u : State}
    (h : rd x t imm c s = .ok v u) : s.onlyCores u := by
  unfold rd at h
  dsimp only at h
  split at h
  · rw [(M.pure_ok h).1]; rfl
  split at h
  · simp only [M.run_bind, M.run_ask, M.run_pure] at h
    cases h
    rfl
  split at h
  · simp only [M.run_bind, M.run_pure] at h
    split at h
    · rename_i h1
      cases h
      exact portRead_frame h1
    · cases h
  split at h
  · rw [(M.pure_ok h).1]; rfl
  split at h
  · rw [(M.pure_ok h).1]; rfl
  split at h
  · have := localRead_frame h; subst this; rfl
  split at h
  · rw [(M.pure_ok h).1]; rfl
  split at h
  · rw [(M.pure_ok h).1]; rfl
  split at h
  · rw [(M.pure_ok h).1]; rfl
  split at h
  · rw [(M.pure_ok h).1]; rfl
  · cases h

theorem rdAll_frame {x : Ctx} {imm : BitVec 32} {l : List (Nat × BitVec 8)} {vs : List Nat} {s u : State}
    (h : rdAll x imm l s = .ok vs u) : s.onlyCores u := by
  induction l generalizing s vs with
  | nil => obtain ⟨-, rfl⟩ := rdAll_nil h; rfl
  | cons e l ih =>
    obtain ⟨t, c⟩ := e
    obtain ⟨v, s1, ws, h1, h2, -⟩ := rdAll_cons h
    exact State.onlyCores_trans (rd_frame h1) (ih h2)

theorem rdV_frame {x : Ctx} {imm : BitVec 32} {c : BitVec 8} {v : Nat} {s u : State}
    (h : rdV x imm c s = .ok v u) : s.onlyCores u := by
  unfold rdV at h
  split at h
  · simp only [M.run_bind, M.run_pure] at h
    split at h
    · rename_i h1
      cases h
      exact portRead_frame h1
    · cases h
  · split at h
    · have := localRead_frame h; subst this; rfl
    · cases h; rfl

theorem rdLanes_frame {x : Ctx} {t : Nat} {imm : BitVec 32} {c : BitVec 8} {v : Nat → Nat} {s u : State}
    (h : rdLanes x t imm c s = .ok v u) : s.onlyCores u := by
  unfold rdLanes at h
  split at h <;> simp only [M.run_bind, M.run_pure] at h <;> split at h
  · rename_i h1
    cases h
    exact rdV_frame h1
  · cases h
  · rename_i h1
    cases h
    exact rd_frame h1
  · cases h

end Sys2Proof.Machine
end

