-- ==== Sys2Proof/Laws/Frames.lean ====
section
/-! SUPPORT. What an instruction leaves as it is: operands take entries from port queues only, and an instruction that
changes its context alone changes nothing else. -/

namespace Sys2Proof.Machine

open Sys2Proof

/-! ## Reading operands -/

/-- State u is s but for port queues that some codes read. -/
def State.readOnly (s u : State) (codes : List (BitVec 8)) : Prop :=
  s.onlyCores u ∧ (∀ c, { u.core c with ports := (s.core c).ports } = s.core c) ∧ s.keepsPorts u codes

theorem State.onlyCores_cur {s u : State} (h : s.onlyCores u) : u.cur = s.cur := by
  unfold State.onlyCores at h; rw [← h]
theorem State.onlyCores_ctx {s u : State} (h : s.onlyCores u) (t : Nat) : u.ctx t = s.ctx t := by
  unfold State.onlyCores at h; rw [← h]; rfl
theorem State.onlyCores_mem {s u : State} (h : s.onlyCores u) : u.mem = s.mem := by
  unfold State.onlyCores at h; rw [← h]
theorem State.onlyCores_agenda {s u : State} (h : s.onlyCores u) : u.agenda = s.agenda := by
  unfold State.onlyCores at h; rw [← h]

theorem State.readOnly_refl (s : State) (codes : List (BitVec 8)) : s.readOnly s codes :=
  ⟨rfl, fun _ => rfl, fun _ _ _ => rfl⟩

theorem State.readOnly_mono {s u : State} {a b : List (BitVec 8)} (h : s.readOnly u a) (g : ∀ c ∈ a, c ∈ b) : s.readOnly u b :=
  ⟨h.1, h.2.1, fun c p n => h.2.2 c p (fun ⟨e, r, hr, h1⟩ => n ⟨e, r, g r hr, h1⟩)⟩

theorem State.readOnly_trans {s u w : State} {a b : List (BitVec 8)} (h : s.readOnly u a) (g : u.readOnly w b) :
    s.readOnly w (a ++ b) := by
  refine ⟨State.onlyCores_trans h.1 g.1, fun c => ?_, fun c p n => ?_⟩
  · rw [← h.2.1 c, ← g.2.1 c]
  · rw [g.2.2 c p (fun ⟨e, r, hr, h1⟩ => n ⟨by rw [e, State.onlyCores_cur h.1], r, by simp [hr], h1⟩),
      h.2.2 c p (fun ⟨e, r, hr, h1⟩ => n ⟨e, r, by simp [hr], h1⟩)]

/-- An entry is taken from one port queue of the own core. -/
theorem portRead_reads {c : BitVec 8} {v : Vec} {s u : State} (hc : isPort c = true) (h : portRead (c.toNat - 0x70) s = .ok v u) :
    s.readOnly u [c] := by
  simp only [portRead, M.run_bind, M.run_ask, M.run_waitFor, M.run_getCore] at h
  cases hp : s.ownVaultOpen s.cur
  · simp only [hp, Bool.not_false, if_true] at h
    cases hq : look (s.core (coreOf s.cur)).ports (c.toNat - 0x70) [] with
    | nil => rw [hq] at h; cases h
    | cons e es =>
      rw [hq] at h
      simp only [M.run_bind, M.run_modCore, M.run_pure] at h
      cases h
      refine ⟨rfl, fun k => ?_, fun k p n => ?_⟩
      · by_cases hk : k = coreOf s.cur
        · subst hk; rw [State.core_modCore]
        · rw [State.core_modCore_other _ _ hk]
      · by_cases hk : k = coreOf s.cur
        · subst hk
          rw [State.core_modCore]
          exact look_put_other _ _ _ (fun e => n ⟨rfl, c, by simp, hc, e⟩)
        · rw [State.core_modCore_other _ _ hk]
  · simp [hp] at h

theorem rd_reads {x : Ctx} {t : Nat} {imm : BitVec 32} {c : BitVec 8} {v : Nat} {s u : State}
    (h : rd x t imm c s = .ok v u) : s.readOnly u [c] := by
  unfold rd at h
  dsimp only at h
  split at h
  · rw [(M.pure_ok h).1]; exact s.readOnly_refl _
  split at h
  · simp only [M.run_bind, M.run_ask, M.run_pure] at h
    cases h
    exact s.readOnly_refl _
  split at h
  · rename_i hp
    simp only [M.run_bind, M.run_pure] at h
    split at h
    · rename_i h1
      cases h
      exact portRead_reads hp h1
    · cases h
  split at h
  · rw [(M.pure_ok h).1]; exact s.readOnly_refl _
  split at h
  · rw [(M.pure_ok h).1]; exact s.readOnly_refl _
  split at h
  · have := localRead_frame h; subst this; exact State.readOnly_refl _ _
  split at h
  · rw [(M.pure_ok h).1]; exact s.readOnly_refl _
  split at h
  · rw [(M.pure_ok h).1]; exact s.readOnly_refl _
  split at h
  · rw [(M.pure_ok h).1]; exact s.readOnly_refl _
  split at h
  · rw [(M.pure_ok h).1]; exact s.readOnly_refl _
  · cases h

theorem rd64_reads {x : Ctx} {imm : BitVec 32} {c : BitVec 8} {v : Word} {s u : State}
    (h : rd64 x imm c s = .ok v u) : s.readOnly u [c] := by
  simp only [rd64, M.run_bind, M.run_pure] at h
  split at h
  · rename_i h1
    cases h
    exact rd_reads h1
  · cases h

theorem rdAll_reads {x : Ctx} {imm : BitVec 32} {l : List (Nat × BitVec 8)} {vs : List Nat} {s u : State}
    (h : rdAll x imm l s = .ok vs u) : s.readOnly u (l.map Prod.snd) := by
  induction l generalizing s vs with
  | nil => obtain ⟨-, rfl⟩ := rdAll_nil h; exact State.readOnly_refl _ _
  | cons e l ih =>
    obtain ⟨t, c⟩ := e
    obtain ⟨v, s1, ws, h1, h2, -⟩ := rdAll_cons h
    exact State.readOnly_trans (rd_reads h1) (ih h2)

theorem rdV_reads {x : Ctx} {imm : BitVec 32} {c : BitVec 8} {v : Nat} {s u : State}
    (h : rdV x imm c s = .ok v u) : s.readOnly u [c] := by
  unfold rdV at h
  split at h
  · rename_i hp
    simp only [M.run_bind, M.run_pure] at h
    split at h
    · rename_i h1
      cases h
      exact portRead_reads hp h1
    · cases h
  · split at h
    · have := localRead_frame h; subst this; exact State.readOnly_refl _ _
    · cases h; exact State.readOnly_refl _ _

theorem rdLanes_reads {x : Ctx} {t : Nat} {imm : BitVec 32} {c : BitVec 8} {v : Nat → Nat} {s u : State}
    (h : rdLanes x t imm c s = .ok v u) : s.readOnly u [c] := by
  unfold rdLanes at h
  split at h <;> simp only [M.run_bind, M.run_pure] at h <;> split at h
  · rename_i h1
    cases h
    exact rdV_reads h1
  · cases h
  · rename_i h1
    cases h
    exact rd_reads h1
  · cases h

/-! ## An instruction that changes its context alone -/

/-- State u is s but for its current context, which is y. -/
def State.isWith (s u : State) (y : Ctx) : Prop :=
  { u with ctxs := s.ctxs } = s ∧ (∀ t, t ≠ s.cur → u.ctx t = s.ctx t) ∧ u.ctx s.cur = y

theorem State.isWith_refl (s : State) : s.isWith s s.me := ⟨rfl, fun _ _ => rfl, rfl⟩

theorem State.isWith_cur {s u : State} {y : Ctx} (h : s.isWith u y) : u.cur = s.cur := by rw [← h.1]

theorem State.isWith_onMe {s u : State} {y : Ctx} (g : Ctx → Ctx) (h : s.isWith u y) : s.isWith (u.onMe g) (g y) := by
  have hc := State.isWith_cur h
  refine ⟨?_, fun t ht => ?_, ?_⟩
  · rw [← h.1]; rfl
  · rw [State.onMe, State.ctx_modCtx_other _ _ (by rw [hc]; exact ht), h.2.1 t ht]
  · rw [State.onMe, hc, State.ctx_modCtx, h.2.2]

theorem State.isWith_bumped {s u : State} {y : Ctx} (cs : List (BitVec 8)) (h : s.isWith u y) : s.isWith (u.bumped cs) (y.bump cs) :=
  State.isWith_onMe _ h

/-- An increment changes only bases of (aK)+ codes. -/
theorem Ctx.bump_keeps (x : Ctx) (cs : List (BitVec 8)) : x.keepsRegisters (x.bump cs) .none cs ∧
    x.bump cs = { x with as := (x.bump cs).as } := by
  suffices h : ∀ (l : List (BitVec 8)) (y : Ctx), (∀ c ∈ l, c ∈ cs) → x.keepsRegisters y .none cs → y = { x with as := y.as } →
      let z := l.foldl (fun (y : Ctx) c => if inR 0x88 0x8F c then y.setA (c.toNat - 0x88) (y.a (c.toNat - 0x88) +
        (x.d (c.toNat - 0x88)).signExtend 64) else y) y
      x.keepsRegisters z .none cs ∧ z = { x with as := z.as } from
    h cs x (fun _ h => h) (fun _ _ _ => rfl) rfl
  intro l
  induction l with
  | nil => intro y _ h1 h2; exact ⟨h1, h2⟩
  | cons c l ih =>
    intro y hl h1 h2
    simp only [List.foldl_cons]
    apply ih
    · exact fun c hc => hl c (List.mem_cons_of_mem _ hc)
    · split
      · rename_i hi
        intro sl hn hb
        rw [← h1 sl hn hb]
        have : sl ≠ .a (c.toNat - 0x88) := fun e => hb ⟨c, hl c (by simp), hi, e⟩
        exact Ctx.slotVal_setSlot_other y (sl := .a (c.toNat - 0x88)) this _
      · exact h1
    · split
      · rw [h2]; rfl
      · exact h2

theorem Ctx.sameButRegisters_refl (x : Ctx) : x.sameButRegisters x := rfl

theorem Ctx.sameButRegisters_trans {x y z : Ctx} (h : x.sameButRegisters y) (g : y.sameButRegisters z) : x.sameButRegisters z := by
  unfold Ctx.sameButRegisters at *
  rw [show ({ z with xs := x.xs, as := x.as, ds := x.ds, ks := x.ks, preds := x.preds, vs := x.vs, fpst := x.fpst, pc := x.pc, loops := x.loops, vins := x.vins, issued := x.issued, stallAt := x.stallAt, pend := x.pend, lone := x.lone } : Ctx) =
    { ({ z with xs := y.xs, as := y.as, ds := y.ds, ks := y.ks, preds := y.preds, vs := y.vs, fpst := y.fpst, pc := y.pc, loops := y.loops, vins := y.vins, issued := y.issued, stallAt := y.stallAt, pend := y.pend, lone := y.lone } : Ctx) with xs := x.xs, as := x.as, ds := x.ds, ks := x.ks, preds := x.preds, vs := x.vs, fpst := x.fpst, pc := x.pc, loops := x.loops, vins := x.vins, issued := x.issued, stallAt := x.stallAt, pend := x.pend, lone := x.lone } from rfl, g]
  exact h

/-- How the end of an instruction leaves its context. -/
theorem Ctx.retire_keeps (y : Ctx) (ctl : Ctl) :
    y.sameButRegisters (y.retire ctl) ∧ (∀ sl, (y.retire ctl).slotVal sl = y.slotVal sl) ∧ (y.retire ctl).fpst = y.fpst ∧
      (y.retire ctl).vs = y.vs := by
  unfold Ctx.retire
  split
  · exact ⟨rfl, fun _ => rfl, rfl, rfl⟩
  · exact ⟨rfl, fun sl => by cases sl <;> rfl, rfl, rfl⟩
  · split
    · exact ⟨rfl, fun sl => by cases sl <;> rfl, rfl, rfl⟩
    · exact ⟨rfl, fun sl => by cases sl <;> rfl, rfl, rfl⟩

/-- Flags are raised for the current context. -/
theorem State.raiseFlags_keeps (s : State) (fl : Flags) :
    ∃ y, (s.raiseFlags s.cur fl).ctx s.cur = y ∧ y = { s.me with fpst := s.me.fpst ||| flagWord fl } ∧
      (∀ t, t ≠ s.cur → (s.raiseFlags s.cur fl).ctx t = s.ctx t) ∧
      { s.raiseFlags s.cur fl with ctxs := s.ctxs, agenda := s.agenda } = s ∧ s.keepsEvents (s.raiseFlags s.cur fl) := by
  unfold State.raiseFlags
  split
  · rename_i h
    subst h
    refine ⟨_, rfl, ?_, fun _ _ => rfl, rfl, .inl rfl⟩
    have : s.me.fpst ||| flagWord 0 = s.me.fpst := by simp [flagWord]
    rw [this]; rfl
  · refine ⟨_, rfl, ?_, fun t ht => ?_, rfl, .inr ⟨fl, rfl⟩⟩
    · rw [State.ctx_post, State.ctx_modCtx]; rfl
    · rw [State.ctx_post, State.ctx_modCtx_other _ _ ht]

/-- Operands are read, the own context is changed, flags are raised, the instruction retires: nothing else changes. -/
theorem registersOnly_of {s s1 u : State} {y x : Ctx} {but : Slot} {bumps reads : List (BitVec 8)} {fl : Flags} {ctl : Ctl}
    (hr : s.readOnly s1 reads) (hw : s1.isWith u y) (hx : x.sameButRegisters y) (hk : x.keepsRegisters y but bumps)
    (hf : y.fpst = x.fpst) :
    s.registersOnly ((u.raiseFlags u.cur fl).retired s.cur ctl) x but bumps reads fl ∧
      (((u.raiseFlags u.cur fl).retired s.cur ctl).ctx s.cur).vs = y.vs := by
  have h1 : s1.cur = s.cur := State.onlyCores_cur hr.1
  have h2 : u.cur = s.cur := by rw [State.isWith_cur hw, h1]
  have hme : u.me = y := by rw [State.me, h2, ← h1]; exact hw.2.2
  obtain ⟨z, hz, hz', ho, hs, he⟩ := u.raiseFlags_keeps fl
  rw [hme] at hz'
  generalize hv : u.raiseFlags u.cur fl = v at *
  have hc : (v.retired s.cur ctl).ctx s.cur = z.retire ctl := by
    rw [State.retired, State.ctx_modCtx, ← h2, hz]
  obtain ⟨r1, r2, r3, r4⟩ := z.retire_keeps ctl
  subst hz'
  have hA : { v.retired s.cur ctl with ctxs := s.ctxs, cores := s.cores, agenda := s.agenda } = s := by
    have a1 := hr.1
    unfold State.onlyCores at a1
    have a2 := hw.1
    rw [← a1, ← a2, ← hs]; rfl
  have hag : (v.retired s.cur ctl).agenda = v.agenda := rfl
  have hcr : ∀ c, (v.retired s.cur ctl).core c = s1.core c := by
    intro c
    have a2 := hw.1
    rw [← a2, ← hs]; rfl
  refine ⟨⟨fun a => ?_, fun t ht => ?_, ⟨hA, fun c => by rw [hcr]; exact hr.2.1 c, fun c p n => by rw [hcr]; exact hr.2.2 c p n, ?_⟩,
    ?_, ?_, ?_⟩, ?_⟩
  · rw [State.byteAt, State.byteAt]
    conv => rhs; rw [← hA]
  · rw [State.retired, State.ctx_modCtx_other _ _ ht, ho t (by rw [h2]; exact ht), hw.2.1 t (by rw [h1]; exact ht),
      State.onlyCores_ctx hr.1]
  · rw [State.keepsEvents, hag]
    have a3 : s.agenda = u.agenda := by
      have a1 := State.onlyCores_agenda hr.1
      rw [← a1]
      have a2 := hw.1
      conv => lhs; rw [← a2]
    rw [a3, ← h2]
    exact he
  · rw [hc]
    exact Ctx.sameButRegisters_trans hx (Ctx.sameButRegisters_trans (y := { y with fpst := y.fpst ||| flagWord fl }) rfl r1)
  · intro sl hn hb
    rw [hc, r2, ← hk sl hn hb]
    cases sl <;> rfl
  · rw [hc, r3, hf]
  · rw [hc, r4]

theorem State.raiseFlags_zero (s : State) (t : Nat) : s.raiseFlags t 0 = s := by simp [State.raiseFlags]

/-- The same for an instruction that raises no flag. -/
theorem registersOnly_of' {s s1 u : State} {y x : Ctx} {but : Slot} {bumps reads : List (BitVec 8)} {ctl : Ctl}
    (hr : s.readOnly s1 reads) (hw : s1.isWith u y) (hx : x.sameButRegisters y) (hk : x.keepsRegisters y but bumps)
    (hf : y.fpst = x.fpst) :
    s.registersOnly (u.retired s.cur ctl) x but bumps reads 0 ∧ ((u.retired s.cur ctl).ctx s.cur).vs = y.vs := by
  have h := registersOnly_of (fl := 0) (ctl := ctl) hr hw hx hk hf
  rwa [State.raiseFlags_zero] at h

/-- A register written after increments: what the context keeps. -/
theorem Ctx.setSlot_bump_keeps (x : Ctx) (cs : List (BitVec 8)) (sl : Slot) (v : Word) :
    x.sameButRegisters ((x.bump cs).setSlot sl v) ∧ x.keepsRegisters ((x.bump cs).setSlot sl v) sl cs ∧
      ((x.bump cs).setSlot sl v).fpst = x.fpst ∧ ((x.bump cs).setSlot sl v).vs = x.vs := by
  obtain ⟨h1, h2⟩ := x.bump_keeps cs
  have h3 : x.keepsRegisters ((x.bump cs).setSlot sl v) sl cs := by
    intro sm hn hb
    rw [Ctx.slotVal_setSlot_other _ hn]
    by_cases h0 : sm = .none
    · subst h0; rfl
    · exact h1 sm h0 hb
  refine ⟨?_, h3, ?_, ?_⟩ <;> rw [h2] <;> cases sl <;> (try rfl) <;> simp only [Ctx.setSlot] <;> rw [Ctx.setP_eq] <;> rfl

end Sys2Proof.Machine
end

