-- ==== Sys2Proof/Laws/Landing.lean ====
section
/-! SUPPORT. Landing (R150): what it can change, said once. It changes registers, FPST and the list of
instructions that are not complete, of one context, and sends events to FLAGOR. -/

namespace Sys2Proof.Machine

open Sys2Proof

/-- A context that differs from another only in registers, FPST and instructions that are not complete. -/
def Ctx.landed (x y : Ctx) : Prop :=
  { y with xs := x.xs, as := x.as, ds := x.ds, ks := x.ks, preds := x.preds, vs := x.vs, fpst := x.fpst,
           pend := x.pend } = x

/-- A state that differs from another only in the landed context t and in events on their way. -/
def State.landed (s u : State) (t : Nat) : Prop :=
  { u with ctxs := s.ctxs, agenda := s.agenda } = s ∧ (∀ v, v ≠ t → u.ctx v = s.ctx v) ∧ (s.ctx t).landed (u.ctx t)

theorem Ctx.landed_refl (x : Ctx) : x.landed x := rfl

theorem Ctx.landed_trans {x y z : Ctx} (h : x.landed y) (g : y.landed z) : x.landed z := by
  unfold Ctx.landed at *
  rw [← h, ← g]

theorem State.landed_refl (s : State) (t : Nat) : s.landed s t := ⟨rfl, fun _ _ => rfl, rfl⟩

theorem State.landed_trans {s u w : State} {t : Nat} (h : s.landed u t) (g : u.landed w t) : s.landed w t := by
  obtain ⟨h1, h2, h3⟩ := h
  obtain ⟨g1, g2, g3⟩ := g
  refine ⟨?_, fun v hv => (g2 v hv).trans (h2 v hv), Ctx.landed_trans h3 g3⟩
  rw [← h1, ← g1]

/-- Writing a register lands nothing else. -/
theorem Ctx.landed_setSlot (x : Ctx) (sl : Slot) (v : Word) : x.landed (x.setSlot sl v) := by
  cases sl with
  | p n => simp only [Ctx.setSlot]; rw [Ctx.setP_eq]; rfl
  | _ => rfl

theorem Ctx.landed_land (x : Ctx) (r : Result) : x.landed (x.land r) := by
  cases r with
  | scalar sl v => exact x.landed_setSlot sl v
  | _ => rfl

/-- A function on one context that only lands. -/
theorem State.landed_modCtx (s : State) (t : Nat) {g : Ctx → Ctx} (h : (s.ctx t).landed (g (s.ctx t))) :
    s.landed (s.modCtx t g) t := by
  refine ⟨rfl, fun v hv => ctx_modCtx_other _ _ hv, ?_⟩
  rw [ctx_modCtx]
  exact h

theorem State.landed_raiseFlags (s : State) (t : Nat) (fl : Flags) : s.landed (s.raiseFlags t fl) t := by
  unfold State.raiseFlags
  split
  · exact s.landed_refl t
  · exact s.landed_modCtx t (g := fun x => { x with fpst := x.fpst ||| flagWord fl }) rfl

theorem State.landed_landPend (s : State) (t : Nat) (p : Pend) : s.landed (s.landPend t p) t :=
  State.landed_trans (s.landed_modCtx t (g := fun x => x.land p.result) (Ctx.landed_land _ _))
    (State.landed_raiseFlags _ t _)

/-- Landing changes nothing but what it is for. -/
theorem State.landed_landThese (s : State) (t : Nat) (w : Pend → Bool) : s.landed (s.landThese t w) t := by
  unfold State.landThese
  have key : ∀ (l : List Pend) (u : State), s.landed u t → s.landed (l.foldl (fun s p => s.landPend t p) u) t := by
    intro l
    induction l with
    | nil => intro u h; exact h
    | cons p l ih => intro u h; exact ih _ (State.landed_trans h (u.landed_landPend t p))
  exact key _ _ (s.landed_modCtx t
    (g := fun x => { x with pend := x.pend.filter (fun p => !(w p && p.fault.isNone)) }) rfl)

end Sys2Proof.Machine
end

