-- ==== Sys2Proof/Laws/Memory.lean ====
section
/-! SUPPORT. The memory: read after write, and that every operation keeps the canonical form. -/

namespace Sys2Proof.Machine

open Sys2Proof

/-! ## One byte -/

theorem Memory.above_mono {a b : Nat} {m : Memory} (h : a ≤ b) (g : Memory.above b m = true) : Memory.above a m = true := by
  induction m with
  | nil => rfl
  | cons e m ih =>
    obtain ⟨c, v⟩ := e
    simp only [Memory.above, Bool.and_eq_true, decide_eq_true_eq] at g ⊢
    exact ⟨by omega, ih g.2⟩

/-- An address below all listed ones reads as an unlisted one. -/
theorem Memory.byte_of_above {a : Nat} {m : Memory} (h : Memory.above a m = true) : m.byte a = 0#8 := by
  induction m with
  | nil => rfl
  | cons e m ih =>
    obtain ⟨c, v⟩ := e
    simp only [Memory.above, Bool.and_eq_true, decide_eq_true_eq] at h
    simp only [Memory.byte, if_neg (show ¬ a = c by omega)]
    exact ih h.2

theorem Memory.above_set {a b : Nat} {m : Memory} (v : Byte) (h : Memory.above a m = true) (hb : a < b) :
    Memory.above a (m.set b v) = true := by
  induction m with
  | nil => simp only [Memory.set]; split <;> simp [Memory.above, hb]
  | cons e m ih =>
    obtain ⟨c, w⟩ := e
    have h0 := h
    simp only [Memory.above, Bool.and_eq_true, decide_eq_true_eq] at h
    simp only [Memory.set]
    split
    · split
      · exact h0
      · simp [Memory.above, hb, h.1, h.2]
    · split
      · split
        · exact h.2
        · simp [Memory.above, hb, h.2]
      · simp [Memory.above, h.1, ih h.2]

/-- Writing a byte keeps the canonical form. -/
theorem Memory.wf_set {m : Memory} (a : Nat) (v : Byte) (h : m.wf = true) : (m.set a v).wf = true := by
  induction m with
  | nil => simp only [Memory.set]; split <;> simp_all [Memory.wf, Memory.above]
  | cons e m ih =>
    obtain ⟨c, w⟩ := e
    have h0 := h
    simp only [Memory.wf, Bool.and_eq_true, bne_iff_ne, ne_eq] at h
    obtain ⟨⟨h1, h2⟩, h3⟩ := h
    simp only [Memory.set]
    split
    · rename_i hlt
      split
      · exact h0
      · rename_i hv
        simp [Memory.wf, Memory.above, hv, h1, h2, h3, hlt, Memory.above_mono (Nat.le_of_lt hlt) h2]
    · split
      · rename_i heq
        subst heq
        split
        · exact h3
        · rename_i hv
          simp [Memory.wf, hv, h2, h3]
      · rename_i h4 h5
        simp [Memory.wf, h1, ih h3, Memory.above_set v h2 (show c < a by omega)]

/-- A byte that was written reads as what was written. -/
theorem Memory.byte_set_self {m : Memory} (a : Nat) (v : Byte) (h : m.wf = true) : (m.set a v).byte a = v := by
  induction m with
  | nil => simp only [Memory.set]; split <;> simp_all [Memory.byte]
  | cons e m ih =>
    obtain ⟨c, w⟩ := e
    simp only [Memory.wf, Bool.and_eq_true, bne_iff_ne, ne_eq] at h
    obtain ⟨⟨h1, h2⟩, h3⟩ := h
    simp only [Memory.set]
    split
    · rename_i hlt
      split
      · rename_i hv
        subst hv
        simp only [Memory.byte, if_neg (show ¬ a = c by omega)]
        exact Memory.byte_of_above (Memory.above_mono (Nat.le_of_lt hlt) h2)
      · simp [Memory.byte]
    · split
      · rename_i heq
        subst heq
        split
        · rename_i hv
          subst hv
          exact Memory.byte_of_above h2
        · simp [Memory.byte]
      · rename_i h4 h5
        simp only [Memory.byte, if_neg h5]
        exact ih h3

/-- Every other byte reads as before. -/
theorem Memory.byte_set_other (m : Memory) {a b : Nat} (v : Byte) (h : b ≠ a) : (m.set a v).byte b = m.byte b := by
  induction m with
  | nil => simp only [Memory.set]; split <;> simp [Memory.byte, h]
  | cons e m ih =>
    obtain ⟨c, w⟩ := e
    simp only [Memory.set]
    split
    · split
      · rfl
      · simp [Memory.byte, h]
    · split
      · rename_i heq
        subst heq
        split <;> simp [Memory.byte, h]
      · simp only [Memory.byte, ih]

/-! ## Several bytes -/

theorem Memory.wf_setBytes {m : Memory} (a : Nat) (bs : List Byte) (h : m.wf = true) : (m.setBytes a bs).wf = true := by
  induction bs generalizing a m with
  | nil => exact h
  | cons b bs ih => exact ih _ (Memory.wf_set _ _ h)

theorem Memory.wf_setVal {m : Memory} (a n v : Nat) (h : m.wf = true) : (m.setVal a n v).wf = true :=
  Memory.wf_setBytes _ _ h

/-- Bytes outside those written read as before. -/
theorem Memory.byte_setBytes_other (m : Memory) {a b : Nat} (bs : List Byte) (h : b < a ∨ a + bs.length ≤ b) :
    (m.setBytes a bs).byte b = m.byte b := by
  induction bs generalizing a m with
  | nil => rfl
  | cons x bs ih =>
    simp only [List.length_cons] at h
    simp only [Memory.setBytes]
    rw [ih _ (by omega), Memory.byte_set_other _ _ (by omega)]

theorem Memory.byte_setVal_other (m : Memory) {a b n : Nat} (v : Nat) (h : b < a ∨ a + n ≤ b) :
    (m.setVal a n v).byte b = m.byte b := by
  have hl : (leBytes n v).length = n := by
    induction n generalizing v with
    | zero => rfl
    | succ n ih => simp only [leBytes, List.length_cons]; rw [ih _ (by omega)]
  exact Memory.byte_setBytes_other _ _ (by rw [hl]; exact h)

/-- Bytes that were written read as what was written. -/
theorem Memory.bytes_setBytes {m : Memory} (a : Nat) (bs : List Byte) (h : m.wf = true) :
    (m.setBytes a bs).bytes a bs.length = bs := by
  induction bs generalizing a m with
  | nil => rfl
  | cons x bs ih =>
    simp only [Memory.setBytes, List.length_cons, Memory.bytes]
    rw [ih _ (Memory.wf_set _ _ h), Memory.byte_setBytes_other _ _ (by omega), Memory.byte_set_self _ _ h]

/-! ## Dropping bytes -/

theorem Memory.above_filter {a : Nat} {m : Memory} (p : Host.Cell → Bool) (h : Memory.above a m = true) :
    Memory.above a (m.filter p) = true := by
  induction m with
  | nil => rfl
  | cons e m ih =>
    obtain ⟨c, w⟩ := e
    simp only [Memory.above, Bool.and_eq_true, decide_eq_true_eq] at h
    rw [List.filter_cons]
    split
    · simp only [Memory.above, Bool.and_eq_true, decide_eq_true_eq]
      exact ⟨h.1, ih h.2⟩
    · exact ih h.2

/-- Dropping listed bytes keeps the canonical form. -/
theorem Memory.wf_filter {m : Memory} (p : Host.Cell → Bool) (h : m.wf = true) : Memory.wf (m.filter p) = true := by
  induction m with
  | nil => rfl
  | cons e m ih =>
    obtain ⟨c, w⟩ := e
    simp only [Memory.wf, Bool.and_eq_true] at h
    rw [List.filter_cons]
    split
    · simp only [Memory.wf, Bool.and_eq_true]
      exact ⟨⟨h.1.1, Memory.above_filter p h.1.2⟩, ih h.2⟩
    · exact ih h.2

/-- Writing bytes one after the other keeps it. -/
theorem Memory.wf_foldl {α : Type} (g : Memory → α → Memory) (l : List α) (hg : ∀ m e, m.wf = true → (g m e).wf = true)
    {m : Memory} (h : m.wf = true) : (l.foldl g m).wf = true := by
  induction l generalizing m with
  | nil => exact h
  | cons e l ih => exact ih (hg _ _ h)

end Sys2Proof.Machine
end

