-- ==== Sys2Proof/Laws/Words.lean ====
section
/-! SUPPORT. Little-endian bytes and the decoder: what it reads from the bytes of a word. -/

namespace Sys2Proof

theorem length_leBytes (n v : Nat) : (leBytes n v).length = n := by
  induction n generalizing v with
  | zero => rfl
  | succ n ih => simp [leBytes, ih]

theorem leNat_leBytes (n v : Nat) : leNat (leBytes n v) = v % 256 ^ n := by
  induction n generalizing v with
  | zero => simp [leBytes, leNat, Nat.mod_one]
  | succ n ih =>
    simp only [leBytes, leNat, ih, BitVec.toNat_ofNat]
    rw [show (256 : Nat) ^ (n + 1) = 256 * 256 ^ n by rw [Nat.pow_succ, Nat.mul_comm], Nat.mod_mul]

/-- The decoder reads the word whose bytes stand first. -/
theorem decode_leBytes (w : BitVec 96) (rest : List Byte) :
    decode (leBytes 12 w.toNat ++ rest) = (decodeThread w).map (fun i => (i, rest)) := by
  have hl := length_leBytes 12 w.toNat
  have ht : (leBytes 12 w.toNat ++ rest).take 12 = leBytes 12 w.toNat := by
    rw [List.take_append_of_le_length (by omega), List.take_of_length_le (by omega)]
  have hw : BitVec.ofNat 96 (w.toNat % 256 ^ 12) = w := by
    apply BitVec.eq_of_toNat_eq
    have := w.isLt
    simp
    omega
  unfold decode
  rw [if_neg (by simp [hl]), ht, leNat_leBytes, hw, List.drop_append_of_le_length (by omega),
    List.drop_of_length_le (by omega)]
  rfl

/-- The same for a hart's word. -/
theorem decodeHart_leBytes (w : BitVec 32) (rest : List Byte) :
    decodeHart (leBytes 4 w.toNat ++ rest) = (decodeZenith w).map (fun i => (i, rest)) := by
  have hl := length_leBytes 4 w.toNat
  have ht : (leBytes 4 w.toNat ++ rest).take 4 = leBytes 4 w.toNat := by
    rw [List.take_append_of_le_length (by omega), List.take_of_length_le (by omega)]
  have hw : BitVec.ofNat 32 (w.toNat % 256 ^ 4) = w := by
    apply BitVec.eq_of_toNat_eq
    have := w.isLt
    simp
    omega
  unfold decodeHart
  rw [if_neg (by simp [hl]), ht, leNat_leBytes, hw, List.drop_append_of_le_length (by omega),
    List.drop_of_length_le (by omega)]
  rfl

/-- A decoded word is legal for its mnemonic (R153, check 2). -/
theorem decodeThread_some {w : BitVec 96} {i : Instr} (h : decodeThread w = some i) :
    ∃ o : Op, i = o.instr (wordFields w) ∧ o ∈ opsOf (wordOp w).toNat ∧
      o.accepts (wordOp w).toNat (wordFields w) = true := by
  unfold decodeThread at h
  rw [Option.map_eq_some_iff] at h
  obtain ⟨o, ho, rfl⟩ := h
  unfold wordMnemonic at ho
  exact ⟨o, rfl, List.mem_of_find?_eq_some ho, by simpa using List.find?_some ho⟩

@[simp] theorem thread?_instr (o : Op) (f : Fields) : (o.instr f).thread? = some (o, f) := by cases o <;> rfl

/-- What the decoder answers is well-formed. -/
theorem wellFormed_of_decode {w : BitVec 96} {i : Instr} (h : decodeThread w = some i) : WellFormed i := by
  obtain ⟨o, rfl, -, ho⟩ := decodeThread_some h
  unfold Op.accepts at ho
  simp only [Bool.and_eq_true] at ho
  unfold WellFormed Instr.wellFormed
  rw [thread?_instr]
  simp only [ho.1.2, ho.2, Bool.and_true]

end Sys2Proof
end

