-- ==== Sys2Proof/Laws/PerInstr.lean ====
section
/-! SUPPORT. Facts about each instruction as syntax, one lemma per constructor: no word is legal for two
mnemonics of its major opcode (R152, R153). -/

namespace Sys2Proof.Laws.Unambiguous

open Sys2Proof

/-- A word that is legal for a thread instruction's mnemonic is legal for no other of its major opcode. -/
def Statement (i : Instr) : Prop :=
  ∀ o f, i.thread? = some (o, f) → ∀ p ∈ opsOf o.row.opc, o.accepts o.row.opc f = true →
    p.accepts o.row.opc f = true → p = o

/-- SUB tells the mnemonics of a major opcode apart, but for the forms of TLBI. -/
def apart (o p : Op) : Bool :=
  o == p || o.row.subs.all (fun x => !p.row.subs.contains x) ||
    ([Op.tlbiVa, .tlbiAs, .tlbiAll].contains o && [Op.tlbiVa, .tlbiAs, .tlbiAll].contains p)

/-- X tells the forms of TLBI apart. -/
theorem tlbi_apart {o p : Op} {f : Fields} (ho : o ∈ [Op.tlbiVa, .tlbiAs, .tlbiAll])
    (hp : p ∈ [Op.tlbiVa, .tlbiAs, .tlbiAll]) (h1 : o.accepts o.row.opc f = true) (h2 : p.accepts o.row.opc f = true) :
    p = o := by
  simp only [List.mem_cons, List.not_mem_nil, or_false] at ho hp
  rcases ho with rfl | rfl | rfl <;> rcases hp with rfl | rfl | rfl <;> try rfl
  all_goals
    simp only [Op.accepts, Op.row, Row.legal, Bool.and_eq_true, Bool.or_eq_true, beq_iff_eq] at h1 h2
    have h3 := h1.2.1.2
    have h4 := h2.2.1.2
    rcases h3.2 with h5 | h5 <;> rcases h4.2 with h6 | h6 <;> rw [h5] at h6 <;> cases h6

theorem all_apart (o : Op) : (opsOf o.row.opc).all (apart o) = true := by cases o <;> rfl

theorem of_op (o : Op) (f : Fields) : Statement (o.instr f) := by
  intro o' f' h p hp h1 h2
  rw [thread?_instr] at h
  cases h
  have ha := List.all_eq_true.mp (all_apart o) p hp
  simp only [apart, Bool.or_eq_true, beq_iff_eq, List.all_eq_true, Bool.not_eq_true', Bool.and_eq_true,
    List.contains_eq_mem, decide_eq_true_eq] at ha
  rcases ha with (ha | ha) | ha
  · exact ha.symm
  · exfalso
    simp only [Op.accepts, Bool.and_eq_true] at h1 h2
    have := ha f.sub.toNat (by simpa using h1.1.2)
    simp at this
    exact this (by simpa using h2.1.2)
  · exact tlbi_apart ha.1 ha.2 h1 h2

theorem add (f : Fields) : Statement (.add f) := of_op .add f
theorem sub (f : Fields) : Statement (.sub f) := of_op .sub f
theorem mul (f : Fields) : Statement (.mul f) := of_op .mul f
theorem mulh (f : Fields) : Statement (.mulh f) := of_op .mulh f
theorem div (f : Fields) : Statement (.div f) := of_op .div f
theorem rem (f : Fields) : Statement (.rem f) := of_op .rem f
theorem min (f : Fields) : Statement (.min f) := of_op .min f
theorem max (f : Fields) : Statement (.max f) := of_op .max f
theorem and (f : Fields) : Statement (.and f) := of_op .and f
theorem or (f : Fields) : Statement (.or f) := of_op .or f
theorem xor (f : Fields) : Statement (.xor f) := of_op .xor f
theorem andn (f : Fields) : Statement (.andn f) := of_op .andn f
theorem orn (f : Fields) : Statement (.orn f) := of_op .orn f
theorem shl (f : Fields) : Statement (.shl f) := of_op .shl f
theorem shr (f : Fields) : Statement (.shr f) := of_op .shr f
theorem sha (f : Fields) : Statement (.sha f) := of_op .sha f
theorem rol (f : Fields) : Statement (.rol f) := of_op .rol f
theorem neg (f : Fields) : Statement (.neg f) := of_op .neg f
theorem abs (f : Fields) : Statement (.abs f) := of_op .abs f
theorem not (f : Fields) : Statement (.not f) := of_op .not f
theorem clz (f : Fields) : Statement (.clz f) := of_op .clz f
theorem ctz (f : Fields) : Statement (.ctz f) := of_op .ctz f
theorem popc (f : Fields) : Statement (.popc f) := of_op .popc f
theorem brev (f : Fields) : Statement (.brev f) := of_op .brev f
theorem bfx (f : Fields) : Statement (.bfx f) := of_op .bfx f
theorem bfi (f : Fields) : Statement (.bfi f) := of_op .bfi f
theorem sext (f : Fields) : Statement (.sext f) := of_op .sext f
theorem zext (f : Fields) : Statement (.zext f) := of_op .zext f
theorem mov (f : Fields) : Statement (.mov f) := of_op .mov f
theorem movi (f : Fields) : Statement (.movi f) := of_op .movi f
theorem movh (f : Fields) : Statement (.movh f) := of_op .movh f
theorem sel (f : Fields) : Statement (.sel f) := of_op .sel f
theorem cmp (f : Fields) : Statement (.cmp f) := of_op .cmp f
theorem test (f : Fields) : Statement (.test f) := of_op .test f
theorem fma (f : Fields) : Statement (.fma f) := of_op .fma f
theorem sqrt (f : Fields) : Statement (.sqrt f) := of_op .sqrt f
theorem cvt (f : Fields) : Statement (.cvt f) := of_op .cvt f
theorem fclass (f : Fields) : Statement (.fclass f) := of_op .fclass f
theorem rndi (f : Fields) : Statement (.rndi f) := of_op .rndi f
theorem movsRead (f : Fields) : Statement (.movsRead f) := of_op .movsRead f
theorem movsWrite (f : Fields) : Statement (.movsWrite f) := of_op .movsWrite f
theorem amov (f : Fields) : Statement (.amov f) := of_op .amov f
theorem astr (f : Fields) : Statement (.astr f) := of_op .astr f
theorem aadv (f : Fields) : Statement (.aadv f) := of_op .aadv f
theorem lea (f : Fields) : Statement (.lea f) := of_op .lea f
theorem pand (f : Fields) : Statement (.pand f) := of_op .pand f
theorem por (f : Fields) : Statement (.por f) := of_op .por f
theorem pxor (f : Fields) : Statement (.pxor f) := of_op .pxor f
theorem pnot (f : Fields) : Statement (.pnot f) := of_op .pnot f
theorem pmov (f : Fields) : Statement (.pmov f) := of_op .pmov f
theorem br (f : Fields) : Statement (.br f) := of_op .br f
theorem brx (f : Fields) : Statement (.brx f) := of_op .brx f
theorem call (f : Fields) : Statement (.call f) := of_op .call f
theorem callx (f : Fields) : Statement (.callx f) := of_op .callx f
theorem ret (f : Fields) : Statement (.ret f) := of_op .ret f
theorem loop (f : Fields) : Statement (.loop f) := of_op .loop f
theorem loopx (f : Fields) : Statement (.loopx f) := of_op .loopx f
theorem nop (f : Fields) : Statement (.nop f) := of_op .nop f
theorem yield (f : Fields) : Statement (.yield f) := of_op .yield f
theorem waitl (f : Fields) : Statement (.waitl f) := of_op .waitl f
theorem vadd (f : Fields) : Statement (.vadd f) := of_op .vadd f
theorem vsub (f : Fields) : Statement (.vsub f) := of_op .vsub f
theorem vmul (f : Fields) : Statement (.vmul f) := of_op .vmul f
theorem vfma (f : Fields) : Statement (.vfma f) := of_op .vfma f
theorem vmin (f : Fields) : Statement (.vmin f) := of_op .vmin f
theorem vmax (f : Fields) : Statement (.vmax f) := of_op .vmax f
theorem vdiv (f : Fields) : Statement (.vdiv f) := of_op .vdiv f
theorem vand (f : Fields) : Statement (.vand f) := of_op .vand f
theorem vor (f : Fields) : Statement (.vor f) := of_op .vor f
theorem vxor (f : Fields) : Statement (.vxor f) := of_op .vxor f
theorem vshl (f : Fields) : Statement (.vshl f) := of_op .vshl f
theorem vshr (f : Fields) : Statement (.vshr f) := of_op .vshr f
theorem vsha (f : Fields) : Statement (.vsha f) := of_op .vsha f
theorem vdot (f : Fields) : Statement (.vdot f) := of_op .vdot f
theorem vabs (f : Fields) : Statement (.vabs f) := of_op .vabs f
theorem vneg (f : Fields) : Statement (.vneg f) := of_op .vneg f
theorem vsqrt (f : Fields) : Statement (.vsqrt f) := of_op .vsqrt f
theorem vrcp (f : Fields) : Statement (.vrcp f) := of_op .vrcp f
theorem vrsq (f : Fields) : Statement (.vrsq f) := of_op .vrsq f
theorem vexp2 (f : Fields) : Statement (.vexp2 f) := of_op .vexp2 f
theorem vcmp (f : Fields) : Statement (.vcmp f) := of_op .vcmp f
theorem vsel (f : Fields) : Statement (.vsel f) := of_op .vsel f
theorem vmaskAnd (f : Fields) : Statement (.vmaskAnd f) := of_op .vmaskAnd f
theorem vmaskOr (f : Fields) : Statement (.vmaskOr f) := of_op .vmaskOr f
theorem vmaskXor (f : Fields) : Statement (.vmaskXor f) := of_op .vmaskXor f
theorem vmaskAndn (f : Fields) : Statement (.vmaskAndn f) := of_op .vmaskAndn f
theorem vmaskNot (f : Fields) : Statement (.vmaskNot f) := of_op .vmaskNot f
theorem vmaskSet (f : Fields) : Statement (.vmaskSet f) := of_op .vmaskSet f
theorem vmaskGet (f : Fields) : Statement (.vmaskGet f) := of_op .vmaskGet f
theorem viota (f : Fields) : Statement (.viota f) := of_op .viota f
theorem vmov (f : Fields) : Statement (.vmov f) := of_op .vmov f
theorem vbcast (f : Fields) : Statement (.vbcast f) := of_op .vbcast f
theorem vext (f : Fields) : Statement (.vext f) := of_op .vext f
theorem vins (f : Fields) : Statement (.vins f) := of_op .vins f
theorem vshuf (f : Fields) : Statement (.vshuf f) := of_op .vshuf f
theorem vrot (f : Fields) : Statement (.vrot f) := of_op .vrot f
theorem vreds (f : Fields) : Statement (.vreds f) := of_op .vreds f
theorem vredmMin (f : Fields) : Statement (.vredmMin f) := of_op .vredmMin f
theorem vredmMax (f : Fields) : Statement (.vredmMax f) := of_op .vredmMax f
theorem vscan (f : Fields) : Statement (.vscan f) := of_op .vscan f
theorem vcvt (f : Fields) : Statement (.vcvt f) := of_op .vcvt f
theorem vwidn (f : Fields) : Statement (.vwidn f) := of_op .vwidn f
theorem vnarr (f : Fields) : Statement (.vnarr f) := of_op .vnarr f
theorem vqnt (f : Fields) : Statement (.vqnt f) := of_op .vqnt f
theorem vdqt (f : Fields) : Statement (.vdqt f) := of_op .vdqt f
theorem vsprs (f : Fields) : Statement (.vsprs f) := of_op .vsprs f
theorem vxpnd (f : Fields) : Statement (.vxpnd f) := of_op .vxpnd f
theorem ld (f : Fields) : Statement (.ld f) := of_op .ld f
theorem st (f : Fields) : Statement (.st f) := of_op .st f
theorem ldv (f : Fields) : Statement (.ldv f) := of_op .ldv f
theorem stv (f : Fields) : Statement (.stv f) := of_op .stv f
theorem vlds (f : Fields) : Statement (.vlds f) := of_op .vlds f
theorem vsts (f : Fields) : Statement (.vsts f) := of_op .vsts f
theorem vgath (f : Fields) : Statement (.vgath f) := of_op .vgath f
theorem vscat (f : Fields) : Statement (.vscat f) := of_op .vscat f
theorem pref (f : Fields) : Statement (.pref f) := of_op .pref f
theorem wbk (f : Fields) : Statement (.wbk f) := of_op .wbk f
theorem invl (f : Fields) : Statement (.invl f) := of_op .invl f
theorem fence (f : Fields) : Statement (.fence f) := of_op .fence f
theorem atadd (f : Fields) : Statement (.atadd f) := of_op .atadd f
theorem atsub (f : Fields) : Statement (.atsub f) := of_op .atsub f
theorem atmin (f : Fields) : Statement (.atmin f) := of_op .atmin f
theorem atmax (f : Fields) : Statement (.atmax f) := of_op .atmax f
theorem atand (f : Fields) : Statement (.atand f) := of_op .atand f
theorem ator (f : Fields) : Statement (.ator f) := of_op .ator f
theorem atxor (f : Fields) : Statement (.atxor f) := of_op .atxor f
theorem atswp (f : Fields) : Statement (.atswp f) := of_op .atswp f
theorem atcas (f : Fields) : Statement (.atcas f) := of_op .atcas f
theorem atfadd (f : Fields) : Statement (.atfadd f) := of_op .atfadd f
theorem atinc (f : Fields) : Statement (.atinc f) := of_op .atinc f
theorem cpyIn (f : Fields) : Statement (.cpyIn f) := of_op .cpyIn f
theorem cpyOut (f : Fields) : Statement (.cpyOut f) := of_op .cpyOut f
theorem cpyGlobal (f : Fields) : Statement (.cpyGlobal f) := of_op .cpyGlobal f
theorem cpy2dIn (f : Fields) : Statement (.cpy2dIn f) := of_op .cpy2dIn f
theorem cpy2dOut (f : Fields) : Statement (.cpy2dOut f) := of_op .cpy2dOut f
theorem cpyl (f : Fields) : Statement (.cpyl f) := of_op .cpyl f
theorem cwait (f : Fields) : Statement (.cwait f) := of_op .cwait f
theorem tobj (f : Fields) : Statement (.tobj f) := of_op .tobj f
theorem tdefBox (f : Fields) : Statement (.tdefBox f) := of_op .tdefBox f
theorem tdefSpan (f : Fields) : Statement (.tdefSpan f) := of_op .tdefSpan f
theorem tacq (f : Fields) : Statement (.tacq f) := of_op .tacq f
theorem ttry (f : Fields) : Statement (.ttry f) := of_op .ttry f
theorem trel (f : Fields) : Statement (.trel f) := of_op .trel f
theorem tdrop (f : Fields) : Statement (.tdrop f) := of_op .tdrop f
theorem tqry (f : Fields) : Statement (.tqry f) := of_op .tqry f
theorem tsplt (f : Fields) : Statement (.tsplt f) := of_op .tsplt f
theorem mldbLocal (f : Fields) : Statement (.mldbLocal f) := of_op .mldbLocal f
theorem mldbTile (f : Fields) : Statement (.mldbTile f) := of_op .mldbTile f
theorem mmaLocal (f : Fields) : Statement (.mmaLocal f) := of_op .mmaLocal f
theorem mmaTile (f : Fields) : Statement (.mmaTile f) := of_op .mmaTile f
theorem mclr (f : Fields) : Statement (.mclr f) := of_op .mclr f
theorem mdrn (f : Fields) : Statement (.mdrn f) := of_op .mdrn f
theorem mhnd (f : Fields) : Statement (.mhnd f) := of_op .mhnd f
theorem mwait (f : Fields) : Statement (.mwait f) := of_op .mwait f
theorem mcmd (f : Fields) : Statement (.mcmd f) := of_op .mcmd f
theorem mstat (f : Fields) : Statement (.mstat f) := of_op .mstat f
theorem send (f : Fields) : Statement (.send f) := of_op .send f
theorem sendv (f : Fields) : Statement (.sendv f) := of_op .sendv f
theorem sendt (f : Fields) : Statement (.sendt f) := of_op .sendt f
theorem rls (f : Fields) : Statement (.rls f) := of_op .rls f
theorem poll (f : Fields) : Statement (.poll f) := of_op .poll f
theorem waitq (f : Fields) : Statement (.waitq f) := of_op .waitq f
theorem spawn (f : Fields) : Statement (.spawn f) := of_op .spawn f
theorem spawnr (f : Fields) : Statement (.spawnr f) := of_op .spawnr f
theorem rnext (f : Fields) : Statement (.rnext f) := of_op .rnext f
theorem done (f : Fields) : Statement (.done f) := of_op .done f
theorem lnch (f : Fields) : Statement (.lnch f) := of_op .lnch f
theorem wcfg (f : Fields) : Statement (.wcfg f) := of_op .wcfg f
theorem wqry (f : Fields) : Statement (.wqry f) := of_op .wqry f
theorem bar (f : Fields) : Statement (.bar f) := of_op .bar f
theorem bara (f : Fields) : Statement (.bara f) := of_op .bara f
theorem barw (f : Fields) : Statement (.barw f) := of_op .barw f
theorem wake (f : Fields) : Statement (.wake f) := of_op .wake f
theorem sleep (f : Fields) : Statement (.sleep f) := of_op .sleep f
theorem evq (f : Fields) : Statement (.evq f) := of_op .evq f
theorem ratq (f : Fields) : Statement (.ratq f) := of_op .ratq f
theorem ratr (f : Fields) : Statement (.ratr f) := of_op .ratr f
theorem trap (f : Fields) : Statement (.trap f) := of_op .trap f
theorem sysc (f : Fields) : Statement (.sysc f) := of_op .sysc f
theorem sret (f : Fields) : Statement (.sret f) := of_op .sret f
theorem csrr (f : Fields) : Statement (.csrr f) := of_op .csrr f
theorem csrw (f : Fields) : Statement (.csrw f) := of_op .csrw f
theorem csrx (f : Fields) : Statement (.csrx f) := of_op .csrx f
theorem tlbiVa (f : Fields) : Statement (.tlbiVa f) := of_op .tlbiVa f
theorem tlbiAs (f : Fields) : Statement (.tlbiAs f) := of_op .tlbiAs f
theorem tlbiAll (f : Fields) : Statement (.tlbiAll f) := of_op .tlbiAll f
theorem irq (f : Fields) : Statement (.irq f) := of_op .irq f
theorem bkpt (f : Fields) : Statement (.bkpt f) := of_op .bkpt f
theorem halt (f : Fields) : Statement (.halt f) := of_op .halt f
theorem cgrant (z : ZFields) : Statement (.cgrant z) := by intro o f h; cases h
theorem cderive (z : ZFields) : Statement (.cderive z) := by intro o f h; cases h
theorem cmove (z : ZFields) : Statement (.cmove z) := by intro o f h; cases h
theorem crevoke (z : ZFields) : Statement (.crevoke z) := by intro o f h; cases h
theorem cread (z : ZFields) : Statement (.cread z) := by intro o f h; cases h
theorem ccheck (z : ZFields) : Statement (.ccheck z) := by intro o f h; cases h
theorem cldadv (z : ZFields) : Statement (.cldadv z) := by intro o f h; cases h
theorem cstadv (z : ZFields) : Statement (.cstadv z) := by intro o f h; cases h
theorem ccount (z : ZFields) : Statement (.ccount z) := by intro o f h; cases h
theorem chand (z : ZFields) : Statement (.chand z) := by intro o f h; cases h
theorem copyRetire (tid seq : Nat) : Statement (.copyRetire tid seq) := by intro o f h; cases h
theorem tenureGrant (stack : Nat) : Statement (.tenureGrant stack) := by intro o f h; cases h
theorem tenureStallResume (tid : Nat) : Statement (.tenureStallResume tid) := by intro o f h; cases h
theorem tenureWaitTrap (tid : Nat) : Statement (.tenureWaitTrap tid) := by intro o f h; cases h
theorem readFill (field line : Nat) : Statement (.readFill field line) := by intro o f h; cases h
theorem e2eTimeout (cube : BitVec 8) (seq : BitVec 16) : Statement (.e2eTimeout cube seq) := by intro o f h; cases h
theorem fillArrival (field line : Nat) : Statement (.fillArrival field line) := by intro o f h; cases h
theorem mcmdAccept (sender : Nat) : Statement (.mcmdAccept sender) := by intro o f h; cases h
theorem arrayEntryComplete (tid : Nat) : Statement (.arrayEntryComplete tid) := by intro o f h; cases h
theorem handlerActivation (core queue : Nat) : Statement (.handlerActivation core queue) := by intro o f h; cases h
theorem wqryAnswer (field : Nat) : Statement (.wqryAnswer field) := by intro o f h; cases h
theorem wakeArrival (tid : Nat) (value : Word) : Statement (.wakeArrival tid value) := by intro o f h; cases h
theorem notifyLatchDelivery (tid : Nat) : Statement (.notifyLatchDelivery tid) := by intro o f h; cases h
theorem sleepTimeout (tid : Nat) : Statement (.sleepTimeout tid) := by intro o f h; cases h
theorem leaseExpiry (field line : Nat) : Statement (.leaseExpiry field line) := by intro o f h; cases h
theorem dedupTimeout (stack : Nat) : Statement (.dedupTimeout stack) := by intro o f h; cases h
theorem postedStoreAck (core entry : Nat) : Statement (.postedStoreAck core entry) := by intro o f h; cases h
theorem postedStoreRefusal (core entry : Nat) : Statement (.postedStoreRefusal core entry) := by intro o f h; cases h
theorem ownershipRequest (field line : Nat) : Statement (.ownershipRequest field line) := by intro o f h; cases h
theorem flagorSet (field : Nat) (flags : BitVec 5) : Statement (.flagorSet field flags) := by intro o f h; cases h
theorem activation (core : Nat) (task : Task) : Statement (.activation core task) := by intro o f h; cases h
theorem issueSlotFill (core : Nat) : Statement (.issueSlotFill core) := by intro o f h; cases h
theorem take (field : Nat) : Statement (.take field) := by intro o f h; cases h
theorem aging (field stamp : Nat) : Statement (.aging field stamp) := by intro o f h; cases h
theorem slotPriorityRise (tid : Nat) : Statement (.slotPriorityRise tid) := by intro o f h; cases h
theorem quiesceStart (core : Nat) : Statement (.quiesceStart core) := by intro o f h; cases h
theorem quiesceComplete (core : Nat) : Statement (.quiesceComplete core) := by intro o f h; cases h
theorem rangeSplit (core : Nat) : Statement (.rangeSplit core) := by intro o f h; cases h
theorem splitPublish (field : Nat) : Statement (.splitPublish field) := by intro o f h; cases h
theorem stageRelease (lid stage : Nat) : Statement (.stageRelease lid stage) := by intro o f h; cases h
theorem launchCompletion (lid : Nat) : Statement (.launchCompletion lid) := by intro o f h; cases h
theorem fieldSwitchComplete (field : Nat) : Statement (.fieldSwitchComplete field) := by intro o f h; cases h
theorem fieldTimerCompare (field : Nat) : Statement (.fieldTimerCompare field) := by intro o f h; cases h
theorem eclipseAlignTick (part : Nat) : Statement (.eclipseAlignTick part) := by intro o f h; cases h
theorem eclipseFreeze (part : Nat) : Statement (.eclipseFreeze part) := by intro o f h; cases h
theorem eclipseRestart (part : Nat) : Statement (.eclipseRestart part) := by intro o f h; cases h
theorem surrenderDone (field : Nat) : Statement (.surrenderDone field) := by intro o f h; cases h
theorem wayRestoreDone (field : Nat) : Statement (.wayRestoreDone field) := by intro o f h; cases h
theorem flushComplete (core : Nat) : Statement (.flushComplete core) := by intro o f h; cases h
theorem shootdownAck (field : Nat) : Statement (.shootdownAck field) := by intro o f h; cases h
theorem tlbMissWalk (field : Nat) : Statement (.tlbMissWalk field) := by intro o f h; cases h
theorem walkComplete (field : Nat) : Statement (.walkComplete field) := by intro o f h; cases h
theorem pageFill (core : Nat) : Statement (.pageFill core) := by intro o f h; cases h
theorem regionRecordMerge (stack slot : Nat) : Statement (.regionRecordMerge stack slot) := by intro o f h; cases h
theorem collectiveContribution (group cube word : Nat) (value : BitVec 32) : Statement (.collectiveContribution group cube word value) := by intro o f h; cases h
theorem pieceRejoin (stack slot : Nat) : Statement (.pieceRejoin stack slot) := by intro o f h; cases h
theorem packetReceive (link : Nat) (packet : Packet) : Statement (.packetReceive link packet) := by intro o f h; cases h
theorem postedStoreTrap (tid : Nat) : Statement (.postedStoreTrap tid) := by intro o f h; cases h
theorem writeBack (field line : Nat) : Statement (.writeBack field line) := by intro o f h; cases h
theorem landing (tid : Nat) : Statement (.landing tid) := by intro o f h; cases h
theorem tqfree (field : Nat) (slots : Word) : Statement (.tqfree field slots) := by intro o f h; cases h
theorem fetchPoisonRefetch (tid : Nat) : Statement (.fetchPoisonRefetch tid) := by intro o f h; cases h
theorem softError (site : SoftSite) (corrected : Bool) : Statement (.softError site corrected) := by intro o f h; cases h
theorem bindc (value : Word) : Statement (.bindc value) := by intro o f h; cases h
theorem capWrite (value : Word) : Statement (.capWrite value) := by intro o f h; cases h
theorem coefWrite (d n : Nat) (value : Word) : Statement (.coefWrite d n value) := by intro o f h; cases h
theorem leakWrite (value : Word) : Statement (.leakWrite value) := by intro o f h; cases h
theorem thotTokWrite (value : Word) : Statement (.thotTokWrite value) := by intro o f h; cases h
theorem beacon (count : BitVec 40) (wrapn : BitVec 8) : Statement (.beacon count wrapn) := by intro o f h; cases h
theorem ftcmpWrite (field : Nat) (value : Word) : Statement (.ftcmpWrite field value) := by intro o f h; cases h
theorem eclipseAssert (part : Nat) : Statement (.eclipseAssert part) := by intro o f h; cases h
theorem eclipseRelease (part : Nat) : Statement (.eclipseRelease part) := by intro o f h; cases h
theorem scanRead (sel : ScanSel) : Statement (.scanRead sel) := by intro o f h; cases h
theorem scanWrite (sel : ScanSel) (value : Vec) : Statement (.scanWrite sel value) := by intro o f h; cases h
theorem surrender (field : Nat) : Statement (.surrender field) := by intro o f h; cases h
theorem wayRestore (field : Nat) : Statement (.wayRestore field) := by intro o f h; cases h
theorem fpartWrite (field : Nat) (value : Word) : Statement (.fpartWrite field value) := by intro o f h; cases h
theorem flush (core : Nat) : Statement (.flush core) := by intro o f h; cases h
theorem resume (core : Nat) : Statement (.resume core) := by intro o f h; cases h
theorem pshareWrite (part : Nat) (value : Word) : Statement (.pshareWrite part value) := by intro o f h; cases h
theorem pctlWrite (part : Nat) (value : Word) : Statement (.pctlWrite part value) := by intro o f h; cases h
theorem sdcmdVa (asid : BitVec 16) : Statement (.sdcmdVa asid) := by intro o f h; cases h
theorem sdcmdAs (asid : BitVec 16) : Statement (.sdcmdAs asid) := by intro o f h; cases h
theorem sdcmdAll (part : BitVec 6) : Statement (.sdcmdAll part) := by intro o f h; cases h
theorem rsctlGo (entry : BitVec 6) : Statement (.rsctlGo entry) := by intro o f h; cases h
theorem lineDrowsy (tid line : Nat) : Statement (.lineDrowsy tid line) := by intro o f h; cases h
theorem snapshot (stack part : Nat) : Statement (.snapshot stack part) := by intro o f h; cases h
theorem lateFaultDelivery (tid : Nat) : Statement (.lateFaultDelivery tid) := by intro o f h; cases h
theorem snapshotRestore (stack part : Nat) : Statement (.snapshotRestore stack part) := by intro o f h; cases h
theorem rplctl (part : Nat) (value : Word) : Statement (.rplctl part value) := by intro o f h; cases h
theorem flitReceive (link : Nat) (flit : Vec) : Statement (.flitReceive link flit) := by intro o f h; cases h
theorem invalidationArrival (field line seq : Nat) : Statement (.invalidationArrival field line seq) := by intro o f h; cases h
theorem pcieInboundWrite (addr : Word) (data : List Byte) : Statement (.pcieInboundWrite addr data) := by intro o f h; cases h
theorem pcieInboundRead (addr : Word) (length : Nat) : Statement (.pcieInboundRead addr length) := by intro o f h; cases h
theorem pcieHotPlug (slot : Nat) (present attention power : Bool) : Statement (.pcieHotPlug slot present attention power) := by intro o f h; cases h
theorem rbadv (value : BitVec 8) : Statement (.rbadv value) := by intro o f h; cases h
theorem mext (value : BitVec 256) : Statement (.mext value) := by intro o f h; cases h
theorem registerWrite (addr : BitVec 52) (value : Word) : Statement (.registerWrite addr value) := by intro o f h; cases h
theorem linkTraining (link : Nat) (up : Bool) (neighbour : BitVec 8) : Statement (.linkTraining link up neighbour) := by intro o f h; cases h
theorem temperatureChange (sensors : List (BitVec 8)) : Statement (.temperatureChange sensors) := by intro o f h; cases h
theorem launchQueueEntry : Statement .launchQueueEntry := by intro o f h; cases h
theorem grantRun : Statement .grantRun := by intro o f h; cases h
theorem raisedSwitchStart : Statement .raisedSwitchStart := by intro o f h; cases h
theorem tcapStep : Statement .tcapStep := by intro o f h; cases h
theorem criticalTemperature : Statement .criticalTemperature := by intro o f h; cases h
theorem thermtrip : Statement .thermtrip := by intro o f h; cases h
theorem wrapAnnounce : Statement .wrapAnnounce := by intro o f h; cases h
theorem wrapComplete : Statement .wrapComplete := by intro o f h; cases h
theorem fwrap : Statement .fwrap := by intro o f h; cases h
theorem beaconLoss : Statement .beaconLoss := by intro o f h; cases h
theorem restripeGranule : Statement .restripeGranule := by intro o f h; cases h
theorem rsret : Statement .rsret := by intro o f h; cases h
theorem powerOnReset : Statement .powerOnReset := by intro o f h; cases h
theorem resetN : Statement .resetN := by intro o f h; cases h
theorem rstctlWarm : Statement .rstctlWarm := by intro o f h; cases h
theorem rstctlCold : Statement .rstctlCold := by intro o f h; cases h
theorem atbusy : Statement .atbusy := by intro o f h; cases h
theorem reportSigned : Statement .reportSigned := by intro o f h; cases h
theorem powerLoss : Statement .powerLoss := by intro o f h; cases h

end Sys2Proof.Laws.Unambiguous
end

