-- ==== Sys2Proof/Laws/Zenith.lean ====
section
/-! SUPPORT. Running the meanings of the harts' instructions. -/

namespace Sys2Proof.Machine

open Sys2Proof

theorem Z.run_bind {α β : Type} (m : Z α) (k : α → Z β) (s : State) :
    (m >>= k) s = (match m s with | .ok a t => k a t | .error e t => .error e t) := by
  simp only [bind, EStateM.bind]; cases m s <;> rfl
theorem Z.run_pure {α : Type} (a : α) (s : State) : (pure a : Z α) s = .ok a s := rfl
theorem Z.run_rsOf (n : BitVec 5) (s : State) : rsOf n s = .ok ((s.hart s.hartNo).x n) s := rfl
theorem Z.run_setRd (n : BitVec 5) (v : Word) (s : State) : setRd n v s = .ok () (s.hartSets n v) := rfl
theorem Z.run_hartRegs (s : State) : hartRegs s = .ok (s.hart s.hartNo) s := rfl
/-- An address that names a granule passes its check. -/
theorem Z.aligned16_ok (v : Word) (s : State) (h : v.toNat % 16 = 0) : aligned16 v s = .ok () s := by
  simp [aligned16, capNeed, h, Z.run_pure]
/-- A check of a capability that holds passes. -/
theorem Z.capNeed_ok (b : Bool) (v : Word) (s : State) (h : b = true) : capNeed b v s = .ok () s := by
  simp [capNeed, h, Z.run_pure]
theorem Z.run_lam {α β : Type} (g : State → α) (h : State → State) (k : α → Z β) (s : State) :
    (((fun s => EStateM.Result.ok (g s) (h s)) : Z α) >>= k) s = k (g s) (h s) := rfl

end Sys2Proof.Machine
end

