-- ==== Sys2Proof/Tests/Slice0.lean ====
section
/-! SUPPORT. Tests: terms that the well-formedness check refuses, words written out from the encoding, one step
at a time on small states with results taken from the manual, and a witness for the hypotheses of every statement. -/

namespace Sys2Proof.Tests

open Sys2Proof Sys2Proof.Machine
set_option Elab.async false

/-! ## Small states and instructions -/

/-- Fields of an arithmetic word: dst, sa, sb, TYPE; RND is the code that overrides nothing. -/
def ar (d a b ty : Nat) : Fields :=
  { noFields with dst := BitVec.ofNat 8 d, sa := BitVec.ofNat 8 a, sb := BitVec.ofNat 8 b, ty := BitVec.ofNat 4 ty, mod := 0xE0 }

/-- Fields of a word whose MOD is zero. -/
def pl (d a b ty : Nat) : Fields := { ar d a b ty with mod := 0 }

/-- A task of launch 1 at its first activation. -/
def tk : Task :=
  { words := List.replicate 8 0, lid := 1, stage := 0, stageX4 := 0, stageX5 := 0, stageX6 := 0, staged := false, rst := false,
    pri := 1, retries := 0, handler := none, retained := [] }

/-- A context that issues, at level U: x1 = 5, x2 = 3, x3 = 0x40, x4 = 2^63, x5 = −1,
x6 = 0x8000, x7 = 0x8080; v1, v2 hold 16-bit lanes;
a0 = 0x40 with d0 = 8, a1 = 0x1040. -/
def cx : Ctx :=
  { st := .issuing, act := 1, task := some tk,
    xs := [(1, 5), (2, 3), (3, 0x40), (4, 0x8000000000000000), (5, 0xFFFFFFFFFFFFFFFF), (6, 0x8000), (7, 0x8080)],
    vs := [(1, 0x00030002), (2, 0x00050004)], as := [(0, 0x40), (1, 0x1040)], ds := [(0, 8)] }

/-- A launch of four local pages in field 0. -/
def la : Launch :=
  { lid := 1, seq := 1, qsrc := true, name := 0, part := 0, asid := 0, block := [0x41000000], bound := true, fields := [0] }

/-- A leaf that maps a page of addresses to itself, for every access. -/
def leafAt (a : Nat) : TlbEnt := { asid := 0, va := a, size := 12, pte := BitVec.ofNat 64 (a + 0x9F) }

/-- Context 0 of core 0 of field 0: page 0 of its vault stands in frame 3, page 0x8000 is mapped, and the first
2^30 bytes have their home in stack 0, channel 0. -/
def st : State :=
  { State.reset with
    ctxs := [(0, cx)], turn := none, boot := { phase := .done },
    cores := [(0, { frames := [(3, { owner := 0, page := 0, dirty := false })], tlb := [leafAt 0x8000] })],
    fields := [(0, { tvec := 0x1000, flid := 1 })],
    hmap := [(0, 0x8000000000007980)],
    sched := { launches := [la] } }

/-- The same with another context 0. -/
def withCtx (g : Ctx → Ctx) : State := st.setCtx 0 (g cx)

/-- Whether a computation completes. -/
def done {α : Type} (m : M α) (s : State) : Bool :=
  match m s with
  | .ok _ _ => true
  | .error _ _ => false

/-- The checks before the body, as a Bool. -/
def admitted (s : State) (op : Op) (f : Fields) : Bool :=
  (op.instr f).operandsOk && portsOk s op f && s.me.guard f

/-- The state after one instruction. -/
def after (i : Instr) (s : State) : State :=
  match exec i s with
  | .next t => t
  | _ => s

/-! ## Ill-formed terms are refused (R137, R145 to R149, R153, R368) -/

theorem smoke_guard : (Instr.add { ar 5 6 7 3 with guard := 8 }).wellFormed = false := by decide
theorem smoke_sub : (Instr.add { ar 5 6 7 3 with sub := 0x7F }).wellFormed = false := by decide
theorem smoke_type : (Instr.add (ar 5 6 7 12)).wellFormed = false := by decide
theorem smoke_rounding : (Instr.and { ar 5 6 7 3 with mod := 0x00 }).wellFormed = false := by decide
theorem smoke_saturate : (Instr.and { ar 5 6 7 3 with mod := 0xF0 }).wellFormed = false := by decide
theorem smoke_csrc : (Instr.fma { ar 5 6 7 10 with mod := 0xE0 }).wellFormed = false := by decide
theorem smoke_mask : (Instr.add { ar 5 6 7 3 with mod := 0xE1 }).wellFormed = false := by decide
theorem smoke_space : (Instr.ld { pl 5 4 0 3 with mod := 0xC0 }).wellFormed = false := by decide
theorem smoke_class : (Instr.ld { pl 5 4 0 3 with mod := 0x70 }).wellFormed = false := by decide
theorem smoke_hint : (Instr.add { ar 5 6 7 3 with hint := 1 }).wellFormed = false := by decide
theorem smoke_lookahead : (Instr.add { ar 5 6 7 3 with la := 1 }).wellFormed = false := by decide
theorem smoke_unused : (Instr.nop { noFields with sub := 7, imm := 1 }).wellFormed = false := by decide
theorem smoke_capability : (Instr.cgrant { rd := 1, rs1 := 2, rs2 := 3 }).wellFormed = false := by decide
theorem smoke_codes : (Instr.add (ar 5 0x75 7 3)).operandsOk = false := by decide
theorem smoke_good : (Instr.add (ar 5 6 7 3)).wellFormed = true := by decide

/-! ## Words written out from the encoding -/

theorem decode_samples : ∀ e ∈ sampleWords, decodeTableWord 96 e.1 = some e.2 := by decide +kernel
theorem decode_all_zero : decodeTableWord 96 0 = none := by decide +kernel
theorem decode_guard8 : decodeTableWord 96 0x0180050607_3E0000_00000000 = none := by decide +kernel
/-- NEG.i64 x5, x6 (R166). -/
theorem decode_neg :
    decodeTableWord 96 0x0200050600_3E0000_00000000 = some (.neg (ar 5 6 0 3)) := by decide +kernel
/-- LEA.i64 x5, x6, x7 (R181). -/
theorem decode_lea :
    decodeTableWord 96 0x0500050607_300003_00000000 = some (.lea { pl 5 6 7 3 with sub := 3 }) := by decide +kernel
/-- VBCAST.i32 v4, x5 (R203). -/
theorem decode_vbcast :
    decodeTableWord 96 0x1300440500_2E0001_00000000 = some (.vbcast { ar 0x44 5 0 2 with sub := 1 }) := by decide +kernel
/-- VREDS.f32 x5, v4 (R204). -/
theorem decode_vreds :
    decodeTableWord 96 0x1400054400_AE0000_00000000 = some (.vreds (ar 5 0x44 0 10)) := by decide +kernel
/-- VRCP.f32 v5, v4 (R197). -/
theorem decode_vrcp :
    decodeTableWord 96 0x1100454400_AE0003_00000000 = some (.vrcp { ar 0x45 0x44 0 10 with sub := 3 }) := by decide +kernel
/-- VIOTA.i16 v4, x5 (R202). -/
theorem decode_viota :
    decodeTableWord 96 0x1200440500_1E0008_00000000 = some (.viota { ar 0x44 5 0 1 with sub := 8 }) := by decide +kernel
/-- CWAIT x5 (R234), TREL.dom x5 (R239, ORD 0b10), DONE (R28), RATQ x5 (R281), SRET (R341). -/
theorem decode_cwait :
    decodeTableWord 96 0x2200000500_000006_00000000 = some (.cwait { pl 0 5 0 0 with sub := 6 }) := by decide +kernel
theorem decode_trel :
    decodeTableWord 96 0x2300000500_02C005_00000000 = some (.trel { pl 0 5 0 0 with mod := 0x2C, sub := 5 }) := by decide +kernel
theorem decode_done :
    decodeTableWord 96 0x2A00000000_000003_00000000 = some (.done { noFields with sub := 3 }) := by decide +kernel
theorem decode_ratq :
    decodeTableWord 96 0x2C00050000_000000_00000000 = some (.ratq { noFields with dst := 5 }) := by decide +kernel
theorem decode_sret :
    decodeTableWord 96 0x3000000000_000002_00000000 = some (.sret { noFields with sub := 2 }) := by decide +kernel
/-- CDERIVE x12, x10, x11 and CREVOKE x10, x12 (R368); a CREVOKE with a destination register is no word. -/
theorem decode_cderive : decodeTableWord 32 0x02B5060B = some (.cderive { rd := 12, rs1 := 10, rs2 := 11 }) := by
  decide +kernel
theorem decode_crevoke_rd : decodeTableWord 32 0x06C5008B = none := by decide +kernel

/-! ## Witnesses: encoding and steps -/

theorem wit_round_trip : (Instr.add (ar 5 6 7 3)).thread?.isSome = true ∧ WellFormed (.add (ar 5 6 7 3)) ∧
    decode (encode (.add (ar 5 6 7 3))) = some (.add (ar 5 6 7 3), []) := by decide +kernel
theorem wit_capability_round_trip : (Instr.cmove { rd := 0, rs1 := 1, rs2 := 2 }).zenith?.isSome = true ∧
    WellFormed (.cmove { rd := 0, rs1 := 1, rs2 := 2 }) ∧
    decodeHart (encode (.cmove { rd := 0, rs1 := 1, rs2 := 2 })) = some (.cmove { rd := 0, rs1 := 1, rs2 := 2 }, []) := by
  decide +kernel
/-- A part that is switched off, with nothing on its way. -/
def offPart : State := { State.reset with turn := none, boot := { phase := .off } }
theorem offPart_options : offPart.turn = none ∧ offPart.between.options = [] := by
  refine ⟨rfl, ?_⟩
  unfold State.between
  dsimp only
  generalize Config.elapse offPart.free = c
  cases Config.evict (offPart.free + 4) <;> cases Config.evict (offPart.free + 8) <;> rfl
theorem wit_steps_stop : step offPart = .fault .halted := by
  have h : offPart.choose = none := by
    unfold State.choose
    dsimp only
    rw [offPart_options.2]
    rfl
  unfold step
  rw [offPart_options.1, h]
/-- The words at the PC of a thread and at the pc of hart 0 run, and so does an event. -/
theorem wit_step_thread : let s := State.reset.withFetchWord 96 0x0100050607_3E0000_00000000
    s.turn = some (.thread 0) ∧ s.stopped 0 = false ∧ (s.ctx 0).mayGo = true ∧ (s.ctx 0).toPost = [] ∧
    (s.ctx 0).refusal = none ∧ (s.ctx 0).pend = [] ∧ (s.ctx 0).openAcquire = false ∧ pcLegal (s.ctx 0).pc = true ∧
    (s.field 0).tqgo.contains 0 = false ∧
    (match ({ s with turn := none, cur := 0 } : State).fetchBlock 0 ((s.ctx 0).pc - ((s.ctx 0).pc &&& 0x7F)) with
      | .data d _ => (decode (leBytes 12 (slotWord d 0).toNat)).isSome
      | _ => false) = true := by decide +kernel
def hartWord (w : Nat) : State := State.reset.withFetchWord 32 w
theorem wit_step_hart : (∀ w ∈ [0x02B5060B, 0x00A50593], (hartWord w).turn = some (.hart 0) ∧ (hartWord w).boot.phase ≠ .rom ∧
    ((hartWord w).hart 0).interrupted (hartWord w).zen.mtime.toNat = none ∧
    (match hFetchWord ((hartWord w).setHart 0 { (hartWord w).hart 0 with running := true }) with
      | .ok v _ => v == w
      | .error _ _ => false) = true) ∧
    (0x02B5060B % 4 = 3 ∧ (decodeHart (leBytes 4 0x02B5060B)).isSome = true) ∧ decodeHart (leBytes 4 0x00A50593) = none := by decide +kernel
/-- A thread that a freed slot of the trap queue has made ready, and one whose refusal is held back in its handler. -/
theorem wit_step_thread_turns : ((st.modField 0 (fun f => { f with tqgo := [0, 3] })).field 0).tqgo.contains 0 = true ∧
    (let x := { cx with refusal := some { cause := 0x0E, entry := 0, addr := 0x8000, size := 8, mask := 255, data := 0, count := 1 }, sup := true }
     (x.refusal.isSome && !x.sup && x.lone.isNone && !x.exchanging) = false) ∧
    ({ cx with st := .quiescing, ending := true } : Ctx).mayGo = true := by decide +kernel
theorem wit_step_event : (st.post .grantRun).turn = none ∧ ({ st with turn := some (.event .grantRun) } : State).turn =
    some (.event .grantRun) := by decide +kernel

/-! ## Witnesses: scalar instructions -/

/-- Operands of the scalar tables: x5 := x1 op x2 under i64; the control words and operand C are registers too. -/
def sc (op : Op) : Fields :=
  match op with
  | .sel | .fma => { ar 5 1 2 3 with mod := 0xE8, imm := 2 }
  | .cvt => { ar 5 1 2 10 with sb := 3 }
  | _ => ar 5 1 2 3

/-- Whether the operands of a row read and its result is written. -/
def rowRuns (e : ScalarRow) (f : Fields) (s : State) : Bool :=
  done (do
    let vs ← rdAll s.me f.imm (e.reads f)
    bump (e.bumps f)
    wr s.me (e.dstTy f) f.imm f.dst (e.val f (s.me.mode f) vs).1) s

theorem wit_scalar_two : ∀ e ∈ scalarTwo, admitted st e.op (sc e.op) = true ∧ rowRuns e (sc e.op) st = true := by
  decide +kernel
theorem wit_scalar_one : ∀ e ∈ scalarOne, admitted st e.op { sc e.op with sb := if e.op = .cvt then 3 else 0 } = true ∧
    rowRuns e (sc e.op) st = true := by decide +kernel
theorem wit_scalar_mixed : ∀ e ∈ scalarMixed, admitted st e.op (sc e.op) = true ∧ rowRuns e (sc e.op) st = true := by
  decide +kernel
/-- A local destination: the result goes to the vault. -/
theorem wit_scalar_local : ∀ e ∈ scalarTwo, admitted st e.op { sc e.op with dst := 0x80 } = true ∧
    rowRuns e { sc e.op with dst := 0x80 } st = true := by decide +kernel
theorem wit_scalar_long : (admitted st .div (ar 5 1 2 3) && admitted st .rem (ar 5 1 2 3) && admitted st .sqrt (ar 5 1 0 10)) = true ∧
    done (rdAll cx 0 [(3, 1#8), (3, 2#8)]) st = true ∧ done (rdAll cx 0 [(10, 1#8)]) st = true := by decide +kernel
theorem wit_register_moves : (admitted st .movi (pl 5 0 0 0) && admitted st .movh (pl 5 0 0 0) && admitted st .movsRead (pl 5 0 0 0) &&
    admitted st .movsWrite (pl 0 1 0 0) && admitted st .amov (pl 0xA0 1 2 0) && admitted st .astr (pl 0xA0 1 0 3) &&
    admitted st .aadv (pl 0xA0 1 0 3)) = true ∧ movsOk 0 0 = true ∧ done (wr64 cx 0 5 (cx.movs 0)) st = true ∧
    done (rdAll cx 0 [(3, 1#8), (3, 2#8)]) st = true := by decide +kernel
theorem wit_truth_values : (admitted st .cmp (ar 5 1 2 3) && admitted st .test (ar 5 1 2 3) && admitted st .pand (pl 0xB1 0xB0 0xB7 0) &&
    admitted st .por (pl 0xB7 0xB1 0xB2 0) && admitted st .pxor (pl 0xB1 0xB1 0xB2 0) && admitted st .pnot (pl 0xB1 0xB2 0 0) &&
    admitted st .pmov (pl 0xB1 1 0 0)) = true := by decide +kernel

/-! ## Witnesses: control -/

theorem wit_branches : (admitted st .br noFields && admitted st .brx (pl 0 1 0 0) && admitted st .call (pl 0xF 0 3 0) &&
    admitted st .callx (pl 0xF 1 3 0) && admitted st .ret (pl 0 1 3 0)) = true ∧ st.me.wb + 8 * 3 - 8 ≤ 456 ∧
    8 * 3 - 8 ≤ (withCtx (fun x => { x with wb := 16 })).me.wb ∧ done (rdAll cx 0 [(3, 1#8)]) st = true := by decide +kernel
/-- The window may end at register 511 and no further (R184). -/
theorem wit_branches_window : (withCtx (fun x => { x with wb := 440 })).me.wb + 8 * 3 - 8 ≤ 456 := by decide +kernel
theorem wit_loops : (admitted st .loop { noFields with imm := 0x00040004 } && admitted st .loopx (pl 0 1 0 0)) = true ∧
    bits 0x00000004 31 16 = 0 ∧ bits 0x00040004 31 16 ≠ 0 ∧ st.me.loops.length < 2 ∧ cx.x 0 = 0 ∧ cx.x 1 ≠ 0 := by decide +kernel
/-- A window or a loop stack that is full, and a stack whose top entry ends here with runs left, without, and at level S. -/
theorem wit_control_faults : 456 < (withCtx (fun x => { x with wb := 448 })).me.wb + 8 * 3 - 8 ∧ st.me.wb < 8 * 3 - 8 ∧
    2 ≤ (withCtx (fun x => { x with loops := [⟨1, 2, 3, false⟩, ⟨1, 2, 3, false⟩] })).me.loops.length := by decide +kernel
theorem wit_loop_back : cx.lone = none ∧ cx.sup = false ∧ cx.pc = 0 ∧ (⟨0, 0, 2, false⟩ : LoopEnt).stop = cx.pc ∧
    1 < (⟨0, 0, 2, false⟩ : LoopEnt).rem ∧ (⟨0, 0, 1, false⟩ : LoopEnt).rem ≤ 1 ∧ (⟨0, 5, 2, false⟩ : LoopEnt).stop ≠ cx.pc ∧
    (⟨0, 0, 2, true⟩ : LoopEnt).atS ≠ cx.sup := by decide +kernel
theorem wit_nop : (admitted st .nop noFields && admitted st .waitl noFields && admitted st .yield noFields) = true ∧
    st.me.pend.all (fun p => p.done && p.fault.isNone) = true := by decide +kernel

/-! ## Witnesses: vectors -/

/-- v3 := v1 op v2 under i16, or under binary16 where the mnemonic asks for it. -/
def vc : Fields := ar 0x43 0x41 0x42 1

theorem wit_vector_two : ∀ e ∈ vectorTwo, admitted st e.op vc = true ∧ done (rdV cx 0 0x41) st = true ∧
    done (rdLanes cx 1 0 0x42) st = true ∧ done (wrV cx 0 0x43 16 (cx.laneOn vc) (fun i => i)) st = true := by decide +kernel
theorem wit_vector_one : ∀ e ∈ vectorOne, admitted st e.op { vc with sb := if e.op = .cvt ∨ e.op = .vcvt then 8 else 0 } = true := by
  decide +kernel
theorem wit_vector_three : (admitted st .vfma { vc with mod := 0xE8, imm := 0x41 } && admitted st .vdot { vc with mod := 0xE8, imm := 0x44 } &&
    admitted st .vsel vc) = true ∧ done (rdV cx 0x44 0x44) st = true := by decide +kernel
theorem wit_vector_long : (∀ e ∈ vectorLong, admitted st e.1 { vc with sb := 0, ty := 10 } = true) ∧
    admitted st .vdiv { vc with ty := 10 } = true := by decide +kernel
theorem wit_lane_enables : (admitted st .vcmp { vc with dst := 1, sub := 0x10 } && admitted st .vmaskAnd (pl 1 0 7 0) &&
    admitted st .vmaskOr (pl 1 0 7 0) && admitted st .vmaskXor (pl 1 0 7 0) && admitted st .vmaskAndn (pl 7 0 7 0) &&
    admitted st .vmaskNot (pl 1 7 0 0) && admitted st .vmaskSet (pl 1 1 0 0) && admitted st .vmaskGet (pl 5 1 0 0) &&
    admitted st .viota { vc with sa := 1, sb := 0 }) = true := by decide +kernel
theorem wit_lane_moves : (admitted st .vbcast { vc with sa := 1, sb := 0 } && admitted st .vext { vc with dst := 5, sb := 1 } &&
    admitted st .vins { vc with sa := 1, sb := 2 } && admitted st .vshuf { vc with mod := 0xE8, imm := 0x42 } &&
    admitted st .vrot { vc with sb := 1 }) = true := by decide +kernel
theorem wit_reductions : (admitted st .vreds { vc with dst := 5, sb := 0 } && admitted st .vredmMin { vc with dst := 5, sb := 0 } &&
    admitted st .vredmMax { vc with dst := 5, sb := 0 } && admitted st .vscan { vc with sb := 0 }) = true := by decide +kernel
theorem wit_widening : (admitted st .vwidn { vc with sb := 0 } && admitted st .vnarr { vc with sb := 2, imm := 4 }) = true := by
  decide +kernel

/-- Bank 0 of the vault holds blocks of 4-bit mantissas (R76), and its second page, with the exponents, is resident. -/
def blk : State := (withCtx (fun x => { x with bfmt := [(0, 0x22)] })).modCore 0 (fun c =>
  { c with frames := put c.frames 4 { owner := 0, page := 1, dirty := false } })

theorem wit_blocks : (admitted blk .vqnt (ar 0x80 0x41 0 1) && admitted blk .vdqt (ar 0x43 0x80 0 1) &&
    admitted blk .vsprs (pl 0x43 0x41 0 1) && admitted blk .vxpnd (pl 0x43 0x41 0 1)) = true ∧
    done (blockAt blk.me 0x40) blk = true ∧ done (readBlock blk.me 0x40) blk = true ∧
    done (writeBlock 0x40 0x22 4 (quantiseTy 4 0 1 []).1) blk = true := by decide +kernel

/-! ## Witnesses: memory -/

/-- A global word in space g of class plain: MOD 0x40. -/
def gl (d a b ty : Nat) : Fields := { pl d a b ty with mod := 0x40 }

/-- Each end of a local access: it completes at the last byte of a launch's pages, faults beyond them and where it is
misaligned, asks for a page that is not resident, waits for the scoreboard, and finds a poisoned word. -/
theorem wit_local_ok : done (localLoc 0xFF8 8 false) st = true ∧ done (localLoc 0x40 8 true) st = true := by decide +kernel
theorem wit_local_beyond : 0xBFFC + 8 > 0xC000 ∧ (0x4000 + 8 - 1) / 4096 ≥ st.lpgOf 0 ∧ ¬ (0x3FF8 + 8 - 1) / 4096 ≥ st.lpgOf 0 ∧
    (0x44 : Nat) % 8 ≠ 0 := by decide +kernel
theorem wit_local_page : st.frameOf? 0 (0x1040 / 4096) = none ∧ st.frameOf? 0 (0xFF8 / 4096) = some 3 := by decide +kernel
theorem wit_local_waits : done (localLoc 0x40 8 false) (st.modCore 0 (fun c => { c with sb := [{ rs := [(0x3040, 0x3048)], tid := 0, seq := 1 }] })) = false ∧
    done (localLoc 0x40 8 false) { st with bad := [((0xF000000003040 : Nat) / 8, true)] } = false := by decide +kernel
theorem wit_local_ls : (admitted st .ld (pl 5 0x80 0 3) && admitted st .st (pl 0 0x80 1 3) && admitted st .ldv (pl 0x43 0x80 0 1) &&
    admitted st .stv (pl 0 0x80 0x41 1) && admitted blk .ldv (pl 0x43 0x80 0 12) &&
    admitted blk .stv { pl 0 0x80 0x41 12 with mod := 0x08, imm := 0x42 }) = true ∧
    done (localRead 0x40 8) st = true ∧ done (localWrite 0x40 8 5) st = true ∧ done (localRead 0x40 64) st = true ∧
    done (readBlock blk.me 0x40) blk = true := by decide +kernel
theorem wit_global_ls : (admitted st .ld (gl 5 6 0 3) && admitted st .st (gl 0 6 1 3) && admitted st .ldv (gl 0x43 6 0 1) &&
    admitted st .stv (gl 0 6 0x41 1)) = true ∧ done (globalPa 1 0x8000 8 needLoad) st = true ∧
    done (globalPa 1 0x8FC0 64 needStore) st = true ∧
    done (globalStore 1 0 [{ pa := 0x8000, n := 8, mask := 255, data := 5, named := 0x8000 }]) st = true := by decide +kernel
theorem wit_global_order : st.ordered [{ lane := 0, pa := 0x8000, bytes := 8, named := 0x8000 }] := ⟨by decide +kernel, by decide +kernel⟩
theorem wit_lanes : (admitted st .vlds (gl 0x43 6 1 2) && admitted st .vsts { gl 0 6 1 2 with mod := 0x48, imm := 0x41 } &&
    admitted st .vgath (gl 0x43 6 0x41 2) && admitted st .vscat { gl 0 6 0x41 2 with mod := 0x48, imm := 0x42 } &&
    admitted st .vlds (pl 0x43 0x80 1 2)) = true ∧
    done (findLanes cx (gl 0x43 6 1 2) needLoad (fun i => 0x8000 + w64 i * 64)) st = true ∧
    done (readLanes cx (pl 0x43 0x80 1 2) (fun i => 0x40 + w64 i * 4)) st = true ∧
    done (placeLanes cx (pl 0x43 0x80 1 2) (fun i => 0x40 + w64 i * 4)) st = true := by decide +kernel
theorem wit_maintenance : (admitted st .pref (gl 0 6 0 0) && admitted st .pref { gl 0 6 0 0 with mod := 0x80 } && admitted st .wbk (gl 0 6 3 0) &&
    admitted st .invl (gl 0 6 3 0) && admitted st .fence { noFields with mod := 0x34 }) = true ∧
    (cx.x 3).toNat ≤ 2 ^ 20 ∧ cx.x 3 ≠ 0 ∧ cx.x 0 = 0 ∧ done (pagesOf 8 1) st = true ∧ st.ownVaultPosted 0 = false := by decide +kernel
/-- The longest range is 2^20 bytes (R222); x4 is longer. -/
theorem wit_maintenance_length : (∀ c ∈ [0#8, 3#8, 4#8], done (rd64 cx 0 c) st = true) ∧ 2 ^ 20 < (cx.x 4).toNat ∧
    ¬ 2 ^ 20 < (w64 (2 ^ 20)).toNat ∧ (gl 0 6 3 0).space = 1 ∧ ({ gl 0 6 0 0 with mod := 0x80 } : Fields).space ≠ 1 := by decide +kernel
theorem wit_released : st.released ∧ st.meetsNoRefusal ∧ (withCtx (fun x => { x with sup := true })).meetsNoRefusal :=
  ⟨⟨by decide +kernel, by decide +kernel⟩, .inl rfl, .inr rfl⟩
theorem wit_atomics : ∀ op ∈ atomics, admitted st op { gl 5 6 1 3 with mod := 0x7C } = true ∧
    done (globalPa 1 0x8000 8 needAtomic) st = true ∧ done (rd cx 3 0 1) st = true := by decide +kernel
/-- An access that is delayed, and what an access that is not meets at its home. -/
theorem wit_performed_when : (withCtx (fun x => { x with delay := true })).me.delay = true ∧ st.me.delay = false ∧
    st.homeHolds 0 0 0x8000 false = false ∧ st.homeHolds 0 2 0x8000 true = false := by decide +kernel
theorem wit_performed : (match st.load 0 0 0x8000 8 with | .ok _ _ => true | _ => false) = true ∧
    (match st.rmw 0 0x8000 8 (fun m => some (m + 1)) with | .ok _ _ => true | _ => false) = true := by decide +kernel

/-! ## Witnesses: copies -/

/-- A copy of 8 bytes between x6 and a0, and one of one row. -/
def cp : State := withCtx (fun x => { x with xs := [(1, 8), (2, 0), (6, 0x8000), (7, 0x8080), (4, 0x00010008)] })
theorem wit_copies : (admitted cp .cpyIn { gl 5 6 1 0 with mod := 0x48, imm := 0x80 } && admitted cp .cpyOut { gl 5 6 1 0 with mod := 0x48, imm := 0x80 } &&
    admitted cp .cpyGlobal { gl 5 6 1 0 with mod := 0x48, imm := 7 } && admitted cp .cpy2dIn { gl 5 6 4 0 with mod := 0x48, imm := 0x80 } &&
    admitted cp .cpy2dOut { gl 5 6 4 0 with mod := 0x48, imm := 0x80 }) = true ∧
    done (globalParts 1 0x8000 8 needSrc) cp = true ∧ done (globalParts 1 0x8080 8 needDst) cp = true ∧ done (localParts 0x40 8 true) cp = true ∧
    cp.localFault 0 0x40 8 1 = none ∧ meets 0x8000 8 0x8080 8 = false ∧ (cp.core 0).sb.length + 1 ≤ 16 ∧
    bits (cp.me.x 4).toNat 31 16 ≠ 0 ∧ bits (cp.me.x 4).toNat 15 0 ≠ 0 ∧ bits (cp.me.x 2).toNat 31 16 = 0 := by decide +kernel
theorem wit_cpyl : (admitted cp .cpyl { pl 5 0x80 1 0 with mod := 0xE8, imm := 0x81 } && admitted cp .cwait (pl 0 2 0 0)) = true ∧
    done (sideExtent 0 0x40 8 8) cp = true ∧ meets 0x40 8 0x80 8 = false ∧ (cp.core 0).copies = [] ∧ cp.me.copyErr = [] := by decide +kernel

/-! ## Witnesses: tensor objects and tenure -/

/-- What a release waits for, as a Bool. -/
def rel (s : State) : Bool :=
  s.me.pend.all (fun p => p.done || !p.work.isAccess) &&
  !(s.core (coreOf s.cur)).log.any (fun e => e.2.tid == s.cur && e.2.act == s.me.act)

/-- The descriptor of 32 elements of 4 bytes at 0x8000, and of 8 blocks of 4-bit mantissas there with exponents
at 0x8080. -/
def dElems : Nat := 0x8000 + 2 * 2 ^ 52 + 31 * 2 ^ 64
def dBlocks : Nat := 0x8000 + 0xA2 * 2 ^ 52 + 7 * 2 ^ 64 + 0x8080 * 2 ^ 192

/-- A descriptor at local address 0x40, the corners 0 and 31 of a box at 0x60. -/
def ob (d : Nat) : State := ((withCtx (fun x => { x with xs := [(1, 128), (6, 0x8000)] })).writeVault 0 0x3040 32 d).writeVault 0
  0x3060 16 (31 * 2 ^ 64)

theorem wit_tobj : admitted (ob dElems) .tobj { pl 0x90 0x80 0 0 with imm := 0x40 } = true ∧ (ob dElems).mem.val (0xF000000003040) 32 = dElems ∧
    done (localRead 0x40 32) (ob dElems) = true ∧ done (localLoc 0x80 32 true) (ob dElems) = true ∧ descLegal (BitVec.ofNat 256 dElems) = true ∧
    done (translateLeaf 0x8000 { r := true, tile := true }) (ob dElems) = true ∧
    inOnePage 0x8000 (2 ^ descTop (BitVec.ofNat 256 dElems)) 12 = true ∧ fmtBlock (descFmt (BitVec.ofNat 256 dElems)) = false ∧
    done (localWrite 0x80 32 dElems) (ob dElems) = true := by decide +kernel
theorem wit_tobj_blocks : descLegal (BitVec.ofNat 256 dBlocks) = true ∧ fmtBlock (descFmt (BitVec.ofNat 256 dBlocks)) = true ∧
    inOnePage 0x8000 (2 ^ descTop (BitVec.ofNat 256 dBlocks)) 12 = true ∧ done (translateLeaf 0x8080 { r := true, tile := true }) (ob dBlocks) = true ∧
    inOnePage 0x8080 8 12 = true := by decide +kernel
theorem wit_tdef_box : admitted (ob dElems) .tdefBox { pl 5 0x80 0x90 0 with imm := 0x20 } = true ∧ done (localRead 0x60 16) (ob dElems) = true ∧
    (31 : Nat) ≤ descExt (BitVec.ofNat 256 dElems) 0 ∧ (ob dElems).trans.busy = false ∧
    (ob dElems).homeOfLines (boxLines (BitVec.ofNat 256 dElems) [0] [31]) = some (0, 0) := by decide +kernel
/-- The longest span is 65,536 bytes in one 64 KiB block, the shortest one line (R237). -/
theorem wit_tdef_span : admitted (ob 0) .tdefSpan (pl 5 6 1 0) = true ∧ done (translate 0x8000 { r := true, tile := true }) (ob 0) = true ∧
    0x8000 % 128 = 0 ∧ 128 % 128 = 0 ∧ (0x10000 : Nat) / 65536 = (0x10000 + 65536 - 1) / 65536 ∧ (0x8000 : Nat) / 65536 = (0x8000 + 128 - 1) / 65536 ∧
    (ob 0).homeOfLines [0x100] = some (0, 0) := by decide +kernel

/-- A record over four lines in slot 3 of stack 0, made by the task; x1 is its handle. -/
def rc : DirRec := { kind := .span, part := 0, gen := 1, lid := 1, base := 0x100, len := 3, owner := some (0, 1) }
def hnd : Word := mkHandle 1 0 0 3
def te (r : DirRec) (g : Ctx → Ctx) : State :=
  (withCtx (fun x => g { x with xs := [(1, hnd), (2, 1), (3, mkHandle 9 0 0 3)] })).setStack 0 { dir := [(3, r)] }
/-- The same, the thread holding the record for writing. -/
def tw1 : State := te { rc with ten := 2, whv := true } (fun x => { x with tens := [{ handle := hnd, write := true, scope := 1 }] })

theorem wit_tacq : admitted tw1 .tacq { pl 0 1 0 0 with mod := 0x14, la := 2 } = true ∧ (tw1.me.tens.find? (fun y => y.handle == hnd)).isSome = true ∧
    admitted (te rc id) .tacq { pl 0 1 0 0 with mod := 0x15 } = true ∧ (te rc id).me.tens.find? (fun y => y.handle == hnd) = none ∧
    (te rc id).me.tens.length + (te rc id).me.asked < 16 ∧ (te rc id).handleSlot (mkHandle 9 0 0 3) = none ∧
    (te rc id).handleSlot hnd = some (0, 3, rc) ∧ rc.lid = (te rc id).lidOf 0 := by decide +kernel
theorem wit_tenure : (admitted (te rc id) .ttry { pl 5 1 0 0 with mod := 0x15 } && admitted tw1 .trel { pl 0 1 0 0 with mod := 0x24 } &&
    admitted (te rc id) .tdrop (pl 0 1 0 0) && admitted (te rc id) .tqry (pl 5 1 2 0) && admitted tw1 .tsplt (pl 2 1 2 0)) = true ∧
    rel tw1 = true ∧ tw1.me.refusal = none ∧ hnd ≠ 0 ∧ rc.owner = some (0, (te rc id).me.act) ∧ (te rc id).me.tens = [] ∧
    rc.part = (te rc id).partOf 0 ∧ tw1.handleSlot hnd = some (0, 3, { rc with ten := 2, whv := true }) := by decide +kernel
/-- A try that is granted and one that meets a holder; a drop finds no store of a holder open. -/
theorem wit_try_drop : (te rc id).mayGrant 0 ((te rc id).waiterFor 0 0 3 hnd true 1) = true ∧ ((te rc id).stack 0).queueOf 3 = [] ∧
    (te { rc with ten := 1, rcnt := 1 } id).mayGrant 0 ((te rc id).waiterFor 0 0 3 hnd true 1) = false ∧
    (te rc id).storesDone hnd = true ∧ (te rc id).me.tens.length + (te rc id).me.asked < 16 := by decide +kernel
theorem wit_tsplt : (2 : Nat) ≠ 1 ∧ (tw1.me.tens.find? (fun y => y.handle == hnd && y.write)).isSome = true ∧
    (look? ((tw1.stack 0).rejoin 3).dir 3).isSome = true ∧ (cutRec 0 { rc with ten := 2, whv := true } 0 1).isSome = true ∧
    (cutRec 0 { rc with ten := 2, whv := true } 0 3).isSome = true ∧ 1 ≤ ((tw1.stack 0).rejoin 3).freeSlots ∧
    ((tw1.stack 0).rejoin 3).precs 0 + tw1.fetchRecs 0 0 + 1 ≤ ((tw1.modPart 0 (fun p => { p with pquota := 4 })).part 0).pquota ∧
    (tw1.spareOwners 0 ((tw1.stack 0).pieces 3)).stack 0 = tw1.stack 0 := by decide +kernel

/-! ## Witnesses: the array -/

/-- The B operand is loaded and x1 names a record over 8 blocks. -/
def arr : State := (((blk.modCtx 0 (fun x => { x with bfmt := [(0, 0x32)], bValid := true, mhnd := 0x1000 })).setStack 0
  { dir := [(3, { kind := .box, part := 0, gen := 1, lid := 1, didx := 0, lo := [0], hi := [7] })],
    descs := [(0, (BitVec.ofNat 256 dBlocks, 1))] }).modCtx 0 (fun x => { x with xs := [(1, hnd)] }))

theorem wit_array : (admitted arr .mldbLocal (pl 0 0x80 0 0) && admitted arr .mmaLocal (pl 0xF0 0x80 0x98 0) && admitted arr .mclr (pl 0xF0 0 0 0) &&
    admitted arr .mclr (pl 0x0F 0 0 0)) = true ∧ done (blockAt arr.me 0x40) arr = true ∧ arr.blocksOk 0 0x40 4 8 = true ∧
    0xF0 % 16 + (0xF0 / 16 + 1) ≤ 16 ∧ 0x0F % 16 + (0x0F / 16 + 1) ≤ 16 ∧ ¬ (0x1F % 16 + (0x1F / 16 + 1) ≤ 16) ∧
    fmtIsBlock (arr.me.bank 0) = true ∧ fmtPlane (arr.me.bank 0) = true ∧ 4 + 16 ≤ blkCapacity 4 ∧ arr.me.bValid = true ∧
    arr.me.arrQ.length < 8 := by decide +kernel
/-- x1 names a record over eight rows of one block of 4-bit mantissas, which stand one behind the other. -/
def dTile : Nat := 0x8000 + 0x1A2 * 2 ^ 52 + 7 * 2 ^ 80 + 4 * 2 ^ 128 + 0x8080 * 2 ^ 192
def arr2 : State := arr.setStack 0
  { dir := [(3, { kind := .box, part := 0, gen := 1, lid := 1, didx := 0, lo := [0, 0], hi := [0, 7] })],
    descs := [(0, (BitVec.ofNat 256 dTile, 1))] }
/-- A fetch of its eight blocks, from the row that x0 names; and of one more. -/
theorem wit_array_tile : descLegal (BitVec.ofNat 256 dTile) = true ∧ (admitted arr .mldbTile { pl 0 1 0 0 with imm := 0 } && admitted arr .mmaTile { pl 0x70 1 0x98 0 with imm := 0 }) = true ∧
    (match tileEls arr2.me (pl 0 1 0 0) 8 arr2 with
      | .ok (els, fmt) s1 => decide (els.length = 8) && decide (fmtWidth fmt = 4) && decide (s1.me.arrQ = []) &&
          els.all (fun e => !s1.me.openOver e.1 16 && !s1.postedOver 0 e.1 16 && !s1.me.openOver e.2 1 && !s1.postedOver 0 e.2 1)
      | .error _ _ => false) = true ∧ done (tileEls arr2.me (pl 0 1 0 0) 9) arr2 = false ∧ 0x70 % 16 + (0x70 / 16 + 1) ≤ 16 := by decide +kernel
theorem wit_drain : (admitted arr .mhnd { noFields with imm := 3 } && admitted arr .mdrn (pl 0x10 0 0 0) && admitted arr .mwait noFields) = true ∧
    arr.me.drained = 0 ∧ arr.me.mhnd ≠ 0 ∧ (arr.freeCtx? 0).isSome = true ∧ arr.me.arrQ = [] ∧ arr.me.drain = 0 ∧ arr.hasPins 0 = false ∧
    arr.me.arrErr = [] ∧ rel arr = true := by decide +kernel

/-! ## Witnesses: messages and tasks -/

/-- Queue 0 of core 0 holds a message from context 0 of core 3; x2 = 3 names core 3. -/
def ms : State := st.modCore 0 (fun c => { c with msgs := [(msgKey 0 2, { st := .queued, sender := 3, n := 1, words := [7] })] })
/-- The same with the message held. -/
def mh : State := (ms.modCore 0 (fun c => { c with msgs := [(msgKey 0 2, { st := .held, n := 1, words := [7] })] })).modCtx 0 (fun x =>
  { x with held := some (0, 2) })

theorem wit_messages : (admitted ms .send (pl 0 2 9 0) && admitted ms .send { pl 0 2 48 0 with imm := 31 } && admitted ms .sendv { pl 0 2 0x5E 0 with imm := 15 } &&
    admitted ms .poll (pl 5 0 0 0) && admitted ms .waitq { pl 5 0 0 0 with imm := 1 } && admitted mh .rls noFields) = true ∧
    48 + msgCount { noFields with imm := 31 } - 1 ≤ 63 ∧ 0x5E - 0x40 + (msgCount { noFields with imm := 15 } - 1) / 8 ≤ 31 ∧
    ms.me.held = none ∧ (ms.core 0).hand 0 = none ∧ (ms.core 0).oldest 0 = some 2 ∧ ((ms.core 0).msg 0 2).bad = false ∧
    (ms.core 0).oldest 1 = none ∧ mh.me.held = some (0, 2) ∧ ms.me.lost = false := by decide +kernel
theorem wit_send_goes : (ms.me.x 2).toNat / 2 ^ 28 = 0 ∧ bits (ms.me.x 2).toNat 27 20 = ms.cubeid ∧ ms.ctxLaunch? 0 = some la ∧
    la.fields.contains (fieldOfCore 3) = true ∧ la.channelFull (la.channelTo 0 3 1) 0 = false ∧ (ms.field 0).frozen = false ∧
    (ms.queueFor 0 3 1).1 = true ∧ ((ms.queueFor 0 3 1).2.core 3).freeMsg? 1 = some 0 := by decide +kernel

/-- A task record of zeros is legal; x6 = 0x8000 has its home in stack 0 of this cube, x7 in cube 5. -/
def sd (h : Map Word) (g : Ctx → Ctx) : State := { withCtx g with hmap := h }
/-- The first 2^30 bytes have their home in cube 5, reached over link 0. -/
def far (s : State) : State :=
  { s with hmap := [(0, 0x8000000000007980), (1, 0x280)], zen := { s.zen with routes := [(5, 0x100)], links := [(0, { lctl := 1, up := true })] } }
theorem wit_sendt : admitted st .sendt { gl 5 6 0x80 0 with imm := 1 } = true ∧ admitted st .sendt { gl 5 6 0x80 0 with mod := 0x80, imm := 1 } = true ∧
    st.me.answer = none ∧ done (localRecord 0x40) st = true ∧ done (translate 0x8000 { r := true }) st = true ∧ rel st = true ∧
    ((st.home? 0x8000).map (fun h => (h.cube, h.stack))) = some (0, 0) ∧ (sd [] id).home? 0x8000 = none ∧
    ((far st).home? 0x8000).map HomeAt.cube = some 5 ∧ (far st).reachable 5 = true := by decide +kernel
theorem wit_sendt_answers : (withCtx (fun x => { x with answer := some (some 4) })).me.answer = some (some 4) ∧
    st.taskAnswer 0 0 1 (List.replicate 8 0) = (0, some 0) ∧ (st.taskAnswer 0 0 2 (List.replicate 8 0)).1 = 2 ∧
    (st.taskAnswer 0 0 1 [58]).1 = 4 ∧ st.reachable 5 = false := by decide +kernel
/-- The one queue of the launch holds its 256 tasks, so the packet waits (R315). -/
theorem wit_sendt_waits : (st.modField 0 (fun f => { f with tasks := List.replicate 256 (⟨tk, 1, 0, 0, 0, false, none⟩ : QTask) })).taskAnswer 0 0 1 (List.replicate 8 0) = (0, none) := by
  decide +kernel

/-- A launch block: one field, two contexts for each core, four pages, every domain at 4/4/4/4. -/
def lb : List Word := [0x41001001, w64 (135300 + 135300 * 2 ^ 20 + 228 * 2 ^ 40)]
def lt : State := (st.modPart 0 (fun p => { p with pctl := 3, pasid := 0x00010000 })).modStack 0 id
def ltm (ws : List Word) : State :=
  { lt with mem := lt.mem.setVal (((st.home? 0x8000).map HomeAt.loc).getD 0) 16 ((ws.getD 0 0).toNat + (ws.getD 1 0).toNat * 2 ^ 64) }

theorem wit_tasks : (admitted st .spawn (pl 0 0x80 0 0) && admitted st .spawnr (pl 0 0x80 0 0) && admitted st .rnext (pl 5 0 0 0) &&
    admitted st .done noFields && admitted st .lnch (pl 5 6 0 0) && admitted st .wcfg { pl 0 1 0 0 with imm := 0x2F } &&
    admitted st .wqry (pl 0x80 0 15 0)) = true ∧ st.ctxLaunch? 0 = some la ∧ taskLegal la.lpg (List.replicate 8 0) = true ∧
    taskRng (List.replicate 8 0) = false ∧ taskQb (List.replicate 8 0) = 0 ∧ taskQb [0x200000000000000] ≠ 0 ∧
    taskLegal la.lpg [0x800000000] = true ∧ taskRng [0x800000000] = true ∧ (st.spawnField 0 la).isSome = true ∧
    (cx.x 1).toNat / 2 ^ 48 = 0 ∧ (0x40 : Nat) % 16 = 0 ∧ done (localParts 0x40 16 true) st = true := by decide +kernel
theorem wit_done : st.me.pend = [] ∧ (st.core 0).copies = [] ∧ (st.core 0).sb = [] ∧ st.me.copyErr = [] ∧ st.me.arrQ = [] ∧
    st.me.arrErr = [] ∧ st.me.refusal = none ∧ rel st = true ∧ st.me.made.all (st.landThese 0 (fun _ => true)).storesDone = true ∧
    (te rc (fun x => { x with made := [hnd] })).me.made.all
      ((te rc (fun x => { x with made := [hnd] })).landThese 0 (fun _ => true)).storesDone = true := by decide +kernel
theorem wit_rnext : (withCtx (fun x => { x with rng := some { hi := 8, c := 8, g := 4 } })).me.rng = some { hi := 8, c := 8, g := 4 } ∧
    (withCtx (fun x => { x with rng := some { hi := 8, c := 7, g := 4 } })).me.rng = some { hi := 8, c := 7, g := 4 } := by decide +kernel
theorem wit_lnch : bit (lt.part 0).pctl 1 = true ∧ done (translate 0x8000 { r := true, near := true }) lt = true ∧
    (match lnchBlock 0x8000 0x8000 (ltm lb) with
      | .ok (ws, tags) s2 => s2.cur == 0 && rel s2 && decide (s2.pending.length < 1024) &&
          s2.judge { la with block := ws } tags true == 0 && s2.partEn 0 && s2.asidOk 0 0 && s2.sched.reqs == [] && !s2.entryDue
      | _ => false) = true ∧
    (match lnchBlock 0x8000 0x8000 (ltm []) with
      | .ok (ws, tags) s2 => s2.judge { la with block := ws } tags true != 0
      | _ => false) = true := by decide +kernel

/-- A request that another one, or an entry of the queue, comes before; one that has its answer. -/
def rq : LnchReq := { tid := 16, act := 1, launch := la, tags := [], at_ := 0 }
theorem wit_lnch_waits : ({ lt with sched := { lt.sched with reqs := [rq] } } : State).sched.reqs ≠ [] ∧
    ({ lt with sched := { lt.sched with en := true, lqtail := 1 } } : State).entryDue = true ∧ lt.entryDue = false ∧
    (withCtx (fun x => { x with answer := some (some 7) })).me.answer = some (some 7) := by decide +kernel

/-! ## Witnesses: synchronization and the system -/

/-- x1 is the token of barrier 2 at field scope, phase 0; x2 names core 3, x3 no wait. -/
def sy : State := withCtx (fun x => { x with xs := [(1, 0x160000), (2, 3), (4, w64 (135300 + 135300 * 2 ^ 20 + 228 * 2 ^ 40))] })
/-- The other context of the core has arrived at barrier 2 of core scope. -/
def lb2 : Launch := { la with bars := [(barKey 0 0 2, { arrived := [memberOf 0 1] })] }
def last2 : State := { sy with sched := { launches := [lb2] } }

theorem wit_sync : (admitted sy .bar { noFields with mod := 0x36 } && admitted sy .bara (pl 5 0 0 0 |> fun f => { f with mod := 0x26 }) &&
    admitted sy .barw { pl 0 1 0 0 with mod := 0x10 } && admitted sy .wake { pl 0 2 0x7F 0 with imm := 1 } &&
    admitted sy .sleep { pl 5 0x7F 0 0 with imm := 0xFFFF } && admitted sy .evq { pl 5 0 0 0 with imm := 7 } &&
    admitted sy .evq (pl 5 0 0 0) && admitted sy .ratq (pl 5 0 0 0) && admitted sy .ratr (pl 5 4 0 0)) = true ∧ rel sy = true ∧
    sy.ctxLaunch? 0 = some la ∧ (sy.arrive 0 la 1 2).2.cur = 0 ∧ ((sy.arrive 0 la 1 2).2.ctxLaunch? 0).isSome = true ∧
    (sy.me.x 1).toNat / 2 ^ 20 = 1 ∧ (sy.me.x 2).toNat / 2 ^ 32 = 0 ∧ bits (sy.me.x 2).toNat 27 20 = sy.cubeid ∧
    la.fields.contains (fieldOfCore 3) = true ∧ sy.me.notify = 0 ∧ (withCtx (fun x => { x with notify := 9 })).me.notify ≠ 0 ∧
    sy.me.events = [] ∧ (withCtx (fun x => { x with events := [5] })).me.events ≠ [] ∧ sy.ratioAnswer la (sy.me.x 4).toNat = 0 := by decide +kernel
theorem wit_barrier : admitted last2 .bar { noFields with mod := 0x32 } = true ∧ last2.ctxLaunch? 0 = some lb2 ∧ (sy.arrive 0 la 0 2).1 = 0 ∧
    (match (sy.arrive 0 la 0 2).2.ctxLaunch? 0 with | some l => (l.barrier 0 0 2).phase == 0 | none => false) = true ∧
    (match (last2.arrive 0 lb2 0 2).2.ctxLaunch? 0 with
      | some l => (l.barrier 0 0 2).phase != (last2.arrive 0 lb2 0 2).1 | none => false) = true ∧
    (la.barrier 1 (scopeInst 1 0) 2).phase = 0 ∧ (la.barrier 1 (scopeInst 1 0) 2).phase ≠ 65535 := by decide +kernel

/-- The thread at level S, with a shootdown that is over. -/
def su : State := withCtx (fun x => { x with sup := true, xs := [(6, 0x8000)] })
def sh1 : State := { su.setCtx 0 { su.me with answer := some none, ticket := some 1 } with trans := { sdseq := 1, sddone := 1 } }

theorem wit_system : (admitted su .sret noFields && admitted su .halt noFields && admitted su .irq { noFields with imm := 4095 } &&
    admitted su .csrr { noFields with dst := 5, imm := 0x200 } && admitted su .csrw { pl 0 1 0 0 with imm := 4 } &&
    admitted su .csrx { pl 5 1 0 0 with imm := 0 } && admitted su .tlbiVa (pl 0 6 0 0) && admitted su .tlbiAs { pl 0 0 0 0 with imm := 1 } &&
    admitted su .tlbiAll { noFields with imm := 2 } && admitted su .tlbiVa { pl 0 6 0 0 with imm := 4 } &&
    admitted su .tlbiAs { pl 0 0 0 0 with imm := 5 } && admitted su .tlbiAll { noFields with imm := 6 }) = true ∧
    su.me.sup = true ∧ bit su.me.tstat.toNat 16 = false ∧ csrReads true 0x200 = true ∧ csrWrites true 4 = true ∧ csrReads true 0 = true ∧
    csrWrites true 0 = true ∧ csrWrites false 4 = false ∧ (su.me.x 0).toNat < 2 ^ 16 ∧ su.me.answer = none ∧ rel su = true ∧
    done (rd64 su.me 0 1) su = true ∧ sh1.shootDone 1 = true := by decide +kernel
/-- A write of L2CFG in the middle of a surrender is held; one that has been acted on completes (R85, R287). -/
theorem wit_accessed : rel su = true ∧ su.me.tileWork = false ∧ (su.core 0).copies = [] ∧ (su.core 0).sb = [] ∧ csrReads true 0x204 = true := by
  decide +kernel
theorem wit_csr_held : let s := su.modField 0 (fun f => { f with l2state := 1 })
    (admitted s .csrw { pl 0 1 0 0 with imm := 0x204 } && admitted s .csrx { pl 5 1 0 0 with imm := 0x204 }) = true ∧
    csrWrites true 0x204 = true ∧ csrReads true 0x204 = true ∧ ((s.setCsr 0 0x204 1).field 0).surrHeld ≠ none ∧
    ((su.setCsr 0 0x204 1).field 0).surrHeld = none ∧
    (withCtx (fun x => { x with sup := true, answer := some (some 5) })).me.answer = some (some 5) ∧ (su.field 0).surrHeld = none := by decide +kernel
/-- At level U an interrupt identity needs its bit in PIRQ. -/
theorem wit_irq : (look ((st.modPart 0 (fun p => { p with pirq := [(63, 0x8000000000000000)] })).part 0).pirq (4095 / 64) 0).getLsbD (4095 % 64) = true := by
  decide +kernel

/-- A service queue of sixteen records at 0x10000. -/
def sv : State := st.modPart 0 (fun p => { p with pctl := 8, sqtag := true, sqcap := BitVec.ofNat 128 (0x04F0000000010000 + (0x10 + 2 ^ 40) * 2 ^ 64) })
def svHeld : State := (((sv.queueFor 0 0 1).2.unqueue 0 0 1).modCore 0 (fun c =>
  { c with msgs := put c.msgs (msgKey 1 0) { st := .reply 0 1 0 } })).onMe (fun z => { z with reserved := some (1, 0, 0) })
theorem wit_sysc : admitted sv .sysc (pl 5 0x80 1 0) = true ∧ done (localRecord 0x40) sv = true ∧ sv.me.reserved = none ∧
    (sv.core 0).hand 1 = none ∧ bit (sv.part 0).pctl 3 = true ∧ (sv.queueFor 0 0 1).1 = true ∧
    ((sv.queueFor 0 0 1).2.core 0).freeMsg? 1 = some 0 ∧ svHeld.me.reserved = some (1, 0, 0) ∧ svHeld.cur = 0 ∧ rel svHeld = true ∧
    (svHeld.part 0).sqcerr = false ∧ (svHeld.part 0).ringFull = false ∧ (svHeld.part 0).capOk = true ∧
    (match svHeld.writeWords (svHeld.part 0).cap.addr (List.replicate 8 0) with
      | some s2 => s2.cur == 0 && (s2.raiseIid 0).me.reserved == some (1, 0, 0)
      | none => false) = true := by decide +kernel
theorem wit_bkpt : (admitted st .bkpt { noFields with imm := 0xFFFF } && admitted st .trap { noFields with imm := 0xFFFF }) = true ∧
    st.me.pend = [] ∧ bit (st.part 0).pctl 2 = false ∧ bit ((st.modPart 0 (fun p => { p with pctl := 4 })).part 0).pctl 2 = true ∧
    (st.part 0).assert = false ∧ (st.part 0).frozen = false ∧ (st.part 0).ecount = none := by decide +kernel

/-! ## Witnesses: events of the memory system -/

def ln0 : Nat := 0x100
def clean : L2Line := { st := .s, dirty := false, data := 0, tags := 0, mark := false, exp := 0, high := false, syn := 0, bad := false }
def wtr (w : Bool) : Waiter := { tid := 0, act := 1, slot := 3, handle := hnd, write := w, scope := 1, stamp := 0 }
/-- Field 0 with something changed. -/
def fl0 (g : Field → Field) : State := st.modField 0 g
/-- A load on its way. -/
def pn (since : Option Nat) : Pend :=
  { pc := 0, idx := 0, left := 1, done := false, result := .none, flags := 0, fault := none,
    work := .load 3 0 (.x 5) { lane := 0, pa := 0x8000, bytes := 8, named := 0x8000 }, since := since, sup := false }
def fil : LineMsg := { line := ln0, seq := 7, data := 0, tags := 0, syn := 0, bad := false }

theorem wit_grant : ((te rc id).modStack 0 (fun k => { k with waiters := [wtr true] }) |> fun s => (s.stack 0).waiters.find? (fun w => (s.stack 0).ripe w)) =
    some (wtr true) ∧ ((te rc id).modStack 0 (fun k => { k with waiters := [wtr false] }) |> fun s =>
      decide ((s.stack 0).waiters.find? (fun w => (s.stack 0).ripe w) = some (wtr false)) &&
      decide (((s.grantWaiter 0 (wtr false)).stack 0).waiters.filter (fun v => v.slot == 3) = [])) = true ∧
    ((te rc id).modStack 0 (fun k => { k with waiters := [wtr true] })).mayGrant 0 (wtr true) = true ∧
    (te rc id).handleSlot hnd ≠ none ∧ (te { rc with gen := 2 } id).handleSlot hnd = none ∧
    (te { rc with gen := 2 } id).mayGrant 0 (wtr true) = true := by decide +kernel
/-- A tenure wait ends at exactly 2^16 vclk cycles (R113). -/
theorem wit_waits : ((withCtx (fun x => { x with pend := [pn none] })).ctx 0).pend.find? (fun p => !p.done && p.work.isAccess) = some (pn none) ∧
    0 + 2 ^ 16 ≤ ((withCtx id).modField 0 (fun f => { f with vclk := 65536 })).vclk 0 ∧
    ¬ 0 + 2 ^ 16 ≤ ((withCtx id).modField 0 (fun f => { f with vclk := 65535 })).vclk 0 ∧ st.wrap = 0 ∧
    ((withCtx (fun x => { x with pend := [pn (some 0)] })).modField 0 (fun f => { f with vclk := 65536 }) |> fun s =>
      (s.ctx 0).pend.find? (fun p => !p.done && p.since.any (fun v => decide (v + 2 ^ 16 ≤ s.vclk 0)))) = some (pn (some 0)) := by
  decide +kernel
theorem wit_fill : let s := (fl0 (fun f => { f with miss := [(ln0, {})] })).modPart 0 (fun p => { p with pquota := 4 })
    (s.home? (128 * ln0)).map HomeAt.cube = some s.cubeid ∧ paSpace (128 * ln0) < 0xE ∧ (s.field 0).frozen = false ∧ s.wrap = 0 ∧
    (look? (s.field 0).miss ln0).isSome = true ∧ (s.field 0).fills = [] ∧ look? (s.field 0).l2 ln0 = none ∧
    s.fieldExcluded 0 0 ln0 = false ∧ s.seqHeld ln0 = false ∧
    ((s.recallForFill 0 ln0 (some 0) false).ensureCovered 0 ln0 0).1 = true := by decide +kernel
/-- A fill that the largest invalidation of its line is not older than is dropped (R120). -/
theorem wit_arrival : let s := fl0 (fun f => { f with miss := [(ln0, { inval := some 6 })], fills := [fil] })
    (s.field 0).fills.find? (fun m => m.line == ln0) = some fil ∧ look? (s.field 0).l2 ln0 = none ∧ (some 6 : Option Nat).any (fun i => seqGe i fil.seq) = false ∧
    (some 7 : Option Nat).any (fun i => seqGe i fil.seq) = true := by decide +kernel
theorem wit_invalidation : look? ((fl0 (fun f => { f with miss := [(ln0, {})] })).field 0).miss ln0 = some { inval := none } ∧
    look? ((fl0 (fun f => { f with l2 := [(ln0, clean)] })).field 0).l2 ln0 = some clean ∧
    look? (((fl0 (fun f => { f with l2 := [(ln0, clean)] })).unhold 0 ln0).field 0).miss ln0 = none := by decide +kernel
theorem wit_ownership : let s := (fl0 (fun f => { f with l2 := [(ln0, clean)] })).modCore 0 (fun c => { c with copies :=
      [{ tid := 0, act := 1, seq := 0, cls := 0, kind := .bytes, segs := [{ src := 0, dst := 0x8000, n := 4 }], gsrc := false, gdst := true }] })
    (s.copyWants 0 ln0).map (fun y => (y.tid, y.seq, y.owned)) = some (0, 0, []) ∧ s.excluded 0 0 (128 * ln0) 128 true = false ∧
    s.held? 0 ln0 = some clean ∧ clean.st ≠ .l ∧ s.engineOwns ln0 (fun _ => true) = false ∧
    ((s.modPart 0 (fun p => { p with pquota := 4 })).ownLine 0 (((s.home? (128 * ln0)).map HomeAt.loc).getD 0) 0 ln0).1 = true := by decide +kernel
/-- A lease ends 8 ticks before its time (R116). -/
theorem wit_lease : let s := fl0 (fun f => { f with l2 := [(ln0, { clean with st := .l, exp := 8 }), (ln0 + 1, { clean with dirty := true })] })
    (look? (s.field 0).l2 ln0).map (fun l => decide (l.exp - 8 ≤ s.sid)) = some true ∧
    (look? (s.field 0).l2 (ln0 + 1)).map L2Line.dirty = some true := by decide +kernel

/-- Two pieces of a record, and a region record of two lines with its buddy, 2^20 directory cycles later. -/
def pcs : State := { te rc id with time := 2 ^ 20 }.setStack 0
  { dir := [(3, { rc with len := 1, next := 4 }), (4, { rc with piece := true, base := 0x102, len := 1 })] }
def rg : DirRec := { kind := .region, part := 0, gen := 0, base := 2, len := 1, sh0 := some { own := false, fi := 0 } }
def rgs (l : Map DirRec) : State := { te rc id with time := 2 ^ 20 }.setStack 0 { dir := l }
theorem wit_pieces : (pcs.stack 0).pieces 3 = [3, 4] ∧ rc.piece = false ∧ ((pcs.stack 0).dir.all (fun e => e.2.ten == 0 && decide (e.2.quiet + 2 ^ 20 ≤ pcs.dirClock))) = true := by
  decide +kernel
theorem wit_regions : ({ rg with sh0 := none } : DirRec).unshared = true ∧ rg.unshared = false ∧ rg.base % (rg.len + 1) = 0 ∧ rg.len + 1 < 512 ∧
    (rgs []).dirClock = rg.quiet + 2 ^ 20 ∧ ((rgs [(1, rg)]).stack 0).dir.filter (fun e => e.2.kind == .region && decide (e.2.base < 2) && decide (0 ≤ e.2.base + e.2.len)) = [] ∧
    ((rgs [(1, rg), (2, { rg with base := 0 })]).stack 0).dir.filter (fun e => e.2.kind == .region && decide (e.2.base < 0 + 2) && decide (0 ≤ e.2.base + e.2.len)) =
      [(2, { rg with base := 0 })] ∧
    (let s := rgs [(1, rg), (2, { rg with base := 0 })]
     look? ((s.spareOwners 0 [1, 2]).stack 0).dir 1 = some rg ∧ look? ((s.spareOwners 0 [1, 2]).stack 0).dir 2 = some { rg with base := 0 }) := by
  decide +kernel
/-- A delayed load of scratch keeps it from being discarded. -/
theorem wit_scratch : st.scratchOpen 0 = false ∧
    (withCtx (fun x => { x with pend := [{ pn none with work := .load 3 0 (.x 5) { lane := 0, pa := 0xE000000000000, bytes := 8, named := 0 } }] })).scratchOpen 0 = true := by
  decide +kernel
theorem wit_ways : ([0, 1, 2, 3].map (fun k => ((fl0 (fun f => { f with l2state := k })).field 0).l2state)) = [0, 1, 2, 3] ∧
    (((fl0 (fun f => { f with l2state := 1 })).zeroScratch 0).field 0).surrHeld = none ∧
    ((fl0 (fun f => { f with l2state := 1 })).field 0).frozen = false := by decide +kernel

/-- A load of what another cube holds; an access whose packet was given up. -/
theorem wit_performed_far : (far st).farCube? 0x8000 = some 5 ∧ (far st).held? 0 (0x8000 / 128) = none ∧
    ({ far st with zen := { (far st).zen with lost := [(5, 1)] } } : State).isLost [(5, 1)] = true ∧ st.wrap = 0 := by decide +kernel
/-- A handle that has not been asked for and one that has; no record is ending; the hull of a span record's pieces. -/
theorem wit_asks : (te rc id).me.asks hnd = false ∧
    (te rc (fun x => { x with pend := [{ pn none with work := .tacq hnd true 1 }] })).me.asks hnd = true ∧
    ((te rc id).stack 0).dir.all (fun e => !e.2.ending) = true ∧ ((te rc id).stack 0).ripe ((te rc id).waiterFor 0 0 3 hnd true 1) = true ∧
    ((pcs.stack 0).hull 3).map (fun u => u.len + 1) = some (2 + 2) := by decide +kernel

/-! ## Witnesses: events of cores and hubs -/

def cpy : Copy := { tid := 0, act := 1, seq := 2, cls := 0, kind := .bytes, segs := [{ src := 0x8000, dst := 0x3040, n := 8 }], gsrc := true, gdst := false }
def cps (b : Bool) : State := { st.modCore 0 (fun c => { c with copies := [cpy] }) with hmap := if b then st.hmap else [] }
def ent : LogEnt := { tid := 0, act := 1, named := 0x8000, pa := 0x8000, size := 8, mask := 0xFF, data := 5, order := 0 }
def lgs (pa : Nat) : State := st.modCore 0 (fun c => { c with log := [(0, { ent with pa := pa })] })
/-- A load that has returned, and one with a fault, both to land now. -/
def pd (e : Option Exc) : Pend := { pn none with left := 0, done := true, work := .none, result := .scalar (.x 5) 7, fault := e }
def rf : Pending := { cause := 0x0E, addr := 0x8000, entry := 0, size := 8, mask := 255, data := 0, count := 1 }

/-- A copy that moves all of its bytes, one whose source has no home, and one that a wrap keeps waiting. -/
theorem wit_copy_retire : (cps true).copyBlocked cpy = false ∧ (cps false).copyBlocked cpy = false ∧ ((cps true).field 0).frozen = false ∧
    ((cps true).moveCopy cpy).fail = none ∧ ((cps true).moveCopy cpy).rest = [] ∧ ((cps false).moveCopy cpy).fail = some 0x0D ∧
    (let s : State := { cps true with wrap := 1 }
     s.copyBlocked cpy = false ∧ (s.moveCopy cpy).fail = none ∧ (s.moveCopy cpy).rest ≠ []) ∧
    ((cps true).core 0).copies.find? (fun k => k.tid == 0 && k.seq == 2) = some cpy := by decide +kernel
/-- A replica for cube 5, with its packet out and acknowledged, and a store whose packet was given up. -/
def rpl (out : List E2E) : State := { far st with zen := { (far st).zen with unacked := out } }.modCore 0 (fun c =>
  { c with log := [(0, { ent with member := some 5, e2e := [(5, 1)] })] })
theorem wit_replica : let q : E2E := { cube := 5, seq := 1, tries := 0, sentAt := 0, packet := (far st).mkPacket 5 2 6 0x8000 0 [] }
    look? ((rpl [q]).core 0).log 0 = some { ent with member := some 5, e2e := [(5, 1)] } ∧ (rpl [q]).stopped 0 = false ∧ (rpl [q]).isLost [(5, 1)] = false ∧
    (rpl [q]).reachable 5 = true ∧ (rpl [q]).isOut [(5, 1)] = true ∧ (rpl []).isOut [(5, 1)] = false ∧
    ({ st with zen := { st.zen with lost := [(5, 1)] } } : State).isLost [(5, 1)] = true ∧ st.isLost [] = false ∧ st.farCube? 0x8000 = none := by decide +kernel
theorem wit_posted : ((lgs 0x8000).core 0).earlierLog ent = false ∧ (lgs 0x8000).homeHolds 0 1 0x8000 true = false ∧
    (lgs 0x2000000000).homeHolds 0 1 0x2000000000 true = false ∧ ent.member = none ∧
    (match (lgs 0x8000).storeNow 0 1 0x8000 8 0xFF 5 with | .ok _ _ => true | _ => false) = true ∧
    (match (lgs 0x2000000000).storeNow 0 1 0x2000000000 8 0xFF 5 with | .fault _ => true | _ => false) = true := by decide +kernel
/-- The oldest answer of a distributor, with no copy before it and with one. -/
def qe : Query := { tid := 0, ticket := 1, core := 0, lo := 0x40, item := 0 }
def qs (ents : List SbEnt) : State := (st.modField 0 (fun f => { f with queries := [qe] })).modCore 0 (fun c => { c with sb := ents })
theorem wit_answer : ((qs [{ rs := [(0x40, 0x50)], tid := 0, seq := 0, ticket := 1 }]).core 0).copyBefore qe = false ∧
    ((qs [{ rs := [(0x40, 0x48)], tid := 0, seq := 3 }, { rs := [(0x40, 0x50)], tid := 0, seq := 0, ticket := 1 }]).core 0).copyBefore qe = true ∧
    ((qs []).field 0).queries = [qe] ∧ ((qs []).field 0).frozen = false := by decide +kernel
theorem wit_refusal_trap : (withCtx (fun x => { x with refusal := some rf })).me.refusal = some rf ∧ st.me.exchanging = false ∧
    st.stopped 0 = false ∧ st.me.lone = none ∧ st.me.sup = false := by decide +kernel
theorem wit_landing : let s := withCtx (fun x => { x with pend := [pd none] })
    (s.ctx 0).pend.filter (dueNow (s.ctx 0).pend) ≠ [] ∧ ((s.ctx 0).pend.filter (dueNow (s.ctx 0).pend)).all (fun p => p.done && p.fault.isNone) = true := by
  decide +kernel
theorem wit_late : let s := withCtx (fun x => { x with pend := [pd (some { cause := 0x11 })] })
    (s.ctx 0).lateNow = some (pd (some { cause := 0x11 })) ∧ (s.ctx 0).inSlot = true ∧ (s.ctx 0).pend.any (fun q => !q.done) = false ∧
    (pd (some { cause := 0x11 })).sup = false ∧ (s.ctx 0).exchanging = false := by decide +kernel
theorem wit_array_entry : let e : ArrEntry := { op := .mclr 1 2, owner := 0, act := 1, cmd := false, seq := 0 }
    let s := withCtx (fun x => { x with arrQ := [e, { e with op := .mmaLocal 1 1 0 0x40 0x32 }] })
    (s.ctx 0).served = true ∧ e.op.rows.any (fun r => (s.ctx 0).drain.getLsbD r) = false ∧
    (ArrOp.mmaLocal 1 1 0 0x40 0x32).rows ≠ [] ∧ (ArrOp.mldbLocal 0x40 0x22).rows = [] := by decide +kernel
/-- A command that clears two rows of context 0 of core 0 is accepted before its tick 9, and a command of another
launch is not. -/
theorem wit_mcmd : let ws : List Word := [0x1003, 0, 1, 9, 0, 0, 0, 0]
    let s := withCtx (fun x => { x with mcmd := some (0, ws, none) })
    s.cmdStatus 0 0 ws = 0 ∧ s.cmdStatus 0 0 [0x1003, 0, 2, 9, 0, 0, 0, 0] = 3 ∧ (s.ctx 0).arrQ.length < 8 := by decide +kernel
theorem wit_wakes : st.apertureOff 0 = false ∧ (fl0 (fun f => { f with switching := true })).apertureOff 0 = true ∧
    0 < ({ withCtx (fun x => { x with st := .parked, wait := .sleep (some 0) 5 }) with sid := 1 } : State).sid ∧ (st.ctx 1).st = .free ∧
    st.me.wait = .none := by decide +kernel
theorem wit_handler : let s := ms.modCore 0 (fun c => { c with hand0 := some tk })
    (s.core 0).hand 0 = some tk ∧ (s.core 0).hrun 0 = none ∧ (s.core 0).oldest 0 = some 2 ∧ (s.freeCtx? 0).isSome = true ∧ ((s.core 0).msg 0 2).hand = none := by decide +kernel
theorem wit_tqfree : ((fl0 (fun f => { f with tqvalid := 0x8000000000000001 })).field 0).tqvalid.getLsbD 63 = true ∧
    (st.field 0).tqwait = [] := by decide +kernel

/-! ## Witnesses: scheduling and launches -/

/-- Writes a value where its home stands. -/
def poke (pa n v : Nat) (s : State) : State := { s with mem := s.mem.setVal (((s.home? pa).map HomeAt.loc).getD 0) n v }
/-- A launch with one thing left to do. -/
def lch (g : Launch → Launch) : State := { st with sched := { launches := [g la] } }
def qt : QTask := { task := tk, level := 1, stamp := 0, bypass := 0, since := 0, retry := false }

theorem wit_activation : (lch (fun l => { l with initial := [(0, tk)] })).launch? tk.lid = some { la with initial := [(0, tk)] } ∧
    (lch id).freeCtx? 0 = some 1 ∧ (lch id).stopped 0 = false ∧ la.bound = true ∧ [(0, tk)].contains (0, tk) = true := by decide +kernel
/-- The ready context of higher slot priority takes the free issue slot. -/
theorem wit_enters : (st.setCtx 1 { cx with st := .ready }).mayEnter 1 = true ∧
    ((st.setCtx 1 { cx with st := .ready }).modField 0 (fun f => { f with tqgo := [2, 1] })).mayEnter 1 = false ∧
    (fl0 (fun f => { f with switching := true })).fields.any (fun e => e.2.switching) = true := by decide +kernel
theorem wit_slot : let s := (st.setCtx 1 { cx with st := .ready, slotPri := 3 }).setCtx 2 { cx with st := .ready }
    ((bestBy readyBefore ((ctxsOf 0).filterMap (fun t => if (s.ctx t).st == .ready && s.slotFor t then some (t, s.ctx t) else none))).map Prod.fst) = some 1 := by
  decide +kernel
theorem wit_take : let s := fl0 (fun f => { f with tasks := [qt] })
    (s.field 0).headTask = some (tk, none) ∧ s.takeCore 0 tk.pri none = some 0 ∧ (s.take? 0).isSome = true ∧ s.freeCtx? 0 = some 1 := by decide +kernel
/-- A retry waits for a context of another core than the one of its fault (R348). -/
theorem wit_take_retry : let s := fl0 (fun f => { f with tasks := [{ qt with retry := true, avoid := some 0 }] })
    (s.field 0).headTask = some (tk, some 0) ∧ s.takeCore 0 tk.pri (some 0) = some 1 ∧ (s.take? 0).isSome = true ∧ s.freeCtx? 1 = some 16 := by
  decide +kernel
theorem wit_take_core : (coresOfField 0).head? = some 0 ∧ (fl0 id).slotsUsed 0 < 4 := by decide +kernel
/-- Priorities rise after 2^20 vclk cycles (R316, R319). -/
theorem wit_aging : 0 + 2 ^ 20 ≤ (fl0 (fun f => { f with vclk := 2 ^ 20 })).vclk 0 ∧ ¬ 0 + 2 ^ 20 ≤ (fl0 (fun f => { f with vclk := 2 ^ 20 - 1 })).vclk 0 := by
  decide +kernel
/-- Four contexts hold the issue slots and a ready one has a higher slot priority than the lowest of them. -/
def full : State := [1, 2, 3].foldl (fun s t => s.setCtx t { cx with task := some { tk with pri := 2 } }) (st.setCtx 4 { cx with st := .ready, slotPri := 2 })
theorem wit_quiesce : full.slotsUsed 0 = 4 ∧ ((bestBy victimBefore (((ctxsOf 0).map (fun t => (t, full.ctx t))).filter (fun c => c.2.st == .issuing))).map Prod.fst) = some 0 ∧
    (full.ctx 0).pri < (full.ctx 4).slotPri ∧ (full.ctx 0).exchanging = false ∧
    (ctxsOf 0).find? (fun t => ((st.setCtx 0 { cx with st := .quiescing }).ctx t).st == .quiescing) = some 0 ∧ cx.ending = false ∧
    ({ cx with st := .quiescing } : Ctx).lateNow = none := by decide +kernel
/-- Two chunks or more are left to share (R32). -/
def rng2 : State := (lch id).setCtx 0 { cx with rng := some { hi := 200, c := 64, g := 16 } }
theorem wit_split : rng2.donor 0 = some 0 ∧ (rng2.ctx 0).rng = some { hi := 200, c := 64, g := 16 } ∧ rng2.freeCtx? 1 = some 16 ∧
    2 ≤ (200 - 64 + 16 - 1) / 16 ∧ rng2.launch? (rng2.field 0).flid = some la := by decide +kernel
/-- A staged launch of two stages. -/
def stg (q : Nat) : Launch := { la with block := [0x41000221, 0, 0, 0, 0, 0, 0, 0, 0x10001, w64 (q * 2 ^ 56), 0, 0, 0, 0, w64 (q * 2 ^ 56)] }
theorem wit_stage : (stg 0).bound = true ∧ (stg 0).binding = false ∧ (stg 0).completing = false ∧ (stg 0).staged = [] ∧ (stg 0).kind = 2 ∧ (stg 0).stages = 2 ∧ (stg 0).channels = [] ∧ taskQb ((stg 0).stageRecord 1) = 0 ∧ taskQb ((stg 2).stageRecord 1) = 2 := by
  decide +kernel

/-- The launch queue at 0x10000 holds one entry that names the block at 0x8000. -/
def lq (ws : List Word) : State := poke 0x10000 8 0x8000 { ltm ws with sched :=
  { lqcap := BitVec.ofNat 128 (0x01F0000000010000 + (0x10 + 2 ^ 40) * 2 ^ 64), lqtag := true, en := true, lqtail := 1, launches := [la] } }
theorem wit_launch_queue : (lq lb).pending.length < 1024 ∧ (lq lb).sched.lqhead ≠ (lq lb).sched.lqtail % 2 ^ (lq lb).sched.logn ∧
    (match (lq lb).readWords 0x10000 4 with
      | .ok ws s1 => decide (ws = [0x8000, 0, 0, 0]) && (match s1.readBlock 0x8000 with
        | .ok (b, tags) s2 => s2.judge { la with block := b } tags (s2.partEn 0 && s2.asidOk 0 0) == 0 &&
            (match s2.writeDirect 0x10008 8 5 with | .ok _ _ => true | _ => false)
        | _ => false)
      | _ => false) = true ∧
    st.judge { la with block := List.replicate 64 0 } [] true = 1 ∧ (lq lb).entryDue = true ∧ (lq lb).sched.reqs = [] := by decide +kernel
/-- A request that waits: it came before the entry, or together with it, so that the entry goes first (R324). -/
def lqr (t : Nat) : State := { lq lb with time := t, sched := { (lq lb).sched with reqs := [rq] } }
theorem wit_requests : (lqr 7).sched.reqs.head? = some rq ∧ ¬ rq.at_ = (lqr 7).time ∧ (lqr 7).entryDue = true ∧
    rq.at_ = (lqr 0).time ∧ (lqr 0).entryDue = true ∧ lt.entryDue = false := by decide +kernel
theorem wit_launch_queue_cap : capCheck true { w0 := 0x01F0000000010000, w1 := 0x10 + 2 ^ 40 } useLaunchQ = 0 ∧
    ({ w0 := 0x01F0000000010000, w1 := 0x10 + 2 ^ 40 } : Cap).holdsExtent (32 * 2 ^ 4) = true := by decide +kernel
/-- Every core of field 1 has a context base (R312). -/
def bl : Launch := { la with bound := false, block := [0x41001001, w64 (135300 + 135300 * 2 ^ 20 + 228 * 2 ^ 40)] }
def bd : State := { st with sched := { launches := [bl] }, cores := (coresOfField 1).map (fun c => (c, { ctxb := 0x100000 })) }
theorem look_const {α : Type} (l : List Nat) (v d : α) {k : Nat} (h : k ∈ l) : look (l.map (fun c => (c, v))) k d = v := by
  induction l with
  | nil => cases h
  | cons c l ih =>
    rw [List.map_cons, look]
    split
    · rfl
    · exact ih ((List.mem_cons.1 h).resolve_left (by assumption))
theorem wit_bind : bd.bindStatus 1 [1] = 0 := by
  have h : [1].any (fun f => (coresOfField f).any (fun c => (bd.core c).ctxb == 0)) = false := by
    simp only [List.any_cons, List.any_nil, Bool.or_false, List.any_eq_false]
    intro c hc
    have e : bd.core c = { ctxb := 0x100000 } := by
      unfold State.core bd
      generalize coresOfField 1 = l at hc
      exact look_const l _ _ hc
    rw [e]
    decide
  unfold State.bindStatus
  rw [show bd.launch? 1 = some bl by decide +kernel]
  dsimp only
  rw [h, if_neg (by decide +kernel), if_neg (by decide +kernel), if_neg (by decide +kernel), if_neg (by decide +kernel),
    if_neg (by decide), if_neg (by decide +kernel), if_neg (by decide +kernel)]
theorem wit_bind_refused : bd.launch? 1 = some bl ∧ bd.bindStatus 1 [] = 2 ∧ bits 0x10001 17 16 = 1 ∧ bits 0x10001 15 0 = 1 := by decide +kernel

/-- Page tables: address space 0 maps every address to itself. -/
def pgs (s : State) : State := poke 0x11000 8 0x9F (poke 0x10800 8 0x11001 (poke 0x10000 8 0x10801 { s with trans := { astb := 0x10000 } }))
/-- A launch whose only task has ended, with its completion store at 0x8000 or at an address without translation. -/
def cmp (f : State → State) : State := f { { lch (fun l => { l with block := [0x41000001, 0, 0, 0, 0, 0x8000] }) with ctxs := [] } with turn := none }
theorem wit_completion_when : la.bound = true ∧ la.binding = false ∧ (cmp id).wrap = 0 ∧
    la.fields.any (fun f => ((cmp id).field f).frozen) = false := by decide +kernel
theorem wit_completion : ∀ f ∈ [pgs, id], (cmp f).workLeft ((cmp f).launch? 1 |>.getD la) = false := by decide +kernel
theorem wit_completion_store : (let s := cmp pgs; let l := (s.launch? 1).getD la
      (((s.afterActions { l with completing := true }).namedOut l).completionStore l).1) = true ∧
    (let s := cmp id; let l := (s.launch? 1).getD la
      (((s.afterActions { l with completing := true }).namedOut l).completionStore l).1) = false ∧ ((cmp id).launch? 1).map Launch.irqen = some false := by
  decide +kernel
theorem wit_switch : let s := fl0 (fun f => { f with target := some { m := 8, v := 4, n := 4, d := 4 }, switching := true })
    (s.field 0).target = some { m := 8, v := 4, n := 4, d := 4 } ∧ (s.field 0).again = none ∧ st.fields.any (fun e => e.2.switching) = false := by
  decide +kernel

/-! ## Witnesses: translation, frames, the home map -/

def mi : Miss := { core := 0, tid := 0, asid := 0, va := 8, walk := none }
def wk : Walk := { id := 0, asid := 0, va := 8 }
theorem wit_misses : ((fl0 (fun f => { f with misses := [mi] })).field 0).misses.find? (fun m => m.walk.isNone) = some mi ∧
    (leafAt 0x8000).covers 0 (8 * 4096) = true ∧ (leafAt 0x9000).covers 0 (8 * 4096) = false ∧ [wk].find? (fun w => w.asid == 0 && w.va == 8) = some wk := by
  decide +kernel
theorem wit_walk : ((pgs st).walk 0 0x8000).1.isSome = true ∧ (st.walk 0 0x8000).1 = none := by decide +kernel
theorem wit_walk_pick (n : Nat) : [wk][Config.choice n % [wk].length]? = some wk := by simp [Nat.mod_one]
def sht : Shoot := { seq := 1, kind := 1, va := 0, who := 0, left := [0] }
theorem wit_shootdown : [sht].find? (fun q => q.left.contains 0) = some sht ∧ st.fieldBusy 0 = false := by decide +kernel
/-- The first 2^30 bytes move to another stack. -/
def rst (f : Bool) : State := { st with trans := { rsnew := [(0, 0x8000000000007980)], fwd := f } }
/-- A granule that moves to stack 1; nothing to do. -/
theorem wit_restripe_moves : let s : State := { st with trans := { busy := true, rsnew := [(0, 0x8000000000007980), (1, 1)] } }
    homeMoves (s.hmapWord 0) s.rsWord (granPa (s.hmapWord 0) 0) = true ∧
    0 < 2 ^ bits (s.hmapWord 0 0) 9 5 / Nat.min (2 ^ bits (s.hmapWord 0 0) 9 5) (2 ^ bits (s.rsWord 0) 9 5) ∧ 0 < granules (s.hmapWord 0) ∧
    st.trans.busy = false ∧ st.trans.shoots = [] ∧ (st.field 0).misses = [] ∧ (st.core 0).flushing = [] ∧
    ((st.modCore 0 (fun c => { c with flushing := [0] })).core 0).flushing ≠ [] := by decide +kernel
theorem wit_restripe : (rst false).rsStatus 0 = 0 ∧ (rst true).rsStatus 0 = 4 ∧ (st.rsStatus 1) = 5 ∧ (st.rsStatus 0) = 2 ∧
    homeMoves ((rst false).hmapWord 0) (rst false).rsWord (granPa ((rst false).hmapWord 0) 0) = false ∧ 0 < granules ((rst false).hmapWord 0) := by
  decide +kernel
/-- The thread names page 1, whose frame is its own (R73). -/
def nm : State := (withCtx (fun x => { x with task := some { tk with words := [w64 (2 ^ 45), 0, 0, 0, 0, 0, 0, 0] } })).modCore 0 (fun c =>
  { c with wants := [(0, 1)] })
theorem wit_page_fill : bit (nm.nlrOf 0) 1 = true ∧ nm.frameOf? 0 1 = none ∧ nm.pickFrame 0 1 true = (some 1, nm) ∧ (nm.freeFrame 0 1).isSome = true ∧
    nm.ctxLaunch? 0 = some la := by decide +kernel
theorem wit_flush : (withCtx id).core 0 |>.flushing |>.contains 0 |> (· = false) := by decide +kernel
theorem wit_flush_done : ((st.modCore 0 (fun c => { c with ctxb := 0x100000, flushing := [0] })).writeImage 0).isSome = true := by decide +kernel
theorem wit_resume : (withCtx (fun x => { x with st := .parked, wait := .halted })).me.st = .parked ∧ (st.me.inSlot = true ∧ (st.ctx 5).inSlot = false) ∧
    (st.field 0).flid ≠ 0 ∧ (st.field 1).flid = 0 := by decide +kernel

/-! ## Witnesses: the arbiter, the clock, Eclipse -/

def mer (g : Meridian → Meridian) : State := { st with mer := g st.mer }
theorem wit_grant_run : (mer (fun m => { m with due := true, runs := 1 })).mer.runAt + 20000 ≤ ({ mer (fun m => { m with due := true, runs := 1 }) with time := 20000 } : State).time ∧
    (let s := mer (fun m => { m with due := true })
     (s.grantLoop s.mer.rot (s.boundLaunches.map Launch.grant) (48 * s.boundLaunches.length)).2.2 = false ∨ s.mer.ovr = true) := by decide +kernel
/-- The first run needs no wait, a later one 10 µs; a bind waits for one (R313, R357). -/
theorem wit_grant_runs : (mer (fun m => { m with due := true })).mer.ran = false ∧ (mer (fun m => { m with due := true, ran := true })).mer.due = true ∧
    ¬ st.mer.runAt + 20000 ≤ 19999 ∧ st.bindingLaunch = none ∧ st.mer.due = false ∧
    ({ st with sched := { launches := [{ la with binding := true }] } } : State).bindingLaunch = some { la with binding := true } := by decide +kernel
/-- At the critical temperature and one below; held already; after the hold (R364). -/
theorem wit_critical : (105 ≤ (mer (fun m => { m with temp := 105 })).mer.temp ∧ (mer (fun m => { m with temp := 105 })).mer.cold = false ∧
      (mer (fun m => { m with temp := 105 })).mer.crit = false) ∧ (mer (fun m => { m with temp := 105, crit := true })).mer.crit = true ∧
    (mer (fun m => { m with temp := 104 })).mer.temp < 105 ∧ (mer (fun m => { m with temp := 105, crit := true, cold := true })).mer.cold = true ∧
    115 ≤ (mer (fun m => { m with temp := 115 })).mer.temp ∧ (mer (fun m => { m with temp := 114 })).mer.temp < 115 ∧
    [40#8, 90#8, 60#8].foldl (fun m t => Nat.max m t.toNat) 0 = 90 ∧ ¬ (st.mer.cold = true) := by decide +kernel
/-- Each limit and its neighbour (R354, R355, R363, R364). -/
theorem wit_limits : (1200 ≤ bits 1200 11 0 ∧ bits 3600 11 0 ≤ 3600 ∧ ¬ 1200 ≤ bits 1199 11 0 ∧ ¬ bits 3601 11 0 ≤ 3600) ∧
    (mer (fun m => { m with tcapAt := 0 })).mer.tcapAt + 2000000 ≤ 2000000 ∧ bits (104 * 256) 15 8 ≤ 104 ∧ bits (103 * 2 ^ 16 + 104 * 256) 23 16 < 104 ∧
    ¬ bits (105 * 256) 15 8 ≤ 104 := by decide +kernel
theorem wit_coefficients : ({ st.mer with coef := put st.mer.coef (32 * 3 + 16) 3000 } : Meridian).boundOk = true ∧
    ({ st.mer with coef := put st.mer.coef (32 * 3 + 16) 65535 } : Meridian).rowOk 3 = true ∧
    ({ st.mer with coef := put st.mer.coef (32 * 3 + 16) 0 } : Meridian).rowOk 3 = false ∧
    ({ st.mer with leak := 1048575 } : Meridian).boundOk = true ∧
    ({ st.mer with coef := [(16, 0), (48, 0), (80, 0), (112, 0)], leak := 1 } : Meridian).boundOk = false := by decide +kernel
theorem wit_shares : ((st.modPart 1 (fun x => { x with pctl := 1 })).modPart 1 (fun x => { x with pshare := 1000 })).shareSum ≤ 1000 ∧
    1000 < ((st.modPart 1 (fun x => { x with pctl := 1 })).modPart 1 (fun x => { x with pshare := 1001 })).shareSum := by decide +kernel

theorem wit_clock : 0xFFFFFFF000 ≤ ({ st with sid := 0xFFFFFFF000, master := true } : State).sid ∧ ({ st with sid := 2 ^ 40 - 1, wrap := 1 } : State).sid = 2 ^ 40 - 1 ∧
    (∀ e ∈ st.fields, bit e.2.ftcmp.toNat 63 = false) ∧ st.master = false ∧ bit 0x8000000000000000 63 = true ∧ bits 0x8000000000000000 39 0 ≤ st.sid ∧
    (0x8000000000000001 : Nat) % 2 ^ 40 = st.sid + 1 ∧ st.beaconAt + 128000 ≤ 128000 := by decide +kernel
/-- Near the end of the period, at the master and at a cube that follows; the end itself, forced or not; the beacons. -/
def sd2 (n : Nat) (m : Bool) (w : Nat) : State := { st with sid := n, master := m, wrap := w }
theorem wit_wrap : (sd2 0xFFFFFFF000 true 0).wrap = 0 ∧ 0xFFFFFFF000 ≤ (sd2 0xFFFFFFEFFC false 0).sid + 4 ∧ st.blost = false ∧
    ¬ 0xFFFFFFF000 ≤ (sd2 0xFFFFFFEFFF true 0).sid ∧ (sd2 (2 ^ 40 - 1) true 1).wrapDrained = true ∧ 2 ^ 40 - 1 ≤ (sd2 (2 ^ 40 - 1) true 1).sid ∧
    ¬ 2 ^ 40 - 1 ≤ (sd2 (2 ^ 40 - 2) true 1).sid ∧ (sd2 5 true 3).wrapDrained = true ∧
    ((sd2 5 true 3).modCore 0 (fun c => { c with log := [(0, { ent with pa := 0x8000 })] })).wrapDrained = false ∧
    (∀ e ∈ st.parts, (st.part e.1).earmed = false) ∧ (sd2 5 false 1).wrapn + 1 ≠ (sd2 5 false 1).wrapn := by decide +kernel
/-- A beacon of the next period, announced or not, with nothing in flight and with a store that is. -/
theorem wit_next_period : ({ sd2 5 false 0 with joined := true } : State).joined = true ∧ (sd2 5 false 1).wrap ≠ 0 ∧
    ({ sd2 5 false 3 with beaconAt := 0, joined := true } : State).wrapDrained = true ∧ (sd2 5 false 1).wrapDrained = true ∧
    ((sd2 5 false 1).modCore 0 (fun c => { c with log := [(0, { ent with pa := 0x8000 })] })).wrapDrained = false ∧ st.wrapNext = none ∧
    ({ st with wrapNext := some 7 } : State).wrapNext = some 7 ∧ st.joined = false := by decide +kernel
theorem wit_timer : bit ((fl0 (fun f => { f with ftcmp := 0x8000000000000000 })).field 0).ftcmp.toNat 63 = true ∧
    bits ((fl0 (fun f => { f with ftcmp := 0x8000000000000000 })).field 0).ftcmp.toNat 39 0 ≤ st.sid ∧
    ((fl0 (fun f => { f with ftcmp := 0x8000000000000009, ftdue := true })).field 0).ftdue = true ∧
    ((fl0 (fun f => { f with frozen := true })).field 0).frozen = true ∧ bit (0x8000000000000009 : Word).toNat 63 = true ∧
    st.sid < bits (0x8000000000000009 : Word).toNat 39 0 := by decide +kernel
theorem wit_beacon_loss : let s : State := { st with time := 128000, zen := { st.zen with links := [(3, { lctl := 2 })] } }
    s.master = false ∧ s.blost = false ∧ s.zen.links.any (fun e => bit e.2.lctl 1) = true ∧ s.beaconAt + 128000 ≤ s.time := by decide +kernel

def pt (g : Part → Part) : State := st.modPart 0 g
theorem wit_eclipse : (st.part 0).ealign = false ∧ (st.part 0).ecount = none ∧ ((pt (fun x => { x with ecount := some true })).part 0).ecount = some true ∧
    ((pt (fun x => { x with frozen := true })).part 0).frozen = true ∧ (pt (fun x => { x with frozen := true })).snapBusy 0 = false ∧
    ((pt (fun x => { x with earmed := true })).part 0).earmed = true ∧ (pt (fun x => { x with earmed := true, etick := 0 })).tickCome 0 = true ∧
    (st.modStack 0 (fun k => { k with snap := { busy := true, part := 0 } })).snapBusy 0 = true ∧ siteField (.vaultWord 5 0) = some 0 := by decide +kernel
/-- An aligned assertion before its tick, at it and in the period after it; a freeze that is still to come (R351). -/
theorem wit_eclipse_aligned : ((pt (fun x => { x with ealign := true, etick := 5 })).part 0).ealign = true ∧
    (let w := (5 : Word).toNat
     (st.wrapn.toNat = bits w 47 40 ∧ ¬ bits w 39 0 ≤ st.sid) ∧ bits w 39 0 ≤ (sd2 5 false 0).sid) ∧
    (let n := (({ st with wrapn := 1 } : State).wrapn.toNat + 256 - bits (5 : Word).toNat 47 40) % 256
     0 < n ∧ n < 128) ∧
    ((pt (fun x => { x with ecount := some false })).part 0).ecount = some false ∧
    ((pt (fun x => { x with frozen := true, ecount := some true })).part 0).ecount = some true ∧
    look? ((fl0 (fun f => { f with l2 := [(ln0, clean)] })).field 0).l2 ln0 = some clean ∧ clean.dirty = false ∧
    siteField (.l2clean 0 ln0) = some 0 := by decide +kernel
theorem wit_scan : ((pt (fun x => { x with frozen := true })).part ((pt (fun x => { x with frozen := true })).scanPart (.vault 5 8))).frozen = true ∧
    (st.part (st.scanPart (.vault 5 8))).frozen = false := by decide +kernel

/-! ## Witnesses: snapshots, links, devices -/

/-- A frozen partition whose snapshot of stack 1 covers no page of that stack, with its slots in cube 5. -/
def sn : State :=
  { pt (fun x => { x with frozen := true }) with
    hmap := [(0, 0x8000000000007980), (8, 0x8000000040007980), (9, 0x280)]
    zen := { st.zen with routes := [(5, 0x100)], links := [(0, { lctl := 1, up := true })] }
    stks := [(1, { snap := { step := 1, list := 0x9000, slot0 := 0x40000000, slot1 := 0x48000000, shtab := 0xA000 } })] }
/-- A commit record of step 0 without pages, written out from R383: CRC, the hash of nothing, the magic number. -/
def commit0 : Nat := 0x45f1658900000000000000000000000024b96f99c8f4fb9a141cfc9842c4b0e3000000000000000000000000000000000000000000000000000000005a31c4e7
theorem test_commit_record : leNat (commitBytes 0 0 0 0 0 0 (hash16 [])) = commit0 := by decide +kernel
/-- One shard, with its slots in this cube and that commit record in slot 0. -/
def snp : State := { sn with
  hmap := [(0, 0x8000000000007980), (8, 0x8000000040007980), (9, 1)]
  mem := [(0xa003, 0x40), (0xa00b, 0x48), (0x200000000, 0xe7), (0x200000001, 0xc4), (0x200000002, 0x31), (0x200000003, 0x5a), (0x200000020, 0xe3), (0x200000021, 0xb0), (0x200000022, 0xc4), (0x200000023, 0x42), (0x200000024, 0x98), (0x200000025, 0xfc), (0x200000026, 0x1c), (0x200000027, 0x14)] ++
    [(0x200000028, 0x9a), (0x200000029, 0xfb), (0x20000002a, 0xf4), (0x20000002b, 0xc8), (0x20000002c, 0x99), (0x20000002d, 0x6f), (0x20000002e, 0xb9), (0x20000002f, 0x24), (0x20000003c, 0x89), (0x20000003d, 0x65), (0x20000003e, 0xf1), (0x20000003f, 0x45)] }
theorem snp_commit : (snp.mem.val 0x200000000 64, snp.mem.val 0xA000 16) = (commit0, 0x40000000 + 0x48000000 * 2 ^ 64) := by decide +kernel
theorem wit_snapshot : (match ((poke 0x9000 16 (2 ^ 64) sn).modStack 1 (fun x => { x with snap := { x.snap with busy := true, cmd := 1 } })).snapChecks 1 with
      | .ok (pages, s1) => pages == [] && (s1.hubWrite 0x48000000 64 0).isSome
      | .error _ => false) = true ∧ (sn.stack 1).snap.busy = false ∧ (st.part 0).frozen = false ∧ (sn.part 0).erel = false := by decide +kernel
/-- What a restore finds: the shards, the steps of each, what the slot of shard n gives: the status in which its pages end, or the failure of its read; its manifest is read
from the slot of an even step. -/
def found (s : State) (n : Nat) : Option (List (Nat × Nat) × List (Option (List Nat)) × Bool × Nat) :=
  match s.shardTable 1 with
  | .ok (sh, s1) =>
    let vs := s1.validSteps sh
    some (sh, vs.1, (match vs.2.snapRead (sh.getD n (0, 0)).1 64 with
      | .ok (bs, s3) => (true, (s3.restorePages (sh.map Prod.fst) (sh.getD n (0, 0)).1 0 (wordAt bs 2 / 2 ^ 32)).1)
      | .error c => (false, c)))
  | .error _ => none
def snpBad : State := { snp with bad := [((((snp.home? 0).map HomeAt.loc).getD 0) / 128, true)] }
def snpMem (m : Memory) : State := { snp with mem := m }
def snpTab : State := { snp with stks := [(1, { snap := { shtab := 0x7F00000000 } })] }
/-- Step 0 of one shard, with no page, ends with status 0, where the line of a shard that the table lacks is poisoned the
read of the slot fails; a slot without a commit record has no step; a slot that cannot be reached is no known shard. -/
theorem wit_restore : found snp 0 = some ([(0x40000000, 0x48000000)], [some [0]], true, 0) := by decide +kernel
theorem wit_restore_poisoned : found snpBad 3 = some ([(0x40000000, 0x48000000)], [some [0]], false, 0x12) := by decide +kernel
theorem wit_restore_none : found (snpMem [(0xa003, 0x40), (0xa00b, 0x48)]) 0 = some ([(0x40000000, 0x48000000)], [some []], true, 0) := by
  decide +kernel
theorem wit_restore_away : found (snpMem [(0xa004, 0x7F), (0xa00b, 0x48)]) 0 = some ([(0x7F00000000, 0x48000000)], [none], false, 0x0D) := by
  decide +kernel
theorem wit_restore_table : found snpTab 0 = none := by decide +kernel
theorem wit_restore_steps : commonStep [[0]] = some 0 ∧ commonStep [[]] = none := by decide +kernel
/-- The commit record of step 0 with one page: an entry of zeros in the manifest names no data of the shard. -/
def snp1 : State := { snp with mem := Memory.setBytes [(0xA003, 0x40), (0xA00B, 0x48)] 0x200000000 (commitBytes 0 0 1 1 0 0 (hash16 (List.replicate 32 0))) }
theorem wit_restore_fails : found snp1 0 = some ([(0x40000000, 0x48000000)], [some [0]], true, 5) := by decide +kernel
/-- Pages: none left, one that no home has, one that is read; a slot whose commit record cannot be cleared. -/
theorem wit_pages : (match sn.snapRead 0x7F00000000 65536 with | .error c => c == 0x0D | .ok _ => false) = true ∧
    (match sn.snapRead 0x10000 65536 with | .ok (bs, _) => bs.length == 65536 | .error _ => false) = true ∧
    (let s := poke 0x9000 16 (2 ^ 64) { sn with bad := [((((sn.home? 0x48000000).map HomeAt.loc).getD 0) / 128, true)] }
     match s.snapChecks 1 with
      | .ok (_, s1) => (s1.hubWrite 0x48000000 64 0).isNone
      | .error _ => false) = true ∧ st.snapChecks 0 matches .error 1 := by decide +kernel
theorem wit_snapshot_held : ({ sn with wrap := 1 } : State).wrap ≠ 0 ∧ (sn.stack 1).snap.todo = [] ∧ (sn.stack 1).snap.cmd ≠ 2 ∧ (sn.part 0).frozen = true := by
  decide +kernel
theorem wit_dedup : let q : Snap := { busy := true, cmd := 1, begun := true, waitAt := some 0 }
    q.busy = true ∧ q.cmd ≠ 2 ∧ q.begun = true ∧ q.waitAt = some 0 ∧ 0 + 2000000 ≤ 2000000 := by decide +kernel

def pk (kind : Nat) (d : Nat) : Packet :=
  { dcube := BitVec.ofNat 8 d, scube := 5, cls := 0, kind := BitVec.ofNat 4 kind, flits := 0, grp := 0, e2e := 1, pa := 0x8000, pois := false, chk := false,
    payload := leBytes 8 5 ++ leBytes 8 255 }
def une (tries : Nat) : E2E := { cube := 5, seq := 1, tries := tries, sentAt := 0, packet := pk 1 5 }
theorem wit_resend : [une 7].find? (fun e => e.cube == 5 && e.seq == 1) = some (une 7) ∧ 0 + 40000 ≤ 40000 ∧ ¬ 0 + 40000 ≤ 39999 ∧ (une 8).packet.kind ≠ 4 := by
  decide +kernel
theorem wit_packets : (pk 1 0).cls ≠ 3 ∧ (pk 10 0).kind.toNat ≤ 10 ∧ 10 < (pk 11 0).kind.toNat ∧ (pk 1 0).dcube.toNat = st.cubeid ∧ (far st).route? 5 false = some 0 ∧
    (look st.zen.acked 5 []).contains 1 = false ∧ (match st.serveWrite (pk 1 0) 0x8000 with | .ok _ _ => true | _ => false) = true := by decide +kernel
/-- A flit with a good check and one with a bad one; a packet of one flit and the first of two. -/
def flit (v : Nat) : Vec := BitVec.ofNat 512 (v + (crc32c (leBytes 60 v)).toNat * 2 ^ 480)
theorem wit_flits : flitOk (flit 0) = true ∧ flitOk (flit 0 ^^^ 1) = false ∧ (flit 0).extractLsb' 468 12 = (look (far st).zen.links 0 {}).rxSeq ∧
    flitCount ((flit 0).extractLsb' 0 448) ≤ 1 ∧ 1 < flitCount ((flit (2 ^ 22)).extractLsb' 0 448) := by decide +kernel
/-- A link that hears, one that retrains and one that is off; a SENDT whose packet is given up; a packet that comes
behind one that was not performed (R375 to R377). -/
def lk (g : Link → Link) : State := { st with zen := { st.zen with links := [(0, g { lctl := 1, up := true, training := false })] } }
/-- The next packet of cube 5 is the one with sequence 1, or n after it. -/
def srv (n : Nat) : State := { lk id with zen := { (lk id).zen with rxNext := [(5, 1 + n)] } }
def tout : TaskOut := { cube := 5, seq := 1, tid := 0, act := 1, pa := 0x8000, lid := 1, words := [] }
theorem wit_links : (let l := look (lk id).zen.links 0 {}; l.up = true ∧ l.training = false ∧ bit l.lctl 0 = true ∧ l.fails < 7) ∧
    7 ≤ (look (lk (fun l => { l with fails := 7 })).zen.links 0 {}).fails ∧
    (look (lk (fun l => { l with training := true })).zen.links 0 {}).training = true ∧ (look st.zen.links 0 {}).up = false ∧
    [tout].find? (fun o => o.cube == 5 && o.seq == 1) = some tout ∧ st.zen.tasksOut = [] ∧ (srv 0).behind (pk 1 0) = false ∧
    (srv 2).behind (pk 1 0) = true ∧ (pk 10 0).kind = 10 := by decide +kernel
/-- A packet that nothing waits for and one that an access waits for; no packet of that name. -/
theorem wit_given_up : st.sentFor (5, 1) = false ∧ (withCtx (fun x => { x with pend := [{ pn none with e2e := [(5, 1)] }] })).sentFor (5, 1) = true ∧
    0 + 40000 ≤ 40000 ∧ 8 ≤ (une 8).tries ∧ st.zen.unacked.find? (fun e => e.cube == 5 && e.seq == 1) = none := by decide +kernel
/-- A flit that comes before the one expected, after it, and with a bad check, once a replay has been asked for and before. -/
theorem wit_replays : let l := look (lk (fun l => { l with rxSeq := 5, hiSeq := some 7 })).zen.links 0 {}
    let at_ := fun (n : Nat) => flit (n * 2 ^ 468)
    flitOk (at_ 6) = true ∧ (((at_ 6).extractLsb' 468 12) - l.rxSeq).toNat < 2 ^ 11 ∧ (at_ 6).extractLsb' 468 12 ≠ l.rxSeq ∧
    ¬ ((7 : BitVec 12) - l.rxSeq).toNat < (((at_ 6).extractLsb' 468 12) - l.rxSeq).toNat ∧
    ((7 : BitVec 12) - l.rxSeq).toNat < (((at_ 8).extractLsb' 468 12) - l.rxSeq).toNat ∧ flitOk (at_ 8) = true ∧
    flitOk (at_ 4) = true ∧ 2 ^ 11 ≤ (((at_ 4).extractLsb' 468 12) - l.rxSeq).toNat ∧ flitOk (at_ 6 ^^^ 1) = false ∧ l.hiSeq = some 7 ∧
    (look (lk id).zen.links 0 {}).hiSeq = none := by decide +kernel
/-- What a home answers: a read, a read of a poisoned line, a write, one beyond every home, one that waits in a wrap, and
a read of a granule that is homed in cube 5 now. -/
def served (r : Served) : Nat :=
  match r with | .ok _ _ => 1 | .poisoned _ _ => 2 | .refused => 3 | .moved _ => 4 | .wait => 5
def rdp (pa : Nat) : Packet := { pk 0 0 with pa := BitVec.ofNat 52 pa, payload := leBytes 1 8 }
theorem wit_served : served ((srv 0).serve (rdp 0x8000)) = 1 ∧ asksReply (rdp 0x8000) = true ∧ served ((srv 0).serve (pk 1 0)) = 1 ∧ asksReply (pk 1 0) = false ∧
    served (({ srv 0 with bad := [((((srv 0).home? 0x8000).map HomeAt.loc).getD 0 / 128, true)] } : State).serve (rdp 0x8000)) = 2 ∧
    served ((srv 0).serve (rdp 0x7F00000000)) = 3 ∧ served (({ srv 0 with wrap := 1 } : State).serve (rdp 0x8000)) = 5 ∧
    served (({ far (srv 0) with trans := { old := [(0, 0x8000000000007980)], moved := [8], fwd := true } } : State).serve (rdp 0x8000)) = 4 := by decide +kernel
/-- A reduction group of cubes 0 and 5 over one word at 0x8000. -/
def grp : List Word := [1, 0x8000, 4, 0, 0x21]
theorem wit_group : bit (grp.getD 0 0).toNat 0 = true ∧ groupOpr grp ≠ 4 ∧ groupMember grp 5 = true ∧ 0 < groupWords grp ∧
    (st.home? 0x8000).map HomeAt.cube = some st.cubeid ∧ epochOf [{ group := 0, cube := 5, word := 0, value := 0 }] 0 grp [0, 5] = none ∧
    ((epochOf [{ group := 0, cube := 0, word := 0, value := 3 }, { group := 0, cube := 5, word := 0, value := 0 }] 0 grp [0, 5]).map List.length) = some 2 ∧
    (st.hubRead 0x9000 8).isSome = true ∧ ((far st).home? 0x8000).map HomeAt.cube = some 5 := by decide +kernel
theorem wit_pcie : (match ({ st with free := 1 } : State).hubWrite 0x8000 1 5 with | some s => (s.home? 0x8000).isSome && !look s.bad 0 false | none => false) = true ∧
    (({ st with free := 1 } : State).hubRead 0x8000 1).isSome = true := by decide +kernel
theorem wit_reply : let s := (st.modPart 0 (fun p => { p with outst := [(7, 0, 1, 1, 0)] })).modCore 0 (fun c =>
      { c with msgs := [(msgKey 1 0, { st := .reply 0 1 0 })] })
    (s.part 0).outst.find? (fun o => o.1 == 7) = some (7, 0, 1, 1, 0) ∧ (s.ctx 0).act = 1 ∧ (s.ctx 0).st ≠ .free ∧ ((s.core 0).msg 1 0).st = .reply 0 1 0 := by
  decide +kernel


/-! ## Witnesses: boot and registers -/

def bt (g : Boot → Boot) : State := { st with boot := g st.boot }
/-- A report of zeros: the buffer at 0x8000 takes the signed bytes. -/
theorem wit_report : (match (bt (fun b => { b with atbusy := true, ataddr := 0x8000 })).snapRead 0x8000 32 with
      | .ok (bs, s1) => bs == List.replicate 32 0#8 && (match s1.snapWrite 0x8020 (List.replicate 200 1) with
        | (done, s2) => done && s2.boot.mextQ == [])
      | .error _ => false) = true ∧ ((bt (fun b => { b with ataddr := 0x8000 })).home? 0x8000).map (fun h => (h.cube, h.stack)) = some (0, 0) ∧
    (bt id).boot.atbusy = false ∧ ({ bt id with hmap := [] } : State).home? 0x8000 = none := by decide +kernel
/-- A buffer whose nonce cannot be read, and one at the end of the mapped bytes, where the report has no room. -/
theorem wit_report_fails (b : Byte) (bs : List Byte) : (match (bt (fun b => { b with atbusy := true })).snapRead 0x7F00000000 32 with
      | .error c => c == 0x0D
      | .ok _ => false) = true ∧ (match st.snapRead 0x3FFFFFE0 32 with | .ok _ => true | .error _ => false) = true ∧
    st.snapWrite 0x40000000 (b :: bs) = (false, st) := ⟨by decide +kernel, by decide +kernel, rfl⟩
theorem wit_report_body : st.reportBody ≠ [] := by simp [State.reportBody]
/-- Addresses of registers from R299, R302, R345 and R351, and two that reach none. -/
theorem wit_registers : st.reg? (0xD000000000000 + 0x1010) = some (.field 0 0x202) ∧ st.reg? (0xD000000000000 + 0x101018) = some (.field 1 0x203) ∧
    st.reg? (0xD000000000000 + 0x41008) = some (.trap 0 0x1008) ∧ st.reg? (0xD000000000000 + 0x200000000 + 64 * 5 + 8) = some (.eclipse 5 8) ∧
    st.reg? 0xD001000001010 = none ∧ st.reg? (0xD000000000000 + 0x1014) = none := by decide +kernel

/-! ## Witnesses: capability instructions -/

/-- Hart 0 in M-mode with x10, x11 and x12, beside a tagged capability at 0x8000. -/
def hz (a b d : Nat) (c : Cap) : State :=
  let s := poke 0x8000 16 (c.w0 + c.w1 * 2 ^ 64) (st.modPart 0 (fun p => { p with pquota := 64 }))
  { s with turn := some (.hart 0), zen := { s.zen with harts := [(0, { running := true, xs := [(10, w64 a), (11, w64 b), (12, w64 d)] })] },
           tags := [((((s.home? 0x8000).map HomeAt.loc).getD 0) / 128, 1)] }
/-- Memory, the page at 0x8000, read and write, cursor 0x8100. -/
def cMem : Cap := { w0 := 0x0030000000008100, w1 := 0x10000000008 }
/-- A launch queue of 64 KiB at 0x10000, and a service queue. -/
def cLq : Cap := { w0 := 0x01F0000000010000, w1 := 0x100000000010 }
def cSq : Cap := { w0 := 0x04F0000000010000, w1 := 0x100000000010 }
def zf (rd : BitVec 5) : ZFields := { rd := rd, rs1 := 10, rs2 := 11 }
def runs {α : Type} (m : Z α) (s : State) : Bool :=
  match m s with
  | .ok _ _ => true
  | .error _ _ => false
/-- The record that derives the page's first line: BASE 8, LEN 1, R. -/
def hzRec (b : Nat) : State := poke b 16 (0x10000000008 + 0x0010000000008000 * 2 ^ 64) (hz 0x8000 b 0x8020 cMem)

theorem wit_cgrant : runs (zCgrant (zf 0)) (hz 0x8040 0x8000 0 cMem) = true ∧ runs (zCmove (zf 0)) (hz 0x8040 0x8000 0 cMem) = true ∧
    ((hz 0 0 0 cMem).hart 0).mode = .m ∧ cMem.lenOk = true ∧ cMem.otype ≤ 4 ∧ cMem.inBounds = true ∧
    (hz 0x8040 0x8000 0 cMem).hartNo = 0 := by decide +kernel
theorem wit_cgrant_mode : isMHS HMode.hs = true ∧ isMHS HMode.u = false ∧ (HMode.hs == HMode.m) = false ∧ (hz 0 0 0 cMem).blocked = false ∧ ((({ hz 0 0 0 cMem with
    zen := { st.zen with harts := [(0, { mode := .hs })] } } : State).hart 0).mode = .hs) := by decide +kernel
theorem wit_cderive : runs (zCderive (zf 12)) (hzRec 0x8040) = true ∧ runs (zCderive (zf 12)) (hzRec 0x8048) = false := by decide +kernel
theorem wit_cranges : runs (zCrevoke (zf 0)) (hz 0x8000 16 0 cMem) = true ∧ runs (zCcount (zf 12)) (hz 0x8000 128 0 cMem) = true ∧
    runs (zCrevoke (zf 0)) (hz 0x8000 24 0 cMem) = false ∧ (2 ^ 20 : Nat) % 16 = 0 := by decide +kernel
theorem wit_cread : (∀ n ∈ [0, 1, 2, 3, 4], runs (zCread (zf 12)) (hz 0x8000 n 0 cMem) = true) ∧ runs (zCread (zf 12)) (hz 0x8000 5 0 cMem) = false ∧
    (∀ n ∈ [0, 6], runs (zCcheck (zf 12)) (hz 0x8000 n 0 cMem) = true) ∧ runs (zCcheck (zf 12)) (hz 0x8000 7 0 cMem) = false ∧
    (0x8008 : Nat) % 16 ≠ 0 := by decide +kernel
theorem wit_cursor : runs (zCldadv (zf 12)) (hz 0x8000 0 0 cMem) = true ∧ runs (zCstadv (zf 0)) (hz 0x8000 5 0 cMem) = true := by decide +kernel
theorem wit_chand : runs (zChand (zf 0)) (hz 0x8000 0 0 cLq) = true ∧ runs (zChand (zf 0)) (hz 0x8000 0x100 0 cSq) = true ∧
    runs (zChand (zf 0)) (hz 0x8000 0x13F 0 cSq) = true ∧ runs (zChand (zf 0)) (hz 0x8000 0x140 0 cSq) = false := by decide +kernel

/-! ## Witnesses: what holds for every instruction, faults, codes, frames, reset -/

theorem wit_guards : (Instr.add (ar 5 0x75 7 3)).operandsOk = false ∧ st.me.guard { ar 5 6 7 3 with guard := 1 } = false ∧
    ((Op.add.instr { ar 5 6 7 3 with guard := 1 }).operandsOk && portsOk st .add { ar 5 6 7 3 with guard := 1 }) = true ∧
    (st.me.p 1 != ({ ar 5 6 7 3 with guard := 1 } : Fields).guard.getLsbD 3) = false ∧
    (0x0180050607_3E0000_00000000 : BitVec 96).extractLsb' 84 4 = 8 := by decide +kernel
theorem wit_illegal : let s := State.reset.withFetchWord 96 0
    pcLegal (s.ctx 0).pc = true ∧ (match ({ s with turn := none } : State).fetchBlock 0 ((s.ctx 0).pc - ((s.ctx 0).pc &&& 0x7F)) with
      | .data d _ => (decode (leBytes 12 (slotWord d (bits (s.ctx 0).pc.toNat 3 0)).toNat)).isNone
      | _ => false) = true := by decide +kernel

/-- A late fault, a refusal of a posted store, a context at level S, a field with four free slots of its trap queue. -/
def exLate (c : Nat) : Exc := { cause := c, tval := 7, loge := 0, code := 0, eng := false }
def pLate (c : Nat) : Pend := { pn none with done := true, fault := some (exLate c), work := .none }
def lateSt (c : Nat) : State := withCtx (fun x => { x with pend := [pLate c] })
theorem wit_faults : st.me.pend = [] ∧ st.me.sup = false ∧ (st.field 0).tvec ≠ 0 ∧ (st.field 0).freeSlots > 4 ∧ (st.field 0).freeSlot? = some 0 ∧
    (∀ c ∈ [3, 0x10, 0x11], (lateSt c).me.pend.all (fun q => q.done) = true ∧ (pLate c).fault = some (exLate c)) ∧
    ((fl0 (fun f => { f with tqvalid := 0x0FFFFFFFFFFFFFFF })).field 0).freeSlots ≤ 4 ∧ su.me.sup = true ∧
    ((fl0 (fun f => { f with tvec := 0 })).field 0).tvec = 0 ∧
    (withCtx (fun x => { x with refusal := some { cause := 3, entry := 3, addr := 0x8000, size := 3, mask := 255, data := 0, count := 0 } })).me.refusal =
      some { cause := 3, entry := 3, addr := 0x8000, size := 3, mask := 255, data := 0, count := 0 } := by decide +kernel

theorem wit_codes : done (localLoc (st.me.a 0) 8 false) st = true ∧ done (localLoc (st.me.localAddr 0 0x88) 8 true) st = true ∧
    done (localLoc (st.me.a 0 + (0x20 : BitVec 32).signExtend 64) 8 false) st = true ∧ tyInt 3 = true := by decide +kernel
theorem wit_register_frames : isLocal 5 = false ∧ isPort 5 = false ∧ isLocal 0x43 = false ∧ isPort 0x43 = false ∧ isLocal 0x80 = true := by decide
/-- A local destination of a vector; stores in the aperture, in scratch and at home. -/
theorem wit_stores : st.memOk ∧ admitted st .vadd { vc with dst := 0x80 } = true ∧ (∀ e ∈ vectorTwo, admitted st e.op { vc with dst := 0x80 } = true) ∧
    done (wrV cx 0 0x80 16 (cx.laneOn vc) (fun i => i)) st = true ∧
    (match st.store 0 0 0xF000000000100 8 255 5 with | .ok _ _ => true | _ => false) = true ∧
    (match (fl0 (fun f => { f with l2state := 2 })).store 0 0 0xE000000000100 8 255 5 with | .ok _ _ => true | _ => false) = true ∧
    ((st.home? 0x8000).map (fun h => match st.storeDirect h 0x8000 8 255 5 with | .ok _ _ => true | _ => false)) = some true := by
  refine ⟨?_, ?_⟩
  · unfold State.memOk; decide +kernel
  · decide +kernel
/-- VL of 16-bit lanes from and to local addresses, the operands of blocks, accesses that change nothing. -/
theorem wit_more_stores : admitted st .stv (pl 0 0x80 0x41 1) = true ∧ tyWidth 1 ≠ 0 ∧ done (localLoc 0x40 64 true) st = true ∧
    admitted st .vsts { pl 0 0x80 1 2 with mod := 0x08, imm := 0x41 } = true ∧ admitted st .vscat { pl 0 0x80 0x40 2 with mod := 0x08, imm := 0x42 } = true ∧
    done (rd64 cx 0 1) st = true ∧ done (placeLanes cx (pl 0 0x80 0x40 2) (fun _ => 0x40)) st = true ∧
    (match st.rmw 0 0xF000000000100 8 (fun m => some (m + 1)) with | .ok _ _ => true | _ => false) = true ∧
    (match st.load 0 0 0xF000000000100 8 with | .ok _ _ => true | _ => false) = true ∧
    (let s := fl0 (fun f => { f with l2 := [(ln0, clean)] })
     s.held? 0 (0x8000 / 128) = some clean ∧ clean.st ≠ .l ∧ (s.home? 0x8000).map HomeAt.cube = some s.cubeid ∧
     (match s.load 0 0 0x8000 8 with | .ok _ _ => true | _ => false) = true) ∧
    ((st.home? 0x8000).map (fun h => decide ((st.clearCopies h 0x100).mem = [] ∧ h.loc % 128 = 0x8000 % 128))) = some true := by decide +kernel
/-- Frames: a call and a return with room in the window file, a loop of no iterations, one with room on the stack. -/
theorem wit_frames : st.me.wb + 8 * (3 % 8) - 8 ≤ 456 ∧ 8 * (1 % 8) - 8 ≤ st.me.wb ∧ st.me.loops.length < 2 ∧ bits 4 31 16 = 0 ∧
    movsOk 0x001 6 = true ∧ admitted st .vmaskGet (pl 5 1 0 0) = true ∧ admitted st .vadd vc = true := by decide +kernel
theorem wit_canonical : State.reset.memOk ∧ (step State.reset matches .next _) = true := by
  refine ⟨rfl, ?_⟩
  unfold step
  rfl


/-! ## Results worked out in the manual or by hand from its rules -/

/-- ADDI x11, x10, 10 and C.LI x10, 5 of the RISC-V manual, run by hart 0 at the reset vector (R365). -/
theorem test_hart_addi : (match step (hartWord 0x00A50593) with
    | .next u => (u.hart 0).x 11 == 10 && (u.hart 0).pc == ((hartWord 0).hart 0).pc + 4
    | _ => false) = true := by decide +kernel
theorem test_hart_compressed : (match step (hartWord 0x4515) with
    | .next u => (u.hart 0).x 10 == 5 && (u.hart 0).pc == ((hartWord 0).hart 0).pc + 2
    | _ => false) = true := by decide +kernel
/-- −1 + 5 under i64; 0x40 + 0x40 under i8 wraps and is written sign-extended (R144, R164). -/
theorem test_add_wraps : ((after (.add (ar 8 5 1 3)) st).ctx 0).x 8 = 4 := by decide +kernel
theorem test_add_narrow : ((after (.add (ar 8 3 3 0)) st).ctx 0).x 8 = 0xFFFFFFFFFFFFFF80 := by decide +kernel
/-- 5 − 3 and 3 − 5: the operands stand in their places; saturating at i64 the least number minus 5 stays. -/
theorem test_sub_order : ((after (.sub (ar 8 1 2 3)) st).ctx 0).x 8 = 2 ∧ ((after (.sub (ar 8 2 1 3)) st).ctx 0).x 8 = 0xFFFFFFFFFFFFFFFE := by
  decide +kernel
theorem test_sub_saturates : ((after (.sub { ar 8 4 1 3 with mod := 0xF0 }) st).ctx 0).x 8 = 0x8000000000000000 := by decide +kernel
/-- A false guard leaves the destination and moves the PC to the next slot. -/
theorem test_guard_false : ((after (.add { ar 1 5 1 3 with guard := 1 }) st).ctx 0).x 1 = 5 ∧
    ((after (.add { ar 1 5 1 3 with guard := 1 }) st).ctx 0).pc = 1 := by decide +kernel
/-- A store of one byte at a0 goes to frame 3 of the vault (R72) and to no other byte; (a0)+ moves by d0 = 8. -/
theorem test_store_local : ((after (.st (pl 0 0x88 1 0)) st).byteAt 0xF000000003040, (after (.st (pl 0 0x88 1 0)) st).byteAt 0xF000000003041,
    ((after (.st (pl 0 0x88 1 0)) st).ctx 0).a 0) = (5, 0, 0x48) := by decide +kernel
/-- A local word reads little-endian. -/
theorem test_local_operand : ((after (.add (ar 8 0x80 0 3)) ((((st.writeVault 0 0x3040 1 0x21).writeVault 0 0x3041 1 0x43))) ).ctx 0).x 8 = 0x4321 := by
  decide +kernel
/-- An operand code that ADD does not accept traps: cause 2, at TVEC, the word's bits [95:32] in TVAL (R153, R341). -/
theorem test_operand_trap : let x := (after (.add (ar 5 0x75 7 3)) st).ctx 0
    (x.tcause, x.pc, x.sup, x.tval) = (2, 0x1000, true, 0x0100057507_3E0000) := by decide +kernel
/-- The example of a home-map entry of 12 homes (R88). -/
theorem test_home_map : ({ st with hmap := [(24, 0x8000004000009200 + 11), (25, 0x0060004000200000), (26, 0x0061004100210001), (27, 0x0062004200220002),
    (29, 0x100000000)] } : State).home? 0x4123456780 = some { cube := 0, stack := 1, chan := 2, addr := 0x118456780 } := by decide +kernel
/-- The example of a split (R32): the thread that holds [64, 80) of [64, 200) keeps [80, 144). -/
theorem test_split : ((after (.rangeSplit 1) { rng2 with ctxs := [(0, { cx with rng := some { hi := 200, c := 80, g := 16 } })] }).ctx 0).rng.map Rng.hi = some 144 := by
  decide +kernel
/-- RNEXT then gives [80, 96) (R32). -/
theorem test_rnext : ((after (.rnext (pl 8 0 0 0)) (withCtx (fun x => { x with rng := some { hi := 144, c := 80, g := 16 } }))).ctx 0).x 8 =
    0x0000006000000050 := by decide +kernel
/-- The example of a narrowing (R208). -/
def accs : State := withCtx (fun x => { x with vs := [(2, BitVec.ofNat 512 (1000 + (2 ^ 32 - 1000) * 2 ^ 32 + 24 * 2 ^ 64 + (2 ^ 32 - 24) * 2 ^ 96 +
  1048576 * 2 ^ 128))] })
theorem test_narrow : ((after (.vnarr { pl 0x43 0x42 2 1 with mod := 0x10, sub := 2, imm := 4 }) accs).ctx 0).v 3 =
    BitVec.ofNat 512 (62 + (2 ^ 16 - 62) * 2 ^ 16 + 2 * 2 ^ 32 + (2 ^ 16 - 2) * 2 ^ 48 + 32767 * 2 ^ 64) := by decide +kernel
/-- VRCP of 1 in every lane: R = 65,281, q = 16,776,961 (R197); the result lands later. -/
theorem test_vrcp : rcp32 (valOf 10 0x3F800000) = (0x3F7FFF01, 0) := by decide +kernel

end Sys2Proof.Tests
end

section
/-! Checks 2 to 4 of R153: a word with GUARD 0b1000 is illegal, and an operand code or a false guard ends an
instruction before its body runs. -/

namespace Sys2Proof

/-- A legal word does not name "not p0" as its guard (R141). -/
theorem Row.guard_ne_of_legal {r : Row} {f : Fields} (h : r.legal f = true) : f.guard ≠ 8#4 := by
  simp only [Row.legal, Bool.and_eq_true, bne_iff_ne] at h
  obtain ⟨⟨⟨⟨⟨⟨hguard, -⟩, -⟩, -⟩, -⟩, -⟩, -⟩ := h
  exact hguard

/-- The decoder refuses a word whose GUARD is 0b1000, whatever its other fields hold. -/
theorem decodeThread_none_of_guard {w : BitVec 96} (hw : (wordFields w).guard = 8#4) : decodeThread w = none := by
  cases hd : decodeThread w with
  | none => rfl
  | some i =>
    obtain ⟨o, -, -, hacc⟩ := decodeThread_some hd
    have hlegal : o.row.legal (wordFields w) = true := (Bool.and_eq_true_iff.mp hacc).2
    exact absurd hw (Row.guard_ne_of_legal hlegal)

end Sys2Proof

namespace Sys2Proof.Machine

open Sys2Proof

/-- Check 3 of R153, for every thread instruction: a refused operand code or port is the operand fault. -/
theorem exec_refuses_codes {op : Op} {f : Fields} {s : State}
    (h : (op.instr f).operandsOk = false ∨ portsOk s op f = false) :
    exec (op.instr f) s = .next (s.faultsOperand op f) := by
  obtain ⟨body, hexec⟩ := exec_issues op f
  rw [hexec, issue_refuses_codes h]
  rfl

/-- Check 4 of R153, for every thread instruction: a false guard retires it without effect. -/
theorem exec_skips {op : Op} {f : Fields} {s : State} (hcodes : (op.instr f).operandsOk = true)
    (hports : portsOk s op f = true) (hguard : s.me.guard f = false) :
    exec (op.instr f) s = .next (s.retired s.cur .seq) := by
  obtain ⟨body, hexec⟩ := exec_issues op f
  rw [hexec, issue_skips hcodes hports hguard]

/-- Check 2 of R153: the thread whose PC names a slot with an illegal word takes the illegal-instruction trap. -/
theorem fetch_illegal {s s1 : State} {t : Nat} {d : Line} (hpc : pcLegal (s.ctx t).pc = true)
    (hblock : s.fetchBlock t ((s.ctx t).pc - ((s.ctx t).pc &&& 0x7F)) = .data d s1)
    (hword : decode (leBytes 12 (slotWord d (bits (s.ctx t).pc.toNat 3 0)).toNat) = none) :
    s.fetch t = .done (s1.takeExact t
      { cause := cIllegal, tval := (slotWord d (bits (s.ctx t).pc.toNat 3 0)).extractLsb' 32 64 }) := by
  simp only [State.fetch, hpc, hblock, hword, Bool.not_true, Bool.false_eq_true, if_false]

/-- Settles O51: the operand codes and the guard are read off the issue of an instruction, GUARD 0b1000 off the
legality of its row, and the trap off the fetch. -/
theorem guardsAndCodes : Obligations.Guards_and_codes := by
  unfold Obligations.Guards_and_codes
  refine ⟨?codes, ?guard, ?notP0, ?illegal⟩
  case codes => exact fun _ _ _ h => exec_refuses_codes h
  case guard => exact fun _ _ _ hcodes hports hguard => exec_skips hcodes hports hguard
  case notP0 =>
    intro w rest hw
    rw [decode_leBytes, decodeThread_none_of_guard hw]
    rfl
  case illegal => exact fun _ _ _ _ hpc hblock hword => fetch_illegal hpc hblock hword

end Sys2Proof.Machine
end

section
/-! The hardware loops of R186 to R189: what LOOP and LOOPX do with a count, and how the loop stack and the PC move
when an instruction retires. -/

namespace Sys2Proof.Machine

open Sys2Proof

/-! ## LOOP and LOOPX with a count (R186) -/

/-- The last instruction of the body that a LOOP or LOOPX names, as an offset from it. -/
def loopSpan (f : Fields) : Int := bits f.imm.toNat 15 0

/-- The entry that a LOOP or LOOPX of context x with a count pushes. -/
def loopEntry (f : Fields) (x : Ctx) (count : Nat) : LoopEnt :=
  { start := nextPc x.pc, stop := relPc x.pc (loopSpan f), rem := count, atS := x.sup }

/-- The current context has one more entry on its loop stack. -/
def State.pushesLoop (s : State) (e : LoopEnt) : State := s.onMe (fun y => { y with loops := y.loops ++ [e] })

theorem loopOn_skips (f : Fields) (s : State) :
    loopOn f 0 s = .ok (.jump (relPc s.me.pc (loopSpan f + 1))) s := rfl

theorem loopOn_pushes {f : Fields} {count : Nat} {s : State} (hcount : count ≠ 0) (hroom : s.me.loops.length < 2) :
    loopOn f count s = .ok .seq (s.pushesLoop (loopEntry f s.me count)) := by
  simp only [loopOn, M.run_bind, M.run_getCtx, if_neg hcount, M.run_needOp, hroom, decide_true, if_true, M.run_modCtx,
    M.run_pure]
  rfl

theorem loopOn_overflows {f : Fields} {count : Nat} {s : State} (hcount : count ≠ 0) (hfull : 2 ≤ s.me.loops.length) :
    loopOn f count s = .error (.exc { cause := cOperand, tval := 0 }) s := by
  simp only [loopOn, M.run_bind, M.run_getCtx, if_neg hcount, M.run_needOp, Nat.not_lt.mpr hfull, decide_false,
    Bool.false_eq_true, if_false]

/-- An instruction whose body finds an operand fault takes it with bits [95:32] of its word. -/
theorem issue_faultsOperand {op : Op} {body : Fields → M Ctl} {f : Fields} {s t : State} (h : s.admits op f)
    (hb : body (s.me.aloneFields f) s = .error (.exc { cause := cOperand, tval := 0 }) t) :
    issue op body f s = .next (s.faultsOperand op f) := issue_faults h hb

theorem loopOn_aloneFields (x : Ctx) (f : Fields) (count : Nat) : loopOn (x.aloneFields f) count = loopOn f count := by
  simp only [loopOn, Ctx.aloneFields_imm]

/-- LOOP hands the count in its immediate to `loopOn`. -/
theorem bodyLoop_counts (x : Ctx) (f : Fields) (s : State) :
    bodyLoop (x.aloneFields f) s = loopOn f (bits f.imm.toNat 31 16) s := by
  rw [bodyLoop, loopOn_aloneFields, Ctx.aloneFields_imm]

/-- An operand read alone at 64 bits. -/
theorem rd64_of_rdAll {x : Ctx} {imm : BitVec 32} {c : BitVec 8} {n : Nat} {s s1 : State}
    (h : rdAll x imm [(3, c)] s = .ok [n] s1) : rd64 x imm c s = .ok (w64 n) s1 := by
  obtain ⟨v, t, ws, hread, hrest, hvs⟩ := rdAll_cons h
  obtain ⟨-, rfl⟩ := rdAll_nil hrest
  obtain ⟨rfl, -⟩ := List.cons.inj hvs
  simp only [rd64, M.run_bind_ok hread, M.run_pure]

/-- LOOPX hands the 64-bit value of its operand to `loopOn`, after reading it. -/
theorem bodyLoopx_counts {x : Ctx} {f : Fields} {n : Nat} {s s1 : State}
    (h : rdAll s.me f.imm [(3, f.sa)] s = .ok [n] s1) :
    bodyLoopx (x.aloneFields f) s = loopOn f (w64 n).toNat s1 := by
  simp only [bodyLoopx, loopOn_aloneFields, Ctx.aloneFields_imm, Ctx.aloneFields_sa]
  rw [M.run_bind_ok (M.run_getCtx s), M.run_bind_ok (rd64_of_rdAll h)]

/-! ## The loop stack and the PC after an instruction (R187 to R189) -/

/-- The loop stack and the PC of x after an instruction that is no taken branch, were its loop stack l. -/
def Ctx.flow (x : Ctx) (l : List LoopEnt) : List LoopEnt × Word :=
  ((({ x with loops := l } : Ctx).retire .seq).loops, (({ x with loops := l } : Ctx).retire .seq).pc)

section
variable {x : Ctx} (hlone : x.lone = none)
include hlone

/-- The loop-back is judged on the stack, top first. -/
theorem Ctx.flow_eq_loopBack (l : List LoopEnt) : x.flow l =
    ((loopBack x.sup x.pc (nextPc x.pc) l.reverse).1.reverse, (loopBack x.sup x.pc (nextPc x.pc) l.reverse).2) := by
  simp only [Ctx.flow, Ctx.retire, hlone]
  rfl

theorem Ctx.flow_top (ls : List LoopEnt) (top : LoopEnt) : x.flow (ls ++ [top]) =
    ((loopBack x.sup x.pc (nextPc x.pc) (top :: ls.reverse)).1.reverse,
      (loopBack x.sup x.pc (nextPc x.pc) (top :: ls.reverse)).2) := by
  rw [Ctx.flow_eq_loopBack hlone, List.reverse_concat]

theorem Ctx.flow_nil : x.flow [] = ([], nextPc x.pc) := Ctx.flow_eq_loopBack hlone []

/-- R187: a top entry that does not end here stays, and so does everything below it. -/
theorem Ctx.flow_inside (ls : List LoopEnt) {top : LoopEnt} (hlevel : top.atS = x.sup) (hend : top.stop ≠ x.pc) :
    x.flow (ls ++ [top]) = (ls ++ [top], nextPc x.pc) := by
  simp only [Ctx.flow_top hlone, loopBack, hlevel, bne_self_eq_false, Bool.false_eq_true, if_false, hend,
    List.reverse_cons, List.reverse_reverse]

/-- R187: with runs left, the top entry goes back to its start. -/
theorem Ctx.flow_back (ls : List LoopEnt) {top : LoopEnt} (hlevel : top.atS = x.sup) (hend : top.stop = x.pc)
    (hruns : 1 < top.rem) : x.flow (ls ++ [top]) = (ls ++ [{ top with rem := top.rem - 1 }], top.start) := by
  simp only [Ctx.flow_top hlone, loopBack, hlevel, bne_self_eq_false, Bool.false_eq_true, if_false, hend, if_true,
    Nat.not_le.mpr hruns, List.reverse_cons, List.reverse_reverse]

/-- R187: after its last run the top entry is popped, and the next one is tested. -/
theorem Ctx.flow_pop (ls : List LoopEnt) {top : LoopEnt} (hlevel : top.atS = x.sup) (hend : top.stop = x.pc)
    (hruns : top.rem ≤ 1) : x.flow (ls ++ [top]) = x.flow ls := by
  simp only [Ctx.flow_top hlone, Ctx.flow_eq_loopBack hlone ls, loopBack, hlevel, bne_self_eq_false,
    Bool.false_eq_true, if_false, hend, if_true, hruns]

/-- R189: an entry of the other level is passed over. -/
theorem Ctx.flow_other_level (ls : List LoopEnt) {top : LoopEnt} (hlevel : top.atS ≠ x.sup) :
    x.flow (ls ++ [top]) = ((x.flow ls).1 ++ [top], (x.flow ls).2) := by
  simp only [Ctx.flow_top hlone, Ctx.flow_eq_loopBack hlone ls, loopBack, bne_iff_ne.mpr hlevel, if_true,
    List.reverse_cons]

theorem Ctx.retire_jump_pc (target : Word) : (x.retire (.jump target)).pc = target := by
  simp only [Ctx.retire, hlone]
  rfl

theorem Ctx.retire_jump_loops (target : Word) :
    (x.retire (.jump target)).loops = x.loops.filter (keepsLoop x.sup x.pc target) := by
  simp only [Ctx.retire, hlone]
  rfl

end

/-- R188: a taken branch leaves an entry of its own level in place unless it stands at the entry's end, or leaves
the body from inside. -/
theorem keepsLoop_iff (sup : Bool) (pc target : Word) (e : LoopEnt) : keepsLoop sup pc target e = true ↔
    (e.atS = sup → e.stop ≠ pc ∧ (e.start ≤ pc → pc < e.stop → e.start ≤ target ∧ target ≤ e.stop)) := by
  simp only [keepsLoop, Bool.or_eq_true, Bool.and_eq_true, bne_iff_ne, ne_eq, Bool.not_eq_true', Bool.and_eq_false_iff,
    Bool.not_eq_false', decide_eq_true_eq, decide_eq_false_iff_not, Decidable.imp_iff_not_or, or_assoc]

theorem Ctx.retire_seq_issued (x : Ctx) : (x.retire .seq).issued = x.issued + 1 := by
  cases hlone : x.lone <;> simp only [Ctx.retire, hlone] <;> rfl

/-! ## The obligation -/

/-- Settles O12: LOOP and LOOPX are `loopOn` with their counts; the rest says what retiring does to the loop stack,
entry by entry. -/
theorem loopsStart : Obligations.Loops_start := by
  unfold Obligations.Loops_start
  intro f s s1 n x ls top v
  have count_ne (h : w64 n ≠ 0) : (w64 n).toNat ≠ 0 := fun h0 => h (BitVec.eq_of_toNat_eq h0)
  refine ⟨?loopSkips, ?loopPushes, ?loopxSkips, ?loopxPushes, ?loopFull, ?loopxFull, ?rest⟩
  case loopSkips =>
    intro hadm hcount
    exact issue_completes hadm (by rw [bodyLoop_counts, hcount, loopOn_skips]; rfl)
  case loopPushes =>
    intro hadm hcount hroom
    exact issue_completes hadm (by rw [bodyLoop_counts, loopOn_pushes hcount hroom]; rfl)
  case loopxSkips =>
    intro hadm hread hcount
    exact issue_completes hadm (by rw [bodyLoopx_counts hread, hcount]; exact loopOn_skips f s1)
  case loopxPushes =>
    intro hadm hread hcount hroom
    exact issue_completes hadm (by rw [bodyLoopx_counts hread, loopOn_pushes (count_ne hcount) hroom]; rfl)
  case loopFull =>
    intro hadm hcount hfull
    exact issue_faultsOperand hadm (by rw [bodyLoop_counts, loopOn_overflows hcount hfull])
  case loopxFull =>
    intro hadm hread hcount hfull
    exact issue_faultsOperand hadm (by rw [bodyLoopx_counts hread, loopOn_overflows (count_ne hcount) hfull])
  case rest =>
    refine ⟨Ctx.flow_nil, (Ctx.flow_inside · ls), (Ctx.flow_back · ls), (Ctx.flow_pop · ls),
      (Ctx.flow_other_level · ls), x.retire_seq_issued, fun hlone => ⟨Ctx.retire_jump_pc hlone v, fun e => ?_⟩, rfl, rfl⟩
    rw [Ctx.retire_jump_loops hlone, List.mem_filter, keepsLoop_iff]

end Sys2Proof.Machine
end

section
/-! Taking an exception (R340 to R344): entry into the handler, the trap-queue record of a replayable fault, and what
happens at level S or without a handler. -/

namespace Sys2Proof.Machine

open Sys2Proof

/-! ## What landing leaves for the entry -/

section
variable {s u : State} {t : Nat}

theorem State.landed.field_eq (n : Nat) : s.landed u t → u.field n = s.field n :=
  fun ⟨hstate, _, _⟩ => (congrArg (State.field · n) hstate :)
theorem State.landed.sid_eq : s.landed u t → u.sid = s.sid := fun ⟨hstate, _, _⟩ => (congrArg State.sid hstate :)
theorem State.landed.sup_eq : s.landed u t → (u.ctx t).sup = (s.ctx t).sup :=
  fun ⟨_, _, hctx⟩ => (congrArg Ctx.sup hctx :)
theorem State.landed.pc_eq : s.landed u t → (u.ctx t).pc = (s.ctx t).pc :=
  fun ⟨_, _, hctx⟩ => (congrArg Ctx.pc hctx :)
theorem State.landed.lone_eq : s.landed u t → (u.ctx t).lone = (s.ctx t).lone :=
  fun ⟨_, _, hctx⟩ => (congrArg Ctx.lone hctx :)
theorem State.landed.tcause_eq : s.landed u t → (u.ctx t).tcause = (s.ctx t).tcause :=
  fun ⟨_, _, hctx⟩ => (congrArg Ctx.tcause hctx :)
theorem State.landed.lidOf_eq : s.landed u t → u.lidOf t = s.lidOf t :=
  fun ⟨_, _, hctx⟩ => (congrArg (fun x : Ctx => (x.task.map Task.lid).getD 0) hctx :)

end

/-- The state in which a late fault is delivered: its entry has left the list, and the rest has landed. -/
theorem State.landed_dropPend (s : State) (t : Nat) (p : Pend) :
    s.landed ((s.modCtx t (fun y => { y with pend := y.pend.filter (fun q => q != p) })).landThese t (fun _ => true)) t :=
  State.landed_trans (s.landed_modCtx t (g := fun y => { y with pend := y.pend.filter (fun q => q != p) }) rfl)
    (State.landed_landThese _ t _)

/-! ## Whether a handler takes a fault (R340, R342) -/

/-- A fault of the context may enter the handler: the level is U and the field has a handler. -/
def State.handles (s : State) (t : Nat) : Bool := !(s.ctx t).sup && (s.field (fieldOf t)).tvec != 0

theorem State.handles_iff (s : State) (t : Nat) :
    s.handles t = true ↔ (s.ctx t).sup = false ∧ (s.field (fieldOf t)).tvec ≠ 0 := by
  simp only [State.handles, Bool.and_eq_true, Bool.not_eq_true', bne_iff_ne]

theorem State.handles_eq_false_iff (s : State) (t : Nat) :
    s.handles t = false ↔ (s.ctx t).sup = true ∨ (s.field (fieldOf t)).tvec = 0 := by
  simp only [State.handles, Bool.and_eq_false_iff, Bool.not_eq_false', bne_eq_false_iff_eq]

theorem State.landed.handles_eq {s u : State} {t : Nat} (h : s.landed u t) : u.handles t = s.handles t := by
  simp only [State.handles, h.sup_eq, h.field_eq]

/-! ## A record leaves the contexts and TVEC alone (R345) -/

@[simp] theorem State.ctx_raiseIid (s : State) (iid j : Nat) : (s.raiseIid iid).ctx j = s.ctx j := by
  unfold State.raiseIid
  split
  · rfl
  · dsimp only; split <;> rfl

@[simp] theorem State.field_raiseIid (s : State) (iid j : Nat) : (s.raiseIid iid).field j = s.field j := by
  unfold State.raiseIid
  split
  · rfl
  · dsimp only; split <;> rfl

@[simp] theorem State.ctx_writeRecord (s : State) (fi k j : Nat) (ws : List Word) :
    (s.writeRecord fi k ws).ctx j = s.ctx j := by
  unfold State.writeRecord
  split
  · exact State.ctx_raiseIid ..
  · rfl

@[simp] theorem State.writeRecord_tvec (s : State) (fi k : Nat) (ws : List Word) :
    ((s.writeRecord fi k ws).field fi).tvec = (s.field fi).tvec := by
  unfold State.writeRecord
  split <;> simp

/-! ## The words that an entry writes (R339, R345) -/

theorem causeWord_eq (e : Exc) (late repl : Bool) : causeWord e late repl =
    w64 (e.cause + 256 * late.toNat + 512 * repl.toNat + (if e.eng then 1024 else 0) + e.loge * 2048 + e.code * 65536) := by
  cases late <;> cases repl <;> rfl

/-- A posted-store refusal names its log entry in LOGE (R343). -/
theorem causeWord_refusal (addr : Word) (entry : Nat) :
    causeWord { cause := cPosted, tval := addr, loge := entry } false false = w64 (0x0E + entry * 2048) := by
  simp [causeWord, cPosted]

theorem recWord0_replayable (e : Exc) (late : Bool) (t lid act : Nat) : recWord0 e late true false t lid act 7 =
    w64 (e.cause + 256 * late.toNat + 512 + ctxIx t * 2 ^ 12 + coreOf t * 2 ^ 16 + lid * 2 ^ 36 + act * 2 ^ 52 +
      7 * 2 ^ 54) := by
  cases late <;> rfl

theorem statusWord_none : statusWord false none = 0 := rfl

theorem statusWord_slot (alone : Bool) (k : Nat) :
    statusWord alone (some k) = w64 ((if alone then 2 ^ 16 else 0) + 2 ^ 15 + 256 * k) := by
  have hsum : (if alone then 2 ^ 16 else 0) + (2 ^ 15 + k * 2 ^ 8) = (if alone then 2 ^ 16 else 0) + 2 ^ 15 + 256 * k := by
    omega
  exact congrArg w64 hsum

/-- The record of a replayable fault: no level has absorbed it, and ACT says whether a handler has it (R344, R345). -/
def State.replayRecord (s : State) (t : Nat) (e : Exc) (late : Bool) (act : Nat) (fpc rpc : Word) : List Word :=
  [w64 (e.cause + 256 * late.toNat + 512 + ctxIx t * 2 ^ 12 + coreOf t * 2 ^ 16 + s.lidOf t * 2 ^ 36 + act * 2 ^ 52 +
      7 * 2 ^ 54),
   fpc, rpc, e.tval, if (s.ctx t).sup then (s.ctx t).tcause else 0, w64 s.sid, 0, 0]

theorem State.landed.replayRecord_eq {s u : State} {t : Nat} (h : s.landed u t) (e : Exc) (late : Bool) (act : Nat)
    (fpc rpc : Word) : u.replayRecord t e late act fpc rpc = s.replayRecord t e late act fpc rpc := by
  simp only [State.replayRecord, h.lidOf_eq, h.sup_eq, h.tcause_eq, h.sid_eq]

/-- Entry into a handler at `tvec` with the words of TCAUSE, TVAL, TSTAT and TEPC (R340). -/
def State.enters (s : State) (t : Nat) (tvec c tval tstat tepc rpc : Word) (slot : Option Nat) : State :=
  (s.leaveQueues t).modCtx t (fun y => { y with
    tcause := c, tval := tval, tstat := tstat, tepc := tepc, sup := true, pc := tvec, resume := rpc, tslot := slot,
    lone := none, wait := .none, ticket := none, answer := none, ending := false })

/-- `enterHandler` asks the field for TVEC and the context for its lone instruction, and nothing else. -/
theorem State.enterHandler_eq (s : State) (t : Nat) (e : Exc) (late repl : Bool) (tepc rpc : Word) (slot : Option Nat) :
    s.enterHandler t e late repl tepc rpc slot = s.enters t (s.field (fieldOf t)).tvec (causeWord e late repl) e.tval
      (statusWord ((late || (s.ctx t).lone.isSome) && repl) slot) tepc rpc slot := rfl

/-! ## Taking an exception: one case for each outcome -/

theorem replayable_iff (c : Nat) : replayable c = true ↔ c = 0x10 ∨ c = 0x11 := by
  simp only [replayable, cTenure, cDirFull, Bool.or_eq_true, beq_iff_eq]

/-- The context error is no replayable fault (R337). -/
theorem ne_cContext_of_replayable {c : Nat} (h : replayable c = true) : c ≠ cContext := by
  rintro rfl
  cases h

section
variable {s : State} {t k : Nat} {e : Exc} (late : Bool) (fpc rpc : Word) (ref : Option Pending)

/-- R340: a fault that is handled and cannot be replayed. -/
theorem State.take_enters (hcause : e.cause ≠ cContext) (hrepl : ¬ replayable e.cause = true)
    (hhandles : s.handles t = true) :
    s.take t e late fpc rpc ref = s.enters t (s.field (fieldOf t)).tvec (causeWord e late false) e.tval 0
      (if late then rpc else fpc) rpc none := by
  rw [State.handles] at hhandles
  simp only [State.take, if_neg hcause, if_neg hrepl, if_pos hhandles, State.enterHandler_eq, Bool.and_false,
    statusWord_none]

/-- R342: a fault that is not handled and cannot be replayed. -/
theorem State.take_fatal (hrepl : ¬ replayable e.cause = true) (hnone : s.handles t = false ∨ e.cause = cContext) :
    s.take t e late fpc rpc ref = s.fatal t e late fpc rpc ref := by
  obtain hhandles | hcause := hnone
  · rw [State.handles] at hhandles
    simp only [State.take, if_neg hrepl, hhandles, Bool.false_eq_true, if_false, ite_self]
  · simp only [State.take, if_pos hcause]

/-- R344, step 2: a replayable fault with a record enters the handler. -/
theorem State.take_enters_with_record (hrepl : replayable e.cause = true) (hhandles : s.handles t = true)
    (hroom : (s.field (fieldOf t)).freeSlots > 4 ∧ (s.field (fieldOf t)).freeSlot? = some k) :
    s.take t e late fpc rpc ref =
      (s.writeRecord (fieldOf t) k (s.replayRecord t e late 3 fpc rpc)).enters t (s.field (fieldOf t)).tvec
        (causeWord e late true) e.tval
        (w64 ((if late || (s.ctx t).lone.isSome then 2 ^ 16 else 0) + 2 ^ 15 + 256 * k)) fpc rpc (some k) := by
  obtain ⟨hfree, hslot⟩ := hroom
  rw [State.handles] at hhandles
  simp only [State.take, if_neg (ne_cContext_of_replayable hrepl), if_pos hrepl, if_pos hfree, hslot, if_pos hhandles,
    State.enterHandler_eq, State.writeRecord_tvec, State.ctx_writeRecord, Bool.and_true, statusWord_slot,
    recWord0_replayable, State.replayRecord]

/-- R344, step 3: a replayable fault with a record, but without a handler that may take it, parks the thread. -/
theorem State.take_parks_with_record (hrepl : replayable e.cause = true) (hhandles : s.handles t = false)
    (hroom : (s.field (fieldOf t)).freeSlots > 4 ∧ (s.field (fieldOf t)).freeSlot? = some k) :
    s.take t e late fpc rpc ref =
      (s.writeRecord (fieldOf t) k (s.replayRecord t e late 0 fpc rpc)).parkReplay t late fpc rpc (.slot k) := by
  obtain ⟨hfree, hslot⟩ := hroom
  rw [State.handles] at hhandles
  simp only [State.take, if_neg (ne_cContext_of_replayable hrepl), if_pos hrepl, if_pos hfree, hslot, hhandles,
    Bool.false_eq_true, if_false, recWord0_replayable, State.replayRecord]

/-- R344, step 4: with 4 or fewer free slots a replayable fault parks the thread without a record. -/
theorem State.take_parks_without_record (hrepl : replayable e.cause = true)
    (hfull : (s.field (fieldOf t)).freeSlots ≤ 4) :
    s.take t e late fpc rpc ref =
      (s.parkReplay t late fpc rpc .anySlot).modField (fieldOf t) (fun g => { g with tqwait := g.tqwait ++ [t] }) := by
  simp only [State.take, if_neg (ne_cContext_of_replayable hrepl), if_pos hrepl, if_neg (Nat.not_lt.mpr hfull)]

end

/-- An exact fault moves no PC when it parks, and an instruction that re-executes alone will do so again. -/
theorem State.parkReplay_exact {s : State} {t : Nat} {fpc : Word} (hpc : (s.ctx t).pc = fpc) (rpc : Word) (w : Wait) :
    s.parkReplay t false fpc rpc w =
      s.modCtx t (fun y => { y with st := .parked, wait := w, stallAt := none, ending := false }) := by
  subst hpc
  rfl

/-! ## The three kinds of fault reach `take` once every window has landed (R151, R343) -/

theorem none_open_of_all_done {l : List Pend} (h : l.all (fun q => q.done) = true) :
    l.any (fun q => !q.done) = false := by
  rwa [List.all_eq_not_any_not, Bool.not_eq_true'] at h

section
variable {s : State} {t : Nat} (hdone : (s.ctx t).pend.all (fun q => q.done) = true)
include hdone

theorem State.takeExact_eq_take {e : Exc} (hlate : (s.ctx t).pend.find? (s.ctx t).lateDue = none)
    (hcause : e.cause ≠ cPosted) :
    s.takeExact t e =
      (s.landThese t (fun _ => true)).take t e false (s.ctx t).pc ((s.ctx t).lone.getD (s.ctx t).pc) none := by
  simp only [State.takeExact, none_open_of_all_done hdone, hlate, if_neg hcause, Bool.false_eq_true, if_false]

theorem State.takeLate_eq_take {e : Exc} {p : Pend} (hfault : p.fault = some e) (hsup : p.sup = false) :
    s.takeLate t p =
      ((s.modCtx t (fun y => { y with pend := y.pend.filter (fun q => q != p) })).landThese t (fun _ => true)).take t e
        true p.pc (s.ctx t).pc none := by
  simp only [State.takeLate, none_open_of_all_done hdone, hfault, hsup, Bool.false_and, Bool.false_eq_true, if_false]

theorem State.takeRefusal_eq_take {r : Pending} (hr : (s.ctx t).refusal = some r) (hsup : (s.ctx t).sup = false) :
    s.takeRefusal t =
      ((s.landThese t (fun _ => true)).modCtx t (fun y => { y with refusal := none })).take t
        { cause := cPosted, tval := r.addr, loge := r.entry } false (s.ctx t).pc (s.ctx t).pc (some r) := by
  simp only [State.takeRefusal, none_open_of_all_done hdone, hr, hsup, Bool.or_false, Bool.false_eq_true, if_false]

end

/-! ## The obligation -/

/-- Settles O52: landing leaves what the entry asks for, and each clause is one case of `take`. -/
theorem faultsAreDelivered : Obligations.Faults_are_delivered := by
  unfold Obligations.Faults_are_delivered
  intro s t k e p r x fi f s1 done exact_ late rpc alone s2 replay enter cause rec_ room
  have land1 : s.landed s1 t := s.landed_landThese t _
  have land2 : s.landed s2 t := s.landed_dropPend t p
  have handled (hsup : x.sup = false) (hvec : f.tvec ≠ 0) : s.handles t = true := (s.handles_iff t).mpr ⟨hsup, hvec⟩
  have hreplay : replay ↔ replayable e.cause = true := (replayable_iff e.cause).symm
  have hrec (l : Bool) (act : Nat) (a b : Word) :
      s.replayRecord t e l act a b = rec_ l.toNat act a b (if x.sup then x.tcause else 0) := rfl
  refine ⟨?exactEnters, ?lateEnters, ?exactReplays, ?lateReplays, ?refusal, ?parks, ?parksUnrecorded, ?fatal⟩
  case exactEnters =>
    rintro ⟨hdone, hlate, hposted⟩ hsup hvec hctx hrep
    rw [State.takeExact_eq_take hdone hlate hposted,
      State.take_enters _ _ _ _ hctx ((not_congr hreplay).mp hrep) (land1.handles_eq.trans (handled hsup hvec)),
      land1.field_eq, causeWord_eq]
    rfl
  case lateEnters =>
    rintro ⟨hdone, hfault, hlevel⟩ hsup hvec hctx hrep
    rw [State.takeLate_eq_take hdone hfault hlevel,
      State.take_enters _ _ _ _ hctx ((not_congr hreplay).mp hrep) (land2.handles_eq.trans (handled hsup hvec)),
      land2.field_eq, causeWord_eq]
    rfl
  case exactReplays =>
    rintro ⟨hdone, hlate, hposted⟩ hsup hvec hrep hroom
    rw [State.takeExact_eq_take hdone hlate hposted,
      State.take_enters_with_record _ _ _ _ (hreplay.mp hrep) (land1.handles_eq.trans (handled hsup hvec))
        (by rwa [land1.field_eq]),
      land1.field_eq, land1.lone_eq, land1.replayRecord_eq, hrec, if_neg (Bool.eq_false_iff.mp hsup), causeWord_eq]
    rfl
  case lateReplays =>
    rintro ⟨hdone, hfault, hlevel⟩ hsup hvec hrep hroom
    rw [State.takeLate_eq_take hdone hfault hlevel,
      State.take_enters_with_record _ _ _ _ (hreplay.mp hrep) (land2.handles_eq.trans (handled hsup hvec))
        (by rwa [land2.field_eq]),
      land2.field_eq, land2.replayRecord_eq, hrec, if_neg (Bool.eq_false_iff.mp hsup), causeWord_eq]
    rfl
  case refusal =>
    intro hr hdone hsup hvec
    have hhandles : (s1.modCtx t (fun y => { y with refusal := none })).handles t = true := by
      rw [← handled hsup hvec, ← land1.handles_eq, State.handles, State.ctx_modCtx]
      rfl
    rw [State.takeRefusal_eq_take hdone hr hsup,
      State.take_enters (e := { cause := cPosted, tval := r.addr, loge := r.entry }) _ _ _ _
        (show cPosted ≠ cContext by decide) (show ¬ replayable cPosted = true by decide) hhandles,
      State.field_modCtx, land1.field_eq, causeWord_refusal]
    rfl
  case parks =>
    rintro ⟨hdone, hlate, hposted⟩ hnone hrep hroom
    rw [State.takeExact_eq_take hdone hlate hposted,
      State.take_parks_with_record _ _ _ _ (hreplay.mp hrep)
        (land1.handles_eq.trans ((s.handles_eq_false_iff t).mpr hnone)) (by rwa [land1.field_eq]),
      State.parkReplay_exact (by rw [State.ctx_writeRecord, land1.pc_eq]), land1.replayRecord_eq, hrec]
    rfl
  case parksUnrecorded =>
    rintro ⟨hdone, hlate, hposted⟩ hrep hfull
    rw [State.takeExact_eq_take hdone hlate hposted,
      State.take_parks_without_record _ _ _ _ (hreplay.mp hrep) (by rwa [land1.field_eq]),
      State.parkReplay_exact land1.pc_eq]
  case fatal =>
    rintro ⟨hdone, hlate, hposted⟩ hnone hrep
    rw [← or_assoc, ← s.handles_eq_false_iff t, ← land1.handles_eq] at hnone
    rw [State.takeExact_eq_take hdone hlate hposted, State.take_fatal _ _ _ _ ((not_congr hreplay).mp hrep) hnone]

end Sys2Proof.Machine
end

section
/-! The words of the instructions (R137, R152, R153, R368): the encoder and the decoder are inverse to each other, for
the 96-bit words of threads and the 32-bit words of capability instructions. -/

namespace Sys2Proof

/-! ## Bytes -/

theorem leBytes_leNat (bs : List Byte) : leBytes bs.length (leNat bs) = bs := by
  induction bs with
  | nil => rfl
  | cons b bs ih =>
    have hb : (b.toNat + 256 * leNat bs) / 256 = leNat bs := by have := b.isLt; omega
    simp only [List.length_cons, leNat, leBytes, hb, ih, List.cons.injEq, and_true]
    exact BitVec.eq_of_toNat_eq (by rw [BitVec.toNat_ofNat]; have := b.isLt; omega)

theorem leNat_lt (bs : List Byte) : leNat bs < 256 ^ bs.length := by
  induction bs with
  | nil => exact Nat.one_pos
  | cons b bs ih =>
    have hb := b.isLt
    rw [List.length_cons, Nat.pow_succ, leNat]
    omega

/-- Enough bytes are those of the number that they hold, and what follows. -/
theorem leBytes_take_append {bs : List Byte} {n : Nat} (h : n ≤ bs.length) :
    leBytes n (BitVec.ofNat (8 * n) (leNat (bs.take n))).toNat ++ bs.drop n = bs := by
  have hl : (bs.take n).length = n := List.length_take_of_le h
  have hlt : leNat (bs.take n) < 2 ^ (8 * n) := by
    have := leNat_lt (bs.take n)
    rwa [hl, show (256 : Nat) = 2 ^ 8 from rfl, ← Nat.pow_mul] at this
  have hbytes : leBytes n (leNat (bs.take n)) = bs.take n := by
    have := leBytes_leNat (bs.take n)
    rwa [hl] at this
  rw [BitVec.toNat_ofNat, Nat.mod_eq_of_lt hlt, hbytes, List.take_append_drop]

/-! ## The word of a thread instruction and its fields -/

theorem Op.opc_lt (o : Op) : o.row.opc < 2 ^ 8 := by cases o <;> decide

/-- Every mnemonic stands under its major opcode (R152). -/
theorem Op.mem_opsOf (o : Op) : o ∈ opsOf o.row.opc := by cases o <;> decide

@[simp] theorem wordFields_word (o : Op) (f : Fields) : wordFields (o.word f) = f := by
  obtain ⟨guard, la, dst, sa, sb, ty, mod, hint, sub, imm⟩ := f
  simp only [wordFields, Op.word, Fields.mk.injEq]
  refine ⟨?_, ?_, ?_, ?_, ?_, ?_, ?_, ?_, ?_, ?_⟩
  all_goals
    repeat rw [BitVec.extractLsb'_append_eq_of_le (by decide)]
    exact BitVec.extractLsb'_append_eq_right

theorem wordOp_word (o : Op) (f : Fields) : wordOp (o.word f) = BitVec.ofNat 8 o.row.opc := by
  simp only [wordOp, Op.word]
  repeat rw [BitVec.extractLsb'_append_eq_of_le (by decide)]
  exact BitVec.extractLsb'_eq_self

@[simp] theorem toNat_wordOp_word (o : Op) (f : Fields) : (wordOp (o.word f)).toNat = o.row.opc := by
  rw [wordOp_word, BitVec.toNat_ofNat, Nat.mod_eq_of_lt o.opc_lt]

/-- No bit of a word is lost between its opcode and its fields. -/
theorem word_wordFields {o : Op} {w : BitVec 96} (h : o.row.opc = (wordOp w).toNat) : o.word (wordFields w) = w := by
  rw [Op.word, h, BitVec.ofNat_toNat, BitVec.setWidth_eq]
  simp only [wordFields, wordOp]
  repeat rw [BitVec.extractLsb'_append_extractLsb'_eq_extractLsb' (by decide)]
  exact BitVec.extractLsb'_eq_self

/-! ## Decoding a thread instruction -/

theorem instr_of_thread? {i : Instr} {o : Op} {f : Fields} (h : i.thread? = some (o, f)) : i = o.instr f := by
  cases i <;> cases h <;> rfl

theorem wellFormed_instr (o : Op) (f : Fields) :
    WellFormed (o.instr f) ↔ o.row.subs.contains f.sub.toNat = true ∧ o.row.legal f = true := by
  simp only [WellFormed, Instr.wellFormed, thread?_instr, Bool.and_eq_true]

/-- The fields of a well-formed instruction are legal under its major opcode. -/
theorem accepts_of_wellFormed {o : Op} {f : Fields} (h : WellFormed (o.instr f)) : o.accepts o.row.opc f = true := by
  obtain ⟨hsub, hlegal⟩ := (wellFormed_instr o f).mp h
  simp only [Op.accepts, beq_self_eq_true, hsub, hlegal, Bool.and_self]

/-- The word of a well-formed instruction decodes to it: no other mnemonic of its opcode accepts its fields. -/
theorem decodeThread_word {o : Op} {f : Fields} (h : WellFormed (o.instr f)) :
    decodeThread (o.word f) = some (o.instr f) := by
  have hacc := accepts_of_wellFormed h
  have hfind : wordMnemonic (o.word f) = some o := by
    simp only [wordMnemonic, wordFields_word, toNat_wordOp_word]
    cases hf : (opsOf o.row.opc).find? (fun p => p.accepts o.row.opc f) with
    | none => exact absurd hacc (List.find?_eq_none.mp hf o o.mem_opsOf)
    | some p =>
      have hp : p.accepts o.row.opc f = true := by simpa using List.find?_some hf
      rw [Laws.Unambiguous.of_op o f o f (thread?_instr o f) p (List.mem_of_find?_eq_some hf) hacc hp]
  simp only [decodeThread, hfind, Option.map_some, wordFields_word]

/-- A word that decodes is the word of its instruction. -/
theorem word_of_decodeThread {w : BitVec 96} {i : Instr} (h : decodeThread w = some i) :
    ∃ (o : Op) (f : Fields), i = o.instr f ∧ o.word f = w := by
  obtain ⟨o, hi, -, hacc⟩ := decodeThread_some h
  simp only [Op.accepts, Bool.and_eq_true, beq_iff_eq] at hacc
  exact ⟨o, wordFields w, hi, word_wordFields hacc.1.1⟩

@[simp] theorem encode_instr (o : Op) (f : Fields) : encode (o.instr f) = leBytes 12 (o.word f).toNat := by
  simp only [encode, thread?_instr]

theorem decode_some {bs rest : List Byte} {i : Instr} (h : decode bs = some (i, rest)) :
    12 ≤ bs.length ∧ decodeThread (BitVec.ofNat 96 (leNat (bs.take 12))) = some i ∧ rest = bs.drop 12 := by
  unfold decode at h
  split at h
  · cases h
  · rename_i hlen
    obtain ⟨j, hj, hpair⟩ := Option.map_eq_some_iff.mp h
    cases hpair
    exact ⟨Nat.le_of_not_lt hlen, hj, rfl⟩

/-- Settles O1: the decoder reads the word whose bytes stand first, and that word is legal for one mnemonic only. -/
theorem threadWordsRoundTrip : Obligations.Thread_words_round_trip := by
  unfold Obligations.Thread_words_round_trip
  intro i rest hi hwf
  obtain ⟨⟨o, f⟩, hof⟩ := Option.isSome_iff_exists.mp hi
  obtain rfl := instr_of_thread? hof
  rw [encode_instr, decode_leBytes, decodeThread_word hwf]
  rfl

/-- Settles O2: what decodes is well-formed, and its word is put together again from the fields that were read. -/
theorem threadDecodingIsExact : Obligations.Thread_decoding_is_exact := by
  unfold Obligations.Thread_decoding_is_exact
  intro bs i rest h
  obtain ⟨hlen, hdec, rfl⟩ := decode_some h
  obtain ⟨o, f, rfl, hword⟩ := word_of_decodeThread hdec
  refine ⟨by rw [thread?_instr]; rfl, wellFormed_of_decode hdec, ?_⟩
  rw [encode_instr, hword]
  exact (leBytes_take_append hlen).symm

/-! ## Capability instructions (R368) -/

theorem zopOf_funct7 (o : ZOp) : zopOf o.funct7 = some o := by cases o <;> rfl

theorem ZOp.funct7_lt (o : ZOp) : o.funct7 < 2 ^ 7 := by cases o <;> decide

theorem funct7_of_zopOf {n : Nat} {o : ZOp} (h : zopOf n = some o) : o.funct7 = n := by
  unfold zopOf at h
  split at h <;> cases h <;> rfl

theorem zenith_of_zenith? {i : Instr} {o : ZOp} {z : ZFields} (h : i.zenith? = some (o, z)) : i = o.instr z := by
  cases i <;> cases h <;> rfl

@[simp] theorem zenith?_instr (o : ZOp) (z : ZFields) : (o.instr z).zenith? = some (o, z) := by cases o <;> rfl

@[simp] theorem thread?_zenith (o : ZOp) (z : ZFields) : (o.instr z).thread? = none := by cases o <;> rfl

theorem wellFormed_zenith (o : ZOp) (z : ZFields) : WellFormed (o.instr z) ↔ (o.hasRd || z.rd == 0#5) = true := by
  simp only [WellFormed, Instr.wellFormed, thread?_zenith, zenith?_instr]

@[simp] theorem wordZFields_word (o : ZOp) (z : ZFields) : wordZFields (o.word z) = z := by
  obtain ⟨rd, rs1, rs2⟩ := z
  simp only [wordZFields, ZOp.word, ZFields.mk.injEq]
  refine ⟨?_, ?_, ?_⟩
  all_goals
    repeat rw [BitVec.extractLsb'_append_eq_of_le (by decide)]
    exact BitVec.extractLsb'_append_eq_right

/-- The opcode, funct3 and funct7 of the word of a capability instruction. -/
theorem codes_zword (o : ZOp) (z : ZFields) : (o.word z).extractLsb' 0 7 = 0x0B#7 ∧ (o.word z).extractLsb' 12 3 = 0#3 ∧
    ((o.word z).extractLsb' 25 7).toNat = o.funct7 := by
  have hfunct7 : (o.word z).extractLsb' 25 7 = BitVec.ofNat 7 o.funct7 := by
    rw [ZOp.word]
    repeat rw [BitVec.extractLsb'_append_eq_of_le (by decide)]
    exact BitVec.extractLsb'_eq_self
  refine ⟨BitVec.extractLsb'_append_eq_right, ?_, ?_⟩
  · rw [ZOp.word]
    repeat rw [BitVec.extractLsb'_append_eq_of_le (by decide)]
    exact BitVec.extractLsb'_append_eq_right
  · rw [hfunct7, BitVec.toNat_ofNat, Nat.mod_eq_of_lt o.funct7_lt]

theorem decodeZenith_word {o : ZOp} {z : ZFields} (h : WellFormed (o.instr z)) :
    decodeZenith (o.word z) = some (o.instr z) := by
  obtain ⟨hop, hf3, hf7⟩ := codes_zword o z
  simp only [decodeZenith, isCustom0, hop, hf3, beq_self_eq_true, Bool.and_self, if_true, hf7, zopOf_funct7,
    wordZFields_word, (wellFormed_zenith o z).mp h]

/-- A hart's word that decodes is the word of one well-formed capability instruction. -/
theorem word_of_decodeZenith {w : BitVec 32} {i : Instr} (h : decodeZenith w = some i) :
    ∃ (o : ZOp) (z : ZFields), i = o.instr z ∧ WellFormed i ∧ o.word z = w := by
  unfold decodeZenith at h
  split at h
  · rename_i hcodes
    simp only [isCustom0, Bool.and_eq_true, beq_iff_eq] at hcodes
    split at h
    · rename_i o ho
      dsimp only at h
      split at h
      · rename_i hrd
        cases h
        refine ⟨o, wordZFields w, rfl, (wellFormed_zenith _ _).mpr hrd, ?_⟩
        rw [ZOp.word, funct7_of_zopOf ho, BitVec.ofNat_toNat, BitVec.setWidth_eq, ← hcodes.1, ← hcodes.2]
        simp only [wordZFields]
        repeat rw [BitVec.extractLsb'_append_extractLsb'_eq_extractLsb' (by decide)]
        exact BitVec.extractLsb'_eq_self
      · cases h
    · cases h
  · cases h

@[simp] theorem encode_zenith (o : ZOp) (z : ZFields) : encode (o.instr z) = leBytes 4 (o.word z).toNat := by
  simp only [encode, thread?_zenith, zenith?_instr]

theorem decodeHart_some {bs rest : List Byte} {i : Instr} (h : decodeHart bs = some (i, rest)) :
    4 ≤ bs.length ∧ decodeZenith (BitVec.ofNat 32 (leNat (bs.take 4))) = some i ∧ rest = bs.drop 4 := by
  unfold decodeHart at h
  split at h
  · cases h
  · rename_i hlen
    obtain ⟨j, hj, hpair⟩ := Option.map_eq_some_iff.mp h
    cases hpair
    exact ⟨Nat.le_of_not_lt hlen, hj, rfl⟩

/-- Settles O3: one word for each well-formed capability instruction, and no other word decodes. -/
theorem capabilityWordsRoundTrip : Obligations.Capability_words_round_trip := by
  unfold Obligations.Capability_words_round_trip
  refine ⟨fun i rest hi hwf => ?_, fun bs i rest h => ?_⟩
  · obtain ⟨⟨o, z⟩, hoz⟩ := Option.isSome_iff_exists.mp hi
    obtain rfl := zenith_of_zenith? hoz
    rw [encode_zenith, decodeHart_leBytes, decodeZenith_word hwf]
    rfl
  · obtain ⟨hlen, hdec, rfl⟩ := decodeHart_some h
    obtain ⟨o, z, rfl, hwf, hword⟩ := word_of_decodeZenith hdec
    refine ⟨by rw [zenith?_instr]; rfl, hwf, ?_⟩
    rw [encode_zenith, hword]
    exact (leBytes_take_append hlen).symm

/-- Settles O60: the sample words are decoded one by one. -/
theorem sampleWordsDecode : Obligations.Sample_words_decode := by
  unfold Obligations.Sample_words_decode
  exact ⟨by decide +kernel, by decide +kernel, by decide +kernel⟩

end Sys2Proof
end

section
/-! Running an instruction: its body, with the fields it has when it re-executes alone, and the operands read in order. -/

namespace Sys2Proof.Machine

open Sys2Proof

/-! ## A body that does not look at its lookahead (R341) -/

/-- An instruction that re-executes alone has LA 0; a body that does not look at LA runs as ever. -/
theorem body_aloneFields {α : Type} {body : Fields → α} {f : Fields} (hla : body { f with la := 0 } = body f) (x : Ctx) :
    body (x.aloneFields f) = body f := by
  unfold Ctx.aloneFields
  split
  · exact hla
  · rfl

section
variable {op : Op} {body : Fields → M Ctl} {f : Fields} {s t : State} (hla : body { f with la := 0 } = body f)
  (h : s.admits op f)
include hla h

/-- A body that completes retires its instruction. -/
theorem issue_runs {ctl : Ctl} (hb : body f s = .ok ctl t) : issue op body f s = .next (t.retired s.cur ctl) :=
  issue_completes h (by rw [body_aloneFields hla, hb])

/-- The same for an instruction that leaves the state as another form of it. -/
theorem issue_runs' {ctl : Ctl} {u : State} (hb : body f s = .ok ctl t) (hu : t = u) :
    issue op body f s = .next (u.retired s.cur ctl) := hu ▸ issue_runs hla h hb

/-- An operand fault that a body finds is taken with bits [95:32] of the word. -/
theorem issue_runs_opFault (hb : body f s = .error (.exc { cause := cOperand, tval := 0 }) t) :
    issue op body f s = .next (s.faultsOperand op f) :=
  issue_faultsOperand h (by rw [body_aloneFields hla, hb])

/-- A body that waits and keeps what was done. -/
theorem issue_runs_waits (hb : body f s = .error .stallKeep t) : issue op body f s = .next t :=
  issue_waits h (by rw [body_aloneFields hla, hb])

end

/-! ## Operands read in order -/

theorem rdAll_one {x : Ctx} {imm : BitVec 32} {t : Nat} {c : BitVec 8} {s s1 : State} {vs : List Nat}
    (h : rdAll x imm [(t, c)] s = .ok vs s1) : ∃ v, vs = [v] ∧ rd x t imm c s = .ok v s1 := by
  obtain ⟨v, s', ws, hv, hrest, rfl⟩ := rdAll_cons h
  obtain ⟨rfl, rfl⟩ := rdAll_nil hrest
  exact ⟨v, rfl, hv⟩

theorem rdAll_two {x : Ctx} {imm : BitVec 32} {t u : Nat} {c d : BitVec 8} {s s2 : State} {vs : List Nat}
    (h : rdAll x imm [(t, c), (u, d)] s = .ok vs s2) :
    ∃ v w s1, vs = [v, w] ∧ rd x t imm c s = .ok v s1 ∧ rd x u imm d s1 = .ok w s2 := by
  obtain ⟨v, s1, ws, hv, hrest, rfl⟩ := rdAll_cons h
  obtain ⟨w, rfl, hw⟩ := rdAll_one hrest
  exact ⟨v, w, s1, rfl, hv, hw⟩

theorem rdAll_three {x : Ctx} {imm : BitVec 32} {t u r : Nat} {c d e : BitVec 8} {s s3 : State} {vs : List Nat}
    (h : rdAll x imm [(t, c), (u, d), (r, e)] s = .ok vs s3) :
    ∃ v w z s1 s2, vs = [v, w, z] ∧ rd x t imm c s = .ok v s1 ∧ rd x u imm d s1 = .ok w s2 ∧ rd x r imm e s2 = .ok z s3 := by
  obtain ⟨v, s1, ws, hv, hrest, rfl⟩ := rdAll_cons h
  obtain ⟨w, z, s2, rfl, hw, hz⟩ := rdAll_two hrest
  exact ⟨v, w, z, s1, s2, rfl, hv, hw, hz⟩

theorem rd64_of_rd {x : Ctx} {imm : BitVec 32} {c : BitVec 8} {n : Nat} {s s1 : State} (h : rd x 3 imm c s = .ok n s1) :
    rd64 x imm c s = .ok (w64 n) s1 := by
  simp only [rd64, M.run_bind_ok h, M.run_pure]

/-- Reading an operand leaves the contexts and which of them is executed. -/
theorem rdAll_me {x : Ctx} {imm : BitVec 32} {l : List (Nat × BitVec 8)} {vs : List Nat} {s s1 : State}
    (h : rdAll x imm l s = .ok vs s1) : s1.cur = s.cur ∧ s1.me = s.me := by
  have hcores := rdAll_frame h
  exact ⟨State.onlyCores_cur hcores, by rw [State.me, State.onlyCores_cur hcores, State.onlyCores_ctx hcores]; rfl⟩

end Sys2Proof.Machine
end

section
/-! Scalar instructions (R163 to R182): one lemma for each shape of body, and the tables of mnemonics. -/

namespace Sys2Proof.Machine

open Sys2Proof

/-! ## Bodies by shape -/

theorem scalar2_run {f : Fields} {g : Nat → Nat → Nat → Nat × Flags} {s s1 s2 : State} {vs : List Nat}
    (hr : rdAll s.me f.imm [(f.tyN, f.sa), (f.tyN, f.sb)] s = .ok vs s1)
    (hw : wr s.me f.tyN f.imm f.dst (g (s.me.mode f) (vs.getD 0 0) (vs.getD 1 0)).1 (s1.bumped [f.sa, f.sb, f.dst]) = .ok () s2) :
    scalar2 f g s = .ok .seq (s2.raiseFlags s2.cur (g (s.me.mode f) (vs.getD 0 0) (vs.getD 1 0)).2) := by
  obtain ⟨a, b, s', rfl, ha, hb⟩ := rdAll_two hr
  simp only [List.getD_cons_zero, List.getD_cons_succ] at hw
  simp only [scalar2, M.run_bind, M.run_getCtx, ha, hb, M.run_bump, hw, M.run_raiseFlags, M.run_pure, List.getD_cons_zero,
    List.getD_cons_succ]

theorem scalar1_run {f : Fields} {g : Nat → Nat → Nat × Flags} {s s1 s2 : State} {vs : List Nat}
    (hr : rdAll s.me f.imm [(f.tyN, f.sa)] s = .ok vs s1)
    (hw : wr s.me f.tyN f.imm f.dst (g (s.me.mode f) (vs.getD 0 0)).1 (s1.bumped [f.sa, f.dst]) = .ok () s2) :
    scalar1 f g s = .ok .seq (s2.raiseFlags s2.cur (g (s.me.mode f) (vs.getD 0 0)).2) := by
  obtain ⟨a, rfl, ha⟩ := rdAll_one hr
  simp only [List.getD_cons_zero] at hw
  simp only [scalar1, M.run_bind, M.run_getCtx, ha, M.run_bump, hw, M.run_raiseFlags, M.run_pure, List.getD_cons_zero]

/-- A row completes whose body does not look at LA and, its operands read and its result written, raises the flags. -/
theorem ScalarRow.completes {e : ScalarRow} {body : Fields → M Ctl}
    (hexec : ∀ f s, exec (e.op.instr f) s = issue e.op body f s) (hla : ∀ f, body { f with la := 0 } = body f)
    (hrun : ∀ (f : Fields) (s s1 s2 : State) (vs : List Nat), rdAll s.me f.imm (e.reads f) s = .ok vs s1 →
      wr s.me (e.dstTy f) f.imm f.dst (e.val f (s.me.mode f) vs).1 (s1.bumped (e.bumps f)) = .ok () s2 →
      body f s = .ok .seq (s2.raiseFlags s2.cur (e.val f (s.me.mode f) vs).2)) : e.Completes := by
  intro f s s1 s2 vs hadm hr hw
  rw [hexec]
  exact issue_runs (hla f) hadm (hrun f s s1 s2 vs hr hw)

theorem twoOperands_completes {op : Op} {val : Fields → Nat → Nat → Nat → Nat × Flags} {body : Fields → M Ctl}
    (hexec : ∀ f s, exec (op.instr f) s = issue op body f s) (hla : ∀ f, body { f with la := 0 } = body f)
    (hbody : ∀ f, body f = scalar2 f (val f)) : (twoOperands op val).Completes :=
  ScalarRow.completes hexec hla (fun f _ _ _ _ hr hw => by rw [hbody]; exact scalar2_run hr hw)

theorem oneOperand_completes {op : Op} {val : Fields → Nat → Nat → Nat × Flags} {body : Fields → M Ctl}
    (hexec : ∀ f s, exec (op.instr f) s = issue op body f s) (hla : ∀ f, body { f with la := 0 } = body f)
    (hbody : ∀ f, body f = scalar1 f (val f)) : (oneOperand op val).Completes :=
  ScalarRow.completes hexec hla (fun f _ _ _ _ hr hw => by rw [hbody]; exact scalar1_run hr hw)

/-! ## Short scalar instructions -/

theorem scalarTwo_completes : ∀ e ∈ scalarTwo, e.Completes := by
  simp only [scalarTwo, List.forall_mem_cons, List.not_mem_nil, false_implies, implies_true, and_true]
  exact ⟨twoOperands_completes exec_add (fun _ => rfl) (fun _ => rfl),
    twoOperands_completes exec_sub (fun _ => rfl) (fun _ => rfl),
    twoOperands_completes exec_mul (fun _ => rfl) (fun _ => rfl),
    twoOperands_completes exec_mulh (fun _ => rfl) (fun _ => rfl),
    twoOperands_completes exec_min (fun _ => rfl) (fun _ => rfl),
    twoOperands_completes exec_max (fun _ => rfl) (fun _ => rfl),
    twoOperands_completes exec_and (fun _ => rfl) (fun _ => rfl),
    twoOperands_completes exec_or (fun _ => rfl) (fun _ => rfl),
    twoOperands_completes exec_xor (fun _ => rfl) (fun _ => rfl),
    twoOperands_completes exec_andn (fun _ => rfl) (fun _ => rfl),
    twoOperands_completes exec_orn (fun _ => rfl) (fun _ => rfl),
    twoOperands_completes exec_shl (fun _ => rfl) (fun _ => rfl),
    twoOperands_completes exec_shr (fun _ => rfl) (fun _ => rfl),
    twoOperands_completes exec_sha (fun _ => rfl) (fun _ => rfl),
    twoOperands_completes exec_rol (fun _ => rfl) (fun _ => rfl),
    twoOperands_completes exec_sext (fun _ => rfl) (fun _ => rfl),
    twoOperands_completes exec_zext (fun _ => rfl) (fun _ => rfl)⟩

/-- CVT reads its operand under the type in SB (R175). -/
theorem cvt_completes : ({ oneOperand .cvt (fun f rm a => convert f.sb.toNat f.tyN f.sat rm a) with
    reads := fun f => [(f.sb.toNat, f.sa)] } : ScalarRow).Completes := by
  refine ScalarRow.completes (body := bodyCvt) exec_cvt (fun _ => rfl) (fun f s s1 s2 vs hr hw => ?_)
  obtain ⟨a, rfl, ha⟩ := rdAll_one hr
  simp only [oneOperand, List.getD_cons_zero] at hw ⊢
  simp only [bodyCvt, M.run_bind, M.run_getCtx, ha, M.run_bump, hw, M.run_raiseFlags, M.run_pure]

/-- CLASS writes a 64-bit word (R176). -/
theorem fclass_completes : ({ oneOperand .fclass (fun f _ a => ((w64 (2 ^ classOf (fmtOf f.tyN) a)).toNat, 0)) with
    dstTy := fun _ => 7 } : ScalarRow).Completes := by
  refine ScalarRow.completes (body := bodyFclass) exec_fclass (fun _ => rfl) (fun f s s1 s2 vs hr hw => ?_)
  obtain ⟨a, rfl, ha⟩ := rdAll_one hr
  simp only [oneOperand, List.getD_cons_zero] at hw ⊢
  simp only [bodyFclass, wr64, M.run_bind, M.run_getCtx, ha, M.run_bump, hw, M.run_pure, State.raiseFlags_zero]

theorem scalarOne_completes : ∀ e ∈ scalarOne, e.Completes := by
  simp only [scalarOne, List.forall_mem_cons, List.not_mem_nil, false_implies, implies_true, and_true]
  exact ⟨oneOperand_completes exec_neg (fun _ => rfl) (fun _ => rfl),
    oneOperand_completes exec_abs (fun _ => rfl) (fun _ => rfl),
    oneOperand_completes exec_not (fun _ => rfl) (fun _ => rfl),
    oneOperand_completes exec_clz (fun _ => rfl) (fun _ => rfl),
    oneOperand_completes exec_ctz (fun _ => rfl) (fun _ => rfl),
    oneOperand_completes exec_popc (fun _ => rfl) (fun _ => rfl),
    oneOperand_completes exec_brev (fun _ => rfl) (fun _ => rfl),
    oneOperand_completes exec_mov (fun _ => rfl) (fun _ => rfl),
    oneOperand_completes exec_rndi (fun _ => rfl) (fun _ => rfl),
    cvt_completes, fclass_completes⟩

/-- Settles O6: every row of the two tables is one of two shapes of body. -/
theorem scalarResults : Obligations.Scalar_results := by
  unfold Obligations.Scalar_results
  exact List.forall_mem_append.mpr ⟨scalarTwo_completes, scalarOne_completes⟩

/-! ## Bit fields, SEL, FMA and LEA -/

/-- Settles O7: each of the five reads its operands in order, a control word, a condition or a base at 64 bits. -/
theorem scalarMixedResults : Obligations.Scalar_mixed_results := by
  unfold Obligations.Scalar_mixed_results
  simp only [scalarMixed, List.forall_mem_cons, List.not_mem_nil, false_implies, implies_true, and_true]
  refine ⟨ScalarRow.completes exec_bfx (fun _ => rfl) (fun f s s1 s2 vs hr hw => ?bfx),
    ScalarRow.completes exec_bfi (fun _ => rfl) (fun f s s1 s2 vs hr hw => ?bfi),
    ScalarRow.completes exec_sel (fun _ => rfl) (fun f s s1 s2 vs hr hw => ?sel),
    ScalarRow.completes exec_fma (fun _ => rfl) (fun f s s1 s2 vs hr hw => ?fma),
    ScalarRow.completes exec_lea (fun _ => rfl) (fun f s s1 s2 vs hr hw => ?lea)⟩
  case bfx =>
    obtain ⟨a, c, _, rfl, ha, hc⟩ := rdAll_two hr
    simp only [List.getD_cons_zero, List.getD_cons_succ] at hw
    simp only [bodyBfx, M.run_bind, M.run_getCtx, ha, rd64_of_rd hc, M.run_bump, hw, M.run_pure, State.raiseFlags_zero]
  case bfi =>
    obtain ⟨a, c, old, _, _, rfl, ha, hc, hold⟩ := rdAll_three hr
    simp only [List.getD_cons_zero, List.getD_cons_succ] at hw
    simp only [bodyBfi, M.run_bind, M.run_getCtx, ha, rd64_of_rd hc, hold, M.run_bump, hw, M.run_pure,
      State.raiseFlags_zero]
  case sel =>
    obtain ⟨a, b, c, _, _, rfl, ha, hb, hc⟩ := rdAll_three hr
    simp only [List.getD_cons_zero, List.getD_cons_succ] at hw
    simp only [bodySel, M.run_bind, M.run_getCtx, ha, hb, rd64_of_rd hc, M.run_bump, hw, M.run_pure,
      State.raiseFlags_zero]
  case fma =>
    obtain ⟨a, b, c, _, _, rfl, ha, hb, hc⟩ := rdAll_three hr
    simp only [List.getD_cons_zero, List.getD_cons_succ] at hw ⊢
    simp only [bodyFma, M.run_bind, M.run_getCtx, ha, hb, hc, M.run_bump, hw, M.run_raiseFlags, M.run_pure]
  case lea =>
    obtain ⟨a, b, _, rfl, ha, hb⟩ := rdAll_two hr
    simp only [List.getD_cons_zero, List.getD_cons_succ] at hw
    simp only [bodyLea, wr64, M.run_bind, M.run_getCtx, rd64_of_rd ha, rd64_of_rd hb, M.run_bump, hw, M.run_pure,
      State.raiseFlags_zero]

/-! ## DIV, REM and SQRT -/

/-- A long-latency body with two operands: what it computes waits for its landing point. -/
theorem scalarLong2_run {f : Fields} {g : Nat → Nat → Nat → Nat × Flags} {s s1 : State} {a b : Nat}
    (hr : rdAll s.me f.imm [(f.tyN, f.sa), (f.tyN, f.sb)] s = .ok [a, b] s1) :
    scalarLong2 f g s = .ok .seq ((s1.bumped [f.sa, f.sb]).awaits f.la.toNat
      (.scalar (s.me.slotOf f.dst) (extendTy f.tyN (g (s.me.mode f) a b).1)) (g (s.me.mode f) a b).2) := by
  obtain ⟨_, _, s', ⟨⟩, ha, hb⟩ := rdAll_two hr
  simp only [scalarLong2, M.run_bind, M.run_getCtx, ha, hb, M.run_bump, M.run_pushPend, M.run_pure]

/-- The same with the lookahead that the instruction has when it re-executes alone. -/
theorem issue_scalarLong2 {op : Op} {body : Fields → M Ctl} {f : Fields} {g : Nat → Nat → Nat → Nat × Flags}
    {s s1 : State} {a b : Nat} (hbody : ∀ x : Ctx, body (x.aloneFields f) = scalarLong2 (x.aloneFields f) g)
    (hadm : s.admits op f) (hr : rdAll s.me f.imm [(f.tyN, f.sa), (f.tyN, f.sb)] s = .ok [a, b] s1) :
    issue op body f s = .next (((s1.bumped [f.sa, f.sb]).awaits (s.laOf f)
      (.scalar (s.me.slotOf f.dst) (extendTy f.tyN (g (s.me.mode f) a b).1)) (g (s.me.mode f) a b).2).retired s.cur .seq) := by
  refine issue_completes' hadm ((congrFun (hbody s.me) s).trans
    (scalarLong2_run (f := s.me.aloneFields f) (by simpa only [Ctx.aloneFields_tyN, Ctx.aloneFields_imm,
      Ctx.aloneFields_sa, Ctx.aloneFields_sb] using hr))) ?_
  simp only [Ctx.aloneFields_tyN, Ctx.aloneFields_sa, Ctx.aloneFields_sb, Ctx.aloneFields_dst, Ctx.mode_aloneFields,
    State.laOf]

/-- Settles O8: the three bodies enter their value, computed at issue, in the list of results on their way. -/
theorem scalarLongResults : Obligations.Scalar_long_results := by
  unfold Obligations.Scalar_long_results
  intro f s s1 a b
  refine ⟨fun hadm hr => ?div, fun hadm hr => ?rem, fun hadm hr => ?sqrt⟩
  case div =>
    exact issue_scalarLong2 (g := fun rm a b => byType f.tyN (intDiv f.tyN a b) (fdiv (fmtOf f.tyN) rm a b))
      (fun x => by simp only [bodyDiv, Ctx.aloneFields_tyN]) hadm hr
  case rem =>
    exact issue_scalarLong2 (g := fun _ a b => byType f.tyN (intRem f.tyN a b) (frem (fmtOf f.tyN) a b))
      (fun x => by simp only [bodyRem, Ctx.aloneFields_tyN]) hadm hr
  case sqrt =>
    obtain ⟨_, ⟨⟩, ha⟩ := rdAll_one hr
    refine issue_completes hadm ?_
    simp only [bodySqrt, Ctx.aloneFields_tyN, Ctx.aloneFields_imm, Ctx.aloneFields_sa, Ctx.aloneFields_dst,
      Ctx.mode_aloneFields, M.run_bind, M.run_getCtx, ha, M.run_bump, M.run_pushPend, M.run_pure]
    rfl

/-! ## Moves and address registers -/

/-- Settles O9: each body run, MOVS after its value is judged. -/
theorem registerMoves : Obligations.Register_moves := by
  unfold Obligations.Register_moves
  intro f s s1 a b
  refine ⟨fun hadm => ?movi, fun hadm => ?movh, fun hadm hw => ?movsRead, fun hadm hr hok => ?movsWrite,
    fun hadm hr => ?amov, fun hadm hr => ?astr, fun hadm hr => ?aadv⟩
  case movi => exact issue_runs rfl hadm rfl
  case movh => exact issue_runs rfl hadm rfl
  case movsRead =>
    refine issue_runs rfl hadm ?_
    simp only [bodyMovsRead, M.run_bind, M.run_getCtx, M.run_bump, hw, M.run_pure]
  case movsWrite =>
    refine issue_runs rfl hadm ?_
    simp only [bodyMovsWrite, M.run_bind, M.run_getCtx, rd64_of_rdAll hr, M.run_needOp, hok, if_true, M.run_bump,
      M.run_modCtx, M.run_pure]
  case amov =>
    obtain ⟨_, _, _, ⟨⟩, ha, hb⟩ := rdAll_two hr
    refine issue_runs rfl hadm ?_
    simp only [bodyAmov, M.run_bind, M.run_getCtx, rd64_of_rd ha, rd64_of_rd hb, M.run_bump, M.run_modCtx, M.run_pure]
  case astr =>
    refine issue_runs rfl hadm ?_
    simp only [bodyAstr, M.run_bind, M.run_getCtx, rd64_of_rdAll hr, M.run_bump, M.run_modCtx, M.run_pure]
  case aadv =>
    refine issue_runs rfl hadm ?_
    simp only [bodyAadv, M.run_bind, M.run_getCtx, rd64_of_rdAll hr, M.run_bump, M.run_modCtx, M.run_pure]

/-! ## Truth values -/

theorem truth2_run {f : Fields} {g : Nat → Nat → Bool × Flags} {s s1 : State} {a b : Nat}
    (hr : rdAll s.me f.imm [(f.tyN, f.sa), (f.tyN, f.sb)] s = .ok [a, b] s1) :
    truth2 f g s = .ok .seq (((s1.bumped [f.sa, f.sb]).onMe (fun y =>
      y.setSlot (s.me.slotOf f.dst) (b2w (g a b).1))).raiseFlags s1.cur (g a b).2) := by
  obtain ⟨_, _, s', ⟨⟩, ha, hb⟩ := rdAll_two hr
  simp only [truth2, M.run_bind, M.run_getCtx, ha, hb, M.run_bump, M.run_modCtx, M.run_raiseFlags, M.run_pure]
  rfl

/-- Settles O10: CMP and TEST are `truth2`, and a predicate operation writes one predicate. -/
theorem truthValues : Obligations.Truth_values := by
  unfold Obligations.Truth_values
  intro f s s1 a b
  refine ⟨fun hadm hr => ?cmp, fun hadm hr => ?test, fun hadm => ?pand, fun hadm => ?por, fun hadm => ?pxor,
    fun hadm => ?pnot, fun hadm hr => ?pmov⟩
  case cmp => exact issue_runs rfl hadm (truth2_run hr)
  case test => exact issue_runs rfl hadm ((truth2_run hr).trans (by rw [State.raiseFlags_zero]))
  case pand => exact issue_runs rfl hadm rfl
  case por => exact issue_runs rfl hadm rfl
  case pxor => exact issue_runs rfl hadm rfl
  case pnot => exact issue_runs rfl hadm rfl
  case pmov =>
    refine issue_runs rfl hadm ?_
    simp only [bodyPmov, M.run_bind, M.run_getCtx, rd64_of_rdAll hr, M.run_bump, M.run_modCtx, M.run_pure]

end Sys2Proof.Machine
end

section
/-! Branches, calls with a register window, returns, and the instructions that wait for landing (R183 to R185, R190). -/

namespace Sys2Proof.Machine

open Sys2Proof

/-! ## Calls (R184) -/

theorem callTo_moves {f : Fields} {s : State} (target : Word) (hroom : s.me.wb + frameSize f - 8 ≤ 456) :
    callTo f target s = .ok (.goto target) (s.onMe (fun y => { y with wb := s.me.wb + frameSize f - 8 }.setX f.dst.toNat
      (nextPc s.me.pc))) := by
  simp only [callTo, M.run_bind, M.run_getCtx, M.run_needOp, decide_eq_true hroom, if_true, M.run_modCtx, M.run_pure]

theorem callTo_overflows {f : Fields} {s : State} (target : Word) (hfull : 456 < s.me.wb + frameSize f - 8) :
    callTo f target s = .error (.exc { cause := cOperand, tval := 0 }) s := by
  simp only [callTo, M.run_bind, M.run_getCtx, M.run_needOp, decide_eq_false (Nat.not_le.mpr hfull), Bool.false_eq_true,
    if_false]

/-- RET moves the window back and goes to its operand (R185). -/
theorem bodyRet_moves {f : Fields} {s s1 : State} {a : Nat} (hr : rdAll s.me f.imm [(3, f.sa)] s = .ok [a] s1)
    (hroom : frameSize f - 8 ≤ s.me.wb) :
    bodyRet f s = .ok (.jump (w64 a)) (s1.onMe (fun y => { y with wb := s.me.wb - (frameSize f - 8) })) := by
  simp only [bodyRet, M.run_bind, M.run_getCtx, rd64_of_rdAll hr, M.run_needOp, ge_iff_le, decide_eq_true hroom, if_true,
    M.run_modCtx, M.run_pure]

theorem bodyRet_underflows {f : Fields} {s s1 : State} {a : Nat} (hr : rdAll s.me f.imm [(3, f.sa)] s = .ok [a] s1)
    (hempty : s.me.wb < frameSize f - 8) : bodyRet f s = .error (.exc { cause := cOperand, tval := 0 }) s1 := by
  simp only [bodyRet, M.run_bind, M.run_getCtx, rd64_of_rdAll hr, M.run_needOp, ge_iff_le,
    decide_eq_false (Nat.not_le.mpr hempty), Bool.false_eq_true, if_false]

/-- Settles O11: the targets are those of the bodies, and the window is judged before it moves. -/
theorem branchesAndCalls : Obligations.Branches_and_calls := by
  unfold Obligations.Branches_and_calls
  intro f s s1 a F
  refine ⟨fun hadm => ?br, fun hadm hr => ?brx, fun hadm hroom => ?call, fun hadm hr hroom => ?callx,
    fun hadm hr hroom => ?ret, fun hadm hfull => ?callFull, fun hadm hr hfull => ?callxFull,
    fun hadm hr hempty => ?retEmpty⟩
  case br => exact issue_runs rfl hadm rfl
  case brx =>
    refine issue_runs rfl hadm ?_
    simp only [bodyBrx, M.run_bind, M.run_getCtx, rd64_of_rdAll hr, M.run_pure]
  case call =>
    refine issue_runs rfl hadm ?_
    rw [bodyCall, M.run_bind_ok (M.run_getCtx s)]
    exact callTo_moves _ hroom
  case callx =>
    refine issue_runs rfl hadm ?_
    simp only [bodyCallx, M.run_bind, M.run_getCtx, rd64_of_rdAll hr]
    exact callTo_moves _ hroom
  case ret => exact issue_runs rfl hadm (bodyRet_moves hr hroom)
  case callFull =>
    refine issue_runs_opFault (t := s) rfl hadm ?_
    rw [bodyCall, M.run_bind_ok (M.run_getCtx s)]
    exact callTo_overflows _ hfull
  case callxFull =>
    refine issue_runs_opFault (t := s1) rfl hadm ?_
    simp only [bodyCallx, M.run_bind, M.run_getCtx, rd64_of_rdAll hr]
    exact callTo_overflows _ hfull
  case retEmpty => exact issue_runs_opFault rfl hadm (bodyRet_underflows hr hempty)

/-! ## Waiting for landing (R190) -/

/-- Nothing of the thread is open and nothing has failed: all lands at once. -/
theorem landAll_lands {s : State} (h : s.me.pend.all (fun p => p.done && p.fault.isNone) = true) :
    landAll s = .ok () (s.landThese s.cur (fun _ => true)) := by
  rw [List.all_eq_true] at h
  have hdone : s.me.pend.all (fun p => p.done) = true :=
    List.all_eq_true.mpr fun p hp => (Bool.and_eq_true_iff.mp (h p hp)).1
  have hlate : s.me.pend.any s.me.lateDue = false := by
    refine List.any_eq_false.mpr fun p hp => ?_
    have hnone := (Bool.and_eq_true_iff.mp (h p hp)).2
    simp [Ctx.lateDue, Option.isNone_iff_eq_none.mp hnone]
  simp only [landAll, M.run_bind, M.run_getCtx, M.run_waitFor, hdone, hlate, if_true, Bool.false_eq_true, if_false,
    M.run_act]

/-- After landing, YIELD gives its slot to a ready context whose slot priority is not below its own. -/
theorem bodyYield_run {f : Fields} {s s1 : State} (hland : landAll s = .ok () s1) :
    bodyYield f s = .ok .seq (if (ctxsOf (coreOf s1.cur)).any (fun t =>
      (s1.ctx t).st == .ready && decide ((s1.ctx t).slotPri ≥ s1.me.pri)) then s1.toReady s1.cur else s1) := by
  simp only [bodyYield, M.run_bind, hland, M.run_ask, M.run_getCtx]
  split <;> rfl

/-- Settles O13: WAITL and YIELD land what is complete, and YIELD then looks for a ready context. -/
theorem nopWaitlYield : Obligations.Nop_waitl_yield := by
  unfold Obligations.Nop_waitl_yield
  intro f s s1 other
  refine ⟨fun hadm => ?nop, fun hadm hall => ?waitl, fun hadm hall => ?yield⟩
  case nop => exact issue_runs rfl hadm rfl
  case waitl =>
    refine issue_runs rfl hadm ?_
    simp only [bodyWaitl, M.run_bind, landAll_lands hall, M.run_pure]
    rfl
  case yield => exact issue_runs rfl hadm (bodyYield_run (landAll_lands hall))

end Sys2Proof.Machine
end

section
/-! Vector instructions (R191 to R213): the ends that their bodies share, and each mnemonic run up to its end. -/

namespace Sys2Proof.Machine

open Sys2Proof

/-! ## Ends of vector bodies -/

/-- Lanes that raise no flag raise none together. -/
theorem laneFlags_zero (l : Nat) (on : Nat → Bool) (res : Nat → Nat) : laneFlags l on (fun i => (res i, 0)) = 0 := by
  unfold laneFlags
  induction List.range l with
  | nil => rfl
  | cons i is ih =>
    rw [List.foldl_cons, show (if on i then (0 : Flags) ||| 0 else 0) = 0 by split <;> rfl]
    exact ih

theorem vecEnd_run {x : Ctx} {f : Fields} {n : Nat} {codes : List (BitVec 8)} {on : Nat → Bool} {g : Nat → Nat × Flags}
    {s s1 : State} (hw : wrV x f.imm f.dst n on (fun i => (g i).1) (s.bumped codes) = .ok () s1) :
    vecEnd x f n codes on g s = .ok .seq (s1.raiseFlags s1.cur (laneFlags (lanesOf n) on g)) := by
  simp only [vecEnd, M.run_bind, M.run_bump, hw, M.run_raiseFlags, M.run_pure]

/-- The same for lanes that raise no flag. -/
theorem vecEnd_run_plain {x : Ctx} {f : Fields} {n : Nat} {codes : List (BitVec 8)} {on : Nat → Bool} {res : Nat → Nat}
    {s s1 : State} (hw : wrV x f.imm f.dst n on res (s.bumped codes) = .ok () s1) :
    vecEnd x f n codes on (fun i => (res i, 0)) s = .ok .seq s1 := by
  rw [vecEnd_run (g := fun i => (res i, 0)) hw, laneFlags_zero, State.raiseFlags_zero]

/-- A long-latency end: the whole vector waits for its landing point, for the register that DST names. -/
theorem vecLong_run (x : Ctx) (f : Fields) (codes : List (BitVec 8)) (g : Nat → Nat × Flags) (s : State) :
    vecLong x f codes g s = .ok .seq ((s.bumped codes).awaits f.la.toNat
      (.vector (f.dst.toNat - 0x40) (BitVec.allOnes 512) (mergeLanes (tyWidth f.tyN) (x.v (f.dst.toNat - 0x40)).toNat
        (x.laneOn f) (fun i => (g i).1))) (laneFlags (lanesOf (tyWidth f.tyN)) (x.laneOn f) g)) := by
  simp only [vecLong, M.run_bind, M.run_bump, M.run_pushPend, M.run_pure]

/-! ## Element-wise instructions -/

theorem vec2_run {f : Fields} {g : Nat → Nat → Nat → Nat × Flags} {s s1 s2 s3 : State} {a : Nat} {b : Nat → Nat}
    (ha : rdV s.me f.imm f.sa s = .ok a s1) (hb : rdLanes s.me f.tyN f.imm f.sb s1 = .ok b s2)
    (hw : wrV s.me f.imm f.dst (tyWidth f.tyN) (s.me.laneOn f)
      (fun i => (g (s.me.mode f) (laneOf (tyWidth f.tyN) a i) (b i)).1) (s2.bumped [f.sa, f.sb, f.dst]) = .ok () s3) :
    vec2 f g s = .ok .seq (s3.raiseFlags s3.cur (laneFlags (lanesOf (tyWidth f.tyN)) (s.me.laneOn f)
      (fun i => g (s.me.mode f) (laneOf (tyWidth f.tyN) a i) (b i)))) := by
  simp only [vec2, M.run_bind, M.run_getCtx, ha, hb]
  exact vecEnd_run hw

theorem vec1_run {f : Fields} {g : Nat → Nat → Nat × Flags} {s s1 s2 : State} {a : Nat}
    (ha : rdV s.me f.imm f.sa s = .ok a s1)
    (hw : wrV s.me f.imm f.dst (tyWidth f.tyN) (s.me.laneOn f)
      (fun i => (g (s.me.mode f) (laneOf (tyWidth f.tyN) a i)).1) (s1.bumped [f.sa, f.dst]) = .ok () s2) :
    vec1 f g s = .ok .seq (s2.raiseFlags s2.cur (laneFlags (lanesOf (tyWidth f.tyN)) (s.me.laneOn f)
      (fun i => g (s.me.mode f) (laneOf (tyWidth f.tyN) a i)))) := by
  simp only [vec1, M.run_bind, M.run_getCtx, ha]
  exact vecEnd_run hw

/-- What the statement says of a row of `vectorTwo`. -/
def CompletesTwo (e : LaneRow) : Prop :=
  ∀ (f : Fields) (s s1 s2 s3 : State) (a : Nat) (b : Nat → Nat), s.admits e.op f →
    rdV s.me f.imm f.sa s = .ok a s1 → rdLanes s.me f.tyN f.imm f.sb s1 = .ok b s2 →
    wrV s.me f.imm f.dst (tyWidth f.tyN) (s.me.laneOn f)
      (fun i => (e.val f (s.me.mode f) (laneOf (tyWidth f.tyN) a i) (b i)).1) (s2.bumped [f.sa, f.sb, f.dst]) = .ok () s3 →
    exec (e.op.instr f) s =
      .next ((s3.raiseFlags s3.cur (laneFlags (lanesOf (tyWidth f.tyN)) (s.me.laneOn f)
        (fun i => e.val f (s.me.mode f) (laneOf (tyWidth f.tyN) a i) (b i)))).retired s.cur .seq)

theorem completesTwo_of_vec2 {e : LaneRow} {body : Fields → M Ctl}
    (hexec : ∀ f s, exec (e.op.instr f) s = issue e.op body f s) (hla : ∀ f, body { f with la := 0 } = body f)
    (hbody : ∀ f, body f = vec2 f (e.val f)) : CompletesTwo e := by
  intro f s s1 s2 s3 a b hadm ha hb hw
  rw [hexec]
  exact issue_runs (hla f) hadm (by rw [hbody]; exact vec2_run ha hb hw)

theorem vectorTwo_completes : ∀ e ∈ vectorTwo, CompletesTwo e := by
  simp only [vectorTwo, List.forall_mem_cons, List.not_mem_nil, false_implies, implies_true, and_true]
  exact ⟨completesTwo_of_vec2 exec_vadd (fun _ => rfl) (fun _ => rfl),
    completesTwo_of_vec2 exec_vsub (fun _ => rfl) (fun _ => rfl),
    completesTwo_of_vec2 exec_vmul (fun _ => rfl) (fun _ => rfl),
    completesTwo_of_vec2 exec_vmin (fun _ => rfl) (fun _ => rfl),
    completesTwo_of_vec2 exec_vmax (fun _ => rfl) (fun _ => rfl),
    completesTwo_of_vec2 exec_vand (fun _ => rfl) (fun _ => rfl),
    completesTwo_of_vec2 exec_vor (fun _ => rfl) (fun _ => rfl),
    completesTwo_of_vec2 exec_vxor (fun _ => rfl) (fun _ => rfl),
    completesTwo_of_vec2 exec_vshl (fun _ => rfl) (fun _ => rfl),
    completesTwo_of_vec2 exec_vshr (fun _ => rfl) (fun _ => rfl),
    completesTwo_of_vec2 exec_vsha (fun _ => rfl) (fun _ => rfl)⟩

/-- Settles O14: every row of the table is `vec2` with its lane function. -/
theorem vectorTwoSourceResults : Obligations.Vector_two_source_results := by
  unfold Obligations.Vector_two_source_results
  exact fun e he f s s1 s2 s3 a b hadm ha hb hw => vectorTwo_completes e he f s s1 s2 s3 a b hadm ha hb hw

/-- What the statement says of a row of `vectorOne`. -/
def CompletesOne (e : LaneRow) : Prop :=
  ∀ (f : Fields) (s s1 s2 : State) (a : Nat), s.admits e.op f → rdV s.me f.imm f.sa s = .ok a s1 →
    wrV s.me f.imm f.dst (tyWidth f.tyN) (s.me.laneOn f)
      (fun i => (e.val f (s.me.mode f) (laneOf (tyWidth f.tyN) a i) 0).1) (s1.bumped [f.sa, f.dst]) = .ok () s2 →
    exec (e.op.instr f) s =
      .next ((s2.raiseFlags s2.cur (laneFlags (lanesOf (tyWidth f.tyN)) (s.me.laneOn f)
        (fun i => e.val f (s.me.mode f) (laneOf (tyWidth f.tyN) a i) 0))).retired s.cur .seq)

theorem completesOne_of_vec1 {e : LaneRow} {body : Fields → M Ctl}
    (hexec : ∀ f s, exec (e.op.instr f) s = issue e.op body f s) (hla : ∀ f, body { f with la := 0 } = body f)
    (hbody : ∀ f, body f = vec1 f (fun rm a => e.val f rm a 0)) : CompletesOne e := by
  intro f s s1 s2 a hadm ha hw
  rw [hexec]
  exact issue_runs (hla f) hadm (by rw [hbody]; exact vec1_run ha hw)

theorem vectorOne_completes : ∀ e ∈ vectorOne, CompletesOne e := by
  simp only [vectorOne, List.forall_mem_cons, List.not_mem_nil, false_implies, implies_true, and_true]
  exact ⟨completesOne_of_vec1 exec_vabs (fun _ => rfl) (fun _ => rfl),
    completesOne_of_vec1 exec_vneg (fun _ => rfl) (fun _ => rfl),
    completesOne_of_vec1 exec_vmov (fun _ => rfl) (fun _ => rfl),
    completesOne_of_vec1 exec_vcvt (fun _ => rfl) (fun _ => rfl)⟩

/-- Settles O15: every row of the table is `vec1` with its lane function. -/
theorem vectorOneSourceResults : Obligations.Vector_one_source_results := by
  unfold Obligations.Vector_one_source_results
  exact fun e he f s s1 s2 a hadm ha hw => vectorOne_completes e he f s s1 s2 a hadm ha hw

/-- Settles O16: the operands are read in order, and the three bodies end alike; VDOT has the 16 lanes of 32 bits. -/
theorem vectorThreeSourceResults : Obligations.Vector_three_source_results := by
  unfold Obligations.Vector_three_source_results
  intro f s s1 s2 s3 s4 a cv b c n fma dot
  refine ⟨fun hadm ha hb hc hw => ?vfma, fun hadm ha hb hc hw => ?vdot, fun hadm ha hb hw => ?vsel⟩
  case vfma =>
    refine issue_runs rfl hadm ?_
    simp only [bodyVfma, M.run_bind, M.run_getCtx, ha, hb, hc]
    exact vecEnd_run hw
  case vdot =>
    refine issue_runs rfl hadm ?_
    simp only [bodyVdot, M.run_bind, M.run_getCtx, ha, hb, hc]
    exact vecEnd_run hw
  case vsel =>
    refine issue_runs rfl hadm ?_
    simp only [bodyVsel, M.run_bind, M.run_getCtx, ha, hb]
    exact vecEnd_run_plain hw

/-! ## Long-latency forms -/

section
variable {op : Op} {body : Fields → M Ctl} {f : Fields} {g : Nat → Nat × Flags} {s t : State} {codes : List (BitVec 8)}

/-- A body that ends in `vecLong`, with the lookahead that the instruction has when it re-executes alone. -/
theorem issue_vecLong (hadm : s.admits op f)
    (hbody : body (s.me.aloneFields f) s = vecLong s.me (s.me.aloneFields f) codes g t) :
    issue op body f s = .next (((t.bumped codes).awaits (s.laOf f)
      (.vector (f.dst.toNat - 0x40) (BitVec.allOnes 512) (mergeLanes (tyWidth f.tyN) (s.me.v (f.dst.toNat - 0x40)).toNat
        (s.me.laneOn f) (fun i => (g i).1))) (laneFlags (lanesOf (tyWidth f.tyN)) (s.me.laneOn f) g)).retired s.cur .seq) := by
  refine issue_completes' hadm (hbody.trans (vecLong_run ..)) ?_
  simp only [Ctx.aloneFields_tyN, Ctx.aloneFields_dst, Ctx.laneOn_aloneFields, State.laOf]

theorem vecLong1_run {x : Ctx} {h : Nat → Nat → Nat × Flags} {a : Nat → Nat}
    (ha : rdLanes s.me f.tyN f.imm f.sa s = .ok a t) :
    vecLong1 (x.aloneFields f) h s = vecLong s.me (x.aloneFields f) [f.sa] (fun i => h (s.me.mode f) (a i)) t := by
  simp only [vecLong1, Ctx.aloneFields_tyN, Ctx.aloneFields_imm, Ctx.aloneFields_sa, Ctx.mode_aloneFields, M.run_bind,
    M.run_getCtx, ha]

end

/-- Settles O17: the four one-source forms are `vecLong1`, and VDIV ends in the same way. -/
theorem vectorLongResults : Obligations.Vector_long_results := by
  unfold Obligations.Vector_long_results
  refine ⟨?one, fun f s s1 s2 a b hadm ha hb => ?vdiv⟩
  case one =>
    simp only [vectorLong, List.forall_mem_cons, List.not_mem_nil, false_implies, implies_true, and_true]
    refine ⟨fun f s s1 a hadm ha => issue_vecLong hadm ?_, fun f s s1 a hadm ha => issue_vecLong hadm ?_,
      fun f s s1 a hadm ha => issue_vecLong hadm ?_, fun f s s1 a hadm ha => issue_vecLong hadm ?_⟩
    · simp only [bodyVsqrt, Ctx.aloneFields_tyN]
      exact vecLong1_run ha
    · simp only [bodyVrcp, Ctx.aloneFields_tyN]
      exact vecLong1_run ha
    · simp only [bodyVrsq, Ctx.aloneFields_tyN]
      exact vecLong1_run ha
    · simp only [bodyVexp2, Ctx.aloneFields_tyN]
      exact vecLong1_run ha
  case vdiv =>
    refine issue_vecLong hadm ?_
    simp only [bodyVdiv, Ctx.aloneFields_tyN, Ctx.aloneFields_imm, Ctx.aloneFields_sa, Ctx.aloneFields_sb,
      Ctx.mode_aloneFields, M.run_bind, M.run_getCtx, ha, hb]

/-! ## Lane enables -/

/-- Settles O18: the mask instructions write one lane-enable register, and VIOTA counts the lanes below. -/
theorem laneEnables : Obligations.Lane_enables := by
  unfold Obligations.Lane_enables
  dsimp only
  intro f s s1 s2 s3 a v b
  refine ⟨fun hadm ha hb => ?vcmp, fun hadm => issue_runs rfl hadm rfl, fun hadm => issue_runs rfl hadm rfl,
    fun hadm => issue_runs rfl hadm rfl, fun hadm => issue_runs rfl hadm rfl, fun hadm => issue_runs rfl hadm rfl,
    fun hadm hv => ?vmaskSet, fun hadm hw => ?vmaskGet, fun hadm hv hw => ?viota⟩
  case vcmp =>
    refine issue_runs rfl hadm ?_
    simp only [bodyVcmp, M.run_bind, M.run_getCtx, ha, hb, M.run_bump, M.run_modCtx, M.run_raiseFlags, M.run_pure]
    rfl
  case vmaskSet =>
    refine issue_runs rfl hadm ?_
    simp only [bodyVmaskSet, M.run_bind, M.run_getCtx, rd64_of_rd hv, M.run_modCtx, M.run_pure]
  case vmaskGet =>
    refine issue_runs rfl hadm ?_
    simp only [bodyVmaskGet, M.run_bind, M.run_getCtx, M.run_bump, hw, M.run_pure]
  case viota =>
    refine issue_runs rfl hadm ?_
    simp only [bodyViota, M.run_bind, M.run_getCtx, hv]
    exact vecEnd_run_plain hw

/-! ## Lane moves -/

/-- Settles O19: each body reads its operands and ends as a vector instruction; VEXT writes a scalar. -/
theorem laneMoves : Obligations.Lane_moves := by
  unfold Obligations.Lane_moves
  dsimp only
  intro f s s1 s2 s3 s4 a b c k
  refine ⟨fun hadm hk hw => ?vbcast, fun hadm ha hk hw => ?vext, fun hadm ha hk hw => ?vins,
    fun hadm ha hb hc hw => ?vshuf, fun hadm ha hk hw => ?vrot⟩
  case vbcast =>
    refine issue_runs rfl hadm ?_
    simp only [bodyVbcast, M.run_bind, M.run_getCtx, hk]
    exact vecEnd_run_plain hw
  case vext =>
    refine issue_runs rfl hadm ?_
    simp only [bodyVext, M.run_bind, M.run_getCtx, ha, hk, M.run_bump, hw, M.run_pure]
  case vins =>
    refine issue_runs rfl hadm ?_
    simp only [bodyVins, M.run_bind, M.run_getCtx, ha, hk]
    exact vecEnd_run_plain hw
  case vshuf =>
    refine issue_runs rfl hadm ?_
    simp only [bodyVshuf, M.run_bind, M.run_getCtx, ha, hb, hc]
    exact vecEnd_run_plain hw
  case vrot =>
    refine issue_runs rfl hadm ?_
    simp only [bodyVrot, M.run_bind, M.run_getCtx, ha, hk]
    exact vecEnd_run_plain hw

/-! ## Reductions and scans -/

theorem reduce_run {f : Fields} {fill : Nat} {op : Nat → Nat → Nat → Nat × Flags} {s s1 s2 : State} {a : Nat} {r : Nat × Flags}
    (hr : treeSum (op (s.me.mode f)) (lanesOf (tyWidth f.tyN)).log2 ((List.range (lanesOf (tyWidth f.tyN))).map
      (fun i => if s.me.laneOn f i then laneOf (tyWidth f.tyN) a i else fill)) = r)
    (ha : rdV s.me f.imm f.sa s = .ok a s1)
    (hw : wr s.me f.tyN f.imm f.dst r.1 (s1.bumped [f.sa, f.dst]) = .ok () s2) :
    reduce f fill op s = .ok .seq (s2.raiseFlags s2.cur r.2) := by
  subst hr
  simp only [reduce, M.run_bind, M.run_getCtx, ha, M.run_bump, hw, M.run_raiseFlags, M.run_pure]

/-- Settles O20: the reductions are `reduce` with their fill and operation. -/
theorem reductionsAndScans : Obligations.Reductions_and_scans := by
  unfold Obligations.Reductions_and_scans
  dsimp only
  intro f s s1 s2 a
  refine ⟨fun hadm ha hw => ?vreds, fun hadm ha hw => ?vredmMin, fun hadm ha hw => ?vredmMax, fun hadm ha hw => ?vscan⟩
  case vreds => exact issue_runs rfl hadm (reduce_run rfl ha hw)
  case vredmMin => exact issue_runs rfl hadm (reduce_run rfl ha hw)
  case vredmMax => exact issue_runs rfl hadm (reduce_run rfl ha hw)
  case vscan =>
    refine issue_runs rfl hadm ?_
    simp only [bodyVscan, M.run_bind, M.run_getCtx, ha, M.run_bump, hw, M.run_raiseFlags, M.run_pure]

/-! ## Widening and narrowing -/

/-- Settles O21: both bodies read one vector and end as a vector instruction. -/
theorem wideningAndNarrowing : Obligations.Widening_and_narrowing := by
  unfold Obligations.Widening_and_narrowing
  intro f s s1 s2 a n half wide ls lo on slim
  refine ⟨fun hadm ha hw => ?vwidn, fun hadm ha hw => ?vnarr⟩
  case vwidn =>
    refine issue_runs rfl hadm ?_
    simp only [bodyVwidn, M.run_bind, M.run_getCtx, ha]
    exact vecEnd_run hw
  case vnarr =>
    refine issue_runs rfl hadm ?_
    simp only [bodyVnarr, M.run_bind, M.run_getCtx, ha]
    exact vecEnd_run hw

/-! ## Blocks and sparsity -/

/-- Settles O22: VQNT writes a block, VSPRS one register, and the other two end as vector instructions. -/
theorem blocksAndSparsity : Obligations.Blocks_and_sparsity := by
  unfold Obligations.Blocks_and_sparsity
  dsimp only
  intro f s s1 s2 s3 s4 a b w no fmt k
  refine ⟨fun hadm ha hb hblk hw => ?vqnt, fun hadm hblk hw => ?vdqt, fun hadm ha => ?vsprs, fun hadm ha hw => ?vxpnd⟩
  case vqnt =>
    refine issue_runs rfl hadm ?_
    by_cases hn : tyWidth f.tyN = 32
    · rw [if_pos hn] at hb hw
      simp only [bodyVqnt, M.run_bind, M.run_getCtx, ha, if_pos hn, hb, hblk, M.run_bump, hw, M.run_raiseFlags, M.run_pure]
    · rw [if_neg hn] at hb hw
      simp only [bodyVqnt, M.run_bind, M.run_getCtx, ha, if_neg hn, hb, hblk, M.run_bump, hw, M.run_raiseFlags, M.run_pure]
  case vdqt =>
    refine issue_runs rfl hadm ?_
    simp only [bodyVdqt, M.run_bind, M.run_getCtx, hblk]
    exact vecEnd_run hw
  case vsprs =>
    refine issue_runs rfl hadm ?_
    simp only [bodyVsprs, M.run_bind, M.run_getCtx, ha, M.run_bump, M.run_modCtx, M.run_pure]
  case vxpnd =>
    refine issue_runs rfl hadm ?_
    simp only [bodyVxpnd, M.run_bind, M.run_getCtx, ha]
    exact vecEnd_run_plain hw

end Sys2Proof.Machine
end

section
/-! Local addresses (R73, R75, R83): what an access to one reaches, and each of its faults. -/

namespace Sys2Proof.Machine

open Sys2Proof

theorem State.localFault_beyond {s : State} {t a n align : Nat} (h : a + n > 0xC000 ∨ (a + n - 1) / 4096 ≥ s.lpgOf t) :
    s.localFault t a n align = some cProt := by
  simp only [State.localFault, Bool.or_eq_true, decide_eq_true_eq, h, if_true]

theorem State.localFault_misaligned {s : State} {t a n align : Nat} (h : ¬ (a + n > 0xC000 ∨ (a + n - 1) / 4096 ≥ s.lpgOf t))
    (hal : a % align ≠ 0) : s.localFault t a n align = some cAlign := by
  simp only [State.localFault, Bool.or_eq_true, decide_eq_true_eq, h, if_false, hal, ne_eq, not_false_eq_true, if_true]

theorem State.localFault_none {s : State} {t a n align : Nat} (h : ¬ (a + n > 0xC000 ∨ (a + n - 1) / 4096 ≥ s.lpgOf t))
    (hal : a % align = 0) : s.localFault t a n align = none := by
  simp only [State.localFault, Bool.or_eq_true, decide_eq_true_eq, h, if_false, hal, ne_eq, not_true_eq_false]

section
variable {s : State} {a : Word} {n : Nat} {store : Bool}

theorem localLoc_faults {c : Nat} (h : s.localFault s.cur a.toNat n n = some c) :
    localLoc a n store s = .error (.exc { cause := c, tval := a }) s := by
  simp only [localLoc, M.run_bind, M.run_get, h, M.run_raise]

/-- R75: a page that is not resident. -/
theorem localLoc_page (h : s.localFault s.cur a.toNat n n = none) (ho : s.vaultOff? s.cur a.toNat = none) :
    localLoc a n store s = .error (.page (a.toNat / 4096)) s := by
  simp only [localLoc, M.run_bind, M.run_get, h, ho, M.run_throw]

/-- The place of a resident page: it waits for the scoreboard and for array reads, and a poisoned word is a data error. -/
theorem localLoc_resident {o : Nat} (h : s.localFault s.cur a.toNat n n = none) (ho : s.vaultOff? s.cur a.toNat = some o) :
    localLoc a n store s =
      if s.sbHit (coreOf s.cur) o n = true ∨ (store && s.me.arrHit a.toNat n) = true then .error .stall s
      else if (!store && s.vaultBad (s.vaultLoc (coreOf s.cur) o) n) = true then .error (.exc { cause := cData, tval := a }) s
      else .ok (s.vaultLoc (coreOf s.cur) o) s := by
  have hrun : localLoc a n store s = (do
      waitFor (!s.sbHit (coreOf s.cur) o n)
      waitFor (!(store && s.me.arrHit a.toNat n))
      if !store && s.vaultBad (s.vaultLoc (coreOf s.cur) o) n then raise cData a
      else pure (s.vaultLoc (coreOf s.cur) o) : M Nat) s := by
    simp only [localLoc, M.run_bind, M.run_get, h, ho]
    rfl
  rw [hrun]
  cases s.sbHit (coreOf s.cur) o n
  · cases store && s.me.arrHit a.toNat n
    · cases !store && s.vaultBad (s.vaultLoc (coreOf s.cur) o) n <;>
        simp only [M.run_bind, M.run_waitFor, M.run_raise, M.run_pure, Bool.not_false, if_true, Bool.false_eq_true, or_self,
          if_false]
    · simp only [M.run_bind, M.run_waitFor, Bool.not_false, Bool.not_true, if_true, Bool.false_eq_true, or_true, if_false]
  · simp only [M.run_bind, M.run_waitFor, Bool.not_true, Bool.false_eq_true, if_false, true_or, if_true]

end

/-- Settles O23: the checks in their order, the place and what it waits for read off the frame of the page. -/
theorem localAddresses : Obligations.Local_addresses := by
  unfold Obligations.Local_addresses
  intro s a n store _ held reads bad
  by_cases hbeyond : a.toNat + n > 0xC000 ∨ (a.toNat + n - 1) / 4096 ≥ s.lpgOf s.cur
  · rw [if_pos hbeyond, localLoc_faults (State.localFault_beyond hbeyond)]
  rw [if_neg hbeyond]
  by_cases hal : a.toNat % n = 0
  · rw [if_neg (not_not_intro hal)]
    have hfault := State.localFault_none hbeyond hal
    cases hframe : s.frameOf? s.cur (a.toNat / 4096) with
    | none => exact localLoc_page hfault (by rw [State.vaultOff?, hframe]; rfl)
    | some k =>
      have hoff : s.vaultOff? s.cur a.toNat = some (k * 4096 + a.toNat % 4096) := by rw [State.vaultOff?, hframe]; rfl
      have hheld : held = s.sbHit (coreOf s.cur) (k * 4096 + a.toNat % 4096) n := by
        simp only [held, hoff, Option.any_some]
        rfl
      have hbad : bad = (!store && s.vaultBad (s.vaultLoc (coreOf s.cur) (k * 4096 + a.toNat % 4096)) n) := by
        simp only [bad, hoff, Option.any_some]
      rw [localLoc_resident hfault hoff, hheld, hbad]
  · rw [if_pos hal, localLoc_faults (State.localFault_misaligned hbeyond hal)]

end Sys2Proof.Machine
end

section
/-! Loads, stores, maintenance, fences and atomics (R217 to R227): the bodies run on any fields, and then with the
lookahead that an instruction has when it re-executes alone. -/

namespace Sys2Proof.Machine

open Sys2Proof

/-- An instruction completes whose body completes whatever its lookahead: its effects are those for the lookahead
that it has. -/
theorem issue_completes_la {op : Op} {body : Fields → M Ctl} {f : Fields} {s : State} {ctl : Ctl} {t : Nat → State}
    (h : s.admits op f) (hb : ∀ la : BitVec 4, body { f with la := la } s = .ok ctl (t la.toNat)) :
    issue op body f s = .next ((t (s.laOf f)).retired s.cur ctl) := by
  refine issue_completes h ?_
  unfold State.laOf Ctx.aloneFields
  split
  · exact hb 0
  · exact hb f.la

/-- The same for effects that do not depend on the lookahead. -/
theorem issue_completes_any_la {op : Op} {body : Fields → M Ctl} {f : Fields} {s t : State} {ctl : Ctl}
    (h : s.admits op f) (hb : ∀ la : BitVec 4, body { f with la := la } s = .ok ctl t) :
    issue op body f s = .next (t.retired s.cur ctl) := issue_completes_la (t := fun _ => t) h hb

/-! ## LD, ST, LDV and STV -/

section
variable {f : Fields} {s s1 s2 s3 : State} {v b pa : Nat}

theorem bodyLd_local (hsp : f.space = 0) (hr : localRead (s.me.localAddr f.imm f.sa) (tyBytes f.tyN) s = .ok v s1) :
    bodyLd f s = .ok .seq ((s1.bumped [f.sa]).onMe (fun y => y.setSlot (s.me.slotOf f.dst) (extendTy f.tyN v))) := by
  simp only [bodyLd, M.run_bind, M.run_getCtx, if_pos hsp, hr, M.run_bump, M.run_modCtx, M.run_pure]

theorem bodyLd_global (hsp : f.space ≠ 0) (hpa : globalPa f.space (s.me.globalAddr f) (tyBytes f.tyN) needLoad s = .ok pa s1)
    (hord : s1.ordered [{ lane := 0, pa := pa, bytes := tyBytes f.tyN, named := s.me.globalAddr f }]) :
    bodyLd f s = .ok .seq (s1.accesses f.la.toNat (.load f.tyN f.clsM (s.me.slotOf f.dst)
      { lane := 0, pa := pa, bytes := tyBytes f.tyN, named := s.me.globalAddr f })) := by
  simp only [bodyLd, M.run_bind, M.run_getCtx, if_neg hsp, hpa, inOrder_ok hord, M.run_pushWork, M.run_pure]

theorem bodySt_local (hsp : f.space = 0) (hb : rd s.me f.tyN f.imm f.sb s = .ok b s1)
    (hw : localWrite (s.me.localAddr f.imm f.sa) (tyBytes f.tyN) b (s1.bumped [f.sa, f.sb]) = .ok () s2) :
    bodySt f s = .ok .seq s2 := by
  simp only [bodySt, M.run_bind, M.run_getCtx, if_pos hsp, hb, M.run_bump, hw, M.run_pure]

theorem bodySt_global (hsp : f.space ≠ 0) (hpa : globalPa f.space (s.me.globalAddr f) (tyBytes f.tyN) needStore s = .ok pa s1)
    (hb : rd s.me f.tyN f.imm f.sb s1 = .ok b s2)
    (hw : globalStore f.space f.clsM
      [{ pa := pa, n := tyBytes f.tyN, mask := 2 ^ tyBytes f.tyN - 1, data := b, named := s.me.globalAddr f }]
      (s2.bumped [f.sb]) = .ok () s3) : bodySt f s = .ok .seq s3 := by
  simp only [bodySt, M.run_bind, M.run_getCtx, if_neg hsp, hpa, hb, M.run_bump, hw, M.run_pure]

/-- Some lanes of a register are set. -/
theorem M.run_setLanes (k n : Nat) (ls : List (Nat × Nat)) (s : State) : setLanes k n ls s = .ok () (s.lanesTaken k n ls) := rfl

theorem bodyLdv_local (hty : f.tyN ≠ 12) (hsp : f.space = 0) (hr : localRead (s.me.localAddr f.imm f.sa) 64 s = .ok v s1) :
    bodyLdv f s = .ok .seq ((s1.bumped [f.sa]).lanesTaken (f.dst.toNat - 0x40) (tyWidth f.tyN)
      ((s.me.lanes f).map (fun i => (i, laneOf (tyWidth f.tyN) v i)))) := by
  simp only [bodyLdv, M.run_bind, M.run_getCtx, if_neg hty, if_pos hsp, hr, M.run_bump, M.run_setLanes, M.run_pure]

theorem bodyLdv_block {w : Nat} {k : Blk} (hty : f.tyN = 12)
    (hr : readBlock s.me (s.me.localAddr f.imm f.sa) s = .ok (w, k) s1) :
    bodyLdv f s = .ok .seq ((s1.bumped [f.sa]).lanesTaken (f.dst.toNat - 0x40) 32 (((List.range 16).filter (s.me.laneOn f)).map
      (fun i => (i, (dequant w 0 10 k (i + if f.sb.getLsbD 0 then 16 else 0)).1)))) := by
  simp only [bodyLdv, loadBlockLanes, M.run_bind, M.run_getCtx, if_pos hty, hr, M.run_bump, M.run_setLanes, M.run_pure]

/-- The elements of a vector load: one for each enabled lane. -/
def laneEls (x : Ctx) (f : Fields) (pa : Nat) : List Elem :=
  (x.lanes f).map (fun i => { lane := i, pa := pa + tyWidth f.tyN / 8 * i, bytes := tyWidth f.tyN / 8, named := x.globalAddr f })

theorem bodyLdv_global (hty : f.tyN ≠ 12) (hsp : f.space ≠ 0)
    (hpa : globalPa f.space (s.me.globalAddr f) 64 needLoad s = .ok pa s1) (hord : s1.ordered (laneEls s.me f pa)) :
    bodyLdv f s = .ok .seq (s1.accesses f.la.toNat (.vload (tyWidth f.tyN / 8) f.clsM (f.dst.toNat - 0x40) (laneEls s.me f pa))) := by
  have hrun := inOrder_ok hord
  unfold laneEls at hrun
  simp only [bodyLdv, M.run_bind, M.run_getCtx, if_neg hty, if_neg hsp, hpa, hrun, M.run_pushWork, M.run_pure]
  rfl

theorem bodyStv_local {l : Nat} (hty : f.tyN ≠ 12) (hsp : f.space = 0) (hv : rdV s.me f.imm f.sb s = .ok v s1)
    (hl : localLoc (s.me.localAddr f.imm f.sa) 64 true s1 = .ok l s2) :
    bodyStv f s = .ok .seq ((s2.bumped [f.sa, f.sb]).storeLanes (coreOf s2.cur) (l % 65536) (tyWidth f.tyN) (s.me.laneOn f)
      (laneOf (tyWidth f.tyN) v)) := by
  simp only [bodyStv, M.run_bind, M.run_getCtx, if_neg hty, if_pos hsp, hv, hl, M.run_bump, M.run_act, M.run_pure]
  rfl

theorem bodyStv_global (hty : f.tyN ≠ 12) (hsp : f.space ≠ 0)
    (hpa : globalPa f.space (s.me.globalAddr f) 64 needStore s = .ok pa s1) (hv : rdV s.me f.imm f.sb s1 = .ok v s2) :
    bodyStv f s = (if laneMask (tyWidth f.tyN / 8) (s.me.lanes f) ≠ 0 then do
      globalStore f.space f.clsM
        [{ pa := pa, n := 64, mask := laneMask (tyWidth f.tyN / 8) (s.me.lanes f), data := v, named := s.me.globalAddr f }]
      pure .seq else pure .seq : M Ctl) (s2.bumped [f.sb]) := by
  simp only [bodyStv, M.run_bind, M.run_getCtx, if_neg hty, if_neg hsp, hpa, hv, M.run_bump]

end

/-- The elements that STV.k quantises, and the block that they give. -/
theorem bodyStv_block {f : Fields} {s s1 s2 : State} {fmt : BitVec 8} {no : Nat} {q : Blk × Flags} (hty : f.tyN = 12)
    (hq : quantiseTy (fmtWidth fmt) s.me.rm 10 ((List.range 32).map (fun e => if s.me.laneOn f e then
      (if e < 16 then laneOf 32 (s.me.v (f.sb.toNat - 0x40)).toNat e
       else laneOf 32 (s.me.v (f.sc.toNat - 0x40)).toNat (e - 16)) else 0)) = q)
    (hblk : blockAt s.me (s.me.localAddr f.imm f.sa) s = .ok (fmt, no) s1)
    (hw : writeBlock (s.me.localAddr f.imm f.sa) fmt no q.1 (s1.bumped [f.sa]) = .ok () s2) :
    bodyStv f s = .ok .seq (s2.raiseFlags s2.cur q.2) := by
  subst hq
  simp only [bodyStv, storeBlockLanes, M.run_bind, M.run_getCtx, if_pos hty, hblk, M.run_bump, hw, M.run_raiseFlags, M.run_pure]

/-- Settles O24: the local branch of each body, and the branch of the block forms. -/
theorem localLoadsAndStores : Obligations.Local_loads_and_stores := by
  unfold Obligations.Local_loads_and_stores
  intro f s s1 s2 v b l w no k fmt n a vd half el q
  exact ⟨fun hadm hsp hr => issue_completes_any_la hadm fun la => bodyLd_local (f := { f with la := la }) hsp hr,
    fun hadm hsp hb hw => issue_completes_any_la hadm fun la => bodySt_local (f := { f with la := la }) hsp hb hw,
    fun hadm hty hsp hr => issue_completes_any_la hadm fun la => bodyLdv_local (f := { f with la := la }) hty hsp hr,
    fun hadm hty hr => issue_completes_any_la hadm fun la => bodyLdv_block (f := { f with la := la }) hty hr,
    fun hadm hty hsp hv hl => issue_completes_any_la hadm fun la => bodyStv_local (f := { f with la := la }) hty hsp hv hl,
    fun hadm hty hblk hw => issue_completes_any_la hadm fun la => bodyStv_block (f := { f with la := la }) hty rfl hblk hw⟩

/-- Settles O25: the other branch of each body; a vector store without an enabled lane stores nothing. -/
theorem globalLoadsAndStores : Obligations.Global_loads_and_stores := by
  unfold Obligations.Global_loads_and_stores
  intro f s s1 s2 s3 pa b n va one els mask
  refine ⟨fun hadm hsp hpa hord => ?ld, fun hadm hsp hpa hb hw => ?st, fun hadm hty hsp hpa hord => ?ldv,
    fun hadm hty hsp hpa hv hmask => ?stvNone, fun hadm hty hsp hpa hv hmask hw => ?stv⟩
  case ld =>
    exact issue_completes_la (t := fun la => s1.accesses la (.load f.tyN f.clsM (s.me.slotOf f.dst) one)) hadm
      fun la => bodyLd_global (f := { f with la := la }) hsp hpa hord
  case st => exact issue_runs rfl hadm (bodySt_global hsp hpa hb hw)
  case ldv =>
    exact issue_completes_la (t := fun la => s1.accesses la (.vload (tyWidth f.tyN / 8) f.clsM (f.dst.toNat - 0x40) els)) hadm
      fun la => bodyLdv_global (f := { f with la := la }) hty hsp hpa hord
  case stvNone =>
    refine issue_runs rfl hadm ((bodyStv_global hty hsp hpa hv).trans ?_)
    rw [if_neg (not_not_intro hmask)]
    rfl
  case stv =>
    refine issue_runs rfl hadm ((bodyStv_global hty hsp hpa hv).trans ?_)
    rw [if_pos hmask, M.run_bind_ok hw]
    rfl

/-! ## Lane addresses (R220, R221) -/

section
variable {x : Ctx} {f : Fields} {at_ : Nat → Word} {s s1 s2 : State}

theorem loadLanes_local {vs : List (Nat × Nat)} (hsp : f.space = 0) (hr : readLanes x f at_ s = .ok vs s1) :
    loadLanes x f at_ s = .ok .seq (((s1.banksCounted (tyWidth f.tyN / 8) ((x.lanes f).map at_)).bumped [f.sa]).lanesTaken
      (f.dst.toNat - 0x40) (tyWidth f.tyN) vs) := by
  unfold readLanes at hr
  simp only [loadLanes, if_pos hsp, M.run_bind_ok hr]
  rfl

theorem loadLanes_global {els : List Elem} (hsp : f.space ≠ 0) (hr : findLanes x f needLoad at_ s = .ok els s1)
    (hord : s1.ordered els) :
    loadLanes x f at_ s = .ok .seq (s1.accesses f.la.toNat (.vload (tyWidth f.tyN / 8) f.clsM (f.dst.toNat - 0x40) els)) := by
  unfold findLanes at hr
  simp only [loadLanes, if_neg hsp, M.run_bind_ok hr, M.run_bind_ok (inOrder_ok hord)]
  rfl

theorem storeEachLane_local {ls : List (Nat × Nat)} (hsp : f.space = 0) (hr : placeLanes x f at_ s = .ok ls s1) :
    storeEachLane x f at_ s = .ok .seq (ls.foldl (fun s e => s.writeVault (coreOf s.cur) (e.2 % 65536) (tyWidth f.tyN / 8)
      (laneOf (tyWidth f.tyN) (x.v (f.sc.toNat - 0x40)).toNat e.1))
      ((s1.banksCounted (tyWidth f.tyN / 8) ((x.lanes f).map at_)).bumped [f.sa])) := by
  unfold placeLanes at hr
  simp only [storeEachLane, if_pos hsp, M.run_bind_ok hr]
  rfl

/-- The piece that lane data stores at an element. -/
def lanePiece (n c : Nat) (e : Elem) : Piece :=
  { pa := e.pa, n := n / 8, mask := 2 ^ (n / 8) - 1, data := laneOf n c e.lane, named := e.named }

theorem mapM_of_map {α β γ : Type} {g : α → M β} {h : α → M γ} {k : β → γ} (hk : ∀ a, h a = k <$> g a) (l : List α) :
    l.mapM h = List.map k <$> l.mapM g := by
  induction l with
  | nil => simp only [List.mapM_nil, map_pure, List.map_nil]
  | cons a l ih => simp only [List.mapM_cons, hk, ih, map_bind, bind_map_left, map_pure, List.map_cons]

/-- The pieces of a store are found as its elements are. -/
theorem findPieces_ok {els : List Elem} (c : Nat) (hr : findLanes x f needStore at_ s = .ok els s1) :
    ((x.lanes f).mapM (fun i => do
      let pa ← globalPa f.space (at_ i) (tyWidth f.tyN / 8) needStore
      let q : Piece := { pa := pa, n := tyWidth f.tyN / 8, mask := 2 ^ (tyWidth f.tyN / 8) - 1,
                         data := laneOf (tyWidth f.tyN) c i, named := at_ i }
      pure q) : M (List Piece)) s = .ok (els.map (lanePiece (tyWidth f.tyN) c)) s1 := by
  rw [mapM_of_map (k := lanePiece (tyWidth f.tyN) c) (g := fun i => (do
    let pa ← globalPa f.space (at_ i) (tyWidth f.tyN / 8) needStore
    pure { lane := i, pa := pa, bytes := tyWidth f.tyN / 8, named := at_ i } : M Elem)) (fun i => by
      simp only [map_bind, map_pure]; rfl)]
  unfold findLanes at hr
  simp only [M.run_map, hr]

theorem storeEachLane_global {els : List Elem} (hsp : f.space ≠ 0) (hr : findLanes x f needStore at_ s = .ok els s1)
    (hw : globalStore f.space f.clsM (els.map (lanePiece (tyWidth f.tyN) (x.v (f.sc.toNat - 0x40)).toNat)) s1 = .ok () s2) :
    storeEachLane x f at_ s = .ok .seq s2 := by
  simp only [storeEachLane, if_neg hsp, M.run_bind_ok (findPieces_ok _ hr), M.run_bind_ok hw]
  rfl

end

section
variable {op : Op} {body : Fields → M Ctl} {f : Fields} {s s0 : State} {at_ : Nat → Word} (hadm : s.admits op f)
  (hexec : exec (op.instr f) s = issue op body f s)
include hadm hexec

theorem lanesLoad_of_loadLanes (hbody : ∀ la : BitVec 4, body { f with la := la } s = loadLanes s.me { f with la := la } at_ s0) :
    LanesLoad op f s s0 at_ := by
  intro s1 vs els
  rw [hexec]
  refine ⟨fun hsp hr => ?_, fun hsp hr hord => ?_⟩
  · exact issue_completes_any_la hadm fun la => (hbody la).trans (loadLanes_local (f := { f with la := la }) hsp hr)
  · exact issue_completes_la (t := fun la => s1.accesses la (.vload (tyWidth f.tyN / 8) f.clsM (f.dst.toNat - 0x40) els)) hadm
      fun la => (hbody la).trans (loadLanes_global (f := { f with la := la }) hsp hr hord)

theorem lanesStore_of_storeEachLane (hla : body { f with la := 0 } = body f) (hbody : body f s = storeEachLane s.me f at_ s0) :
    LanesStore op f s s0 at_ := by
  intro s1 s2 ls els c n
  rw [hexec]
  refine ⟨fun hsp hr => ?_, fun hsp hr hw => ?_⟩
  · exact issue_runs hla hadm (hbody.trans (storeEachLane_local hsp hr))
  · exact issue_runs hla hadm (hbody.trans (storeEachLane_global hsp hr hw))

end

/-- Settles O26: the four bodies are `loadLanes` and `storeEachLane` with their lane addresses. -/
theorem laneAddressedAccesses : Obligations.Lane_addressed_accesses := by
  unfold Obligations.Lane_addressed_accesses
  intro f s s0 b strided indexed
  refine ⟨fun hadm hb => ?vlds, fun hadm hb => ?vsts, fun hadm => ?vgath, fun hadm => ?vscat⟩
  case vlds =>
    exact lanesLoad_of_loadLanes hadm (exec_vlds f s) fun la => by
      simp only [bodyVlds, M.run_bind_ok (M.run_getCtx s), M.run_bind_ok hb]
      rfl
  case vsts =>
    exact lanesStore_of_storeEachLane hadm (exec_vsts f s) rfl (by
      simp only [bodyVsts, M.run_bind_ok (M.run_getCtx s), M.run_bind_ok hb]
      rfl)
  case vgath =>
    exact lanesLoad_of_loadLanes hadm (exec_vgath f s) fun la => rfl
  case vscat =>
    exact lanesStore_of_storeEachLane hadm (exec_vscat f s) rfl rfl

/-! ## Prefetch, maintenance and fences (R129, R222, R223) -/

/-- The lines of a range, each with a function applied. -/
def maintainLines (x : Ctx) (f : Fields) (n : Word) (ps : List Nat) (g : State → Nat → Nat → State) (s : State) : State :=
  let a := (x.globalAddr f).toNat
  let last := a + n.toNat - 1
  (List.range (last / 128 - a / 128 + 1)).foldl (fun s i =>
    g s (fieldOf s.cur) (ps.getD ((a / 128 + i) / 32 - a / 4096) 0 / 128 + (a / 128 + i) % 32)) s

section
variable {f : Fields} {g : State → Nat → Nat → State} {s s1 s2 : State} {n : Word} {ps : List Nat}
  (hn : rd64 s.me f.imm f.sb s = .ok n s1)
include hn

theorem maintain_nothing (hlen : n.toNat ≤ 2 ^ 20) (hsp : f.space ≠ 1 ∨ n = 0) : maintain f g s = .ok .seq s1 := by
  have hno : (decide (f.space = 1) && decide (n ≠ 0)) = false := by
    rcases hsp with h | h <;> simp [h]
  simp only [maintain, M.run_bind, M.run_getCtx, hn, M.run_needOp, decide_eq_true hlen, if_true, hno, Bool.false_eq_true,
    if_false, M.run_pure]

theorem maintain_range (hlen : n.toNat ≤ 2 ^ 20) (hsp : f.space = 1) (hne : n ≠ 0)
    (hps : pagesOf ((s.me.globalAddr f).toNat / 4096)
      (((s.me.globalAddr f).toNat + n.toNat - 1) / 4096 - (s.me.globalAddr f).toNat / 4096 + 1) s1 = .ok ps s2)
    (hwrap : s2.wrap = 0) : maintain f g s = .ok .seq (maintainLines s.me f n ps g s2) := by
  have hyes : (decide (f.space = 1) && decide (n ≠ 0)) = true := by rw [decide_eq_true hsp, decide_eq_true hne]; rfl
  simp only [maintain, M.run_bind, M.run_getCtx, hn, M.run_needOp, decide_eq_true hlen, if_true, hyes, hps, M.run_ask,
    M.run_waitFor, hwrap, beq_self_eq_true, M.run_act, M.run_pure]
  rfl

theorem maintain_tooLong (hlen : 2 ^ 20 < n.toNat) : maintain f g s = .error (.exc { cause := cOperand, tval := 0 }) s1 := by
  simp only [maintain, M.run_bind, M.run_getCtx, hn, M.run_needOp, decide_eq_false (Nat.not_le.mpr hlen), Bool.false_eq_true,
    if_false]

end

/-- A step that is taken under a condition, and leaves the state to the rest as it is. -/
theorem M.run_ite_skip {α : Type} {c : Prop} [Decidable c] {m k : M α} {s : State} (h : c → m s = k s) :
    (if c then m else k) s = k s := by
  split
  · exact h ‹c›
  · rfl

/-- What FENCE waits for is over. -/
theorem bodyFence_run {f : Fields} {s : State} (hacc : s.me.pend.all (fun p => p.done || !p.work.isAccess) = true)
    (hrel : 2 ≤ f.ord → s.released ∧ s.meetsNoRefusal) (hvault : f.scope = 0 → s.ownVaultPosted s.cur = false) :
    bodyFence f s = .ok .seq (if f.ord % 2 = 1 then s.acquire s.cur f.scope (fun _ => true) else s) := by
  have hwait : waitFor (s.me.pend.all (fun p => p.done || !p.work.isAccess)) s = .ok () s := by rw [hacc]; rfl
  simp only [bodyFence, M.run_bind_ok (M.run_getCtx s), M.run_bind_ok (M.run_ask _ s), M.run_bind_ok hwait]
  rw [M.run_ite_skip (fun hord => M.run_bind_ok (releaseWaits_ok (hrel hord).1 (hrel hord).2)),
    M.run_ite_skip (fun hsc => by simp only [M.run_bind, M.run_ask, M.run_waitFor, hvault hsc, Bool.not_false, if_true])]
  split <;> rfl

/-- Settles O27: PREF acts or does nothing, WBK and INVL are `maintain`, and a FENCE goes on once its waits are over. -/
theorem prefetchMaintenanceFences : Obligations.Prefetch_maintenance_fences := by
  unfold Obligations.Prefetch_maintenance_fences
  intro f s s1 s2 n ps a last lines
  refine ⟨fun hadm hsp => ?prefNone, fun hadm hsp => ?pref,
    fun hadm hn hlen hsp => issue_runs rfl hadm (maintain_nothing hn hlen hsp),
    fun hadm hn hlen hsp => issue_runs rfl hadm (maintain_nothing hn hlen hsp),
    fun hadm hn hlen hsp hne hps hwrap => issue_runs rfl hadm (maintain_range hn hlen hsp hne hps hwrap),
    fun hadm hn hlen hsp hne hps hwrap => issue_runs rfl hadm (maintain_range hn hlen hsp hne hps hwrap),
    fun hadm hn hlen => issue_runs_opFault rfl hadm (maintain_tooLong hn hlen),
    fun hadm hn hlen => issue_runs_opFault rfl hadm (maintain_tooLong hn hlen),
    fun hadm hacc hrel hvault => issue_runs rfl hadm (bodyFence_run hacc hrel hvault)⟩
  case prefNone =>
    refine issue_runs rfl hadm ?_
    simp only [bodyPref, M.run_bind, M.run_getCtx, if_neg hsp, M.run_pure]
  case pref =>
    refine issue_runs rfl hadm ?_
    simp only [bodyPref, M.run_bind, M.run_getCtx, if_pos hsp, M.run_act, M.run_pure] <;> rfl

/-! ## Atomics (R225 to R227) -/

theorem atomic_run {f : Fields} {s s1 s2 : State} {pa b : Nat}
    (hpa : globalPa f.space (s.me.x f.sa.toNat + sextImm f.imm) (tyBytes f.tyN) needAtomic s = .ok pa s1)
    (hb : rd s.me f.tyN f.imm f.sb s1 = .ok b s2)
    (hrel : 2 ≤ f.ord → (s2.bumped [f.sb]).released ∧ (s2.bumped [f.sb]).meetsNoRefusal)
    (hord : (s2.bumped [f.sb]).ordered
      [{ lane := 0, pa := pa, bytes := tyBytes f.tyN, named := s.me.x f.sa.toNat + sextImm f.imm }]) :
    atomic f s = .ok .seq ((s2.bumped [f.sb]).accesses f.la.toNat (.atomic f.sub.toNat f.tyN f.ord f.scope (s.me.slotOf f.dst)
      (w64 b) (w64 ((s.me.x f.dst.toNat).toNat % 2 ^ tyWidth f.tyN))
      { lane := 0, pa := pa, bytes := tyBytes f.tyN, named := s.me.x f.sa.toNat + sextImm f.imm })) := by
  simp only [atomic, M.run_bind_ok (M.run_getCtx s), M.run_bind_ok hpa, M.run_bind_ok hb, M.run_bind_ok (M.run_bump _ s2)]
  rw [M.run_ite_skip (fun hacq => M.run_bind_ok (releaseWaits_ok (hrel hacq).1 (hrel hacq).2)), M.run_bind_ok (inOrder_ok hord)]
  rfl

/-- What the statement says of one atomic. -/
def AtomicCompletes (op : Op) : Prop :=
  ∀ (f : Fields) (s s1 s2 : State) (pa b : Nat),
    let el : Elem := { lane := 0, pa := pa, bytes := tyBytes f.tyN, named := s.me.x f.sa.toNat + sextImm f.imm }
    let s3 := s2.bumped [f.sb]
    s.admits op f → globalPa f.space el.named (tyBytes f.tyN) needAtomic s = .ok pa s1 →
    rd s.me f.tyN f.imm f.sb s1 = .ok b s2 → (2 ≤ f.ord → s3.released ∧ s3.meetsNoRefusal) → s3.ordered [el] →
    exec (op.instr f) s = .next ((s3.accesses (s.laOf f) (.atomic f.sub.toNat f.tyN f.ord f.scope (s.me.slotOf f.dst)
      (w64 b) (w64 ((s.me.x f.dst.toNat).toNat % 2 ^ tyWidth f.tyN)) el)).retired s.cur .seq)

theorem atomicCompletes_of_exec {op : Op} (hexec : ∀ f s, exec (op.instr f) s = issue op atomic f s) : AtomicCompletes op := by
  intro f s s1 s2 pa b el s3 hadm hpa hb hrel hord
  rw [hexec]
  exact issue_completes_la (t := fun la => s3.accesses la (.atomic f.sub.toNat f.tyN f.ord f.scope (s.me.slotOf f.dst)
    (w64 b) (w64 ((s.me.x f.dst.toNat).toNat % 2 ^ tyWidth f.tyN)) el)) hadm
    fun la => atomic_run (f := { f with la := la }) hpa hb hrel hord

/-- Settles O28: the eleven mnemonics share one body. -/
theorem atomicsComplete : Obligations.Atomics_complete := by
  unfold Obligations.Atomics_complete
  have hall : ∀ op ∈ atomics, AtomicCompletes op := by
    simp only [atomics, List.forall_mem_cons, List.not_mem_nil, false_implies, implies_true, and_true]
    exact ⟨atomicCompletes_of_exec exec_atadd, atomicCompletes_of_exec exec_atsub, atomicCompletes_of_exec exec_atmin,
      atomicCompletes_of_exec exec_atmax, atomicCompletes_of_exec exec_atand, atomicCompletes_of_exec exec_ator,
      atomicCompletes_of_exec exec_atxor, atomicCompletes_of_exec exec_atswp, atomicCompletes_of_exec exec_atcas,
      atomicCompletes_of_exec exec_atfadd, atomicCompletes_of_exec exec_atinc⟩
  exact fun op hop f s s1 s2 pa b => hall op hop f s s1 s2 pa b

end Sys2Proof.Machine
end

section
namespace Sys2Proof.Machine
open Sys2Proof

/-! ## Performed accesses (R124, R374, R376) -/

theorem isLost_nil (s : State) : s.isLost [] = false := rfl
theorem settled_nil (s : State) : s.settled [] = s := rfl

/-- An access asks no other cube for anything where no element of it is homed in one. -/
theorem workPackets_near {s : State} {t : Nat} {w : Work} {el : Elem} (hels : w.els = [el]) (hnear : s.farCube? el.pa = none) :
    s.workPackets t w = [] := by
  simp only [State.workPackets, hels, List.filterMap_cons, hnear, Option.bind_none, List.filterMap_nil]

/-- The entry of an access that is not performed yet. -/
def State.openPend (s : State) (la : Nat) (w : Work) (out : List (Nat × Nat)) : Pend :=
  { pc := s.me.pc, idx := s.me.issued, left := la, done := false, result := .none, flags := 0, fault := none,
    work := w, since := none, sup := s.me.sup, e2e := out }

/-- A delayed access only enters. -/
theorem accesses_delayed {s : State} {la : Nat} {w : Work} (hdelay : s.me.delay = true) :
    s.accesses la w = (s.sendAll (s.workPackets s.cur w)).2.modCtx s.cur (fun c =>
      { c with pend := c.pend ++ [s.openPend la w (s.sendAll (s.workPackets s.cur w)).1] }) := by
  simp only [State.accesses, if_pos hdelay, State.openPend]

/-- An access that is performed and had asked no other cube for anything. -/
theorem perform_done {s s1 : State} {t : Nat} {p q : Pend} (hnone : p.e2e = []) (hdone : q.done = true) (hout : q.e2e = [])
    (hperf : s.performNow t p = (s1, q)) : s.perform t p = (s1, q) := by
  simp only [State.perform, hnone, isLost_nil, Bool.false_eq_true, if_false, hperf, if_pos hdone, settled_nil]
  rw [← hout]

/-- An access within this cube that is not delayed is performed at once. -/
theorem accesses_near {s s1 : State} {la : Nat} {w : Work} {el : Elem} {q : Pend} (hels : w.els = [el])
    (hnear : s.farCube? el.pa = none) (hdelay : s.me.delay = false) (hdone : q.done = true) (hout : q.e2e = [])
    (hperf : s.performNow s.cur (s.openPend la w []) = (s1, q)) :
    s.accesses la w = s1.modCtx s.cur (fun c => { c with pend := c.pend ++ [q] }) := by
  have hp := perform_done rfl hdone hout hperf
  rw [State.openPend] at hp
  simp only [State.accesses, workPackets_near hels hnear, State.sendAll, hdelay, Bool.false_eq_true, if_false, hp]

/-- A load that no home holds takes its value. -/
theorem performNow_load {s s1 : State} {t ty cls v : Nat} {dst : Slot} {el : Elem} {p : Pend} (hw : p.work = .load ty cls dst el)
    (hfree : s.homeHolds t cls el.pa false = false) (hload : s.load t cls el.pa el.bytes = .ok v s1) :
    s.performNow t p = (s1, p.has (.scalar dst (extendTy ty v)) 0) := by
  simp only [State.performNow, hw, State.loadEls, hfree, hload, Bool.false_eq_true, if_false, List.getD_cons_zero]

/-- An atomic that no home holds takes the value before. -/
theorem performNow_atomic {s s1 : State} {t sub ty ord scope v : Nat} {dst : Slot} {b old : Word} {el : Elem} {p : Pend}
    (hw : p.work = .atomic sub ty ord scope dst b old el) (hfree : s.homeHolds t 2 el.pa true = false)
    (hrmw : s.rmw t el.pa el.bytes (fun m => (atomicFn sub ty b.toNat old.toNat m).map Prod.fst) = .ok v s1) :
    s.performNow t p = (if ord % 2 = 1 then s1.acquire t scope (fun _ => true) else s1,
      p.has (.scalar dst (extendTy ty v)) (((atomicFn sub ty b.toNat old.toNat v).map Prod.snd).getD 0)) := by
  simp only [State.performNow, hw, hfree, hrmw, Bool.false_eq_true, if_false]

/-- Settles O29: delayed accesses enter, lost ones fault, and those in this cube are performed at once. -/
theorem performedAccesses : Obligations.Performed_accesses := by
  unfold Obligations.Performed_accesses
  intro s s1 la ty cls sub ord scope v dst b old el p op now
  have hop : ∀ m, op m b.toNat = atomicFn sub ty b.toNat old.toNat m := fun m => rfl
  refine ⟨fun w hdelay => accesses_delayed hdelay, fun c hfar hheld => ?far, fun q hlost => ?lost,
    fun ⟨hdelay, hfree, hnear⟩ hload => ?load, fun ⟨hdelay, hfree, hnear⟩ hrmw => ?atomic⟩
  case far =>
    simp only [State.workPackets, Work.els, List.filterMap_cons, hfar, Option.bind_some, hheld, Option.any_none,
      Bool.false_eq_true, if_false, List.filterMap_nil]
    rfl
  case lost =>
    simp only [State.perform, if_pos hlost]
    rfl
  case load => exact accesses_near rfl hnear hdelay rfl rfl (performNow_load rfl hfree hload)
  case atomic =>
    simp only [hop] at hrmw ⊢
    exact accesses_near rfl hnear hdelay rfl rfl (performNow_atomic rfl hfree hrmw)

end Sys2Proof.Machine
end

section
namespace Sys2Proof.Machine
open Sys2Proof

/-! ## Guards that hold -/

theorem need_ok {b : Bool} {c : Nat} {v : Word} {s : State} (h : b = true) : need b c v s = .ok () s := by
  rw [h]; rfl

theorem needOp_ok {b : Bool} {s : State} (h : b = true) : needOp b s = .ok () s := need_ok h

theorem waitFor_ok {b : Bool} {s : State} (h : b = true) : waitFor b s = .ok () s := by
  rw [h]; rfl

theorem need4_ok {a : Word} {vs : List Nat} {s : State} (h : ∀ v ∈ vs, v % 4 = 0) : need4 a vs s = .ok () s :=
  need_ok (List.all_eq_true.mpr fun v hv => decide_eq_true (h v hv))

theorem need4_one {a : Word} {u : Nat} {s : State} (hu : u % 4 = 0) : need4 a [u] s = .ok () s :=
  need4_ok (List.forall_mem_singleton.mpr hu)

theorem need4_two {a : Word} {u v : Nat} {s : State} (hu : u % 4 = 0) (hv : v % 4 = 0) : need4 a [u, v] s = .ok () s :=
  need4_ok (List.forall_mem_cons.mpr ⟨hu, List.forall_mem_singleton.mpr hv⟩)

theorem need4_three {a : Word} {u v w : Nat} {s : State} (hu : u % 4 = 0) (hv : v % 4 = 0) (hw : w % 4 = 0) :
    need4 a [u, v, w] s = .ok () s :=
  need4_ok (List.forall_mem_cons.mpr ⟨hu, List.forall_mem_cons.mpr ⟨hv, List.forall_mem_singleton.mpr hw⟩⟩)

theorem emptyCopy_run (x : Ctx) (f : Fields) (s : State) : emptyCopy x f s = .ok () (s.emptyCopied x f.dst) := rfl

/-! ## CPY (R229, R230) -/

section
variable {f : Fields} {s s1 s2 s3 : State} {nw : Word} {gp lp : List (Nat × Nat)} {inward : Bool}
  (hn : rd64 s.me f.imm f.sb s = .ok nw s1) (hg : (s.me.x f.sa.toNat).toNat % 4 = 0) (hb : nw.toNat % 4 = 0)
include hn hg hb

theorem cpyLocal_empty (ha : (s.me.localAddr f.imm f.sc).toNat % 4 = 0) (h0 : nw.toNat = 0) :
    cpyLocal f inward s = .ok .seq ((s1.bumped [f.sc]).emptyCopied s.me f.dst) := by
  simp only [cpyLocal, M.run_bind_ok (M.run_getCtx s), M.run_bind_ok hn]
  rw [M.run_bind_ok (need4_two hg hb), M.run_bind_ok (need4_one ha), if_pos h0]
  rfl

theorem cpyLocal_enters (ha : (s.me.localAddr f.imm f.sc).toNat % 4 = 0) (h0 : nw.toNat ≠ 0)
    (hin : s1.localFault s1.cur (s.me.localAddr f.imm f.sc).toNat nw.toNat 1 = none)
    (hgp : globalParts f.space (s.me.x f.sa.toNat) nw.toNat (if inward then needSrc else needDst) s1 = .ok gp s2)
    (hlp : localParts (s.me.localAddr f.imm f.sc) nw.toNat inward s2 = .ok lp s3) (hroom : (s3.bumped [f.sc]).sbRoom 1) :
    cpyLocal f inward s = .ok .seq ((s3.bumped [f.sc]).copyIssued s.me f.dst .bytes f.clsM
      (if inward then segsOf gp lp else segsOf lp gp) inward (!inward) [rangesOf lp]) := by
  simp only [cpyLocal, M.run_bind_ok (M.run_getCtx s), M.run_bind_ok hn]
  rw [M.run_bind_ok (need4_two hg hb), M.run_bind_ok (need4_one ha), if_neg h0]
  simp only [M.run_bind_ok (M.run_get s1), hin, M.run_bind_ok hgp, M.run_bind_ok hlp, M.run_bind_ok (M.run_bump _ s3)]
  cases inward <;> exact M.run_bind_ok (pushCopy_ok hroom)

end

section
variable {f : Fields} {s s1 s2 s3 : State} {nw : Word} {dp sp : List (Nat × Nat)}
  (hn : rd64 s.me f.imm f.sb s = .ok nw s1) (hg : (s.me.x f.sa.toNat).toNat % 4 = 0) (hh : (s.me.x f.sc.toNat).toNat % 4 = 0)
include hn hg hh

theorem bodyCpyGlobal_empty (h0 : nw.toNat = 0) : bodyCpyGlobal f s = .ok .seq (s1.emptyCopied s.me f.dst) := by
  have hok : (nw.toNat ≤ 2 ^ 20 && !meets (s.me.x f.sa.toNat).toNat nw.toNat (s.me.x f.sc.toNat).toNat nw.toNat) = true := by
    simp [h0, meets, Nat.le_total]
  simp only [bodyCpyGlobal, M.run_bind_ok (M.run_getCtx s), M.run_bind_ok hn]
  rw [M.run_bind_ok (need4_two hg (by rw [h0])), M.run_bind_ok (need4_one hh), M.run_bind_ok (needOp_ok hok), if_pos h0]
  rfl

theorem bodyCpyGlobal_enters (hb : nw.toNat % 4 = 0) (hmax : nw.toNat ≤ 2 ^ 20) (hpos : 0 < nw.toNat)
    (hapart : meets (s.me.x f.sa.toNat).toNat nw.toNat (s.me.x f.sc.toNat).toNat nw.toNat = false)
    (hdp : globalParts f.space (s.me.x f.sa.toNat) nw.toNat needDst s1 = .ok dp s2)
    (hsp : globalParts f.space (s.me.x f.sc.toNat) nw.toNat needSrc s2 = .ok sp s3) (hroom : s3.sbRoom 0) :
    bodyCpyGlobal f s = .ok .seq (s3.copyIssued s.me f.dst .bytes f.clsM (segsOf sp dp) true true []) := by
  have hok : (nw.toNat ≤ 2 ^ 20 && !meets (s.me.x f.sa.toNat).toNat nw.toNat (s.me.x f.sc.toNat).toNat nw.toNat) = true := by
    rw [hapart, decide_eq_true hmax]; rfl
  simp only [bodyCpyGlobal, M.run_bind_ok (M.run_getCtx s), M.run_bind_ok hn]
  rw [M.run_bind_ok (need4_two hg hb), M.run_bind_ok (need4_one hh), M.run_bind_ok (needOp_ok hok),
    if_neg (Nat.ne_of_gt hpos)]
  simp only [M.run_bind_ok hdp, M.run_bind_ok hsp]
  exact M.run_bind_ok (pushCopy_ok hroom)

end

/-! ## CPY2D (R231) -/

/-- Where a row of the local side of CPY2D begins. -/
def Ctx.cpyRowL (x : Ctx) (f : Fields) (j : Nat) : Word :=
  x.a (f.sc.toNat - 0x80) + w64i ((x.d (f.sc.toNat - 0x80)).toInt * j)

/-- Where a row of the global side of CPY2D begins, whose third operand is n. -/
def Ctx.cpyRowG (x : Ctx) (f : Fields) (n j : Nat) : Word := x.x f.sa.toNat + w64i (sextI (n / 2 ^ 32) 32 * j)

/-- The lowest byte of the local rows of CPY2D. -/
def Ctx.cpyRowsLo (x : Ctx) (f : Fields) (n : Nat) : Nat :=
  Nat.min (x.a (f.sc.toNat - 0x80)).toNat (x.cpyRowL f (bits n 31 16 - 1)).toNat

/-- The bytes from the lowest to the highest of the local rows of CPY2D. -/
def Ctx.cpyRowsLen (x : Ctx) (f : Fields) (n : Nat) : Nat :=
  Nat.max (x.a (f.sc.toNat - 0x80)).toNat (x.cpyRowL f (bits n 31 16 - 1)).toNat + bits n 15 0 - x.cpyRowsLo f n

section
variable {f : Fields} {s s1 s2 s3 s4 : State} {nw : Word} {ext : List (Nat × Nat)} {gs ls : List (List (Nat × Nat))} {inward : Bool}
  (hn : rd64 s.me f.imm f.sb s = .ok nw s1)

/-- What CPY2D checks of its operands: the global and the local address and stride, and the bytes in all. -/
structure Cpy2dFits (x : Ctx) (f : Fields) (n : Nat) : Prop where
  global : (x.x f.sa.toNat).toNat % 4 = 0
  bytes : bits n 15 0 % 4 = 0
  gstride : (sextI (n / 2 ^ 32) 32).natAbs % 4 = 0
  local_ : (x.a (f.sc.toNat - 0x80)).toNat % 4 = 0
  lstride : (x.d (f.sc.toNat - 0x80)).toInt.natAbs % 4 = 0
  size : bits n 31 16 * bits n 15 0 ≤ 2 ^ 20

include hn

theorem cpy2d_empty (hfits : Cpy2dFits s.me f nw.toNat) (hr : bits nw.toNat 31 16 = 0) :
    cpy2d f inward s = .ok .seq (s1.emptyCopied s.me f.dst) := by
  obtain ⟨hg, hb, hgj, hl, hlj, hsize⟩ := hfits
  simp only [cpy2d, M.run_bind_ok (M.run_getCtx s), M.run_bind_ok hn]
  rw [M.run_bind_ok (need4_three hg hb hgj), M.run_bind_ok (need4_two hl hlj),
    M.run_bind_ok (need_ok (by simp [hr])), M.run_bind_ok (needOp_ok (decide_eq_true hsize)), if_pos hr]
  rfl

theorem cpy2d_enters (hfits : Cpy2dFits s.me f nw.toNat) (hr : bits nw.toNat 31 16 ≠ 0) (hb0 : bits nw.toNat 15 0 ≠ 0)
    (hin : ∀ j < bits nw.toNat 31 16, s1.localFault s1.cur (s.me.cpyRowL f j).toNat (bits nw.toNat 15 0) 1 = none)
    (hgs : (List.range (bits nw.toNat 31 16)).mapM
      (fun j => globalParts f.space (s.me.cpyRowG f nw.toNat j) (bits nw.toNat 15 0) (if inward then needSrc else needDst)) s1 = .ok gs s2)
    (hext : localParts (w64 (s.me.cpyRowsLo f nw.toNat)) (s.me.cpyRowsLen f nw.toNat) inward s2 = .ok ext s3)
    (hls : (List.range (bits nw.toNat 31 16)).mapM (fun j => localParts (s.me.cpyRowL f j) (bits nw.toNat 15 0) inward) s3 = .ok ls s4)
    (hroom : s4.sbRoom 1) :
    cpy2d f inward s = .ok .seq (s4.copyIssued s.me f.dst .bytes f.clsM
      (if inward then (List.zipWith segsOf gs ls).flatten else (List.zipWith segsOf ls gs).flatten) inward (!inward)
      [rangesOf ext]) := by
  obtain ⟨hg, hb, hgj, hl, hlj, hsize⟩ := hfits
  have hfind : (List.range (bits nw.toNat 31 16)).find?
      (fun j => (s1.localFault s1.cur (s.me.cpyRowL f j).toNat (bits nw.toNat 15 0) 1).isSome) = none :=
    List.find?_eq_none.mpr fun j hj => by simp [hin j (List.mem_range.mp hj)]
  simp only [cpy2d, M.run_bind_ok (M.run_getCtx s), M.run_bind_ok hn]
  rw [M.run_bind_ok (need4_three hg hb hgj), M.run_bind_ok (need4_two hl hlj),
    M.run_bind_ok (need_ok (by simp [hb0])), M.run_bind_ok (needOp_ok (decide_eq_true hsize)), if_neg hr]
  simp only [Ctx.cpyRowL, Ctx.cpyRowG, Ctx.cpyRowsLo, Ctx.cpyRowsLen] at hfind hgs hext hls
  simp only [M.run_bind_ok (M.run_get s1), hfind, M.run_bind_ok hgs, M.run_bind_ok hext, M.run_bind_ok hls]
  cases inward <;> exact M.run_bind_ok (pushCopy_ok hroom)

end

/-- Settles O30: the two sides of CPY and of CPY2D differ in the direction alone. -/
theorem copiesComplete : Obligations.Copies_complete := by
  unfold Obligations.Copies_complete
  intro f s s1 s2 s3 s4 nw gp lp ext gs ls
  refine ⟨fun hadm hn ⟨hg, hb, ha⟩ h0 => issue_runs rfl hadm (cpyLocal_empty hn hg hb ha h0),
    fun hadm hn ⟨hg, hb, ha⟩ h0 => issue_runs rfl hadm (cpyLocal_empty hn hg hb ha h0),
    fun hadm hn ⟨hg, hb, ha⟩ h0 hin hgp hlp hroom => issue_runs rfl hadm (cpyLocal_enters hn hg hb ha h0 hin hgp hlp hroom),
    fun hadm hn ⟨hg, hb, ha⟩ h0 hin hgp hlp hroom => issue_runs rfl hadm (cpyLocal_enters hn hg hb ha h0 hin hgp hlp hroom),
    fun hadm hn hg hb hh hmax hpos hapart hdp hsp hroom =>
      issue_runs rfl hadm (bodyCpyGlobal_enters hn hg hh hb hmax hpos hapart hdp hsp hroom),
    fun hadm hn hg h0 hh => issue_runs rfl hadm (bodyCpyGlobal_empty hn hg hh h0),
    fun hadm hn ⟨hg, hb, hgj, hl, hlj, hsize⟩ hr => issue_runs rfl hadm (cpy2d_empty hn ⟨hg, hb, hgj, hl, hlj, hsize⟩ hr),
    fun hadm hn ⟨hg, hb, hgj, hl, hlj, hsize⟩ hr => issue_runs rfl hadm (cpy2d_empty hn ⟨hg, hb, hgj, hl, hlj, hsize⟩ hr),
    fun hadm hn ⟨hg, hb, hgj, hl, hlj, hsize⟩ hr hb0 hin hgs hext hls hroom => issue_runs rfl hadm
      (cpy2d_enters hn ⟨hg, hb, hgj, hl, hlj, hsize⟩ hr hb0 hin hgs hext hls hroom),
    fun hadm hn ⟨hg, hb, hgj, hl, hlj, hsize⟩ hr hb0 hin hgs hext hls hroom => issue_runs rfl hadm
      (cpy2d_enters hn ⟨hg, hb, hgj, hl, hlj, hsize⟩ hr hb0 hin hgs hext hls hroom)⟩

/-! ## CPYL and CWAIT (R232, R234) -/

section
variable {f : Fields} {s s1 s2 s3 s4 s5 : State} {nw : Word} {de se : Nat × Nat} {sp dp : List (Nat × Nat)} {raw : Nat}
  {df sf : BitVec 8} (hdf : df = s.me.bank ((s.me.localAddr f.imm f.sa).toNat / 8192))
  (hsf : sf = s.me.bank ((s.me.localAddr f.imm f.sc).toNat / 8192))
  (hn : rd64 s.me f.imm f.sb s = .ok nw s1) (hd : (s.me.localAddr f.imm f.sa).toNat < 0xC000)
  (hc : (s.me.localAddr f.imm f.sc).toNat < 0xC000) (hty : (fmtIsBlock df == fmtIsBlock sf) = true → f.ty = 0)
  (hraw : raw = if fmtIsBlock df == fmtIsBlock sf then nw.toNat else nw.toNat * 32 * tyBytes f.tyN)
  (hde : sideExtent df (s.me.localAddr f.imm f.sa) raw nw.toNat s1 = .ok de s2)
  (hse : sideExtent sf (s.me.localAddr f.imm f.sc) raw nw.toNat s2 = .ok se s3)
include hdf hsf hn hd hc hty hraw hde hse

/-- CPYL up to its two sides. -/
theorem bodyCpyl_sides (hplain : (!fmtIsBlock df && !fmtIsBlock sf) = true → nw.toNat % 4 = 0) :
    bodyCpyl f s = (do
      if nw.toNat = 0 then
        bump [f.sa, f.sc]
        emptyCopy s.me f
      else
        needOp (!meets de.1 de.2 se.1 se.2)
        let sp ← localParts (w64 se.1) se.2 false
        let dp ← localParts (w64 de.1) de.2 true
        bump [f.sa, f.sc]
        let kind : CopyKind := if !fmtIsBlock df && !fmtIsBlock sf then .bytes
          else .convert sf df f.tyN (s.me.mode f) nw.toNat (s.me.localAddr f.imm f.sc).toNat (s.me.localAddr f.imm f.sa).toNat
        pushCopy s.me f kind 0 (segsOf sp dp) false false [rangesOf sp, rangesOf dp] sp dp
      pure .seq : M Ctl) s3 := by
  subst hdf hsf hraw
  have hcode : (!(fmtIsBlock (s.me.bank ((s.me.localAddr f.imm f.sa).toNat / 8192)) ==
      fmtIsBlock (s.me.bank ((s.me.localAddr f.imm f.sc).toNat / 8192))) || f.ty == 0) = true := by
    cases hbf : fmtIsBlock (s.me.bank ((s.me.localAddr f.imm f.sa).toNat / 8192)) ==
      fmtIsBlock (s.me.bank ((s.me.localAddr f.imm f.sc).toNat / 8192))
    · rfl
    · simp [hty hbf]
  have hunit : (fmtIsBlock (s.me.bank ((s.me.localAddr f.imm f.sa).toNat / 8192)) ||
      fmtIsBlock (s.me.bank ((s.me.localAddr f.imm f.sc).toNat / 8192)) || nw.toNat % 4 = 0) = true := by
    revert hplain
    cases fmtIsBlock (s.me.bank ((s.me.localAddr f.imm f.sa).toNat / 8192)) <;>
      cases fmtIsBlock (s.me.bank ((s.me.localAddr f.imm f.sc).toNat / 8192)) <;> simp
  simp only [bodyCpyl, M.run_bind_ok (M.run_getCtx s), M.run_bind_ok hn, M.run_bind_ok (need_ok (decide_eq_true hd)),
    M.run_bind_ok (need_ok (decide_eq_true hc)), M.run_bind_ok (needOp_ok hcode), M.run_bind_ok (needOp_ok hunit),
    M.run_bind_ok hde, M.run_bind_ok hse]

end

/-- Settles O31: CPYL after its checks is an empty copy or enters; CWAIT finds nothing to wait for and no failure. -/
theorem localCopiesAndWaits : Obligations.Local_copies_and_waits := by
  unfold Obligations.Local_copies_and_waits
  intro f s s1 s2 s3 s4 s5 nw de se sp dp
  refine ⟨fun hadm hn hd hc hty hplain hde hse h0 hapart hsp hdp hroom => issue_runs rfl hadm ?enters,
    fun hadm hn hd hc hty h0 hde hse => issue_runs rfl hadm ?empty,
    fun hadm hhi hctx hcopies herr => issue_runs rfl hadm ?cwait⟩
  case enters =>
    rw [bodyCpyl_sides rfl rfl hn hd hc hty rfl hde hse hplain, if_neg h0, M.run_bind_ok (needOp_ok (by rw [hapart]; rfl)),
      M.run_bind_ok hsp, M.run_bind_ok hdp, M.run_bind_ok (M.run_bump _ s5)]
    exact M.run_bind_ok (pushCopy_ok hroom)
  case empty =>
    rw [bodyCpyl_sides rfl rfl hn hd hc hty rfl hde hse (fun _ => by rw [h0]), if_pos h0]
    rfl
  case cwait =>
    have htag : ((s.me.x f.sa.toNat).toNat / 2 ^ 32 = 0 && (s.me.x f.sa.toNat).toNat / 2 ^ 28 == ctxIx s.cur) = true := by
      rw [decide_eq_true hhi, hctx, beq_self_eq_true]; rfl
    have hnone : raiseFailure ((s.me.x f.sa.toNat).toNat % 2 ^ 28) s = .ok () s := by
      simp only [raiseFailure, M.run_bind_ok (M.run_getCtx s), herr]
      rfl
    simp only [bodyCwait, M.run_bind_ok (M.run_getCtx s), M.run_bind_ok (M.run_ask _ s), M.run_bind_ok (needOp_ok htag),
      M.run_bind_ok (M.run_getCore s)]
    rw [M.run_bind_ok (waitFor_ok (by rw [hcopies]; rfl)), M.run_bind_ok hnone, M.run_pure]

end Sys2Proof.Machine
end

section
namespace Sys2Proof.Machine
open Sys2Proof

/-! ## TOBJ and TDEF (R99, R236, R237) -/

section
variable {f : Fields} {s s1 s2 s3 s4 s5 : State} {v l pa sz e esz : Nat}
  (hv : localRead (s.me.localAddr f.imm f.sa) 32 s = .ok v s1) (hl : localLoc (s.me.localAddr f.imm f.dst) 32 true s1 = .ok l s2)
  (hlegal : descLegal (BitVec.ofNat 256 v) = true)
  (hbase : translateLeaf (w64 (descBase (BitVec.ofNat 256 v))) { r := true, tile := true } s2 = .ok (pa, sz) s3)
  (hpage : inOnePage (descBase (BitVec.ofNat 256 v)) (2 ^ descTop (BitVec.ofNat 256 v)) sz = true)
include hv hl hlegal hbase hpage

theorem bodyTobj_plain (hfmt : fmtBlock (descFmt (BitVec.ofNat 256 v)) = false)
    (hw : localWrite (s.me.localAddr f.imm f.dst) 32 (descWith (BitVec.ofNat 256 v) pa 0).toNat (s3.bumped [f.sa, f.dst]) = .ok () s4) :
    bodyTobj f s = .ok .seq s4 := by
  simp only [bodyTobj, localAligned, M.run_bind_ok (M.run_getCtx s), M.run_bind_ok hv, M.run_bind_ok hl,
    M.run_bind_ok (needOp_ok hlegal), M.run_bind_ok hbase, M.run_bind_ok (needOp_ok hpage), hfmt, Bool.false_eq_true, if_false,
    M.run_bind_ok (M.run_pure (0 : Nat) s3), M.run_bind_ok (M.run_bump _ s3), M.run_bind_ok hw, M.run_pure]

theorem bodyTobj_block (hfmt : fmtBlock (descFmt (BitVec.ofNat 256 v)) = true)
    (hebase : translateLeaf (w64 (descEbase (BitVec.ofNat 256 v))) { r := true, tile := true } s3 = .ok (e, esz) s4)
    (hepage : inOnePage (descEbase (BitVec.ofNat 256 v))
      (2 ^ descTop (BitVec.ofNat 256 v) / 2 ^ descPitch (BitVec.ofNat 256 v) 0) esz = true)
    (hw : localWrite (s.me.localAddr f.imm f.dst) 32 (descWith (BitVec.ofNat 256 v) pa e).toNat (s4.bumped [f.sa, f.dst]) = .ok () s5) :
    bodyTobj f s = .ok .seq s5 := by
  simp only [bodyTobj, localAligned, M.run_bind_ok (M.run_getCtx s), M.run_bind_ok hv, M.run_bind_ok hl,
    M.run_bind_ok (needOp_ok hlegal), M.run_bind_ok hbase, M.run_bind_ok (needOp_ok hpage), hfmt, if_true,
    M.run_bind_ok hebase, M.run_bind_ok (needOp_ok hepage), pure_bind, M.run_bind_ok (M.run_bump _ s4), M.run_bind_ok hw, M.run_pure]

end

/-- A definition outside a re-stripe, of lines that have one home stack, enters its record. -/
theorem defineRec_run {f : Fields} {s : State} {x : Ctx} {d : Option (BitVec 256)} {r : DirRec} {ls : List Nat} {cube k : Nat}
    (hstill : s.trans.busy = false ∨ ∀ ln ∈ ls, s.entryOf (128 * ln) ≠ some s.trans.ent)
    (hhome : s.homeOfLines ls = some (cube, k)) :
    defineRec x f d r ls s = .ok () (s.defines (x.slotOf f.dst) (s.dirNo cube k) d r) := by
  have hwait : (!(s.trans.busy && ls.any (fun ln => s.entryOf (128 * ln) == some s.trans.ent))) = true := by
    obtain hidle | hother := hstill
    · rw [hidle]; rfl
    · have hnone : ls.any (fun ln => s.entryOf (128 * ln) == some s.trans.ent) = false :=
        List.any_eq_false.mpr fun ln hln => by simpa using hother ln hln
      rw [hnone, Bool.and_false]; rfl
  simp only [defineRec, M.run_bind_ok (M.run_ask _ s), M.run_bind_ok (waitFor_ok hwait), hhome]
  rfl

/-- Settles O32: TOBJ with and without a block format, and the two forms of TDEF over `defineRec`. -/
theorem objectsAreMade : Obligations.Objects_are_made := by
  unfold Obligations.Objects_are_made
  intro f s s1 s2 s3 s4 s5 v w l pa sz e esz cube k nw
  refine ⟨fun hadm hv hl hlegal hbase hpage hfmt hw => issue_runs rfl hadm (bodyTobj_plain hv hl hlegal hbase hpage hfmt hw),
    fun hadm hv hl hlegal hbase hpage hfmt hebase hepage hw =>
      issue_runs rfl hadm (bodyTobj_block hv hl hlegal hbase hpage hfmt hebase hepage hw),
    fun hadm hv hw hlegal hin hstill hhome => issue_runs rfl hadm ?box,
    fun hadm hn hpa halign hnalign hmin hmax hrun hstill hhome => issue_runs rfl hadm ?span⟩
  case box =>
    have hcorners : (List.range (descNdim (BitVec.ofNat 256 v) + 1)).all (fun i =>
        decide (((List.range (descNdim (BitVec.ofNat 256 v) + 1)).map (fun i => bits w (16 * i + 15) (16 * i))).getD i 0 ≤
          ((List.range (descNdim (BitVec.ofNat 256 v) + 1)).map (fun i => bits w (64 + 16 * i + 15) (64 + 16 * i))).getD i 0) &&
        decide (((List.range (descNdim (BitVec.ofNat 256 v) + 1)).map
          (fun i => bits w (64 + 16 * i + 15) (64 + 16 * i))).getD i 0 ≤ descExt (BitVec.ofNat 256 v) i)) = true :=
      List.all_eq_true.mpr fun i hi => by
        obtain ⟨hle, hext⟩ := hin i (List.mem_range.mp hi)
        exact Bool.and_eq_true_iff.mpr ⟨decide_eq_true hle, decide_eq_true hext⟩
    simp only [bodyTdefBox, localAligned, M.run_bind_ok (M.run_getCtx s), M.run_bind_ok hv, M.run_bind_ok hw,
      M.run_bind_ok (needOp_ok hlegal), M.run_bind_ok (needOp_ok hcorners), M.run_bind_ok (M.run_bump _ s2),
      M.run_bind_ok (defineRec_run hstill hhome), M.run_pure]
  case span =>
    have hok : (pa % 128 = 0 && nw.toNat % 128 = 0 && 128 ≤ nw.toNat && nw.toNat ≤ 65536 &&
        pa / 65536 == (pa + nw.toNat - 1) / 65536) = true := by
      rw [decide_eq_true halign, decide_eq_true hnalign, decide_eq_true hmin, decide_eq_true hmax, hrun, beq_self_eq_true]
      rfl
    simp only [bodyTdefSpan, M.run_bind_ok (M.run_getCtx s), M.run_bind_ok hn, M.run_bind_ok hpa, M.run_bind_ok (needOp_ok hok),
      M.run_bind_ok (defineRec_run hstill hhome), M.run_pure]

/-! ## Tenure (R101 to R107, R238 to R242) -/

/-- The handle names a record of the thread's launch. -/
theorem handleAt_ok {s : State} {h : Word} {k slot : Nat} {r : DirRec} (hslot : s.handleSlot h = some (k, slot, r))
    (hlid : r.lid = s.lidOf s.cur) : handleAt h s = .ok (k, slot, r) s := by
  simp only [handleAt, M.run_bind_ok (M.run_ask _ s), hslot, M.run_bind_ok (need_ok (decide_eq_true hlid)), M.run_pure]

/-- A TACQ enters as a long-latency instruction. -/
def State.tacqPending (s : State) (la : Nat) (h : Word) (write : Bool) (scope : Nat) (done : Bool) (flt : Option Exc) : State :=
  s.onMe (fun y => { y with pend := y.pend ++
    [{ pc := y.pc, idx := y.issued, left := la, done := done, result := .none, flags := 0, fault := flt,
       work := if done then .none else .tacq h write scope, since := none, sup := y.sup }] })

theorem pushTacq_run (f : Fields) (h : Word) (write done : Bool) (flt : Option Exc) (s : State) :
    pushTacq f h write done flt s = .ok () (s.tacqPending f.la.toNat h write f.scope done flt) := rfl

section
variable {f : Fields} {s : State}

theorem bodyTacq_held {y : Tenure} (hy : s.me.tens.find? (fun y => y.handle == s.me.x f.sa.toNat) = some y)
    (hw : y.write = true ∨ (f.xbits == 1) = false) :
    bodyTacq f s = .ok .seq ((s.noteHandle (fieldOf s.cur) (s.me.x f.sa.toNat)).tacqPending f.la.toNat (s.me.x f.sa.toNat)
      (f.xbits == 1) f.scope true none) := by
  have hok : (y.write || !(f.xbits == 1)) = true := by
    obtain h | h := hw
    · rw [h]; rfl
    · rw [h, Bool.not_false, Bool.or_true]
  simp only [bodyTacq, M.run_bind_ok (M.run_getCtx s), M.run_bind_ok (M.run_ask _ s), hy, M.run_bind_ok (needOp_ok hok),
    M.run_bind_ok (M.run_act _ s), M.run_bind_ok (pushTacq_run f _ _ _ _ _), M.run_pure]

section
variable (hnew : s.me.tens.find? (fun y => y.handle == s.me.x f.sa.toNat) = none)
  (hasks : s.me.asks (s.me.x f.sa.toNat) = false) (hroom : s.me.tens.length + s.me.asked < 16)
include hnew hasks hroom

theorem bodyTacq_stale (hslot : s.handleSlot (s.me.x f.sa.toNat) = none) :
    bodyTacq f s = .ok .seq (s.tacqPending f.la.toNat (s.me.x f.sa.toNat) (f.xbits == 1) f.scope true
      (some { cause := cStale, tval := s.me.x f.sa.toNat })) := by
  simp only [bodyTacq, M.run_bind_ok (M.run_getCtx s), M.run_bind_ok (M.run_ask _ s), hnew]
  rw [M.run_bind_ok (waitFor_ok (by rw [hasks]; rfl)), M.run_bind_ok (needOp_ok (decide_eq_true hroom))]
  simp only [M.run_bind_ok (M.run_ask _ s), hslot]
  rfl

theorem bodyTacq_asks {k slot : Nat} {r : DirRec} (hslot : s.handleSlot (s.me.x f.sa.toNat) = some (k, slot, r))
    (hlid : r.lid = s.lidOf s.cur) (asked : Bool × State)
    (hasked : asked = s.requestTenure s.cur k slot (s.me.x f.sa.toNat) (f.xbits == 1) f.scope
      (s.waiterFor s.cur k slot (s.me.x f.sa.toNat) (f.xbits == 1) f.scope)) :
    bodyTacq f s = .ok .seq ((asked.2.noteHandle (fieldOf s.cur) (s.me.x f.sa.toNat)).tacqPending f.la.toNat (s.me.x f.sa.toNat)
      (f.xbits == 1) f.scope asked.1 none) := by
  subst hasked
  simp only [bodyTacq, M.run_bind_ok (M.run_getCtx s), M.run_bind_ok (M.run_ask _ s), hnew]
  rw [M.run_bind_ok (waitFor_ok (by rw [hasks]; rfl)), M.run_bind_ok (needOp_ok (decide_eq_true hroom))]
  simp only [M.run_bind_ok (M.run_ask _ s), hslot]
  rw [M.run_bind_ok (need_ok (decide_eq_true hlid))]
  rfl

end

section
variable {k slot : Nat} {r : DirRec}

theorem bodyTtry_run (hslot : s.handleSlot (s.me.x f.sa.toNat) = some (k, slot, r)) (hlid : r.lid = s.lidOf s.cur)
    (hroom : s.me.tens.length + s.me.asked < 16) (ripe : Bool)
    (hripe : ripe = ((s.stack k).ripe (s.waiterFor s.cur k slot (s.me.x f.sa.toNat) (f.xbits == 1) f.scope) &&
      ((s.stack k).queueOf slot).isEmpty))
    (hmay : ripe = true → s.mayGrant k (s.waiterFor s.cur k slot (s.me.x f.sa.toNat) (f.xbits == 1) f.scope) = true) :
    bodyTtry f s = .ok .seq ((if ripe then s.grantTenure s.cur k slot (s.me.x f.sa.toNat) (f.xbits == 1) f.scope
      else s.splitAll k slot (f.xbits == 1)).onMe (fun y => y.setSlot (s.me.slotOf f.dst) (b2w ripe))) := by
  have hok : (!ripe || s.mayGrant k (s.waiterFor s.cur k slot (s.me.x f.sa.toNat) (f.xbits == 1) f.scope)) = true := by
    cases hr : ripe
    · rfl
    · rw [hmay hr]; rfl
  subst hripe
  simp only [bodyTtry, M.run_bind_ok (M.run_getCtx s), M.run_bind_ok (M.run_ask _ s), M.run_bind_ok (handleAt_ok hslot hlid),
    M.run_bind_ok (needOp_ok (decide_eq_true hroom)), M.run_bind_ok (waitFor_ok hok), M.run_bind_ok (M.run_act _ s),
    M.run_bind_ok (M.run_modCtx _ _), M.run_pure]

theorem bodyTrel_run (hslot : s.handleSlot (s.me.x f.sa.toNat) = some (k, slot, r)) (hlid : r.lid = s.lidOf s.cur)
    {y : Tenure} (hy : s.me.tens.find? (fun y => y.handle == s.me.x f.sa.toNat) = some y)
    (hrel : s.released) (href : s.meetsNoRefusal) : bodyTrel f s = .ok .seq (s.releaseTenure s.cur y f.scope) := by
  simp only [bodyTrel, M.run_bind_ok (M.run_getCtx s), M.run_bind_ok (M.run_ask _ s), M.run_bind_ok (handleAt_ok hslot hlid), hy,
    M.run_bind_ok (releaseWaits_ok hrel href), M.run_bind_ok (M.run_act _ s), M.run_pure]

theorem bodyTdrop_run (h0 : s.me.x f.sa.toNat ≠ 0) (hslot : s.handleSlot (s.me.x f.sa.toNat) = some (k, slot, r))
    (hlid : r.lid = s.lidOf s.cur) (howner : r.owner = some (s.cur, s.me.act))
    (hrel : s.me.tens.any (fun y => y.handle == s.me.x f.sa.toNat) = true → s.released ∧ s.meetsNoRefusal)
    (hstores : s.storesDone (s.me.x f.sa.toNat) = true) :
    bodyTdrop f s = .ok .seq ((s.endRecord k slot).modCtx s.cur (fun y =>
      { y with made := y.made.filter (fun m => m != s.me.x f.sa.toNat) })) := by
  have hown : (r.owner == some (s.cur, s.me.act)) = true := by rw [howner, beq_self_eq_true]
  simp only [bodyTdrop, M.run_bind_ok (M.run_getCtx s), M.run_bind_ok (M.run_ask _ s),
    M.run_bind_ok (needOp_ok (bne_iff_ne.mpr h0)), M.run_bind_ok (handleAt_ok hslot hlid), M.run_bind_ok (needOp_ok hown)]
  rw [M.run_ite_skip (fun hany => M.run_bind_ok (releaseWaits_ok (hrel hany).1 (hrel hany).2))]
  simp only [M.run_bind_ok (M.run_ask _ s), M.run_bind_ok (waitFor_ok hstores), M.run_bind_ok (M.run_act _ s), M.run_pure]

theorem bodyTqry_run {s1 : State} {w : Nat} (hn : rd64 s.me f.imm f.sb s = .ok (w64 w) s1) (hw : w ≤ 9)
    (hslot : s1.handleSlot (s.me.x f.sa.toNat) = some (k, slot, r)) (hlid : r.lid = s1.lidOf s1.cur)
    (hpart : r.part = s1.partOf s.cur) :
    bodyTqry f s = .ok .seq (s1.onMe (fun y => y.setSlot (s.me.slotOf f.dst)
      (if s.me.sup = false ∧ 2 ≤ w ∧ w ≤ 5 then 0 else s1.recWord k slot w))) := by
  have hword : (w64 w).toNat = w := by
    rw [w64, BitVec.toNat_ofNat]; omega
  have hhide : ((!s.me.sup && decide (2 ≤ w) && decide (w ≤ 5)) = true) = (s.me.sup = false ∧ 2 ≤ w ∧ w ≤ 5) := by
    simp only [Bool.and_eq_true, Bool.not_eq_true', decide_eq_true_eq, and_assoc]
  simp only [bodyTqry, M.run_bind_ok (M.run_getCtx s), M.run_bind_ok (M.run_ask _ s), M.run_bind_ok hn, hword,
    M.run_bind_ok (needOp_ok (decide_eq_true hw)), M.run_bind_ok (handleAt_ok hslot hlid), M.run_bind_ok (M.run_ask _ s1),
    M.run_bind_ok (need_ok (decide_eq_true hpart)), M.run_bind_ok (M.run_modCtx _ s1), M.run_pure, hhide]

/-- TSPLT of a record in write tenure of the thread, cut into the parts lo and up. -/
theorem bodyTsplt_run {s1 sp : State} {nw : Word} {y : Tenure} {q lo up : DirRec} {st : Stack} (hne : f.dst ≠ f.sa)
    (hn : rd64 s.me f.imm f.sb s = .ok nw s1) (hslot : s1.handleSlot (s.me.x f.sa.toNat) = some (k, slot, r))
    (hlid : r.lid = s1.lidOf s1.cur) (hy : s.me.tens.find? (fun y => y.handle == s.me.x f.sa.toNat && y.write) = some y)
    (hsp : sp = s1.spareOwners k ((s1.stack k).pieces slot)) (hst : st = (sp.stack k).rejoin slot)
    (hq : look? st.dir slot = some q) (hcut : cutRec (recNdim st q) q f.xbits nw.toNat = some (lo, up))
    (hroom : s.me.tens.length + s.me.asked < 16) (hslots : (if q.gen ≥ 2 ^ 24 - 1 then 2 else 1) ≤ st.freeSlots)
    (hquota : st.precs q.part + sp.fetchRecs k q.part + 1 ≤ (sp.part q.part).pquota) (p : Word × Word × State)
    (hp : p = (sp.setStack k st).splitTenure s.cur k slot (s.me.x f.sa.toNat) y.scope lo up) :
    bodyTsplt f s = .ok .seq (p.2.2.onMe (fun c => (c.setX f.sa.toNat p.1).setX f.dst.toNat p.2.1)) := by
  have hdirs : ((if q.gen ≥ 2 ^ 24 - 1 then 2 else 1) ≤ st.freeSlots &&
      st.precs q.part + sp.fetchRecs k q.part + 1 ≤ (sp.part q.part).pquota) = true := by
    rw [decide_eq_true hslots, decide_eq_true hquota]; rfl
  subst hst hsp hp
  simp only [bodyTsplt, M.run_bind_ok (M.run_getCtx s), M.run_bind_ok (M.run_ask _ s), M.run_bind_ok (needOp_ok (bne_iff_ne.mpr hne)),
    M.run_bind_ok hn, M.run_bind_ok (handleAt_ok hslot hlid), hy, M.run_bind_ok (M.run_act _ s1), M.run_bind_ok (M.run_ask _ _), hq,
    hcut, M.run_bind_ok (needOp_ok (decide_eq_true hroom)), M.run_bind_ok (need_ok hdirs)]
  rfl

end
end

/-- Settles O33: one lemma for each tenure instruction. -/
theorem tenureInstructions : Obligations.Tenure_instructions := by
  unfold Obligations.Tenure_instructions
  intro f s s1 k slot w nw r q lo up y
  refine ⟨fun hadm hy hw => ?held, fun hadm hnew hasks hroom hslot => ?stale, fun hadm hnew hasks hroom ⟨hslot, hlid⟩ => ?asks,
    fun hadm ⟨hslot, hlid⟩ hroom hmay => issue_runs rfl hadm (bodyTtry_run hslot hlid hroom _ rfl hmay),
    fun hadm ⟨hslot, hlid⟩ hy hrel href => issue_runs rfl hadm (bodyTrel_run hslot hlid hy hrel href),
    fun hadm h0 ⟨hslot, hlid⟩ howner hrel hstores => issue_runs rfl hadm (bodyTdrop_run h0 hslot hlid howner hrel hstores),
    fun hadm hn hw hslot hlid hpart => issue_runs rfl hadm (bodyTqry_run hn hw hslot hlid hpart),
    fun hadm hne hn hslot hlid hy hq hcut hroom hslots hquota => issue_runs rfl hadm
      (bodyTsplt_run hne hn hslot hlid hy rfl rfl hq hcut hroom hslots hquota _ rfl)⟩
  case held =>
    exact issue_completes_la (t := fun la => (s.noteHandle (fieldOf s.cur) (s.me.x f.sa.toNat)).tacqPending la
      (s.me.x f.sa.toNat) (f.xbits == 1) f.scope true none) hadm fun la => bodyTacq_held (f := { f with la := la }) hy hw
  case stale =>
    exact issue_completes_la (t := fun la => s.tacqPending la (s.me.x f.sa.toNat) (f.xbits == 1) f.scope true
      (some { cause := cStale, tval := s.me.x f.sa.toNat })) hadm
      fun la => bodyTacq_stale (f := { f with la := la }) hnew hasks hroom hslot
  case asks =>
    exact issue_completes_la (t := fun la => ((s.requestTenure s.cur k slot (s.me.x f.sa.toNat) (f.xbits == 1) f.scope
      (s.waiterFor s.cur k slot (s.me.x f.sa.toNat) (f.xbits == 1) f.scope)).2.noteHandle (fieldOf s.cur)
        (s.me.x f.sa.toNat)).tacqPending la (s.me.x f.sa.toNat) (f.xbits == 1) f.scope
      (s.requestTenure s.cur k slot (s.me.x f.sa.toNat) (f.xbits == 1) f.scope
        (s.waiterFor s.cur k slot (s.me.x f.sa.toNat) (f.xbits == 1) f.scope)).1 none) hadm
      fun la => bodyTacq_asks (f := { f with la := la }) hnew hasks hroom hslot hlid _ rfl

end Sys2Proof.Machine
end

section
namespace Sys2Proof.Machine
open Sys2Proof

/-! ## Entering the array queue (R243, R246, R249 to R253) -/

theorem needRows_ok {f : Fields} {s : State} (h : f.dst.toNat % 16 + (f.dst.toNat / 16 + 1) ≤ 16) :
    needRows f s = .ok (f.dst.toNat % 16, f.dst.toNat / 16 + 1) s := by
  have hok : decide ((rowsOf f).1 + (rowsOf f).2 ≤ 16) = true := decide_eq_true h
  rw [needRows, M.run_bind_ok (needOp_ok hok), M.run_pure]
  rfl

section
variable {f : Fields} {s s1 : State} {fmt : BitVec 8} {b : Nat} {els : List (Nat × Nat)}

theorem bodyMldbLocal_run (hblk : blockAt s.me (s.me.localAddr f.imm f.sa) s = .ok (fmt, b) s1)
    (hfit : b + 8 ≤ blkCapacity (fmtWidth fmt)) (hok : s1.blocksOk s1.cur (s.me.localAddr f.imm f.sa).toNat (fmtWidth fmt) 8 = true)
    (hroom : (s1.bumped [f.sa]).me.arrQ.length < 8) :
    bodyMldbLocal f s = .ok .seq ((s1.bumped [f.sa]).arrayQueued (.mldbLocal (s.me.localAddr f.imm f.sa).toNat fmt)) := by
  simp only [bodyMldbLocal, blocksFit, M.run_bind_ok (M.run_getCtx s), M.run_bind_ok hblk,
    M.run_bind_ok (needOp_ok (decide_eq_true hfit)), M.run_bind_ok (M.run_ask _ s1), M.run_bind_ok (need_ok hok),
    M.run_bind_ok (M.run_bump _ s1), M.run_bind_ok (pushArray_ok _ hroom), M.run_pure]

theorem bodyMmaLocal_run (hrows : f.dst.toNat % 16 + (f.dst.toNat / 16 + 1) ≤ 16)
    (ha : (s.me.localAddr f.imm f.sa).toNat < 0xC000) (bank : BitVec 8)
    (hbank : bank = s.me.bank ((s.me.localAddr f.imm f.sa).toNat / 8192)) (hblock : fmtIsBlock bank = true)
    (hplane : fmtPlane bank = true) (hblk : blockAt s.me (s.me.localAddr f.imm f.sa) s = .ok (fmt, b) s1)
    (hfit : b + (f.dst.toNat / 16 + 1) ≤ blkCapacity (fmtWidth bank)) (hvalid : s.me.bValid = true)
    (hok : s1.blocksOk s1.cur (s.me.localAddr f.imm f.sa).toNat (fmtWidth bank) (f.dst.toNat / 16 + 1) = true)
    (hroom : (s1.bumped [f.sa]).me.arrQ.length < 8) :
    bodyMmaLocal f s = .ok .seq ((s1.bumped [f.sa]).arrayQueued (.mmaLocal (f.dst.toNat % 16) (f.dst.toNat / 16 + 1)
      (s.me.k (f.sb.toNat - 0x98)) (s.me.localAddr f.imm f.sa).toNat bank)) := by
  subst hbank
  simp only [bodyMmaLocal, blocksFit, Ctx.scale, M.run_bind_ok (needRows_ok hrows), M.run_bind_ok (M.run_getCtx s),
    M.run_bind_ok (need_ok (decide_eq_true ha)), hblock, hplane, hvalid, Bool.and_self, M.run_bind_ok (needOp_ok rfl),
    M.run_bind_ok hblk, M.run_bind_ok (needOp_ok (decide_eq_true hfit)), M.run_bind_ok (M.run_ask _ s1), M.run_bind_ok (need_ok hok),
    M.run_bind_ok (M.run_bump _ s1), M.run_bind_ok (pushArray_ok _ hroom), M.run_pure]

/-- The elements of a tile fetch of some blocks: their mantissas and their exponents. -/
def fetchElems (els : List (Nat × Nat)) (fmt : BitVec 8) : List Elem :=
  els.flatMap (fun e =>
    [{ lane := 0, pa := e.1, bytes := 4 * fmtWidth fmt, named := 0 }, { lane := 0, pa := e.2, bytes := 1, named := 0 }])

theorem fetchOrder_ok {s : State} (hord : s.ordered (fetchElems els fmt)) : fetchOrder els fmt s = .ok () s :=
  inOrder_ok hord

theorem bodyMldbTile_run (hels : tileEls s.me f 8 s = .ok (els, fmt) s1) (hord : s1.ordered (fetchElems els fmt))
    (hroom : s1.me.arrQ.length < 8) :
    bodyMldbTile f s = .ok .seq (((s1.arrayQueued (.mldbTile els fmt)).addPins s.cur s1.me.arrSeq els).noteHandle (fieldOf s.cur)
      (s.me.x f.sa.toNat)) := by
  simp only [bodyMldbTile, M.run_bind_ok (M.run_getCtx s), M.run_bind_ok (M.run_ask _ s), M.run_bind_ok hels,
    M.run_bind_ok (fetchOrder_ok hord), M.run_bind_ok (pushArray_ok _ hroom), M.run_bind_ok (M.run_act _ _), M.run_pure]

theorem bodyMmaTile_run (hrows : f.dst.toNat % 16 + (f.dst.toNat / 16 + 1) ≤ 16)
    (hels : tileEls s.me f (f.dst.toNat / 16 + 1) s = .ok (els, fmt) s1) (hvalid : s.me.bValid = true)
    (hord : s1.ordered (fetchElems els fmt)) (hroom : s1.me.arrQ.length < 8) :
    bodyMmaTile f s = .ok .seq (((s1.arrayQueued (.mmaTile (f.dst.toNat % 16) (f.dst.toNat / 16 + 1) (s.me.k (f.sb.toNat - 0x98))
      els fmt)).addPins s.cur s1.me.arrSeq els).noteHandle (fieldOf s.cur) (s.me.x f.sa.toNat)) := by
  simp only [bodyMmaTile, Ctx.scale, M.run_bind_ok (needRows_ok hrows), M.run_bind_ok (M.run_getCtx s),
    M.run_bind_ok (M.run_ask _ s), M.run_bind_ok hels, M.run_bind_ok (needOp_ok hvalid), M.run_bind_ok (fetchOrder_ok hord),
    M.run_bind_ok (pushArray_ok _ hroom), M.run_bind_ok (M.run_act _ _), M.run_pure]

theorem bodyMclr_run (hrows : f.dst.toNat % 16 + (f.dst.toNat / 16 + 1) ≤ 16) (hroom : s.me.arrQ.length < 8) :
    bodyMclr f s = .ok .seq (s.arrayQueued (.mclr (f.dst.toNat % 16) (f.dst.toNat / 16 + 1))) := by
  simp only [bodyMclr, M.run_bind_ok (needRows_ok hrows), M.run_bind_ok (pushArray_ok _ hroom), M.run_pure]

end

/-- Settles O34: one lemma for each operation that the array takes. -/
theorem arrayOperations : Obligations.Array_operations := by
  unfold Obligations.Array_operations
  intro f s s1 fmt b els
  exact ⟨fun hadm hblk hfit hok hroom => issue_runs rfl hadm (bodyMldbLocal_run hblk hfit hok hroom),
    fun hadm hrows ha hblock hplane hblk hfit hvalid hok hroom => issue_runs rfl hadm
      (bodyMmaLocal_run hrows ha _ rfl hblock hplane hblk hfit hvalid hok hroom),
    fun hadm hels hord hroom => issue_runs rfl hadm (bodyMldbTile_run hels hord hroom),
    fun hadm hrows hels hvalid hord hroom => issue_runs rfl hadm (bodyMmaTile_run hrows hels hvalid hord hroom),
    fun hadm hrows hroom => issue_runs rfl hadm (bodyMclr_run hrows hroom)⟩

/-! ## Drains, status and commands (R254 to R259) -/

section
variable {f : Fields} {s : State}

section
variable {u : Nat} {held : State} (hrows : f.dst.toNat % 16 + (f.dst.toNat / 16 + 1) ≤ 16)
  (hfirst : s.me.drained = 0 → s.me.mhnd ≠ 0 ∧ s.mayDrain s.cur = true ∧ s.released)
  (hahead : s.me.arrQ.any (fun e => decide (e.seq < s.me.ticket.getD s.me.arrSeq)) = false)
  (hdrain : s.me.drain.getLsbD (f.dst.toNat % 16 + s.me.drained) = false)
  (hheld : held = s.onMe (fun y => { y with ticket := some (s.me.ticket.getD s.me.arrSeq) }))
  (hfree : held.freeCtx? (coreOf s.cur) = some u)
include hrows hfirst hahead hdrain hheld hfree

/-- MDRN up to the start of its next row. -/
theorem bodyMdrn_starts : bodyMdrn f s = (do
    if s.me.drained + 1 = f.dst.toNat / 16 + 1 then
      modCtx (fun y => { y with drained := 0, ticket := none })
      pure .seq
    else
      modCtx (fun y => { y with drained := s.me.drained + 1 })
      throw .stallKeep : M Ctl) (held.startDrain s.cur u (f.dst.toNat % 16 + s.me.drained)) := by
  subst hheld
  have hidle : ¬ (s.me.arrQ.any (fun e => decide (e.seq < s.me.ticket.getD s.me.arrSeq)) ||
      s.me.drain.getLsbD (f.dst.toNat % 16 + s.me.drained)) = true := by
    rw [hahead, hdrain]; decide
  simp only [bodyMdrn, M.run_bind_ok (needRows_ok hrows), M.run_bind_ok (M.run_getCtx s), M.run_bind_ok (M.run_ask _ s)]
  rw [M.run_ite_skip (fun h0 => ?first)]
  case first =>
    obtain ⟨hmhnd, hmay, hrel⟩ := hfirst h0
    rw [M.run_bind_ok (needOp_ok (bne_iff_ne.mpr hmhnd)), M.run_bind_ok (M.run_ask _ s), M.run_bind_ok (needOp_ok hmay),
      M.run_bind_ok (releaseOrder_ok hrel)]
  simp only [M.run_bind_ok (M.run_modCtx _ s), if_neg hidle, M.run_bind_ok (M.run_ask _ _), hfree, M.run_bind_ok (M.run_act _ _)]

theorem bodyMdrn_more (hmore : s.me.drained + 1 < f.dst.toNat / 16 + 1) :
    bodyMdrn f s = .error .stallKeep ((held.startDrain s.cur u (f.dst.toNat % 16 + s.me.drained)).onMe (fun y =>
      { y with drained := s.me.drained + 1 })) := by
  rw [bodyMdrn_starts hrows hfirst hahead hdrain hheld hfree, if_neg (Nat.ne_of_lt hmore), M.run_bind_ok (M.run_modCtx _ _), M.run_throw]

theorem bodyMdrn_last (hlast : s.me.drained + 1 = f.dst.toNat / 16 + 1) :
    bodyMdrn f s = .ok .seq ((held.startDrain s.cur u (f.dst.toNat % 16 + s.me.drained)).onMe (fun y =>
      { y with drained := 0, ticket := none })) := by
  rw [bodyMdrn_starts hrows hfirst hahead hdrain hheld hfree, if_pos hlast, M.run_bind_ok (M.run_modCtx _ _), M.run_pure]

end

theorem bodyMwait_run (hq : s.me.arrQ = []) (hdrain : s.me.drain = 0) (hpins : s.hasPins s.cur = false) (herr : s.me.arrErr = []) :
    bodyMwait f s = .ok .seq (s.acquire s.cur 0 (fun _ => true)) := by
  have hdone : (s.me.arrQ.isEmpty && s.me.drain == 0) = true := by rw [hq, hdrain]; rfl
  have hnone : raiseArrErr s = .ok () s := by
    simp only [raiseArrErr, M.run_bind_ok (M.run_getCtx s), herr, M.run_pure]
  simp only [bodyMwait, M.run_bind_ok (M.run_getCtx s), M.run_bind_ok (M.run_ask _ s), M.run_bind_ok (waitFor_ok hdone)]
  rw [M.run_bind_ok (waitFor_ok (by rw [hpins]; rfl)), M.run_bind_ok hnone, M.run_bind_ok (M.run_act _ s), M.run_pure]

/-- The entry of an MSTAT. -/
def State.mstatPend (s : State) (f : Fields) (la : Nat) : Pend :=
  { pc := s.me.pc, idx := s.me.issued, left := la, done := false, result := .none, flags := 0, fault := none,
    work := .mstat (f.imm.toNat % 32) (s.me.slotOf f.dst) s.me.arrSeq, since := none, sup := s.me.sup }

/-- An MSTAT enters. -/
def State.mstatQueued (s : State) (f : Fields) (la : Nat) : State :=
  s.onMe (fun y => { y with pend := y.pend ++ [s.mstatPend f la] }.settleMstat)

theorem bodyMstat_run (hsel : f.imm.toNat % 32 ≤ 16) : bodyMstat f s = .ok .seq (s.mstatQueued f f.la.toNat) := by
  simp only [bodyMstat, M.run_bind_ok (M.run_getCtx s), M.run_bind_ok (needOp_ok (decide_eq_true hsel)),
    M.run_bind_ok (M.run_modCtx _ s), M.run_pure, State.mstatQueued, State.mstatPend]

theorem bodyMcmd_sends {s1 : State} {ws : List Word} (hnew : s.me.mcmd = none)
    (hws : localRecord (s.me.localAddr f.imm f.sb) s = .ok ws s1) :
    bodyMcmd f s = .error .stallKeep ((s1.bumped [f.sb]).onMe (fun y => { y with mcmd := some (s.me.x f.sa.toNat, ws, none) })) := by
  simp only [bodyMcmd, M.run_bind_ok (M.run_getCtx s), hnew, M.run_bind_ok hws, M.run_bind_ok (M.run_bump _ s1),
    M.run_bind_ok (M.run_modCtx _ _), M.run_throw]

theorem bodyMcmd_answered {t : Word} {ws : List Word} {v : Nat} (hans : s.me.mcmd = some (t, ws, some v)) :
    bodyMcmd f s = .ok .seq (s.onMe (fun y => { y with mcmd := none }.setX f.dst.toNat (w64 v))) := by
  simp only [bodyMcmd, M.run_bind_ok (M.run_getCtx s), hans, M.run_bind_ok (M.run_modCtx _ s), M.run_pure]

end

/-- Settles O35: MDRN by its next row, the others as they run. -/
theorem arrayDrainsAndStatus : Obligations.Array_drains_and_status := by
  unfold Obligations.Array_drains_and_status
  intro f s s1 u v ws t
  exact ⟨fun hadm => issue_runs rfl hadm rfl,
    fun hadm hrows hfirst ⟨hahead, hdrain⟩ hfree hmore => issue_runs_waits rfl hadm
      (bodyMdrn_more hrows hfirst hahead hdrain rfl hfree hmore),
    fun hadm hrows hfirst ⟨hahead, hdrain⟩ hfree hlast => issue_runs rfl hadm
      (bodyMdrn_last hrows hfirst hahead hdrain rfl hfree hlast),
    fun hadm hq hdrain hpins herr => issue_runs rfl hadm (bodyMwait_run hq hdrain hpins herr),
    fun hadm hsel => issue_completes_la (t := fun la => s.mstatQueued f la) hadm fun la =>
      bodyMstat_run (f := { f with la := la }) hsel,
    fun hadm hnew hws => issue_runs_waits rfl hadm (bodyMcmd_sends hnew hws),
    fun hadm hans => issue_runs rfl hadm (bodyMcmd_answered hans)⟩

end Sys2Proof.Machine
end

section
namespace Sys2Proof.Machine
open Sys2Proof

/-! ## Messages (R35, R262 to R264) -/

/-- A message that may be sent is written into slot k. -/
theorem sendWords_run {f : Fields} {s : State} {l : Launch} {k : Nat} {words : List Word}
    (hhi : (s.me.x f.sa.toNat).toNat / 2 ^ 28 = 0) (hcube : bits (s.me.x f.sa.toNat).toNat 27 20 = s.cubeid)
    (hl : s.ctxLaunch? s.cur = some l) (hfield : l.fields.contains (fieldOfCore (bits (s.me.x f.sa.toNat).toNat 19 0)) = true)
    (hfull : l.channelFull (l.channelTo (coreOf s.cur) (bits (s.me.x f.sa.toNat).toNat 19 0) (msgQueue f)) (coreOf s.cur) = false)
    (hfrozen : (s.field (fieldOfCore (bits (s.me.x f.sa.toNat).toNat 19 0))).frozen = false)
    (hfirst : (s.queueFor s.cur (bits (s.me.x f.sa.toNat).toNat 19 0) (msgQueue f)).1 = true)
    (hslot : ((s.queueFor s.cur (bits (s.me.x f.sa.toNat).toNat 19 0) (msgQueue f)).2.core
      (bits (s.me.x f.sa.toNat).toNat 19 0)).freeMsg? (msgQueue f) = some k) :
    sendWords f words s = .ok .seq (s.sends f words l k) := by
  have htarget : ((s.me.x f.sa.toNat).toNat / 2 ^ 28 = 0 && bits (s.me.x f.sa.toNat).toNat 27 20 = s.cubeid) = true := by
    rw [decide_eq_true hhi, decide_eq_true hcube]; rfl
  simp only [sendWords, M.run_bind_ok (M.run_getCtx s), M.run_bind_ok (M.run_ask _ s), M.run_bind_ok (needOp_ok htarget), hl,
    M.run_bind_ok (need_ok hfield)]
  rw [M.run_bind_ok (waitFor_ok (by rw [hfull]; rfl))]
  simp only [M.run_bind_ok (M.run_ask _ s)]
  rw [M.run_bind_ok (waitFor_ok (by rw [hfrozen]; rfl))]
  simp only [M.run_lam, hfirst, M.run_bind_ok (M.run_ask _ _), hslot, Bool.not_true, Bool.false_eq_true, if_false, M.run_bind_ok (M.run_act _ _),
    M.run_pure]
  rfl

section
variable {f : Fields} {s : State} {j : Nat} (hheld : s.me.held = none) (hhand : (s.core (coreOf s.cur)).hand (f.imm.toNat % 2) = none)
  (hlost : s.me.lost = false)
include hheld hhand hlost

/-- Nothing is queued to be claimed. -/
theorem claim_none (hempty : (s.core (coreOf s.cur)).oldest (f.imm.toNat % 2) = none) : claim f s = .ok false s := by
  have hok : (s.me.held.isNone && ((s.core (coreOf s.cur)).hand (f.imm.toNat % 2)).isNone) = true := by
    rw [hheld, hhand]; rfl
  simp only [claim, M.run_bind_ok (M.run_getCtx s), M.run_bind_ok (M.run_ask _ s), M.run_bind_ok (M.run_getCore s),
    M.run_bind_ok (needOp_ok hok), hlost, Bool.false_eq_true, if_false, hempty, M.run_pure]

/-- The oldest message is claimed. -/
theorem claim_oldest (holdest : (s.core (coreOf s.cur)).oldest (f.imm.toNat % 2) = some j)
    (hgood : ((s.core (coreOf s.cur)).msg (f.imm.toNat % 2) j).bad = false) :
    claim f s = .ok true ((s.modCore (coreOf s.cur) (fun c => { c with
      msgs := put c.msgs (msgKey (f.imm.toNat % 2) j) { c.msg (f.imm.toNat % 2) j with st := .held } })).onMe
        (fun y => { y with held := some (f.imm.toNat % 2, j) }.setX f.dst.toNat
          (claimWord ((s.core (coreOf s.cur)).msg (f.imm.toNat % 2) j)))) := by
  have hok : (s.me.held.isNone && ((s.core (coreOf s.cur)).hand (f.imm.toNat % 2)).isNone) = true := by
    rw [hheld, hhand]; rfl
  simp only [claim, M.run_bind_ok (M.run_getCtx s), M.run_bind_ok (M.run_ask _ s), M.run_bind_ok (M.run_getCore s),
    M.run_bind_ok (needOp_ok hok), hlost, Bool.false_eq_true, if_false, holdest, if_neg (Bool.eq_false_iff.mp hgood), M.run_bind_ok (M.run_modCore _ _),
    M.run_bind_ok (M.run_modCtx _ _), M.run_pure]
  rfl

end

/-- Settles O36: SEND and SENDV are `sendWords`, POLL and WAITQ are `claim`. -/
theorem messages : Obligations.Messages := by
  unfold Obligations.Messages
  intro f s l k q j
  refine ⟨fun hadm hregs ⟨hhi, hcube, hl, hfield, hfull, hfrozen, hfirst, hslot⟩ => issue_runs rfl hadm ?send,
    fun hadm hregs ⟨hhi, hcube, hl, hfield, hfull, hfrozen, hfirst, hslot⟩ => issue_runs rfl hadm ?sendv,
    fun hadm ⟨hheld, hhand, hlost⟩ holdest hgood => issue_runs rfl hadm ?pollSome,
    fun hadm ⟨hheld, hhand, hlost⟩ hempty => issue_runs rfl hadm ?pollNone,
    fun hadm ⟨hheld, hhand, hlost⟩ holdest hgood => issue_runs rfl hadm ?waitqSome,
    fun hadm ⟨hheld, hhand, hlost⟩ hempty => issue_runs_waits rfl hadm ?waitqNone,
    fun hadm hheld => issue_runs rfl hadm ?rls⟩
  case send =>
    simp only [bodySend, M.run_bind_ok (M.run_getCtx s), M.run_bind_ok (needOp_ok (decide_eq_true hregs)),
      sendWords_run hhi hcube hl hfield hfull hfrozen hfirst hslot]
  case sendv =>
    simp only [bodySendv, M.run_bind_ok (M.run_getCtx s), M.run_bind_ok (needOp_ok (decide_eq_true hregs)),
      sendWords_run hhi hcube hl hfield hfull hfrozen hfirst hslot]
  case pollSome =>
    simp only [bodyPoll, M.run_bind_ok (claim_oldest hheld hhand hlost holdest hgood), Bool.not_true, Bool.false_eq_true, if_false,
      M.run_pure]
  case pollNone =>
    simp only [bodyPoll, M.run_bind_ok (claim_none hheld hhand hlost hempty), Bool.not_false, if_true,
      M.run_bind_ok (M.run_modCtx _ s), M.run_pure]
    rfl
  case waitqSome =>
    simp only [bodyWaitq, M.run_bind_ok (claim_oldest hheld hhand hlost holdest hgood), Bool.not_true, Bool.false_eq_true, if_false,
      M.run_pure]
  case waitqNone =>
    simp only [bodyWaitq, M.run_bind_ok (claim_none hheld hhand hlost hempty), Bool.not_false, if_true,
      M.run_bind_ok (M.run_modCtx _ s)]
    rfl
  case rls =>
    simp only [bodyRls, M.run_bind_ok (M.run_getCtx s), M.run_bind_ok (M.run_ask _ s), hheld, M.run_bind_ok (M.run_act _ s),
      M.run_bind_ok (M.run_modCtx _ _), M.run_pure]

/-! ## Task packets (R265, R315) -/

/-- SENDT writes its status. -/
def State.sendtEnds (s : State) (f : Fields) (v : Nat) : State :=
  s.onMe (fun y => { y with answer := none }.setX f.dst.toNat (w64 v))

/-- SENDT from the home of its target on. -/
def sendtHome (f : Fields) (me act pa : Nat) (ws : List Word) : M Ctl := do
  let finish := fun (v : Nat) => do
    modCtx (fun y => { y with answer := none }.setX f.dst.toNat (w64 v))
    pure Ctl.seq
  match ← ask (fun s => s.home? pa) with
  | none => finish 1
  | some h =>
    let lid := f.imm.toNat % 2 ^ 16
    if h.cube ≠ (← ask State.cubeid) then
      if !(← ask (fun s => s.reachable h.cube)) then finish 5
      else
        Machine.act (fun s => (s.sendTask me act h.cube pa lid ws).modCtx me (fun y => { y with answer := some none }))
        throw .stallKeep
    else
      let (v, place) ← ask (fun s => s.taskAnswer (s.partOf me) h.stack lid ws)
      if v ≠ 0 then finish v
      else
        match place with
        | none =>
          Machine.act (fun s => { s with sched := { s.sched with sendts := s.sched.sendts ++
            [{ tid := me, act := act, part := s.partOf me, stack := h.stack, lid := lid, words := ws }] } })
          modCtx (fun y => { y with answer := some none })
          throw .stallKeep
        | some fi =>
          Machine.act (fun s => s.acceptTask fi lid ws)
          finish 0

section
variable {f : Fields} {s s1 s2 : State} {pa : Nat} {ws : List Word}

/-- SENDT up to the home of its target. -/
theorem bodySendt_reads (hnew : s.me.answer = none) (hws : localRecord (s.me.localAddr 0 f.sb) s = .ok ws s1)
    (hphys : f.space = 2 → pa = (s.me.x f.sa.toNat).toNat ∧ s2 = s1)
    (hvirt : f.space ≠ 2 → translate (s.me.x f.sa.toNat) { r := true } s1 = .ok pa s2) (hrel : s2.released) :
    bodySendt f s = sendtHome f s.cur s.me.act pa ws (s2.bumped [f.sb]) := by
  by_cases h : f.space = 2
  · obtain ⟨rfl, rfl⟩ := hphys h
    simp only [bodySendt, M.run_bind_ok (M.run_getCtx s), M.run_bind_ok (M.run_ask _ s), hnew, M.run_bind_ok hws,
      if_pos h, M.run_bind_ok (M.run_pure _ _), M.run_bind_ok (releaseOrder_ok hrel), M.run_bind_ok (M.run_bump _ s2)]
    rfl
  · simp only [bodySendt, M.run_bind_ok (M.run_getCtx s), M.run_bind_ok (M.run_ask _ s), hnew, M.run_bind_ok hws,
      if_neg h, M.run_bind_ok (hvirt h), M.run_bind_ok (releaseOrder_ok hrel), M.run_bind_ok (M.run_bump _ s2)]
    rfl

end

section
variable {f : Fields} {s : State} {me act pa : Nat} {ws : List Word}

theorem sendtHome_nowhere (hhome : s.home? pa = none) : sendtHome f me act pa ws s = .ok .seq (s.sendtEnds f 1) := by
  simp only [sendtHome, M.run_bind_ok (M.run_ask _ s), hhome, M.run_bind_ok (M.run_modCtx _ s), M.run_pure, State.sendtEnds]

variable {h : HomeAt} (hhome : s.home? pa = some h)
include hhome

theorem sendtHome_unreachable (hcube : h.cube ≠ s.cubeid) (hreach : s.reachable h.cube = false) :
    sendtHome f me act pa ws s = .ok .seq (s.sendtEnds f 5) := by
  simp only [sendtHome, M.run_bind_ok (M.run_ask _ s), hhome, if_pos hcube, hreach, Bool.not_false, if_true,
    M.run_bind_ok (M.run_modCtx _ s), M.run_pure, State.sendtEnds]

theorem sendtHome_sends (hcube : h.cube ≠ s.cubeid) (hreach : s.reachable h.cube = true) :
    sendtHome f me act pa ws s = .error .stallKeep
      ((s.sendTask me act h.cube pa (f.imm.toNat % 2 ^ 16) ws).modCtx me (fun y => { y with answer := some none })) := by
  simp only [sendtHome, M.run_bind_ok (M.run_ask _ s), hhome, if_pos hcube, hreach, Bool.not_true, Bool.false_eq_true, if_false,
    M.run_bind_ok (M.run_act _ s), M.run_throw]

variable (hcube : h.cube = s.cubeid)
include hcube

theorem sendtHome_waits (hans : s.taskAnswer (s.partOf me) h.stack (f.imm.toNat % 2 ^ 16) ws = (0, none)) :
    sendtHome f me act pa ws s = .error .stallKeep (({ s with sched := { s.sched with sendts := s.sched.sendts ++
      [{ tid := me, act := act, part := s.partOf me, stack := h.stack, lid := f.imm.toNat % 2 ^ 16, words := ws }] } } :
        State).onMe (fun y => { y with answer := some none })) := by
  simp only [sendtHome, M.run_bind_ok (M.run_ask _ s), hhome, if_neg (not_not_intro hcube), hans, ne_eq, not_true_eq_false,
    if_false, M.run_bind_ok (M.run_act _ s), M.run_bind_ok (M.run_modCtx _ _), M.run_throw]

theorem sendtHome_refuses {v : Nat} (hans : (s.taskAnswer (s.partOf me) h.stack (f.imm.toNat % 2 ^ 16) ws).1 = v) (hv : v ≠ 0) :
    sendtHome f me act pa ws s = .ok .seq (s.sendtEnds f v) := by
  subst hans
  simp only [sendtHome, M.run_bind_ok (M.run_ask _ s), hhome, if_neg (not_not_intro hcube), if_pos hv,
    M.run_bind_ok (M.run_modCtx _ s), M.run_pure, State.sendtEnds]

theorem sendtHome_queues {fi : Nat} (hans : s.taskAnswer (s.partOf me) h.stack (f.imm.toNat % 2 ^ 16) ws = (0, some fi)) :
    sendtHome f me act pa ws s = .ok .seq ((s.acceptTask fi (f.imm.toNat % 2 ^ 16) ws).sendtEnds f 0) := by
  simp only [sendtHome, M.run_bind_ok (M.run_ask _ s), hhome, if_neg (not_not_intro hcube), hans, ne_eq, not_true_eq_false,
    if_false, M.run_bind_ok (M.run_act _ s), M.run_bind_ok (M.run_modCtx _ _), M.run_pure, State.sendtEnds]

end

/-- SENDT finds the status that came back. -/
theorem bodySendt_answered {f : Fields} {s : State} {v : Nat} (hans : s.me.answer = some (some v)) :
    bodySendt f s = .ok .seq (s.sendtEnds f v) := by
  simp only [bodySendt, M.run_bind_ok (M.run_getCtx s), M.run_bind_ok (M.run_ask _ s), hans, M.run_bind_ok (M.run_modCtx _ s),
    M.run_pure, State.sendtEnds]

/-- Settles O37: SENDT reads its record and goes on from the home of its target. -/
theorem taskPackets : Obligations.Task_packets := by
  unfold Obligations.Task_packets
  intro f s s1 s2 ws pa v fi h
  refine ⟨fun hadm hans => issue_runs rfl hadm (bodySendt_answered hans),
    fun hadm ⟨hnew, hws, hphys, hvirt, hrel⟩ hhome => issue_runs rfl hadm ?nowhere,
    fun hadm ⟨hnew, hws, hphys, hvirt, hrel⟩ hhome hcube hreach => issue_runs rfl hadm ?unreachable,
    fun hadm ⟨hnew, hws, hphys, hvirt, hrel⟩ hhome hcube hreach => issue_runs_waits rfl hadm ?sends,
    fun hadm ⟨hnew, hws, hphys, hvirt, hrel⟩ hhome hcube hans => issue_runs_waits rfl hadm ?waits,
    fun hadm ⟨hnew, hws, hphys, hvirt, hrel⟩ hhome hcube hans hv => issue_runs rfl hadm ?refuses,
    fun hadm ⟨hnew, hws, hphys, hvirt, hrel⟩ hhome hcube hans => issue_runs rfl hadm ?queues⟩
  all_goals rw [bodySendt_reads hnew hws hphys hvirt hrel]
  case nowhere => exact sendtHome_nowhere hhome
  case unreachable => exact sendtHome_unreachable hhome hcube hreach
  case sends => exact sendtHome_sends hhome hcube hreach
  case waits => exact sendtHome_waits hhome hcube hans
  case refuses => exact sendtHome_refuses hhome hcube hans hv
  case queues => exact sendtHome_queues hhome hcube hans

end Sys2Proof.Machine
end

section
namespace Sys2Proof.Machine
open Sys2Proof

/-! ## Spawning (R269, R270) -/

section
variable {f : Fields} {s s1 : State} {l : Launch} {ws : List Word} {fi : Nat}

theorem myLaunch_ok (hl : s.ctxLaunch? s.cur = some l) : myLaunch s = .ok l s := by
  simp only [myLaunch, M.run_bind_ok (M.run_ask _ s), hl, M.run_pure]

theorem spawnRecord_ok {x : Ctx} {range : Bool} (hws : localRecord (x.localAddr f.imm f.sa) s = .ok ws s1)
    (hlegal : taskLegal l.lpg ws = true) (hrng : taskRng ws = range) (hqb : range = true → taskQb ws = 0) :
    spawnRecord x f l range s = .ok ws s1 := by
  have hok : (taskLegal l.lpg ws && taskRng ws == range && (!range || taskQb ws == 0)) = true := by
    cases range
    · rw [hlegal, hrng]; rfl
    · rw [hlegal, hrng, hqb rfl]; rfl
  simp only [spawnRecord, M.run_bind_ok hws, M.run_bind_ok (needOp_ok hok), M.run_pure]

theorem placeTask_ok (hfi : s.spawnField (fieldOf s.cur) l = some fi) :
    placeTask l ws s = .ok () (s.enqueue fi (s.spawned s.cur l ws)) := by
  simp only [placeTask, M.run_bind_ok (M.run_ask _ s), hfi, M.run_act]

variable (hl : s.ctxLaunch? s.cur = some l) (hws : localRecord (s.me.localAddr f.imm f.sa) s = .ok ws s1)
  (hlegal : taskLegal l.lpg ws = true) (hrel : s1.released)
include hl hws hlegal hrel

theorem bodySpawn_queues (hrng : taskRng ws = false) (hqb : taskQb ws = 0) (hfi : s1.spawnField (fieldOf s1.cur) l = some fi) :
    bodySpawn f s = .ok .seq (((s1.enqueue fi (s1.spawned s1.cur l ws)).bumped [f.sa]).onMe (fun y => { y with answer := none })) := by
  simp only [bodySpawn, M.run_bind_ok (M.run_getCtx s), M.run_bind_ok (M.run_ask _ s), M.run_bind_ok (myLaunch_ok hl),
    M.run_bind_ok (spawnRecord_ok hws hlegal hrng (fun h => nomatch h)), M.run_bind_ok (releaseOrder_ok hrel), if_pos hqb,
    M.run_bind_ok (placeTask_ok hfi)]
  rfl

theorem bodySpawn_binds (hrng : taskRng ws = false) (hqb : taskQb ws ≠ 0) :
    bodySpawn f s = .ok .seq (((s1.modCore (coreOf s1.cur) (fun c =>
      c.setHand (taskQb ws - 2) (some (s1.spawned s.cur l ws)))).bumped [f.sa]).onMe (fun y => { y with answer := none })) := by
  simp only [bodySpawn, M.run_bind_ok (M.run_getCtx s), M.run_bind_ok (M.run_ask _ s), M.run_bind_ok (myLaunch_ok hl),
    M.run_bind_ok (spawnRecord_ok hws hlegal hrng (fun h => nomatch h)), M.run_bind_ok (releaseOrder_ok hrel), if_neg hqb]
  rfl

variable (hrng : taskRng ws = true) (hqb : taskQb ws = 0)
include hrng hqb

theorem bodySpawnr_empty (hempty : taskLo ws = taskHi ws) :
    bodySpawnr f s = .ok .seq ((s1.bumped [f.sa]).onMe (fun y => { y with answer := none })) := by
  simp only [bodySpawnr, M.run_bind_ok (M.run_getCtx s), M.run_bind_ok (myLaunch_ok hl),
    M.run_bind_ok (spawnRecord_ok hws hlegal hrng (fun _ => hqb)), M.run_bind_ok (releaseOrder_ok hrel),
    if_neg (not_not_intro hempty)]
  rfl

theorem bodySpawnr_queues (hsome : taskLo ws ≠ taskHi ws) (hfi : s1.spawnField (fieldOf s1.cur) l = some fi) :
    bodySpawnr f s = .ok .seq (((s1.enqueue fi (s1.spawned s1.cur l ws)).bumped [f.sa]).onMe (fun y => { y with answer := none })) := by
  simp only [bodySpawnr, M.run_bind_ok (M.run_getCtx s), M.run_bind_ok (myLaunch_ok hl),
    M.run_bind_ok (spawnRecord_ok hws hlegal hrng (fun _ => hqb)), M.run_bind_ok (releaseOrder_ok hrel), if_pos hsome,
    M.run_bind_ok (placeTask_ok hfi)]
  rfl

end

/-! ## DONE (R28, R271) -/

/-- Nothing lands where nothing is open. -/
theorem landThese_none {s : State} {t : Nat} {which : Pend → Bool} (h : (s.ctx t).pend = []) :
    s.landThese t which = s.modCtx t (fun x => { x with pend := x.pend.filter (fun p => !(which p && p.fault.isNone)) }) := by
  simp only [State.landThese, h, List.filter_nil, List.foldl_nil]

section
variable {s : State} (hpend : s.me.pend = [])
include hpend

theorem landThese_none_cur {which : Pend → Bool} : (s.landThese s.cur which).cur = s.cur := by
  rw [landThese_none hpend]; rfl

theorem landThese_none_core {which : Pend → Bool} (k : Nat) : (s.landThese s.cur which).core k = s.core k := by
  rw [landThese_none hpend]; rfl

theorem landThese_none_wrap {which : Pend → Bool} : (s.landThese s.cur which).wrap = s.wrap := by
  rw [landThese_none hpend]; rfl

theorem landThese_none_me {which : Pend → Bool} : (s.landThese s.cur which).me = s.me := by
  have hsame : ∀ x : Ctx, x.pend = [] → { x with pend := x.pend.filter (fun p => !(which p && p.fault.isNone)) } = x := by
    intro x hx
    rw [hx, List.filter_nil, ← hx]
  rw [State.me, landThese_none_cur hpend, landThese_none hpend, State.ctx_modCtx]
  exact hsame s.me hpend

theorem landThese_none_released {which : Pend → Bool} (hrel : s.released) : (s.landThese s.cur which).released := by
  obtain ⟨hacc, hlog⟩ := hrel
  refine ⟨?_, ?_⟩
  · rw [landThese_none_me hpend]; exact hacc
  · rw [landThese_none_me hpend, landThese_none_cur hpend, landThese_none_core hpend]; exact hlog

theorem landThese_none_meetsNoRefusal {which : Pend → Bool} (href : s.me.refusal = none) :
    (s.landThese s.cur which).meetsNoRefusal := by
  left; rw [landThese_none_me hpend]; exact href

theorem landAll_none : landAll s = .ok () (s.landThese s.cur (fun _ => true)) :=
  landAll_lands (by rw [hpend]; rfl)

end

/-- No failure of a copy is kept. -/
theorem raiseFailure_none {s : State} {tag : Nat} (herr : s.me.copyErr = []) : raiseFailure tag s = .ok () s := by
  simp only [raiseFailure, M.run_bind_ok (M.run_getCtx s), herr, List.filter_nil]
  rfl

/-- No failure of a tile fetch is kept. -/
theorem raiseArrErr_none {s : State} (herr : s.me.arrErr = []) : raiseArrErr s = .ok () s := by
  simp only [raiseArrErr, M.run_bind_ok (M.run_getCtx s), herr, M.run_pure]

/-- No copy of the thread is under way, and none has failed. -/
theorem doneCopies_none {s : State} (hcopies : (s.core (coreOf s.cur)).copies.any (fun y => y.tid == s.cur) = false)
    (hsb : (s.core (coreOf s.cur)).sb.any (fun y => y.tid == s.cur) = false) (herr : s.me.copyErr = []) :
    doneCopies s = .ok () s := by
  have hok : (!(s.core (coreOf s.cur)).copies.any (fun y => y.tid == s.cur) &&
      !(s.core (coreOf s.cur)).sb.any (fun y => y.tid == s.cur)) = true := by
    rw [hcopies, hsb]; rfl
  simp only [doneCopies, M.run_bind_ok (M.run_ask _ s), M.run_bind_ok (M.run_getCtx s), M.run_bind_ok (M.run_getCore s),
    M.run_bind_ok (waitFor_ok hok), raiseFailure_none herr]

/-- DONE of a thread that has nothing under way. -/
theorem doneSteps_run {s : State} (hpend : s.me.pend = [])
    (hcopies : (s.core (coreOf s.cur)).copies.any (fun y => y.tid == s.cur) = false)
    (hsb : (s.core (coreOf s.cur)).sb.any (fun y => y.tid == s.cur) = false) (hcerr : s.me.copyErr = []) (harr : s.me.arrQ = [])
    (haerr : s.me.arrErr = []) (href : s.me.refusal = none) (hrel : s.released)
    (hmade : s.me.made.all (s.landThese s.cur (fun _ => true)).storesDone = true)
    (hwrap : s.wrap = 0 ∨ (s.core (coreOf s.cur)).ctxb = 0) :
    doneSteps s = .ok .stay ((s.landThese s.cur (fun _ => true)).endActivation s.cur) := by
  have hland := landAll_none hpend
  have hme := landThese_none_me hpend (which := fun _ => true)
  have hcur := landThese_none_cur hpend (which := fun _ => true)
  have hcore := landThese_none_core hpend (which := fun _ => true)
  have hw := landThese_none_wrap hpend (which := fun _ => true)
  have hrel' := landThese_none_released hpend (which := fun _ => true) hrel
  have href' := landThese_none_meetsNoRefusal hpend (which := fun _ => true) href
  generalize s.landThese s.cur (fun _ => true) = t at *
  have hdone : doneCopies t = .ok () t :=
    doneCopies_none (by rw [hcur, hcore]; exact hcopies) (by rw [hcur, hcore]; exact hsb) (by rw [hme]; exact hcerr)
  have harr' : t.me.arrQ.isEmpty = true := by rw [hme, harr]; rfl
  have hpause : (t.wrap == 0 || (t.core (coreOf s.cur)).ctxb == 0) = true := by
    rw [hw, hcore]
    obtain h | h := hwrap <;> simp [h]
  have hmade' : t.me.made.all t.storesDone = true := by rw [hme]; exact hmade
  have href0 : t.me.refusal = none := by rw [hme]; exact href
  simp only [doneSteps, M.run_bind_ok (M.run_ask _ s), M.run_bind_ok hland, M.run_bind_ok hdone, M.run_bind_ok (M.run_getCtx t),
    M.run_bind_ok (waitFor_ok harr'), M.run_bind_ok (raiseArrErr_none (show t.me.arrErr = [] by rw [hme]; exact haerr)),
    href0]
  split <;> simp only [M.run_bind_ok (releaseOrder_ok hrel'), M.run_bind_ok (releaseWaits_ok hrel' href'),
    M.run_bind_ok (M.run_ask _ t), M.run_bind_ok (waitFor_ok hmade'), M.run_bind_ok (waitFor_ok hpause),
    M.run_bind_ok (M.run_act _ t), M.run_pure]

/-- A DONE that waits for nothing is not marked as ending. -/
theorem markEnding_ok {m : M Ctl} {s t : State} {c : Ctl} (h : m s = .ok c t) : markEnding m s = .ok c t := by
  simp only [markEnding, h]

/-! ## LNCH (R272) -/

section
variable {f : Fields} {s s1 s2 : State} {ws : List Word} {tags : List Bool} {pa : Nat}

theorem lnchEnd_run (w : Word) (s : State) :
    lnchEnd f w s = .ok .seq (s.onMe (fun y => { y with answer := none }.setX f.dst.toNat w)) := rfl

/-- The launch that an LNCH asks for, read by the state s2. -/
def State.lnchBlockOf (s s2 : State) (ws : List Word) : Launch :=
  { lid := 0, seq := 0, qsrc := false, name := BitVec.ofNat 32 (s2.ctxName s.cur), part := s.partOf s.cur,
    asid := s2.asidOf s.cur, block := ws }

variable (halign : (s.me.x f.sa.toNat + sextImm f.imm).toNat % 512 = 0) (hmay : bit (s.part (s.partOf s.cur)).pctl 1 = true)
  (hpa : translate (s.me.x f.sa.toNat + sextImm f.imm) { r := true, near := true } s = .ok pa s1) (hrel : s1.released)
  (hblock : lnchBlock (s.me.x f.sa.toNat + sextImm f.imm) pa s1 = .ok (ws, tags) s2)
include halign hmay hpa hrel hblock

theorem lnchSend_judges (hreqs : s2.sched.reqs = []) (hpending : s2.pending.length < 1024) (hdue : s2.entryDue = false) :
    lnchSend f s = lnchEnd f (s2.judgeLnch s.cur (s.lnchBlockOf s2 ws) tags).1 (s2.judgeLnch s.cur (s.lnchBlockOf s2 ws) tags).2 := by
  have honce : (s2.sched.reqs.isEmpty && decide (s2.pending.length < 1024) && !s2.entryDue) = true := by
    rw [hreqs, decide_eq_true hpending, hdue]; rfl
  simp only [lnchSend, M.run_bind_ok (M.run_getCtx s), M.run_bind_ok (M.run_ask _ s), M.run_bind_ok (need_ok (decide_eq_true halign)),
    M.run_bind_ok (need_ok hmay), M.run_bind_ok hpa, M.run_bind_ok (releaseOrder_ok hrel), M.run_bind_ok hblock,
    M.run_bind_ok (M.run_ask _ s2), if_pos honce]
  rfl

theorem lnchSend_waits (hwait : ¬ (s2.sched.reqs = [] ∧ s2.pending.length < 1024 ∧ s2.entryDue = false)) :
    lnchSend f s = .error .stallKeep (({ s2 with sched := { s2.sched with reqs := s2.sched.reqs ++
      [{ tid := s.cur, act := s.me.act, launch := s.lnchBlockOf s2 ws, tags := tags, at_ := s2.time }] } } : State).onMe
        (fun y => { y with answer := some none })) := by
  have hlater : ¬ (s2.sched.reqs.isEmpty && decide (s2.pending.length < 1024) && !s2.entryDue) = true := by
    simpa [and_assoc] using hwait
  simp only [lnchSend, M.run_bind_ok (M.run_getCtx s), M.run_bind_ok (M.run_ask _ s), M.run_bind_ok (need_ok (decide_eq_true halign)),
    M.run_bind_ok (need_ok hmay), M.run_bind_ok hpa, M.run_bind_ok (releaseOrder_ok hrel), M.run_bind_ok hblock,
    M.run_bind_ok (M.run_ask _ s2), if_neg hlater]
  rfl

end

/-- An LNCH that is accepted. -/
theorem judgeLnch_accepts {s : State} {t : Nat} {l : Launch} {tags : List Bool}
    (h : s.judge { l with seq := w64 (s.lnchSeq t) } tags (s.partEn l.part && s.asidOk l.part l.asid) = 0) :
    s.judgeLnch t l tags = (statusWord272 (s.lnchSeq t) s.nextLid 0,
      (s.accept { l with seq := w64 (s.lnchSeq t) }).modCore (coreOf t) (fun c => { c with lseq := s.lnchSeq t })) := by
  simp only [State.judgeLnch, if_pos h]

/-- An LNCH that is refused. -/
theorem judgeLnch_refuses {s : State} {t : Nat} {l : Launch} {tags : List Bool}
    (h : s.judge { l with seq := w64 (s.lnchSeq t) } tags (s.partEn l.part && s.asidOk l.part l.asid) ≠ 0) :
    s.judgeLnch t l tags = (statusWord272 0 0
      (s.judge { l with seq := w64 (s.lnchSeq t) } tags (s.partEn l.part && s.asidOk l.part l.asid)), s) := by
  simp only [State.judgeLnch, if_neg h]

/-! ## Work distributors (R273 to R275) -/

/-- The distributor that a WQRY names, as the state s has it. -/
def State.distOf (s : State) (f : Fields) : Dist := look (s.field (fieldOf s.cur)).dists (f.sb.toNat % 16) {}

/-- The ticket of the next query of the running thread's field. -/
def State.nextTicket (s : State) : Nat := (s.field (fieldOf s.cur)).queries.foldl (fun m q => Nat.max m q.ticket) 0 + 1

/-- The query that a WQRY makes, whose answer goes to the places ps. -/
def State.queryOf (s : State) (f : Fields) (t : Nat) (ps : List (Nat × Nat)) : Query :=
  { tid := t, ticket := s.nextTicket, core := coreOf t, lo := ((ps.head?).map Prod.fst).getD 0, item := (s.distOf f).answer }

/-- A WQRY takes its item: the distributor goes on, and the answer waits with its scoreboard entry. -/
def State.wqryAsked (s : State) (f : Fields) (t : Nat) (ps : List (Nat × Nat)) : State :=
  ((s.modField (fieldOf s.cur) (fun y =>
    { y with dists := put y.dists (f.sb.toNat % 16) (s.distOf f).advance, queries := y.queries ++ [s.queryOf f t ps] })).modCore
      (coreOf s.cur) (fun c =>
        { c with sb := c.sb ++ [{ rs := rangesOf ps, tid := t, seq := 0, ticket := s.nextTicket }] })).bumped [f.dst]

/-- A WQRY enters as a long-latency instruction of the context x. -/
def State.wqryPending (s : State) (x : Ctx) (la : Nat) : State :=
  s.onMe (fun y => { y with pend := y.pend ++
    [{ pc := x.pc, idx := x.issued, left := la, done := true, result := .none, flags := 0, fault := none,
       work := .none, since := none, sup := x.sup }] })

theorem bodyWqry_run {f : Fields} {s s1 : State} {ps : List (Nat × Nat)} (ha : (s.me.localAddr f.imm f.dst).toNat % 16 = 0)
    (hps : localParts (s.me.localAddr f.imm f.dst) 16 true s = .ok ps s1) (hroom : (s1.core (coreOf s1.cur)).sb.length < 16) :
    bodyWqry f s = .ok .seq ((s1.wqryAsked f s.cur ps).wqryPending s.me f.la.toNat) := by
  simp only [bodyWqry, M.run_bind_ok (M.run_getCtx s), M.run_bind_ok (M.run_ask _ s), M.run_bind_ok (need_ok (decide_eq_true ha)),
    M.run_bind_ok hps, M.run_bind_ok (M.run_getCore s1), M.run_bind_ok (waitFor_ok (decide_eq_true hroom)),
    M.run_bind_ok (M.run_getField s1)]
  rfl

/-- Settles O38: spawning, ranges, DONE, LNCH by what its request meets, and the distributors. -/
theorem taskInstructions : Obligations.Task_instructions := by
  unfold Obligations.Task_instructions
  intro f s s1 s2 l ws tags fi pa a0 r ps
  refine ⟨fun hadm ⟨hl, hws, hlegal, hrel, hcur⟩ hrng hqb hfi => issue_runs rfl hadm ?spawnQueues,
    fun hadm ⟨hl, hws, hlegal, hrel, hcur⟩ hrng hqb => issue_runs rfl hadm ?spawnBinds,
    fun hadm ⟨hl, hws, hlegal, hrel, hcur⟩ hrng hqb hempty =>
      issue_runs rfl hadm (bodySpawnr_empty hl hws hlegal hrel hrng hqb hempty),
    fun hadm ⟨hl, hws, hlegal, hrel, hcur⟩ hrng hqb hsome hfi => issue_runs rfl hadm ?spawnrQueues,
    fun hadm hr hend => issue_runs rfl hadm ?rnextEnd,
    fun hadm hr hmore => issue_runs rfl hadm ?rnextMore,
    fun hadm hpend hcopies hsb hcerr harr haerr href hrel hmade hwrap => issue_runs rfl hadm
      (markEnding_ok (doneSteps_run hpend hcopies hsb hcerr harr haerr href hrel hmade hwrap)),
    fun hadm ⟨hnew, halign, hmay, hpa, hrel, hblock, hcur⟩ ⟨hreqs, hpending, hdue⟩ hst => issue_runs rfl hadm ?lnchAccepts,
    fun hadm ⟨hnew, halign, hmay, hpa, hrel, hblock, hcur⟩ ⟨hreqs, hpending, hdue⟩ hst => issue_runs rfl hadm ?lnchRefuses,
    fun hadm ⟨hnew, halign, hmay, hpa, hrel, hblock, hcur⟩ hwait => issue_runs_waits rfl hadm ?lnchWaits,
    fun hadm hans => issue_runs rfl hadm ?lnchAnswered,
    fun hadm he => issue_runs rfl hadm ?wcfg,
    fun hadm ha hps hcur hroom => ?wqry⟩
  case spawnQueues =>
    rw [bodySpawn_queues hl hws hlegal hrel hrng hqb (hcur.symm ▸ hfi), hcur]
  case spawnBinds =>
    rw [bodySpawn_binds hl hws hlegal hrel hrng hqb, hcur]
  case spawnrQueues =>
    rw [bodySpawnr_queues hl hws hlegal hrel hrng hqb hsome (hcur.symm ▸ hfi), hcur]
  case rnextEnd =>
    simp only [bodyRnext, M.run_bind_ok (M.run_getCtx s), hr, if_pos (ge_iff_le.mpr hend), M.run_bind_ok (M.run_modCtx _ s), M.run_pure]
    rfl
  case rnextMore =>
    simp only [bodyRnext, M.run_bind_ok (M.run_getCtx s), hr, if_neg (Nat.not_le.mpr hmore), M.run_bind_ok (M.run_modCtx _ s),
      M.run_pure, ge_iff_le]
  case lnchAccepts =>
    simp only [bodyLnch, M.run_bind_ok (M.run_getCtx s), hnew,
      lnchSend_judges halign hmay hpa hrel hblock hreqs hpending hdue, judgeLnch_accepts (s := s2) (t := s.cur) (l := s.lnchBlockOf s2 ws) hst, lnchEnd_run]
    rfl
  case lnchRefuses =>
    simp only [bodyLnch, M.run_bind_ok (M.run_getCtx s), hnew,
      lnchSend_judges halign hmay hpa hrel hblock hreqs hpending hdue, judgeLnch_refuses (s := s2) (t := s.cur) (l := s.lnchBlockOf s2 ws) hst, lnchEnd_run]
    rfl
  case lnchWaits =>
    simp only [bodyLnch, M.run_bind_ok (M.run_getCtx s), hnew, lnchSend_waits halign hmay hpa hrel hblock hwait]
    rfl
  case lnchAnswered =>
    simp only [bodyLnch, M.run_bind_ok (M.run_getCtx s), hans, lnchEnd_run]
  case wcfg =>
    simp only [bodyWcfg, M.run_bind_ok (M.run_getCtx s), M.run_bind_ok (needOp_ok (decide_eq_true he)),
      M.run_bind_ok (M.run_modField _ s), M.run_pure]
  case wqry =>
    exact issue_completes_la (t := fun la => (s1.wqryAsked f s.cur ps).wqryPending s.me la) hadm
      fun la => bodyWqry_run (f := { f with la := la }) ha hps hroom

end Sys2Proof.Machine
end

section
namespace Sys2Proof.Machine
open Sys2Proof

/-! ## Barriers (R276, R277) -/

/-- A thread waits for the end of a phase. -/
def State.awaits? (s : State) (l : Launch) (t scope inst b phase : Nat) : State :=
  if (l.barrier scope inst b).phase = phase then s.onMe (fun y => { y with st := .parked, wait := .bar scope inst b phase })
  else s.acquire t scope (fun _ => true)

theorem awaitPhase_run {s : State} {l : Launch} (hl : s.ctxLaunch? s.cur = some l) (scope inst b phase : Nat) :
    awaitPhase scope inst b phase s = .ok () (s.awaits? l s.cur scope inst b phase) := by
  simp only [awaitPhase, State.awaits?, M.run_bind_ok (M.run_ask _ s), M.run_bind_ok (myLaunch_ok hl)]
  split <;> rfl

theorem arriveAt_run {f : Fields} {s : State} {l : Launch} (hrel : s.released) (hl : s.ctxLaunch? s.cur = some l) :
    arriveAt f s = .ok (l, (s.arrive s.cur l f.scope f.xbits).1) (s.arrive s.cur l f.scope f.xbits).2 := by
  simp only [arriveAt, M.run_bind_ok (M.run_ask _ s), M.run_bind_ok (releaseOrder_ok hrel), M.run_bind_ok (myLaunch_ok hl), M.run_lam,
    M.run_pure]

section
variable {f : Fields} {s : State} {l lb : Launch}

theorem bodyBar_run (hrel : s.released) (hl : s.ctxLaunch? s.cur = some l)
    (hcur : (s.arrive s.cur l f.scope f.xbits).2.cur = s.cur)
    (hlb : (s.arrive s.cur l f.scope f.xbits).2.ctxLaunch? s.cur = some lb) :
    bodyBar f s = .ok .seq ((s.arrive s.cur l f.scope f.xbits).2.awaits? lb s.cur f.scope (scopeInst f.scope s.cur) f.xbits
      (s.arrive s.cur l f.scope f.xbits).1) := by
  have hwait := awaitPhase_run (l := lb) (by rw [hcur]; exact hlb) f.scope (scopeInst f.scope s.cur) f.xbits
    (s.arrive s.cur l f.scope f.xbits).1
  rw [hcur] at hwait
  simp only [bodyBar, M.run_bind_ok (M.run_ask _ s), M.run_bind_ok (arriveAt_run hrel hl), M.run_bind_ok hwait, M.run_pure]

theorem bodyBara_run (hrel : s.released) (hl : s.ctxLaunch? s.cur = some l) :
    bodyBara f s = .ok .seq ((s.arrive s.cur l f.scope f.xbits).2.takes f.dst
      (w64 (2 ^ 20 + f.scope * 2 ^ 18 + f.xbits * 2 ^ 16 + (s.arrive s.cur l f.scope f.xbits).1))) := by
  simp only [bodyBara, M.run_bind_ok (arriveAt_run hrel hl), M.run_bind_ok (M.run_modCtx _ _), M.run_pure]
  rfl

theorem bodyBarw_run (htoken : (s.me.x f.sa.toNat).toNat / 2 ^ 20 = 1) (hl : s.ctxLaunch? s.cur = some l) :
    bodyBarw f s = .ok .seq (s.awaits? l s.cur (bits (s.me.x f.sa.toNat).toNat 19 18)
      (scopeInst (bits (s.me.x f.sa.toNat).toNat 19 18) s.cur) (bits (s.me.x f.sa.toNat).toNat 17 16)
      (bits (s.me.x f.sa.toNat).toNat 15 0)) := by
  simp only [bodyBarw, M.run_bind_ok (M.run_getCtx s), M.run_bind_ok (M.run_ask _ s), M.run_bind_ok (needOp_ok (decide_eq_true htoken)),
    M.run_bind_ok (awaitPhase_run hl _ _ _ _), M.run_pure]

end

/-! ## Wakes, sleep, events and ratios (R278 to R282) -/

section
variable {f : Fields} {s s1 : State} {l : Launch} {n : Word}

theorem bodyWake_run (hl : s.ctxLaunch? s.cur = some l) (hhi : (s.me.x f.sa.toNat).toNat / 2 ^ 32 = 0)
    (hcube : bits (s.me.x f.sa.toNat).toNat 27 20 = s.cubeid)
    (hfield : l.fields.contains (fieldOfCore (bits (s.me.x f.sa.toNat).toNat 19 0)) = true)
    (hn : rd64 s.me f.imm f.sb s = .ok n s1) (h0 : n ≠ 0) :
    bodyWake f s = .ok .seq (s1.post (.wakeArrival (bits (s.me.x f.sa.toNat).toNat 19 0 * 16 +
      bits (s.me.x f.sa.toNat).toNat 31 28) n)) := by
  have htarget : (bits (s.me.x f.sa.toNat).toNat 27 20 = s.cubeid &&
      l.fields.contains (fieldOfCore (bits (s.me.x f.sa.toNat).toNat 19 0))) = true := by
    rw [decide_eq_true hcube, hfield]; rfl
  simp only [bodyWake, M.run_bind_ok (M.run_getCtx s), M.run_bind_ok (myLaunch_ok hl), M.run_bind_ok (needOp_ok (decide_eq_true hhi)),
    M.run_bind_ok (M.run_ask _ s), M.run_bind_ok (need_ok htarget), M.run_bind_ok hn, M.run_bind_ok (needOp_ok (bne_iff_ne.mpr h0)),
    M.run_bind_ok (M.run_act _ s1), M.run_pure]

theorem bodySleep_notified (hn : rd64 s.me f.imm f.sa s = .ok n s1) (hmax : n.toNat < 2 ^ 40) (hword : s.me.notify ≠ 0) :
    bodySleep f s = .ok .seq (s1.onMe (fun y => { y.setX f.dst.toNat s.me.notify with notify := 0 })) := by
  simp only [bodySleep, M.run_bind_ok (M.run_getCtx s), M.run_bind_ok hn, M.run_bind_ok (needOp_ok (decide_eq_true hmax)),
    if_pos (bne_iff_ne.mpr hword), M.run_bind_ok (M.run_modCtx _ s1), M.run_pure]

theorem bodySleep_parks (hn : rd64 s.me f.imm f.sa s = .ok n s1) (hmax : n.toNat < 2 ^ 40) (hword : s.me.notify = 0) :
    bodySleep f s = .ok .seq (s1.onMe (fun y =>
      { y with st := .parked, wait := .sleep (if n.toNat = 0 then none else some (s1.sid + n.toNat)) f.dst })) := by
  have hnone : ¬ (s.me.notify != 0) = true := by rw [hword]; decide
  simp only [bodySleep, M.run_bind_ok (M.run_getCtx s), M.run_bind_ok hn, M.run_bind_ok (needOp_ok (decide_eq_true hmax)),
    if_neg hnone, M.run_bind_ok (M.run_ask _ s1), M.run_bind_ok (M.run_modCtx _ s1), M.run_pure]

/-- EVQ first sets whether copy events are enabled. -/
def State.cevonSet (s : State) (f : Fields) : State :=
  if f.imm.toNat / 2 % 4 ≥ 2 then s.onMe (fun y => { y with cevon := f.imm.toNat / 2 % 4 == 3 }) else s

/-- EVQ after that. -/
def evqTake (f : Fields) : M Ctl := do
  let x ← getCtx
  match x.events with
  | [] =>
    if f.imm.getLsbD 0 then
      modCtx (fun y => { y with st := .parked, wait := .event })
      throw .stallKeep
    else modCtx (fun y => y.setX f.dst.toNat 0)
  | r :: _ => modCtx (fun y => y.popEvent.setX f.dst.toNat r)
  pure .seq

theorem bodyEvq_eq (f : Fields) (s : State) : bodyEvq f s = evqTake f (s.cevonSet f) := by
  by_cases h : f.imm.toNat / 2 % 4 ≥ 2
  · simp only [bodyEvq, State.cevonSet, if_pos h, M.run_bind_ok (M.run_modCtx _ s)]
    rfl
  · simp only [bodyEvq, State.cevonSet, if_neg h]
    rfl

theorem evqTake_some (h : s.me.events ≠ []) :
    evqTake f s = .ok .seq (s.onMe (fun y => y.popEvent.setX f.dst.toNat (s.me.events.headD 0))) := by
  obtain ⟨r, rs, hev⟩ := List.exists_cons_of_ne_nil h
  simp only [evqTake, M.run_bind_ok (M.run_getCtx s), hev, M.run_bind_ok (M.run_modCtx _ s), M.run_pure, List.headD_cons]

theorem evqTake_none (h : s.me.events = []) (hpoll : f.imm.getLsbD 0 = false) :
    evqTake f s = .ok .seq (s.takes f.dst 0) := by
  simp only [evqTake, M.run_bind_ok (M.run_getCtx s), h, hpoll, Bool.false_eq_true, if_false, M.run_bind_ok (M.run_modCtx _ s), M.run_pure]
  rfl

theorem evqTake_parks (h : s.me.events = []) (hwait : f.imm.getLsbD 0 = true) :
    evqTake f s = .error .stallKeep (s.onMe (fun y => { y with st := .parked, wait := .event })) := by
  simp only [evqTake, M.run_bind_ok (M.run_getCtx s), h, hwait, if_true, M.run_bind_ok (M.run_modCtx _ s)]
  rfl

theorem bodyRatr_run (hl : s.ctxLaunch? s.cur = some l) :
    bodyRatr f s = .ok .seq ((if s.ratioAnswer l (s.me.x f.sa.toNat).toNat = 0 then
      (s.modLaunch l.lid (fun l => { l with request := w64 (s.me.x f.sa.toNat).toNat })).askRun else s).onMe (fun y =>
        y.setX f.dst.toNat (w64 (s.ratioAnswer l (s.me.x f.sa.toNat).toNat)))) := by
  simp only [bodyRatr, M.run_bind_ok (M.run_getCtx s), M.run_bind_ok (myLaunch_ok hl), M.run_bind_ok (M.run_ask _ s)]
  split <;> rfl

end

/-- Settles O39: barriers by the phase that they wait for, the others as they run. -/
theorem synchronization : Obligations.Synchronization := by
  unfold Obligations.Synchronization
  intro f s s1 l lb n
  refine ⟨fun hadm hrel hl hcur hlb hopen => issue_runs' rfl hadm (bodyBar_run hrel hl hcur hlb) (if_pos hopen),
    fun hadm hrel hl hcur hlb hover => issue_runs' rfl hadm (bodyBar_run hrel hl hcur hlb) (if_neg hover),
    fun hadm hrel hl => issue_runs rfl hadm (bodyBara_run hrel hl),
    fun hadm htoken hl hopen => issue_runs' rfl hadm (bodyBarw_run htoken hl) (if_pos hopen),
    fun hadm htoken hl hover => issue_runs' rfl hadm (bodyBarw_run htoken hl) (if_neg hover),
    fun hadm hl hhi hcube hfield hn h0 => issue_runs rfl hadm (bodyWake_run hl hhi hcube hfield hn h0),
    fun hadm hn hmax hword => issue_runs rfl hadm (bodySleep_notified hn hmax hword),
    fun hadm hn hmax hword => issue_runs rfl hadm (bodySleep_parks hn hmax hword),
    fun hadm hev => issue_runs rfl hadm ((bodyEvq_eq f s).trans (evqTake_some hev)),
    fun hadm hev hpoll => issue_runs rfl hadm ((bodyEvq_eq f s).trans (evqTake_none hev hpoll)),
    fun hadm hev hwait => issue_runs_waits rfl hadm ((bodyEvq_eq f s).trans (evqTake_parks hev hwait)),
    fun hadm => issue_runs rfl hadm rfl,
    fun hadm hl => issue_runs rfl hadm (bodyRatr_run hl)⟩

end Sys2Proof.Machine
end

section
namespace Sys2Proof.Machine
open Sys2Proof

/-! ## Handlers, HALT and IRQ (R283, R286, R341) -/

theorem foldl_makeReady_cur {α : Type} (g : α → Nat) (l : List α) (s : State) :
    (l.foldl (fun s e => s.makeReady (g e)) s).cur = s.cur := by
  induction l generalizing s with
  | nil => rfl
  | cons e l ih => rw [List.foldl_cons, ih]; rfl

theorem freeTqSlot_cur (s : State) (fi k : Nat) : (s.freeTqSlot fi k).cur = s.cur := by
  unfold State.freeTqSlot
  dsimp only
  split
  · rfl
  · rw [show List.foldl State.makeReady = List.foldl (fun s e => State.makeReady s (id e)) from rfl, foldl_makeReady_cur,
      foldl_makeReady_cur]
    rfl

theorem needSup_ok {s : State} (h : s.me.sup = true) : needSup s = .ok () s := by
  simp only [needSup, M.run_bind_ok (M.run_getCtx s), if_pos h, M.run_pure]

/-- Whether the record that an SRET would free is still the one of the thread's trap, or not the trap's at all. -/
def State.sretOwn (s : State) : Prop :=
  s.me.tslot ≠ some (bits s.me.tstat.toNat 13 8) ∨ s.ownRecord s.cur (bits s.me.tstat.toNat 13 8) = true

theorem sretOwn_iff (s : State) :
    (s.me.tslot != some (bits s.me.tstat.toNat 13 8) || s.ownRecord s.cur (bits s.me.tstat.toNat 13 8)) = true ↔ s.sretOwn := by
  rw [Bool.or_eq_true, bne_iff_ne]; rfl

theorem sret_eq (s : State) (o : Prop) [Decidable o] (ho : o ↔ s.sretOwn) :
    s.sret s.cur = (if bit s.me.tstat.toNat 15 = true ∧ o then s.freeTqSlot (fieldOf s.cur) (bits s.me.tstat.toNat 13 8) else s).onMe
      (fun y => { y with
        sup := bit s.me.tstat.toNat 0
        lone := if bit s.me.tstat.toNat 16 then some (if o then
          (look (s.field (fieldOf s.cur)).trec (bits s.me.tstat.toNat 13 8) []).getD 2 0 else s.me.resume) else none
        tslot := none
        loops := y.loops.filter (fun e => !e.atS) }) := by
  have hcur : (if bit s.me.tstat.toNat 15 = true ∧ o then s.freeTqSlot (fieldOf s.cur) (bits s.me.tstat.toNat 13 8) else s).cur =
      s.cur := by
    split
    · exact freeTqSlot_cur ..
    · rfl
  have hiff := (sretOwn_iff s).trans ho.symm
  rw [State.onMe, hcur]
  simp only [State.sret, State.me] at hiff ⊢
  simp only [Bool.and_eq_true, hiff]
  rfl

theorem bodySret_run {f : Fields} {s : State} (hsup : s.me.sup = true)
    (hlone : bit s.me.tstat.toNat 16 = true → bit s.me.tstat.toNat 15 = true) :
    bodySret f s = .ok (.goto s.me.tepc) (s.sret s.cur) := by
  have hok : (!(bit s.me.tstat.toNat 16 && !bit s.me.tstat.toNat 15)) = true := by
    cases h : bit s.me.tstat.toNat 16
    · rfl
    · rw [hlone h]; rfl
  simp only [bodySret, M.run_bind_ok (needSup_ok hsup), M.run_bind_ok (M.run_getCtx s), M.run_bind_ok (M.run_ask _ s),
    M.run_bind_ok (needOp_ok hok), M.run_bind_ok (M.run_act _ s), M.run_pure]

theorem bodyHalt_run {f : Fields} {s : State} (hsup : s.me.sup = true) :
    bodyHalt f s = .ok .seq (s.onMe (fun y => { y with st := .parked, wait := .halted })) := by
  simp only [bodyHalt, M.run_bind_ok (needSup_ok hsup), M.run_bind_ok (M.run_modCtx _ s), M.run_pure]

theorem bodyIrq_run {f : Fields} {s : State} (hmay : s.me.sup = true ∨
      (look (s.part (s.partOf s.cur)).pirq (f.imm.toNat / 64) 0).getLsbD (f.imm.toNat % 64) = true) (hrel : s.released) :
    bodyIrq f s = .ok .seq (s.raiseIid f.imm.toNat) := by
  have hok : ¬ (!s.me.sup && !(look (s.part (s.partOf s.cur)).pirq (f.imm.toNat / 64) 0).getLsbD (f.imm.toNat % 64)) = true := by
    obtain h | h := hmay
    · rw [h, Bool.not_true, Bool.false_and]; decide
    · rw [h, Bool.not_true, Bool.and_false]; decide
  simp only [bodyIrq, M.run_bind_ok (M.run_getCtx s), M.run_bind_ok (M.run_ask _ s), if_neg hok, M.run_bind_ok (releaseOrder_ok hrel),
    M.run_bind_ok (M.run_act _ s), M.run_pure]

/-! ## Control registers (R287, R299 to R302) -/

/-- Reading a word leaves which context is executed. -/
theorem rd64_cur {x : Ctx} {imm : BitVec 32} {c : BitVec 8} {v : Word} {s s1 : State} (h : rd64 x imm c s = .ok v s1) :
    s1.cur = s.cur := by
  cases hr : rd x 3 imm c s with
  | ok n t =>
    rw [rd64_of_rd hr] at h
    obtain ⟨-, rfl⟩ := EStateM.Result.ok.inj h
    exact State.onlyCores_cur (rd_frame hr)
  | error e t => simp only [rd64, M.run_bind, hr] at h; nomatch h

section
variable {f : Fields} {s s1 : State} {n : Nat} {v : Word}

theorem csrAccess_ok {reads writes : Bool} (hr : reads = true → csrReads s.me.sup n = true)
    (hw : writes = true → csrWrites s.me.sup n = true) (hacc : s.accessed) : csrAccess n reads writes s = .ok () s := by
  have hok : ¬ ((reads && !csrReads s.me.sup n) || (writes && !csrWrites s.me.sup n)) = true := by
    cases reads <;> cases writes <;> simp_all
  simp only [csrAccess, M.run_bind_ok (M.run_getCtx s), if_neg hok, accessesDone_ok hacc]

theorem csrPut_now {old : Word} {t : Nat} (hcur : s.cur = t) (h : ¬ (n = 0x204 ∧ ((s.setCsr t n v).field (fieldOf t)).surrHeld ≠ none)) :
    csrPut n v old s = .ok () (s.setCsr t n v) := by
  subst hcur
  have hnot : ¬ (decide (n = 0x204) && ((s.setCsr s.cur n v).field (fieldOf s.cur)).surrHeld.isSome) = true := by
    simpa [Option.isSome_iff_ne_none] using h
  simp only [csrPut, M.run_bind_ok (M.run_ask _ s), M.run_bind_ok (M.run_act _ s), M.run_bind_ok (M.run_ask _ _), if_neg hnot, M.run_pure]

theorem csrPut_held {old : Word} {t : Nat} (hcur : s.cur = t) (h : n = 0x204 ∧ ((s.setCsr t n v).field (fieldOf t)).surrHeld ≠ none) :
    csrPut n v old s = .error .stallKeep ((s.setCsr t n v).onMe (fun y => { y with answer := some (some old.toNat) })) := by
  subst hcur
  have hyes : (decide (n = 0x204) && ((s.setCsr s.cur n v).field (fieldOf s.cur)).surrHeld.isSome) = true := by
    simpa [Option.isSome_iff_ne_none] using h
  simp only [csrPut, M.run_bind_ok (M.run_ask _ s), M.run_bind_ok (M.run_act _ s), M.run_bind_ok (M.run_ask _ _), if_pos hyes,
    M.run_bind_ok (M.run_modCtx _ _), M.run_throw]

theorem csrHeld_over {was : Nat} (h : (s.field (fieldOf s.cur)).surrHeld = none) :
    csrHeld was s = .ok (w64 was) (s.onMe (fun y => { y with answer := none })) := by
  simp only [csrHeld, M.run_bind_ok (M.run_ask _ s), h, Option.isSome_none, Bool.false_eq_true, if_false,
    M.run_bind_ok (M.run_modCtx _ s), M.run_pure]

theorem bodyCsrr_run (hr : csrReads s.me.sup f.imm.toNat = true) (hacc : s.accessed) :
    bodyCsrr f s = .ok .seq (s.takes f.dst (s.csr s.cur f.imm.toNat)) := by
  simp only [bodyCsrr, M.run_bind_ok (M.run_ask _ s), M.run_bind_ok (csrAccess_ok (writes := false) (fun _ => hr) (fun h => nomatch h) hacc),
    M.run_bind_ok (M.run_modCtx _ s), M.run_pure]
  rfl

section
variable (hnew : s.me.answer = none) (hw : csrWrites s.me.sup f.imm.toNat = true) (hacc : s.accessed)
  (hv : rd64 s.me f.imm f.sa s = .ok v s1)
include hnew hw hacc hv

/-- CSRW up to its write. -/
theorem bodyCsrw_writes : bodyCsrw f s = (do csrPut f.imm.toNat v 0; pure .seq : M Ctl) (s1.bumped [f.sa]) := by
  simp only [bodyCsrw, M.run_bind_ok (M.run_getCtx s), hnew,
    M.run_bind_ok (csrAccess_ok (reads := false) (fun h => nomatch h) (fun _ => hw) hacc), M.run_bind_ok hv,
    M.run_bind_ok (M.run_bump _ s1)]

/-- CSRX up to its write. -/
theorem bodyCsrx_writes (hr : csrReads s.me.sup f.imm.toNat = true) :
    bodyCsrx f s = (do
      csrPut f.imm.toNat v (s1.csr s.cur f.imm.toNat)
      modCtx (fun y => y.setX f.dst.toNat (s1.csr s.cur f.imm.toNat))
      pure .seq : M Ctl) (s1.bumped [f.sa]) := by
  simp only [bodyCsrx, M.run_bind_ok (M.run_getCtx s), M.run_bind_ok (M.run_ask _ s), hnew,
    M.run_bind_ok (csrAccess_ok (fun _ => hr) (fun _ => hw) hacc), M.run_bind_ok hv, M.run_bind_ok (M.run_ask _ s1),
    M.run_bind_ok (M.run_bump _ s1), pure_bind]

end

theorem bodyCsrw_acted {was : Nat} (hans : s.me.answer = some (some was)) (h : (s.field (fieldOf s.cur)).surrHeld = none) :
    bodyCsrw f s = .ok .seq (s.onMe (fun y => { y with answer := none })) := by
  simp only [bodyCsrw, M.run_bind_ok (M.run_getCtx s), hans, M.run_bind_ok (csrHeld_over h), M.run_pure]

theorem bodyCsrx_acted {was : Nat} (hans : s.me.answer = some (some was)) (h : (s.field (fieldOf s.cur)).surrHeld = none) :
    bodyCsrx f s = .ok .seq ((s.onMe (fun y => { y with answer := none })).takes f.dst (w64 was)) := by
  simp only [bodyCsrx, M.run_bind_ok (M.run_getCtx s), M.run_bind_ok (M.run_ask _ s), hans, M.run_bind_ok (csrHeld_over h),
    M.run_bind_ok (M.run_modCtx _ _), M.run_pure]
  rfl

end

/-! ## TLBI (R288, R333) -/

section
variable {f : Fields} {s : State} {kind va who : Nat}

/-- The core drops the leaves that match. -/
def State.leavesDropped (s : State) (kind va who : Nat) : State :=
  s.modCore (coreOf s.cur) (fun c => { c with tlb := c.tlb.filter (fun e => !s.leafHit kind va who e) })

/-- A shootdown starts, and the instruction waits for it. -/
def State.shootsDown (s : State) (kind va who : Nat) : State :=
  (s.startShoot kind va who).2.onMe (fun y => { y with answer := some none, ticket := some (s.startShoot kind va who).1 })

theorem tlbi_local (hbc : f.imm.getLsbD 2 = false) : tlbi f kind va who s = .ok .seq (s.leavesDropped kind va who) := by
  simp only [tlbi, M.run_bind_ok (M.run_getCtx s), hbc, Bool.false_eq_true, if_false, M.run_bind_ok (M.run_act _ s), M.run_pure]
  rfl

theorem tlbi_shoots (hbc : f.imm.getLsbD 2 = true) (hnew : s.me.answer = none) (hacc : s.accessed) :
    tlbi f kind va who s = .error .stallKeep (s.shootsDown kind va who) := by
  simp only [tlbi, M.run_bind_ok (M.run_getCtx s), hbc, if_true, hnew, M.run_bind_ok (accessesDone_ok hacc), M.run_lam,
    M.run_bind_ok (M.run_modCtx _ _), M.run_throw]
  rfl

theorem tlbi_done {q : Nat} (hbc : f.imm.getLsbD 2 = true) (hans : s.me.answer = some none) (hq : s.me.ticket = some q)
    (hdone : s.shootDone q = true) :
    tlbi f kind va who s = .ok .seq (s.onMe (fun y => { y with answer := none, ticket := none })) := by
  simp only [tlbi, M.run_bind_ok (M.run_getCtx s), hbc, if_true, hans, hq, M.run_bind_ok (M.run_ask _ s), hdone, Bool.not_true,
    Bool.false_eq_true, if_false, M.run_bind_ok (M.run_modCtx _ s), M.run_pure]

variable (hsup : s.me.sup = true)
include hsup

theorem bodyTlbiVa_eq (hasid : (s.me.x f.sb.toNat).toNat < 2 ^ 16) :
    bodyTlbiVa f s = tlbi f 0 (s.me.x f.sa.toNat).toNat (s.me.x f.sb.toNat).toNat s := by
  have hspace : spaceOf (s.me.x f.sb.toNat) s = .ok (s.me.x f.sb.toNat).toNat s :=
    M.run_bind_ok (needOp_ok (decide_eq_true hasid))
  simp only [bodyTlbiVa, M.run_bind_ok (needSup_ok hsup), M.run_bind_ok (M.run_getCtx s), M.run_bind_ok hspace]

theorem bodyTlbiAs_eq (hasid : (s.me.x f.sb.toNat).toNat < 2 ^ 16) :
    bodyTlbiAs f s = tlbi f 1 0 (s.me.x f.sb.toNat).toNat s := by
  have hspace : spaceOf (s.me.x f.sb.toNat) s = .ok (s.me.x f.sb.toNat).toNat s :=
    M.run_bind_ok (needOp_ok (decide_eq_true hasid))
  simp only [bodyTlbiAs, M.run_bind_ok (needSup_ok hsup), M.run_bind_ok (M.run_getCtx s), M.run_bind_ok hspace]

theorem bodyTlbiAll_eq : bodyTlbiAll f s = tlbi f 2 0 (s.partOf s.cur) s := by
  simp only [bodyTlbiAll, M.run_bind_ok (needSup_ok hsup), M.run_bind_ok (M.run_ask _ s)]

end

/-- Settles O40: one lemma for each instruction, and three for the ways in which a TLBI goes on. -/
theorem systemInstructions : Obligations.System_instructions := by
  unfold Obligations.System_instructions
  intro f s s1 v q was
  dsimp only
  refine ⟨fun hadm hsup hlone => issue_runs' rfl hadm (bodySret_run hsup hlone) (sret_eq s _ Iff.rfl),
    fun hadm hsup => issue_runs rfl hadm (bodyHalt_run hsup),
    fun hadm hmay hrel => issue_runs rfl hadm (bodyIrq_run hmay hrel),
    fun hadm hr hacc => issue_runs rfl hadm (bodyCsrr_run hr hacc),
    fun hadm ⟨hnew, hw, hacc, hv⟩ hnow => issue_runs rfl hadm ?csrw,
    fun hadm hr ⟨hnew, hw, hacc, hv⟩ hnow => issue_runs rfl hadm ?csrx,
    fun hadm ⟨hnew, hw, hacc, hv⟩ hheld => issue_runs_waits rfl hadm ?csrwHeld,
    fun hadm hr ⟨hnew, hw, hacc, hv⟩ hheld => issue_runs_waits rfl hadm ?csrxHeld,
    fun hadm ⟨hans, hover⟩ => issue_runs rfl hadm (bodyCsrw_acted hans hover),
    fun hadm ⟨hans, hover⟩ => issue_runs rfl hadm (bodyCsrx_acted hans hover),
    fun hadm hsup hasid hbc => issue_runs rfl hadm ((bodyTlbiVa_eq hsup hasid).trans (tlbi_local hbc)),
    fun hadm hsup hasid hbc => issue_runs rfl hadm ((bodyTlbiAs_eq hsup hasid).trans (tlbi_local hbc)),
    fun hadm hsup hbc => issue_runs rfl hadm ((bodyTlbiAll_eq hsup).trans (tlbi_local hbc)),
    fun hadm hsup hasid hbc hnew hacc => issue_runs_waits rfl hadm ((bodyTlbiVa_eq hsup hasid).trans (tlbi_shoots hbc hnew hacc)),
    fun hadm hsup hasid hbc hnew hacc => issue_runs_waits rfl hadm ((bodyTlbiAs_eq hsup hasid).trans (tlbi_shoots hbc hnew hacc)),
    fun hadm hsup hbc hnew hacc => issue_runs_waits rfl hadm ((bodyTlbiAll_eq hsup).trans (tlbi_shoots hbc hnew hacc)),
    fun hadm hsup hasid hbc ⟨hans, hq, hdone⟩ =>
      issue_runs rfl hadm ((bodyTlbiVa_eq hsup hasid).trans (tlbi_done hbc hans hq hdone)),
    fun hadm hsup hasid hbc ⟨hans, hq, hdone⟩ =>
      issue_runs rfl hadm ((bodyTlbiAs_eq hsup hasid).trans (tlbi_done hbc hans hq hdone)),
    fun hadm hsup hbc ⟨hans, hq, hdone⟩ => issue_runs rfl hadm ((bodyTlbiAll_eq hsup).trans (tlbi_done hbc hans hq hdone))⟩
  all_goals have hcur : (s1.bumped [f.sa]).cur = s.cur := Eq.trans (show (s1.bumped [f.sa]).cur = s1.cur from rfl) (rd64_cur hv)
  case csrw => rw [bodyCsrw_writes hnew hw hacc hv, M.run_bind_ok (csrPut_now hcur hnow), M.run_pure]
  case csrx =>
    rw [bodyCsrx_writes hnew hw hacc hv hr, M.run_bind_ok (csrPut_now hcur hnow), M.run_bind_ok (M.run_modCtx _ _), M.run_pure]
    rfl
  case csrwHeld =>
    rw [bodyCsrw_writes hnew hw hacc hv]
    simp only [M.run_bind, csrPut_held hcur hheld]
    rfl
  case csrxHeld =>
    rw [bodyCsrx_writes hnew hw hacc hv hr]
    simp only [M.run_bind, csrPut_held hcur hheld]

end Sys2Proof.Machine
end

section
namespace Sys2Proof.Machine
open Sys2Proof

/-! ## TRAP and BKPT (R284, R286, R351) -/

theorem bodyBkpt_off {f : Fields} {s : State} (hpend : s.me.pend = []) (hoff : bit (s.part (s.partOf s.cur)).pctl 2 = false) :
    bodyBkpt f s = .error (.exc { cause := cBkpt, code := f.imm.toNat % 2 ^ 16 }) (s.landThese s.cur (fun _ => true)) := by
  have hpart : (s.landThese s.cur (fun _ => true)).part (s.partOf s.cur) = s.part (s.partOf s.cur) := by
    rw [landThese_none hpend]; rfl
  simp only [bodyBkpt, M.run_bind_ok (M.run_ask _ s), M.run_bind_ok (landAll_none hpend), M.run_bind_ok (M.run_ask _ _), hpart, hoff,
    Bool.false_eq_true, if_false, M.run_throw]

theorem bodyBkpt_on {f : Fields} {s t : State} {p : Nat} (hp : p = s.partOf s.cur) (hland : landAll s = .ok () t)
    (hon : bit (t.part p).pctl 2 = true) (hthawed : (t.part p).frozen = false) (hcalm : (t.part p).ecount = none) :
    bodyBkpt f s = .ok .stay ((t.assertEclipse p).modPart p (fun x =>
      { x with bkhit := true, esrc := BitVec.ofNat 32 (t.ctxName s.cur), bkBy := some (t.time, s.cur) })) := by
  have hfirst : ¬ ((t.part p).frozen || (t.part p).ecount.isSome) = true := by rw [hthawed, hcalm]; decide
  subst hp
  simp only [bodyBkpt, M.run_bind_ok (M.run_ask _ s), M.run_bind_ok hland, M.run_bind_ok (M.run_ask _ _), hon, if_true, if_neg hfirst,
    M.run_bind_ok (M.run_act _ t), M.run_pure]

/-! ## SYSC (R285, R371) -/

/-- A SYSC has begun: its checks are made once. -/
def State.syscBegun (s s1 : State) : State := if s.me.answer = none then s1.onMe (fun y => { y with answer := some none }) else s1

/-- Slot k of queue q is reserved for the reply to the running thread. -/
def State.replyReserved (s : State) (q k : Nat) : State :=
  (((s.queueFor s.cur (coreOf s.cur) q).2.unqueue s.cur (coreOf s.cur) q).modCore (coreOf s.cur) (fun c =>
    { c with msgs := put c.msgs (msgKey q k) { st := .reply s.cur s.me.act 0 } })).onMe (fun z =>
      { z with reserved := some (q, k, 0) })

theorem reserveReply_again {s : State} {q : Nat} (h : s.me.reserved.isSome = true) : reserveReply q s = .ok () s := by
  simp only [reserveReply, M.run_bind_ok (M.run_getCtx s), M.run_bind_ok (M.run_ask _ s), if_pos h, M.run_pure]

theorem reserveReply_takes {s : State} {q k : Nat} (h : s.me.reserved = none)
    (hturn : (s.queueFor s.cur (coreOf s.cur) q).1 = true)
    (hslot : ((s.queueFor s.cur (coreOf s.cur) q).2.core (coreOf s.cur)).freeMsg? q = some k) :
    reserveReply q s = .ok () (s.replyReserved q k) := by
  simp only [reserveReply, M.run_bind_ok (M.run_getCtx s), M.run_bind_ok (M.run_ask _ s), h, Option.isSome_none, Bool.false_eq_true,
    if_false, M.run_lam, hturn, Bool.not_true, M.run_bind_ok (M.run_ask _ _), hslot, M.run_bind_ok (M.run_act _ _), M.run_modCtx]
  rfl

/-- The record of a partition's service queue is written, and its tail moves on. -/
theorem postRecord_ok {s t : State} {p : Nat} {ws : List Word} (hon : bit (s.part p).pctl 3 = true) (hcerr : (s.part p).sqcerr = false)
    (hroom : (s.part p).ringFull = false) (hcap : (s.part p).capOk = true)
    (hw : s.writeWords ((s.part p).cap.addr + 64 * ((s.part p).sqtail % 2 ^ (s.part p).sqlogn)) ws = some t) :
    postRecord p ws s = .ok () ((t.modPart p (fun x => { x with sqtail := (x.sqtail + 1) % 2 ^ x.sqlogn })).raiseIid
      (s.part p).sqiid) := by
  have hopen : ¬ (!bit (s.part p).pctl 3 || (s.part p).sqcerr || (s.part p).ringFull) = true := by rw [hon, hcerr, hroom]; decide
  simp only [postRecord, M.run_bind_ok (M.run_ask _ s), if_neg hopen, hcap, Bool.not_true, Bool.false_eq_true, if_false,
    M.run_bind_ok (M.run_get s), hw, M.run_set]

/-- What a SYSC does once it has begun. -/
def syscRest (f : Fields) (act me q p : Nat) (ws : List Word) : M Ctl := do
  reserveReply q
  releaseKeep
  let lid ← ask (fun s => s.lidOf me)
  let name ← ask (fun s => s.ctxName me)
  postRecord p (ws.take 7 ++ [w64 (name + lid * 2 ^ 48)])
  let y ← getCtx
  let (_, k, _) := y.reserved.getD (q, 0, 0)
  let n ← ask (fun s => (s.part p).sysSeq)
  Machine.act (fun s => s.modPart p (fun z => { z with sysSeq := (n + 1) % 2 ^ 32, outst := z.outst ++ [(n, me, act, q, k)] }))
  bump [f.sa]
  modCtx (fun y => { y with reserved := none, answer := none }.setX f.dst.toNat (w64 n))
  pure .seq

section
variable {f : Fields} {s s1 : State} {ws : List Word} {q : Nat}

theorem bodySysc_begins (hq : q = f.sb.toNat % 2) (hws : localRecord (s.me.localAddr f.imm f.sa) s = .ok ws s1) (hcur : s1.cur = s.cur)
    (hnew : s.me.answer = none → (s1.core (coreOf s.cur)).hand q = none ∧ bit (s1.part (s1.partOf s.cur)).pctl 3 = true) :
    bodySysc f s = syscRest f s.me.act s.cur q (s1.partOf s.cur) ws (s.syscBegun s1) := by
  subst hq
  by_cases h : s.me.answer = none
  · obtain ⟨hhand, hon⟩ := hnew h
    have hfree : ((s1.core (coreOf s1.cur)).hand (f.sb.toNat % 2)).isNone = true := by rw [hcur, hhand]; rfl
    simp only [bodySysc, State.syscBegun, M.run_bind_ok (M.run_getCtx s), M.run_bind_ok (M.run_ask _ s), M.run_bind_ok hws,
      M.run_bind_ok (M.run_ask _ s1), h, Option.isNone_none, if_true, M.run_bind_ok (M.run_getCore s1),
      M.run_bind_ok (needOp_ok hfree), hon, Bool.not_true, Bool.false_eq_true, if_false, M.run_bind_ok (M.run_modCtx _ s1)]
    rfl
  · have hbegun : ¬ s.me.answer.isNone = true := by simpa using h
    simp only [bodySysc, State.syscBegun, M.run_bind_ok (M.run_getCtx s), M.run_bind_ok (M.run_ask _ s), M.run_bind_ok hws,
      M.run_bind_ok (M.run_ask _ s1), if_neg hbegun, if_neg h]
    rfl

/-- SYSC from its reservation on. -/
theorem syscRest_run {held s3 : State} {act me p k n0 : Nat} (hres : reserveReply q s = .ok () held) (hrel : held.released)
    (hpost : postRecord p (ws.take 7 ++ [w64 (held.ctxName me + held.lidOf me * 2 ^ 48)]) held = .ok () s3)
    (hslot : s3.me.reserved = some (q, k, n0)) :
    syscRest f act me q p ws s = .ok .seq (((s3.modPart p (fun z => { z with
      sysSeq := ((s3.part p).sysSeq + 1) % 2 ^ 32, outst := z.outst ++ [((s3.part p).sysSeq, me, act, q, k)] })).bumped [f.sa]).onMe
        (fun y => { y with reserved := none, answer := none }.setX f.dst.toNat (w64 (s3.part p).sysSeq))) := by
  have hkeep : releaseKeep held = .ok () held := by simp only [releaseKeep, releaseOrder_ok hrel]
  simp only [syscRest, M.run_bind_ok hres, M.run_bind_ok hkeep, M.run_bind_ok (M.run_ask _ held), M.run_bind_ok hpost,
    M.run_bind_ok (M.run_getCtx s3), hslot, Option.getD_some, M.run_bind_ok (M.run_ask _ s3), M.run_bind_ok (M.run_act _ s3),
    M.run_bind_ok (M.run_bump _ _), M.run_bind_ok (M.run_modCtx _ _), M.run_pure]

theorem syscBegun_cur (s s1 : State) : (s.syscBegun s1).cur = s1.cur := by
  unfold State.syscBegun
  split <;> rfl

theorem syscBegun_reserved (s s1 : State) : (s.syscBegun s1).me.reserved = s1.me.reserved := by
  unfold State.syscBegun
  split
  · simp only [State.onMe, State.me, State.modCtx_cur, State.ctx_modCtx]
  · rfl

end

/-- A body that raises its own exception, of a cause other than the operand fault. -/
theorem issue_raises {op : Op} {body : Fields → M Ctl} {f : Fields} {s t : State} {c code : Nat} (hla : body { f with la := 0 } = body f)
    (hadm : s.admits op f) (hb : body f s = .error (.exc { cause := c, code := code }) t) (hc : (decide (c = cIllegal) || decide (c = cOperand)) = false) :
    issue op body f s = .next (s.takeExact s.cur { cause := c, code := code }) := by
  rw [issue_faults hadm (by rw [body_aloneFields hla]; exact hb), fillTval, if_neg (Bool.eq_false_iff.mp hc)]

/-- Settles O41: TRAP and BKPT raise their exception, SYSC goes through its steps, BKPT asserts Eclipse. -/
theorem trapsServiceCallsBreakpoints : Obligations.Traps_service_calls_breakpoints := by
  unfold Obligations.Traps_service_calls_breakpoints
  intro f s s1 s2 ws q k n0
  refine ⟨fun hadm => issue_raises rfl hadm rfl (by decide), fun hadm hpend hoff => issue_raises rfl hadm (bodyBkpt_off hpend hoff) (by decide),
    fun hadm hq hws hcur hres hnew hturn hheldCur hslot hrel hon hcerr hroom hcap hw hcur2 hslot3 => issue_runs rfl hadm ?sysc,
    fun hadm hall hon hthawed hcalm => issue_runs rfl hadm (bodyBkpt_on rfl (landAll_lands hall) hon hthawed hcalm)⟩
  case sysc =>
    rw [bodySysc_begins hq hws hcur hnew]
    refine syscRest_run ?_ hrel (postRecord_ok hon hcerr hroom hcap hw) hslot3
    have hbegun := syscBegun_reserved s s1
    have hbegunCur : (s.syscBegun s1).cur = s.cur := (syscBegun_cur s s1).trans hcur
    rw [hres] at hbegun
    split
    next h => exact reserveReply_again (s := s.syscBegun s1) (by rw [hbegun]; exact h)
    next h =>
      have hnone : s.me.reserved = none := by simpa using h
      obtain ⟨hfirst, hfree⟩ := hturn hnone
      rw [← hbegunCur] at hfirst hfree ⊢
      exact reserveReply_takes (s := s.syscBegun s1) (hbegun.trans hnone) hfirst hfree

end Sys2Proof.Machine
end

section
namespace Sys2Proof.Machine
open Sys2Proof

/-! ## Running a hart's instruction (R368 to R370) -/

theorem Z.run_bind_ok {α β : Type} {m : Z α} {k : α → Z β} {s t : State} {a : α} (h : m s = .ok a t) : (m >>= k) s = k a t := by
  rw [Z.run_bind, h]

theorem Z.run_bind_error {α β : Type} {m : Z α} {k : α → Z β} {s t : State} {e : HExc} (h : m s = .error e t) :
    (m >>= k) s = .error e t := by
  rw [Z.run_bind, h]

/-- A hart's instruction that completes. -/
theorem hartRun_completes {body : Z Unit} {s t : State} (h : body s = .ok () t) : hartRun body s = .next (t.hartDone s.hartNo) := by
  simp only [hartRun, h]
  rfl

/-- The illegal-instruction exception of a hart whose access nothing holds. -/
theorem hartRun_illegal {body : Z Unit} {s : State} (hfree : s.blocked = false) (h : body s = hIllegalInstr s) :
    hartRun body s = .next (({ s with free := s.free + 1 } : State).hartTakes s.hartNo
      { code := 2, tval := Config.freeWord s.free, addr := false }) := by
  have hrun : body s = .error { code := hIllegal, tval := Config.freeWord s.free, addr := false } { s with free := s.free + 1 } := h
  simp only [hartRun, hrun, State.hartExc, hfree, Bool.false_eq_true, if_false]
  rfl

theorem needMode_ok {ok : HMode → Bool} {s : State} (h : ok (s.hart s.hartNo).mode = true) : needMode ok s = .ok () s := by
  simp only [needMode, Z.run_bind_ok (Z.run_hartRegs s), if_pos h, Z.run_pure]

/-- A mode that may not use the form. -/
theorem needMode_illegal {ok : HMode → Bool} {k : Unit → Z Unit} {s : State} (h : ok (s.hart s.hartNo).mode = false) :
    (needMode ok >>= k) s = hIllegalInstr s := by
  have hfail : needMode ok s = hIllegalInstr s := by
    simp only [needMode, Z.run_bind_ok (Z.run_hartRegs s), h, Bool.false_eq_true, if_false]
  rw [Z.run_bind, hfail]
  rfl

theorem granuleRange_ok {base len : Word} {s : State} (hbase : base.toNat % 16 = 0) (halign : len.toNat % 16 = 0)
    (hmin : 16 ≤ len.toNat) (hmax : len.toNat ≤ 2 ^ 20) : granuleRange base len s = .ok () s := by
  have hok : (len.toNat % 16 == 0 && decide (16 ≤ len.toNat) && decide (len.toNat ≤ 2 ^ 20)) = true := by
    rw [halign, decide_eq_true hmin, decide_eq_true hmax]; rfl
  simp only [granuleRange, Z.run_bind_ok (Z.aligned16_ok _ s hbase), Z.capNeed_ok _ _ s hok]

section
variable {z : ZFields} {s s1 s2 s3 s4 : State} {t t1 t2 : Bool} {c : Cap} {a b n : Nat} {x1 x2 : Word}
  (hx1 : x1 = (s.hart s.hartNo).x z.rs1) (hx2 : x2 = (s.hart s.hartNo).x z.rs2)

section
include hx1 hx2

theorem zCgrant_run (hmode : isM (s.hart s.hartNo).mode = true) (h1 : x1.toNat % 16 = 0) (h2 : x2.toNat % 16 = 0)
    (hcap : capAt x2 s = .ok (t, c) s1) (hlen : c.lenOk = true) (hty : c.otype ≤ 4) (hin : c.inBounds = true)
    (hput : putCap x1 c true s1 = .ok () s2) : zCgrant z s = .ok () s2 := by
  have hok : (c.lenOk && c.otype ≤ 4 && c.inBounds) = true := by rw [hlen, decide_eq_true hty, hin]; rfl
  subst hx1 hx2
  simp only [zCgrant, Z.run_bind_ok (needMode_ok hmode), Z.run_bind_ok (Z.run_rsOf _ s), Z.run_bind_ok (Z.aligned16_ok _ s h1),
    Z.run_bind_ok (Z.aligned16_ok _ s h2), Z.run_bind_ok hcap, Z.run_bind_ok (Z.capNeed_ok _ _ s1 hok), hput]

theorem zCderive_run {xd : Word} (hxd : xd = (s.hart s.hartNo).x z.rd) (hd : xd.toNat % 16 = 0) (h1 : x1.toNat % 16 = 0)
    (h2 : x2.toNat % 16 = 0) (hcap : capAt x1 s = .ok (true, c) s1) (ha : hLoad x2 16 s1 = .ok (a, t1) s2)
    (hb : hLoad (x2 + 16) 16 s2 = .ok (b, t2) s3)
    (hok : deriveOk (s3.hart s3.hartNo).mode c [a % 2 ^ 64, a / 2 ^ 64, b % 2 ^ 64, b / 2 ^ 64] = true)
    (hput : putCap xd (derived c [a % 2 ^ 64, a / 2 ^ 64, b % 2 ^ 64, b / 2 ^ 64]) true s3 = .ok () s4) :
    zCderive z s = .ok () s4 := by
  subst hx1 hx2 hxd
  simp only [zCderive, Z.run_bind_ok (Z.run_rsOf _ s), Z.run_bind_ok (Z.aligned16_ok _ s hd), Z.run_bind_ok (Z.aligned16_ok _ s h1),
    Z.run_bind_ok (Z.aligned16_ok _ s h2), Z.run_bind_ok hcap, Z.run_bind_ok ha, Z.run_bind_ok hb, Z.run_bind_ok (Z.run_hartRegs s3),
    Bool.true_and, Z.run_bind_ok (Z.capNeed_ok _ _ s3 hok), hput]

theorem zCmove_run (h1 : x1.toNat % 16 = 0) (h2 : x2.toNat % 16 = 0) (hcap : capAt x2 s = .ok (t, c) s1)
    (hput : putCap x1 c t s1 = .ok () s2) : zCmove z s = .ok () s2 := by
  subst hx1 hx2
  simp only [zCmove, Z.run_bind_ok (Z.run_rsOf _ s), Z.run_bind_ok (Z.aligned16_ok _ s h1), Z.run_bind_ok (Z.aligned16_ok _ s h2),
    Z.run_bind_ok hcap, hput]

theorem zCrevoke_run (hmode : isMHS (s.hart s.hartNo).mode = true) (h1 : x1.toNat % 16 = 0) (halign : x2.toNat % 16 = 0)
    (hmin : 16 ≤ x2.toNat) (hmax : x2.toNat ≤ 2 ^ 20) (hrun : untagAll x1 (x2.toNat / 16) s = .ok () s1) :
    zCrevoke z s = .ok () s1 := by
  subst hx1 hx2
  simp only [zCrevoke, Z.run_bind_ok (needMode_ok hmode), Z.run_bind_ok (Z.run_rsOf _ s),
    Z.run_bind_ok (granuleRange_ok h1 halign hmin hmax), hrun]

theorem zCcount_run (hmode : isMHS (s.hart s.hartNo).mode = true) (h1 : x1.toNat % 16 = 0) (halign : x2.toNat % 16 = 0)
    (hmin : 16 ≤ x2.toNat) (hmax : x2.toNat ≤ 2 ^ 20) (hrun : countTags x1 (x2.toNat / 16) s = .ok n s1) :
    zCcount z s = .ok () (s1.hartSets z.rd (w64 n)) := by
  subst hx1 hx2
  simp only [zCcount, Z.run_bind_ok (needMode_ok hmode), Z.run_bind_ok (Z.run_rsOf _ s),
    Z.run_bind_ok (granuleRange_ok h1 halign hmin hmax), Z.run_bind_ok hrun, Z.run_setRd]

theorem zCread_run (h1 : x1.toNat % 16 = 0) (hn : x2.toNat ≤ 4) (hcap : capAt x1 s = .ok (t, c) s1) :
    zCread z s = .ok () (s1.hartSets z.rd (capField t c x2.toNat)) := by
  subst hx1 hx2
  simp only [zCread, Z.run_bind_ok (Z.run_rsOf _ s), Z.run_bind_ok (Z.aligned16_ok _ s h1),
    Z.run_bind_ok (Z.capNeed_ok _ _ s (decide_eq_true hn)), Z.run_bind_ok hcap, Z.run_setRd]

theorem zCcheck_run {u : CapUse} (h1 : x1.toNat % 16 = 0) (hu : useOf x2.toNat = some u) (hcap : capAt x1 s = .ok (t, c) s1) :
    zCcheck z s = .ok () (s1.hartSets z.rd (w64 (capCheck t c u))) := by
  subst hx1 hx2
  simp only [zCcheck, Z.run_bind_ok (Z.run_rsOf _ s), Z.run_bind_ok (Z.aligned16_ok _ s h1), hu, Z.run_bind_ok hcap, Z.run_setRd]

theorem zCstadv_run (h1 : x1.toNat % 16 = 0) (hcap : capAt x1 s = .ok (t, c) s1) (hok : cursorOk t c c.w = true)
    (hst : hStore (w64 c.addr) 8 x2.toNat false s1 = .ok () s2) (hput : putCap x1 (c.withAddr (c.addr + 8)) t s2 = .ok () s3) :
    zCstadv z s = .ok () s3 := by
  subst hx1 hx2
  simp only [zCstadv, Z.run_bind_ok (Z.run_rsOf _ s), Z.run_bind_ok (Z.aligned16_ok _ s h1), Z.run_bind_ok hcap,
    Z.run_bind_ok (Z.capNeed_ok _ _ s1 hok), Z.run_bind_ok hst, hput]

theorem zChand_launch (hmode : isMHS (s.hart s.hartNo).mode = true) (h1 : x1.toNat % 16 = 0) (h0 : x2 = 0)
    (hcap : capAt x1 s = .ok (t, c) s1) (hcheck : capCheck t c useLaunchQ = 0) (hext : c.holdsExtent (32 * 2 ^ s1.sched.logn) = true) :
    zChand z s = .ok () { s1 with sched := { s1.sched with lqcap := c.reg, lqtag := true } } := by
  have hn : ((s.hart s.hartNo).x z.rs2).toNat = 0 := by rw [← hx2, h0]; rfl
  have hok : (capCheck t c useLaunchQ == 0 && c.holdsExtent (32 * 2 ^ s1.sched.logn)) = true := by rw [hcheck, hext]; rfl
  subst hx1
  simp only [zChand, Z.run_bind_ok (needMode_ok hmode), Z.run_bind_ok (Z.run_rsOf _ s), Z.run_bind_ok (Z.aligned16_ok _ s h1), hn,
    beq_self_eq_true, Bool.true_or, Z.run_bind_ok (Z.capNeed_ok _ _ s rfl), Z.run_bind_ok hcap, if_true, Z.run_lam]
  exact Z.run_bind_ok (Z.capNeed_ok _ _ s1 hok)

theorem zChand_service (hmode : isMHS (s.hart s.hartNo).mode = true) (h1 : x1.toNat % 16 = 0) (hlo : 0x100 ≤ x2.toNat)
    (hhi : x2.toNat < 0x140) (hcap : capAt x1 s = .ok (t, c) s1) (hcheck : capCheck t c useServiceQ = 0)
    (hext : c.holdsExtent (64 * 2 ^ (s1.part (x2.toNat - 0x100)).sqlogn) = true) :
    zChand z s = .ok () (s1.modPart (x2.toNat - 0x100) (fun x => { x with sqcap := c.reg, sqtag := true })) := by
  have hn : (x2.toNat == 0 || (decide (0x100 ≤ x2.toNat) && decide (x2.toNat < 0x140))) = true := by
    rw [decide_eq_true hlo, decide_eq_true hhi, Bool.and_self, Bool.or_true]
  have h0 : ¬ x2.toNat = 0 := by omega
  have hok : (capCheck t c useServiceQ == 0 && c.holdsExtent (64 * 2 ^ (s1.part (x2.toNat - 0x100)).sqlogn)) = true := by
    rw [hcheck, hext]; rfl
  subst hx1 hx2
  simp only [zChand, Z.run_bind_ok (needMode_ok hmode), Z.run_bind_ok (Z.run_rsOf _ s), Z.run_bind_ok (Z.aligned16_ok _ s h1),
    Z.run_bind_ok (Z.capNeed_ok _ _ s hn), Z.run_bind_ok hcap, if_neg h0, Z.run_lam]
  exact Z.run_bind_ok (Z.capNeed_ok _ _ s1 hok)

end

section
include hx1

theorem zCldadv_run (h1 : x1.toNat % 16 = 0) (hcap : capAt x1 s = .ok (t, c) s1) (hok : cursorOk t c c.r = true)
    (hld : hLoad (w64 c.addr) 8 s1 = .ok (a, t1) s2) (hput : putCap x1 (c.withAddr (c.addr + 8)) t s2 = .ok () s3) :
    zCldadv z s = .ok () (s3.hartSets z.rd (w64 a)) := by
  subst hx1
  simp only [zCldadv, Z.run_bind_ok (Z.run_rsOf _ s), Z.run_bind_ok (Z.aligned16_ok _ s h1), Z.run_bind_ok hcap,
    Z.run_bind_ok (Z.capNeed_ok _ _ s1 hok), Z.run_bind_ok hld, Z.run_bind_ok hput, Z.run_setRd]

/-- CCHECK of an address that is no granule's takes the capability fault. -/
theorem execCcheck_misaligned (h1 : x1.toNat % 16 ≠ 0) (hfree : s.blocked = false) :
    hartRun (zCcheck z) s = .next (s.hartTakes s.hartNo { code := 24, tval := x1, addr := true }) := by
  have hne : (x1.toNat % 16 == 0) = false := by simpa using h1
  have hrun : aligned16 x1 s = .error { code := hCap, tval := x1, addr := true } s := by
    simp only [aligned16, capNeed, hne, Bool.false_eq_true, if_false]
    rfl
  subst hx1
  simp only [hartRun, zCcheck, Z.run_bind_ok (Z.run_rsOf _ s), Z.run_bind_error hrun, State.hartExc, if_neg (Bool.eq_false_iff.mp hfree)]
  rfl

end
end

/-- Settles O50: each capability instruction by the run of its body. -/
theorem capabilityInstructions : Obligations.Capability_instructions := by
  unfold Obligations.Capability_instructions
  intro z s s1 s2 s3 s4 t t1 t2 c a b n u
  exact ⟨fun hmode h1 h2 hcap hlen hty hin hput => hartRun_completes (zCgrant_run rfl rfl hmode h1 h2 hcap hlen hty hin hput),
    fun hmode hfree => hartRun_illegal hfree (needMode_illegal hmode),
    fun hmode hfree => ⟨hartRun_illegal hfree (needMode_illegal hmode), hartRun_illegal hfree (needMode_illegal hmode),
      hartRun_illegal hfree (needMode_illegal hmode)⟩,
    fun hd h1 h2 hcap ha hb hok hput => hartRun_completes (zCderive_run rfl rfl rfl hd h1 h2 hcap ha hb hok hput),
    fun h1 h2 hcap hput => hartRun_completes (zCmove_run rfl rfl h1 h2 hcap hput),
    fun hmode ⟨h1, halign, hmin, hmax⟩ hrun => hartRun_completes (zCrevoke_run rfl rfl hmode h1 halign hmin hmax hrun),
    fun h1 hn hcap => hartRun_completes (zCread_run rfl rfl h1 hn hcap),
    fun h1 hu hcap => hartRun_completes (zCcheck_run rfl rfl h1 hu hcap),
    fun h1 hcap hok hld hput => hartRun_completes (zCldadv_run rfl h1 hcap hok hld hput),
    fun h1 hcap hok hst hput => hartRun_completes (zCstadv_run rfl rfl h1 hcap hok hst hput),
    fun hmode ⟨h1, halign, hmin, hmax⟩ hrun => hartRun_completes (zCcount_run rfl rfl hmode h1 halign hmin hmax hrun),
    fun hmode h1 h0 hcap hcheck hext => hartRun_completes (zChand_launch rfl rfl hmode h1 h0 hcap hcheck hext),
    fun hmode h1 hlo hhi hcap hcheck hext => hartRun_completes (zChand_service rfl rfl hmode h1 hlo hhi hcap hcheck hext),
    fun h1 hfree => execCcheck_misaligned rfl h1 hfree⟩

end Sys2Proof.Machine
end

section
namespace Sys2Proof.Machine
open Sys2Proof

/-! ## Operand codes (R70, R142, R146, R163, R184) -/

section
variable {x : Ctx} {c : BitVec 8}

theorem slotOf_zero (h : c.toNat = 0) : x.slotOf c = .none := by
  unfold Ctx.slotOf; rw [if_pos h]

theorem slotOf_x (h1 : 0 < c.toNat) (h2 : c.toNat < 0x40) : x.slotOf c = .x (xPlace x.wb c.toNat) := by
  unfold Ctx.slotOf; rw [if_neg (by omega), if_pos h2]

theorem slotOf_k (h1 : 0x98 ≤ c.toNat) (h2 : c.toNat ≤ 0x9F) : x.slotOf c = .k (c.toNat - 0x98) := by
  unfold Ctx.slotOf; rw [if_neg (by omega), if_neg (by omega), if_pos ⟨h1, h2⟩]

theorem slotOf_a (h1 : 0xA0 ≤ c.toNat) (h2 : c.toNat ≤ 0xA7) : x.slotOf c = .a (c.toNat - 0xA0) := by
  unfold Ctx.slotOf; rw [if_neg (by omega), if_neg (by omega), if_neg (by omega), if_pos ⟨h1, h2⟩]

theorem slotOf_d (h1 : 0xA8 ≤ c.toNat) (h2 : c.toNat ≤ 0xAF) : x.slotOf c = .d (c.toNat - 0xA8) := by
  unfold Ctx.slotOf; rw [if_neg (by omega), if_neg (by omega), if_neg (by omega), if_neg (by omega), if_pos ⟨h1, h2⟩]

theorem slotOf_p (h1 : 0xB1 ≤ c.toNat) (h2 : c.toNat ≤ 0xB7) : x.slotOf c = .p (c.toNat - 0xB0) := by
  unfold Ctx.slotOf
  rw [if_neg (by omega), if_neg (by omega), if_neg (by omega), if_neg (by omega), if_neg (by omega), if_pos ⟨h1, h2⟩]

theorem bump_one (h1 : 0x88 ≤ c.toNat) (h2 : c.toNat ≤ 0x8F) :
    x.bump [c] = x.setA (c.toNat - 0x88) (x.a (c.toNat - 0x88) + (x.d (c.toNat - 0x88)).signExtend 64) := by
  unfold Ctx.bump; rw [List.foldl_cons, List.foldl_nil, if_pos (inR_true h1 h2)]

theorem bump_none (h : c.toNat < 0x88 ∨ 0x8F < c.toNat) : x.bump [c] = x := by
  unfold Ctx.bump; rw [List.foldl_cons, List.foldl_nil, if_neg (by rw [inR_false h]; decide)]

end

theorem immVal_int {t : Nat} (h : tyInt t = true) (imm : BitVec 32) :
    immVal t imm = (imm.signExtend 64).toNat % 2 ^ tyWidth t := by
  have ht : t ≤ 7 := of_decide_eq_true h
  match t, ht with
  | 0, _ | 1, _ | 2, _ | 3, _ | 4, _ | 5, _ | 6, _ | 7, _ => rfl

/-- A local operand whose access goes on takes the bytes at its place. -/
theorem localRead_ok {a : Word} {n l : Nat} {s s1 : State} (h : localLoc a n false s = .ok l s1) :
    localRead a n s = .ok (s1.mem.val l n) s1 := by
  simp only [localRead, M.run_bind_ok h, M.run_ask]

theorem localWrite_ok {a : Word} {n l v : Nat} {s s1 : State} (h : localLoc a n true s = .ok l s1) :
    localWrite a n v s = .ok () (s1.writeVault (coreOf s1.cur) (l % 65536) n v) := by
  simp only [localWrite, M.run_bind_ok h, M.run_act]

/-- A register destination. -/
theorem wr_slot {x : Ctx} {t : Nat} {imm : BitVec 32} {c : BitVec 8} {u : Nat} {s : State} {sl : Slot}
    (hcode : c.toNat < 0x40 ∨ 0x98 ≤ c.toNat) (hsl : x.slotOf c = sl) :
    wr x t imm c u s = .ok () (s.onMe (fun y => y.setSlot sl (extendTy t u))) := by
  rw [wr_register (inR_false (by omega)) (inR_false (by omega)), hsl]

/-- Settles O53: the classes of codes one after the other. -/
theorem operandCodes : Obligations.Operand_codes := by
  unfold Obligations.Operand_codes
  intro x t n m l imm c v u s s1
  refine ⟨⟨rfl, rfl⟩, fun hn => ⟨Ctx.x_setX x hn v, ?place⟩, fun hmn => Ctx.x_setX_other x hmn v, fun h => rd_x h,
    fun h1 h2 => rd_m h1 h2, fun h => rd_immHigh h, fun h ht => ?immInt, fun h ht => ?imm16, fun h ht => ?imm32,
    fun h1 h2 => rd_k h1 h2, fun h1 h2 => rd_a h1 h2, fun h1 h2 => rd_d h1 h2, fun h1 h2 => ?pred, fun h1 h2 hl => ?local_,
    fun h => wr_slot (Or.inl (by omega)) (slotOf_zero h), fun h1 h2 => wr_slot (Or.inl h2) (slotOf_x h1 h2),
    fun h1 h2 => wr_slot (Or.inr h1) (slotOf_k h1 h2), fun h1 h2 => wr_slot (Or.inr (by omega)) (slotOf_a h1 h2),
    fun h1 h2 => wr_slot (Or.inr (by omega)) (slotOf_d h1 h2), fun h1 h2 => ?predDst,
    fun h1 h2 hl => ?localDst, fun h1 h2 => bump_one h1 h2, fun h => bump_none h⟩
  case place =>
    unfold Ctx.setX
    rw [if_neg hn]
    rfl
  case immInt => rw [rd_imm h, immVal_int ht]
  case imm16 =>
    rw [rd_imm h]
    obtain rfl | rfl := ht <;> rfl
  case imm32 => rw [rd_imm h, ht]; rfl
  case pred =>
    rw [rd_p h1 h2]
    cases x.p (c.toNat - 0xB0) <;> rfl
  case local_ => rw [rd_local h1 h2]; exact localRead_ok hl
  case predDst =>
    rw [wr_slot (Or.inr (by omega)) (slotOf_p h1 h2)]
    rfl
  case localDst => rw [wr_local (inR_true h1 h2)]; exact localWrite_ok hl

end Sys2Proof.Machine
end

section
namespace Sys2Proof.Machine
open Sys2Proof

/-! ## Every instruction has a next state -/

theorem hartRun_next (body : Z Unit) (s : State) : ∃ t, hartRun body s = .next t := by
  unfold hartRun
  cases body s with
  | ok _ s1 => exact ⟨_, rfl⟩
  | error e s1 => exact ⟨_, rfl⟩

theorem registerWrite_next (a : BitVec 52) (v : Word) (s : State) : ∃ t, execRegisterWrite a v s = .next t := by
  unfold execRegisterWrite
  cases s.reg? a.toNat with
  | some r => exact ⟨_, rfl⟩
  | none => exact ⟨_, rfl⟩

/-- An instruction of a thread or an event answers a state by its form, a capability instruction by `hartRun_next`. -/
theorem exec_next (i : Instr) (s : State) : ∃ t, exec i s = .next t := by
  cases i with
  | cgrant z | cderive z | cmove z | crevoke z | cread z | ccheck z | cldadv z | cstadv z | ccount z | chand z =>
    exact hartRun_next _ s
  | registerWrite a v => exact registerWrite_next a v s
  | _ => exact ⟨_, rfl⟩

/-- Settles O4: every arm of exec answers a state. -/
theorem instructionsNeverStop : Obligations.Instructions_never_stop := exec_next

/-! ## What a step comes to -/

/-- What a turn has fetched ends in a state: the one it left, or what its instruction leaves. -/
theorem Fetched.go_done (s u : State) : Fetched.go s (.done u) = .next (s.settle none u) := rfl

theorem Fetched.go_run {i : Instr} {s s1 u : State} (h : exec i s1 = .next u) :
    Fetched.go s (.run i s1) = .next (s.settle none { u with turn := none }) := by
  simp only [Fetched.go, h]

theorem Fetched.go_next (s : State) (r : Fetched) : ∃ u, r.go s = .next u := by
  cases r with
  | done u => exact ⟨_, rfl⟩
  | run i s1 => obtain ⟨u, hu⟩ := exec_next i s1; exact ⟨_, Fetched.go_run hu⟩

theorem step_event {s u : State} {i : Instr} (ht : s.turn = some (.event i)) (hu : exec i { s with turn := none } = .next u) :
    step s = .next (s.settle (some i) u) := by
  simp only [step, ht, hu]

theorem step_thread {s : State} {t : Nat} (ht : s.turn = some (.thread t)) :
    step s = ({ s with turn := none, cur := t }.threadTurn t).go s := by
  simp only [step, ht]

theorem step_hart {s : State} {h : Nat} (ht : s.turn = some (.hart h)) : step s = (s.hartTurn h).go s := by
  simp only [step, ht]

/-- A turn that is due always has a next state. -/
theorem step_turn_next {s : State} {t : Turn} (ht : s.turn = some t) : ∃ u, step s = .next u := by
  cases t with
  | event i => obtain ⟨u, hu⟩ := exec_next i { s with turn := none }; exact ⟨_, step_event ht hu⟩
  | thread t => rw [step_thread ht]; exact Fetched.go_next s _
  | hart h => rw [step_hart ht]; exact Fetched.go_next s _

/-- An index taken modulo the length finds an element of any list but the empty one. -/
theorem getElem?_mod_eq_none {α : Type} (l : List α) (k : Nat) : l[k % l.length]? = none ↔ l = [] := by
  rw [List.getElem?_eq_none_iff]
  constructor
  · intro h
    refine Classical.byContradiction fun hne => ?_
    exact absurd (Nat.mod_lt k (List.length_pos_iff.mpr hne)) (by omega)
  · intro h; simp [h]

/-- Nothing is chosen exactly where no option is left. -/
theorem choose_eq_none (s : State) : s.choose = none ↔ s.between.options = [] := by
  rw [← getElem?_mod_eq_none s.between.options (Config.pick (s.free + 1))]
  unfold State.choose
  dsimp only
  cases s.between.options[Config.pick (s.free + 1) % s.between.options.length]? with
  | none => simp
  | some o => simp

/-- While the part runs, the events of the cube are options. -/
theorem options_eq_nil {s : State} (h : s.options = []) : s.boot.phase = .off ∨ s.boot.phase = .halted := by
  refine Classical.byContradiction fun hrun => ?_
  obtain ⟨hoff, hhalt⟩ := not_or.mp hrun
  have hcube : cubeEvents = [] := by simp_all [State.options, State.candidates]
  exact absurd hcube (by simp [cubeEvents])

/-- A step whose turn is to be chosen stops exactly where no option is left. -/
theorem step_stops {s : State} (ht : s.turn = none) (h : s.between.options = []) : step s = .fault .halted := by
  simp only [step, ht, (choose_eq_none s).mpr h]

theorem step_goes {s : State} (ht : s.turn = none) (h : s.between.options ≠ []) : ∃ u, step s = .next u := by
  obtain ⟨s1, hs1⟩ := Option.ne_none_iff_exists'.mp (mt (choose_eq_none s).mp h)
  exact ⟨s1, by simp only [step, ht, hs1]⟩

/-- The three ways a step can come out. -/
theorem step_cases (s : State) :
    (∃ u, step s = .next u) ∨ (step s = .fault .halted ∧ s.turn = none ∧ s.between.options = []) := by
  cases ht : s.turn with
  | some t => exact .inl (step_turn_next ht)
  | none =>
    by_cases h : s.between.options = []
    · exact .inr ⟨step_stops ht h, rfl, h⟩
    · exact .inl (step_goes ht h)

/-- Settles O5: by the cases of a step; an empty list of options means that the part is off or halted. -/
theorem stepsStopOnlyByName : Obligations.Steps_stop_only_by_name := by
  refine ⟨fun s e he => ?_, fun s => step_stops, fun s r hr => ?_⟩
  · obtain ⟨u, hu⟩ | ⟨hstop, ht, hopts⟩ := step_cases s
    · rw [hu] at he; cases he
    · rw [hstop] at he; cases he
      exact ⟨rfl, ht, hopts, options_eq_nil hopts⟩
  · obtain ⟨u, hu⟩ | ⟨hstop, -, -⟩ := step_cases s
    · rw [hu] at hr; cases hr
    · rw [hstop] at hr; cases hr

/-! ## A step runs what is decoded -/

/-- The turn of a thread that can issue is the fetch at its PC. -/
theorem threadTurn_fetches {s : State} {t : Nat} (hstop : s.stopped (coreOf t) = false) (hgo : (s.ctx t).mayGo = true)
    (hpost : (s.ctx t).toPost = [])
    (href : ((s.ctx t).refusal.isSome && !(s.ctx t).sup && (s.ctx t).lone.isNone && !(s.ctx t).exchanging) = false)
    (hlate : (s.ctx t).pend.find? (fun p => (s.ctx t).lateDue p && dueNow (s.ctx t).pend p) = none)
    (hland : (s.ctx t).pend.filter (fun p => dueNow (s.ctx t).pend p && p.fault.isNone) = [])
    (hacq : (s.ctx t).openAcquire = false) :
    s.threadTurn t = (if (s.field (fieldOf t)).tqgo.contains t then
      s.modField (fieldOf t) (fun f => { f with tqgo := f.tqgo.erase t }) else s).fetch t := by
  simp only [State.threadTurn, hstop, hgo, hpost, href, hlate, hland, hacq, Bool.not_true, Bool.or_self, List.isEmpty_nil,
    List.filter_nil, Bool.false_eq_true, if_false]

/-- The fetch of a word that decodes runs its instruction. -/
theorem fetch_runs {s s1 : State} {t : Nat} {d : Line} {i : Instr} {rest : List Byte} (hpc : pcLegal (s.ctx t).pc = true)
    (hblock : s.fetchBlock t ((s.ctx t).pc - ((s.ctx t).pc &&& 0x7F)) = .data d s1)
    (hdec : decode (leBytes 12 (slotWord d (bits (s.ctx t).pc.toNat 3 0)).toNat) = some (i, rest)) :
    s.fetch t = .run i (s1.touch t i) := by
  simp only [State.fetch, hpc, Bool.not_true, Bool.false_eq_true, if_false, hblock, hdec]

/-- A hart without an interrupt runs the word at its pc. -/
theorem hartTurn_fetches {s s1 : State} {h w : Nat} (hrom : s.boot.phase ≠ .rom ∨ h ≠ 0)
    (hint : ((s.setHart h { s.hart h with running := true }).hart h).interrupted
      (s.setHart h { s.hart h with running := true }).zen.mtime.toNat = none)
    (hw : hFetchWord (s.setHart h { s.hart h with running := true }) = .ok w s1) : s.hartTurn h = s1.hartWordRun w := by
  have hphase : (s.boot.phase == .rom && h == 0) = false := by
    rw [Bool.and_eq_false_iff]; exact hrom.imp beq_eq_false_iff_ne.mpr beq_eq_false_iff_ne.mpr
  simp only [State.hartTurn, hphase, Bool.false_eq_true, if_false, hint, hw]

theorem hartWordRun_runs {s : State} {w : Nat} {i : Instr} {rest : List Byte} (h3 : w % 4 = 3)
    (hdec : decodeHart (leBytes 4 w) = some (i, rest)) : s.hartWordRun w = .run i s := by
  simp only [State.hartWordRun, if_pos h3, hdec]

/-- A word that is no capability instruction is RISC-V's. -/
theorem hartWordRun_steps {s : State} {w : Nat} (h : w % 4 ≠ 3 ∨ decodeHart (leBytes 4 w) = none) :
    s.hartWordRun w = .done { s.rvStep w with turn := none } := by
  by_cases h3 : w % 4 = 3
  · simp only [State.hartWordRun, if_pos h3, h.resolve_left (not_not_intro h3)]
  · simp only [State.hartWordRun, if_neg h3]

/-- Settles O59: the turns of threads and harts by what they fetch, that of an event by the step itself. -/
theorem stepsRunWhatIsDecoded : Obligations.Steps_run_what_is_decoded := by
  refine ⟨?_, ?_, fun s i ht => ?_, fun s u i hb => by simp [State.settle, hb]⟩
  · intro s s1 t i d rest x s0 s' ht hstop hgo hpost href hlate hland hacq hpc hblock hdec
    have hctx : s'.ctx t = x := by simp only [s', x, s0]; split <;> rfl
    obtain ⟨u, hu⟩ := exec_next i (s1.touch t i)
    have hfetch : s0.threadTurn t = .run i (s1.touch t i) :=
      (threadTurn_fetches (s := s0) hstop hgo hpost href hlate hland hacq).trans
        (fetch_runs (s := s') (by rw [hctx]; exact hpc) (by rw [hctx]; exact hblock) (by rw [hctx]; exact hdec))
    exact ⟨(threadDecodingIsExact _ _ _ hdec).2.1, u, hu, by rw [step_thread ht, hfetch, Fetched.go_run hu]⟩
  · intro s s1 h w s' ht hrom hint hw
    have hturn : s.hartTurn h = s1.hartWordRun w := hartTurn_fetches hrom hint hw
    refine ⟨fun i rest h3 hdec => ?_, fun hno => ?_⟩
    · obtain ⟨u, hu⟩ := exec_next i s1
      exact ⟨(capabilityWordsRoundTrip.2 _ _ _ hdec).2.1, u, hu,
        by rw [step_hart ht, hturn, hartWordRun_runs h3 hdec, Fetched.go_run hu]⟩
    · rw [step_hart ht, hturn, hartWordRun_steps hno, Fetched.go_done]
  · obtain ⟨u, hu⟩ := exec_next i { s with turn := none }
    exact ⟨u, hu, step_event ht hu⟩

/-! ## Reset -/

/-- After reset hart 0 alone is listed. -/
theorem reset_hart_other {h : Nat} (hh : h ≠ 0) : State.reset.hart h = {} := by
  simp [State.hart, State.reset, look, hh]

theorem bit_zero (k : Nat) : bit 0 k = false := by simp [bit]

/-- Settles O57: every table of the reset state is empty, and hart 0 alone is listed. -/
theorem resetState : Obligations.Reset_state := by
  refine ⟨rfl, fun _ => rfl, fun _ => rfl, fun _ _ => ⟨rfl, rfl⟩, fun _ => ⟨rfl, rfl, rfl, rfl, rfl⟩, fun _ => bit_zero 0,
    rfl, rfl, fun _ => bit_zero 0, ⟨rfl, rfl, rfl, rfl⟩, fun h hh => ?_⟩
  rw [reset_hart_other hh]

end Sys2Proof.Machine
end

section
/-! What the instructions that write no memory leave unchanged: a context kept but for one register, and the state around it. -/

namespace Sys2Proof.Machine
open Sys2Proof

/-! ## A context kept but for one scalar register -/

/-- Context y is x but for one scalar register, the bases of some (aK)+ codes and what counts an instruction as issued. -/
structure Ctx.ScalarKept (x y : Ctx) (but : Slot) (codes : List (BitVec 8)) : Prop where
  same : x.sameButRegisters y
  regs : x.keepsRegisters y but codes
  fpst : y.fpst = x.fpst
  vecs : y.vs = x.vs

/-- Writing a register's place changes nothing but scalar registers. -/
theorem Ctx.setSlot_same (x : Ctx) (sl : Slot) (v : Word) :
    x.sameButRegisters (x.setSlot sl v) ∧ (x.setSlot sl v).fpst = x.fpst ∧ (x.setSlot sl v).vs = x.vs := by
  cases sl with
  | p n => simp only [Ctx.setSlot]; rw [Ctx.setP_eq]; exact ⟨rfl, rfl, rfl⟩
  | _ => exact ⟨rfl, rfl, rfl⟩

theorem Ctx.ScalarKept.refl (x : Ctx) (but : Slot) (codes : List (BitVec 8)) : x.ScalarKept x but codes :=
  ⟨rfl, fun _ _ _ => rfl, rfl, rfl⟩

/-- One more register takes a value. -/
theorem Ctx.ScalarKept.setSlot {x y : Ctx} {codes : List (BitVec 8)} (h : x.ScalarKept y .none codes) (sl : Slot) (v : Word) :
    x.ScalarKept (y.setSlot sl v) sl codes := by
  obtain ⟨hsame, hfpst, hvs⟩ := y.setSlot_same sl v
  refine ⟨Ctx.sameButRegisters_trans h.same hsame, fun sm hn hb => ?_, hfpst.trans h.fpst, hvs.trans h.vecs⟩
  rw [Ctx.slotVal_setSlot_other _ hn]
  by_cases h0 : sm = .none
  · subst h0; rfl
  · exact h.regs sm h0 hb

/-- A change of a context that neither reads nor writes the address registers. -/
def Ctx.ignoresA (g : Ctx → Ctx) : Prop := ∀ x l, g { x with as := l } = { g x with as := l } ∧ (g x).as = x.as

theorem Ctx.ignoresA_ite {g h : Ctx → Ctx} (c : Prop) [Decidable c] (hg : Ctx.ignoresA g) (hh : Ctx.ignoresA h) :
    Ctx.ignoresA (fun x => if c then g x else h x) := by
  by_cases hc : c
  · simpa only [hc, if_true] using hg
  · simpa only [hc, if_false] using hh

/-- Such a change, made after increments. -/
theorem Ctx.ScalarKept.ofBump (x : Ctx) {g : Ctx → Ctx} (codes : List (BitVec 8)) (hg : Ctx.ignoresA g) :
    (g x).ScalarKept (g (x.bump codes)) .none codes := by
  obtain ⟨hregs, hbump⟩ := x.bump_keeps codes
  generalize (x.bump codes).as = l at hbump
  obtain ⟨hcomm, ha⟩ := hg x l
  rw [hbump, hcomm]
  refine ⟨rfl, fun sl hn hb => ?_, rfl, rfl⟩
  cases sl with
  | a n =>
    have hbase := hregs (.a n) hn hb
    rw [hbump] at hbase
    simp only [Ctx.slotVal, Ctx.a, ha] at hbase ⊢
    exact hbase
  | _ => rfl

theorem Ctx.ScalarKept.bump (x : Ctx) (codes : List (BitVec 8)) : x.ScalarKept (x.bump codes) .none codes :=
  Ctx.ScalarKept.ofBump (g := id) x codes fun _ _ => ⟨rfl, rfl⟩

/-- An `x` register is a place of the window. -/
theorem Ctx.setX_eq (x : Ctx) (c : BitVec 8) (v : Word) :
    x.setX c.toNat v = x.setSlot (if c = 0 then .none else .x (xPlace x.wb c.toNat)) v := by
  by_cases h : c = 0
  · subst h; rfl
  · have hn : c.toNat ≠ 0 := fun e => h (BitVec.eq_of_toNat_eq e)
    simp only [Ctx.setX, if_neg hn, if_neg h, Ctx.setSlot]

theorem Ctx.ScalarKept.setX (x : Ctx) (c : BitVec 8) (v : Word) :
    x.ScalarKept (x.setX c.toNat v) (if c = 0 then .none else .x (xPlace x.wb c.toNat)) [] := by
  rw [Ctx.setX_eq]
  exact (Ctx.ScalarKept.refl x .none []).setSlot _ v

theorem Ctx.ScalarKept.setP {x y : Ctx} {codes : List (BitVec 8)} (h : x.ScalarKept y .none codes) (n : Nat) (b : Bool) :
    x.ScalarKept (y.setP n b) (.p n) codes := by
  have hb : y.setP n b = y.setSlot (.p n) (b2w b) := by cases b <;> rfl
  rw [hb]
  exact h.setSlot _ _

/-- A stride register keeps what `setSlot` would cut. -/
theorem Ctx.ScalarKept.setD {x y : Ctx} {codes : List (BitVec 8)} (h : x.ScalarKept y .none codes) (n : Nat) (v : BitVec 32) :
    x.ScalarKept (y.setD n v) (.d n) codes := by
  have hv : y.setD n v = y.setSlot (.d n) (v.zeroExtend 64) := by
    simp only [Ctx.setSlot]; congr 1; simp
  rw [hv]
  exact h.setSlot _ _

/-! ## The state around it -/

/-- Reading operands leaves the current context. -/
theorem State.readOnly.isWith {s s1 : State} {codes : List (BitVec 8)} (h : s.readOnly s1 codes) : s1.isWith s1 s.me := by
  have hme : s1.me = s.me := by rw [State.me, State.onlyCores_cur h.1, State.onlyCores_ctx h.1]; rfl
  rw [← hme]; exact State.isWith_refl s1

section
variable {i : Instr} {s s1 u : State} {x y : Ctx} {but : Slot} {bumps reads : List (BitVec 8)} {ctl : Ctl}

theorem ScalarFrame.of_flags {fl : Flags} (hexec : exec i s = .next ((u.raiseFlags u.cur fl).retired s.cur ctl))
    (hr : s.readOnly s1 reads) (hw : s1.isWith u y) (hk : x.ScalarKept y but bumps) : ScalarFrame i s x but bumps reads fl := by
  obtain ⟨hregs, hvs⟩ := registersOnly_of (ctl := ctl) (fl := fl) hr hw hk.same hk.regs hk.fpst
  exact ⟨_, hexec, hregs, hvs.trans hk.vecs⟩

theorem ScalarFrame.of_quiet (hexec : exec i s = .next (u.retired s.cur ctl))
    (hr : s.readOnly s1 reads) (hw : s1.isWith u y) (hk : x.ScalarKept y but bumps) : ScalarFrame i s x but bumps reads 0 := by
  obtain ⟨hregs, hvs⟩ := registersOnly_of' (ctl := ctl) hr hw hk.same hk.regs hk.fpst
  exact ⟨_, hexec, hregs, hvs.trans hk.vecs⟩

/-- An instruction that reads no port and changes its context by one function. -/
theorem ScalarFrame.of_onMe {g : Ctx → Ctx} (hexec : exec i s = .next ((s.onMe g).retired s.cur ctl))
    (hk : x.ScalarKept (g s.me) but bumps) : ScalarFrame i s x but bumps [] 0 :=
  ScalarFrame.of_quiet hexec (State.readOnly_refl s []) (State.isWith_onMe g (State.isWith_refl s)) hk

/-- An instruction that reads operands, makes its increments and changes its context by one function. -/
theorem ScalarFrame.of_bumped {g : Ctx → Ctx} (hexec : exec i s = .next (((s1.bumped bumps).onMe g).retired s.cur ctl))
    (hr : s.readOnly s1 reads) (hk : x.ScalarKept (g (s.me.bump bumps)) but bumps) : ScalarFrame i s x but bumps reads 0 :=
  ScalarFrame.of_quiet hexec hr (State.isWith_onMe g (State.isWith_bumped bumps hr.isWith)) hk

end

/-! ## Scalar mnemonics -/

theorem ScalarRow.scalarFrame {e : ScalarRow} (he : e.Completes) {f : Fields} {s s1 s2 : State} {vs : List Nat} (hadm : s.admits e.op f)
    (hloc : isLocal f.dst = false) (hport : isPort f.dst = false) (hr : rdAll s.me f.imm (e.reads f) s = .ok vs s1)
    (hw : wr s.me (e.dstTy f) f.imm f.dst (e.val f (s.me.mode f) vs).1 (s1.bumped (e.bumps f)) = .ok () s2) :
    ScalarFrame (e.op.instr f) s s.me (s.me.slotOf f.dst) (e.bumps f) ((e.reads f).map Prod.snd)
      (e.val f (s.me.mode f) vs).2 := by
  have hreads := rdAll_reads hr
  have hexec := he f s s1 s2 vs hadm hr hw
  rw [wr_register hloc hport] at hw
  cases hw
  exact ScalarFrame.of_flags hexec hreads (State.isWith_onMe _ (State.isWith_bumped _ hreads.isWith))
    ((Ctx.ScalarKept.bump _ _).setSlot _ _)

/-- A destination that is no local code has no increment. -/
theorem Ctx.bump_of_not_local (x : Ctx) {c : BitVec 8} (h : isLocal c = false) : x.bump [c] = x := by
  have hinc : inR 0x88 0x8F c = false := by
    simp only [isLocal, inR, Bool.and_eq_false_iff, decide_eq_false_iff_not] at h ⊢; omega
  simp only [Ctx.bump, List.foldl_cons, List.foldl_nil, hinc, Bool.false_eq_true, if_false]

/-! ## Special registers -/

/-- The special registers that MOVS reads, and those that it writes. -/
def movsNumbers : List Nat :=
  [0x000, 0x001, 0x010, 0x011, 0x012, 0x013, 0x014, 0x015, 0x020, 0x030, 0x040, 0x041, 0x042, 0x043]
def movsWritten : List Nat := [0x000, 0x001, 0x010, 0x011, 0x012, 0x013, 0x014, 0x015, 0x020, 0x040, 0x041, 0x042, 0x043]

/-- The write of a block format leaves the others. -/
theorem Ctx.movs_setMovs_bfmt (x : Ctx) {n m : Nat} (hn : 0x010 ≤ n ∧ n ≤ 0x015) (h : m ≠ n) (v : Word) :
    (x.setMovs n v).movs m = x.movs m := by
  simp only [Ctx.setMovs, if_neg (show ¬ n = 0x000 by omega), if_neg (show ¬ n = 0x001 by omega), if_pos hn]
  by_cases hm : 0x010 ≤ m ∧ m ≤ 0x015
  · simp only [Ctx.movs, if_neg (show ¬ m = 0x000 by omega), if_neg (show ¬ m = 0x001 by omega), if_pos hm]
    rw [look_put_other _ _ _ (by omega)]
  · simp only [Ctx.movs, if_neg hm]

/-- A write of MOVS leaves the special registers that it does not name. -/
theorem Ctx.movs_setMovs_other (x : Ctx) {n m : Nat} (hm : m ∈ movsNumbers) (h : m ≠ n) (hn : n ∈ movsWritten) (v : Word) :
    (x.setMovs n v).movs m = x.movs m := by
  by_cases hb : 0x010 ≤ n ∧ n ≤ 0x015
  · exact x.movs_setMovs_bfmt hb h v
  · have hn' : n = 0x000 ∨ n = 0x001 ∨ n = 0x020 ∨ n = 0x040 ∨ n = 0x041 ∨ n = 0x042 ∨ n = 0x043 := by
      simp only [movsWritten, List.mem_cons, List.not_mem_nil, or_false] at hn; omega
    simp only [movsNumbers, List.mem_cons, List.not_mem_nil, or_false] at hm
    obtain rfl | rfl | rfl | rfl | rfl | rfl | rfl := hn'
    case inr.inr.inr.inr.inr.inr =>
      obtain rfl | rfl | rfl | rfl | rfl | rfl | rfl | rfl | rfl | rfl | rfl | rfl | rfl | rfl := hm <;>
        simp [Ctx.setMovs, Ctx.movs] at h ⊢
    all_goals simp [Ctx.setMovs, Ctx.movs, h]

theorem Ctx.setMovs_ignoresA (n : Nat) (v : Word) : Ctx.ignoresA (fun x => x.setMovs n v) :=
  Ctx.ignoresA_ite _ (fun _ _ => ⟨rfl, rfl⟩) <| Ctx.ignoresA_ite _ (fun _ _ => ⟨rfl, rfl⟩) <|
  Ctx.ignoresA_ite _ (fun _ _ => ⟨rfl, rfl⟩) <| Ctx.ignoresA_ite _ (fun _ _ => ⟨rfl, rfl⟩) <|
  Ctx.ignoresA_ite _ (fun _ _ => ⟨rfl, rfl⟩) <| Ctx.ignoresA_ite _ (fun _ _ => ⟨rfl, rfl⟩) <|
  Ctx.ignoresA_ite _ (fun _ _ => ⟨rfl, rfl⟩) fun _ _ => ⟨rfl, rfl⟩

/-! ## Loops -/

theorem loop_scalarFrame {f : Fields} {s : State} (hadm : s.admits .loop f)
    (hroom : bits f.imm.toNat 31 16 = 0 ∨ s.me.loops.length < 2) : ScalarFrame (.loop f) s s.me .none [] [] 0 := by
  obtain ⟨hskip, hpush, -⟩ := loopsStart f s s 0 s.me [] ⟨0, 0, 0, false⟩ 0
  by_cases h0 : bits f.imm.toNat 31 16 = 0
  · exact ScalarFrame.of_quiet (hskip hadm h0) (State.readOnly_refl s []) (State.isWith_refl s) (Ctx.ScalarKept.refl _ _ _)
  · exact ScalarFrame.of_onMe (hpush hadm h0 (hroom.resolve_left h0)) ⟨rfl, fun sl _ _ => by cases sl <;> rfl, rfl, rfl⟩

theorem loopx_scalarFrame {f : Fields} {s s1 : State} {a : Nat} (hadm : s.admits .loopx f)
    (hr : rdAll s.me f.imm [(3, f.sa)] s = .ok [a] s1) (hroom : w64 a = 0 ∨ s.me.loops.length < 2) :
    ScalarFrame (.loopx f) s s.me .none [] [f.sa] 0 := by
  obtain ⟨-, -, hskip, hpush, -⟩ := loopsStart f s s1 a s.me [] ⟨0, 0, 0, false⟩ 0
  have hreads : s.readOnly s1 [f.sa] := rdAll_reads hr
  by_cases h0 : w64 a = 0
  · exact ScalarFrame.of_quiet (hskip hadm hr h0) hreads hreads.isWith (Ctx.ScalarKept.refl _ _ _)
  · exact ScalarFrame.of_quiet (hpush hadm hr h0 (by rw [(rdAll_me hr).2]; exact hroom.resolve_left h0)) hreads
      (State.isWith_onMe _ hreads.isWith) ⟨rfl, fun sl _ _ => by cases sl <;> rfl, rfl, rfl⟩

/-- Settles O54: each instruction completes as its table has it, and what it does to its context keeps the rest. -/
theorem scalarRegisterFrames : Obligations.Scalar_register_frames := by
  unfold Obligations.Scalar_register_frames
  refine ⟨fun e he f s s1 s2 vs hadm hloc hport hr hw => ?rows, ?single⟩
  case rows =>
    have hcompletes : e.Completes := by
      obtain hshort | hmixed := List.mem_append.mp he
      · exact scalarResults e hshort
      · exact scalarMixedResults e hmixed
    exact ScalarRow.scalarFrame hcompletes hadm hloc hport hr hw
  intro f s s1 a b v m x n F moved link pred
  obtain ⟨hmovi, hmovh, -, hmovsW, hamov, hastr, haadv⟩ := registerMoves f s s1 a b
  obtain ⟨hcmp, htest, hpand, hpor, hpxor, hpnot, hpmov⟩ := truthValues f s s1 a b
  obtain ⟨hbr, hbrx, hcall, hcallx, hret, -⟩ := branchesAndCalls f s s1 a
  refine ⟨fun hadm => ?movi, fun hadm => ?movh, fun hadm hloc hport => ?movsRead, fun hadm hr hok => ?movsWrite,
    fun hm hmn hn => x.movs_setMovs_other hm hmn hn _, fun hadm hr => ?amov, fun hadm hr => ?astr, fun hadm hr => ?aadv,
    fun hadm hr => ?cmp, fun hadm hr => ?test, fun hadm => ?pand, fun hadm => ?por, fun hadm => ?pxor, fun hadm => ?pnot,
    fun hadm hr => ?pmov, fun hadm => ?nop, fun hadm => ?br, fun hadm hr => ?brx, fun hadm hroom => ?call,
    fun hadm hr hroom => ?callx, fun hadm hr hroom => ?ret, loop_scalarFrame, loopx_scalarFrame, fun hadm hsp hr => ?ld,
    fun hadm hok hacc => ?csrr⟩
  case movi => exact ScalarFrame.of_onMe (hmovi hadm) ((Ctx.ScalarKept.refl _ _ _).setSlot _ _)
  case movh => exact ScalarFrame.of_onMe (hmovh hadm) ((Ctx.ScalarKept.refl _ _ _).setSlot _ _)
  case movsRead =>
    obtain ⟨-, -, hmovsR, -⟩ := registerMoves f s ((s.bumped [f.dst]).onMe (fun y =>
      y.setSlot (x.slotOf f.dst) (extendTy 7 (x.movs n).toNat))) a b
    refine ScalarFrame.of_quiet (hmovsR hadm (wr_register hloc hport)) (State.readOnly_refl s [])
      (State.isWith_onMe _ (State.isWith_bumped _ (State.isWith_refl s))) ?_
    rw [Ctx.bump_of_not_local _ hloc]
    exact (Ctx.ScalarKept.refl _ _ _).setSlot _ _
  case movsWrite =>
    exact ScalarFrame.of_bumped (hmovsW hadm hr hok) (rdAll_reads hr)
      (Ctx.ScalarKept.ofBump x _ (Ctx.setMovs_ignoresA n (w64 a)))
  case amov =>
    exact ScalarFrame.of_bumped (hamov hadm hr) (rdAll_reads hr)
      ((Ctx.ScalarKept.ofBump x (g := fun y => y.setD (dstA f) ((w64 b).truncate 32)) _ fun _ _ => ⟨rfl, rfl⟩).setSlot (.a (dstA f)) _)
  case astr =>
    exact ScalarFrame.of_bumped (hastr hadm hr) (rdAll_reads hr) ((Ctx.ScalarKept.bump x _).setD _ _)
  case aadv => exact ScalarFrame.of_bumped (haadv hadm hr) (rdAll_reads hr) ((Ctx.ScalarKept.bump x _).setSlot (.a (dstA f)) _)
  case cmp =>
    have hreads : s.readOnly s1 [f.sa, f.sb] := rdAll_reads hr
    exact ScalarFrame.of_flags (hcmp hadm hr) hreads (State.isWith_onMe _ (State.isWith_bumped _ hreads.isWith))
      ((Ctx.ScalarKept.bump x _).setSlot _ _)
  case test => exact ScalarFrame.of_bumped (htest hadm hr) (rdAll_reads hr) ((Ctx.ScalarKept.bump x _).setSlot _ _)
  case pand => exact ScalarFrame.of_onMe (hpand hadm) ((Ctx.ScalarKept.refl x _ _).setP _ _)
  case por => exact ScalarFrame.of_onMe (hpor hadm) ((Ctx.ScalarKept.refl x _ _).setP _ _)
  case pxor => exact ScalarFrame.of_onMe (hpxor hadm) ((Ctx.ScalarKept.refl x _ _).setP _ _)
  case pnot => exact ScalarFrame.of_onMe (hpnot hadm) ((Ctx.ScalarKept.refl x _ _).setP _ _)
  case pmov => exact ScalarFrame.of_bumped (hpmov hadm hr) (rdAll_reads hr) ((Ctx.ScalarKept.bump x _).setP _ _)
  case nop =>
    exact ScalarFrame.of_quiet ((nopWaitlYield f s).1 hadm) (State.readOnly_refl s []) (State.isWith_refl s)
      (Ctx.ScalarKept.refl _ _ _)
  case br =>
    exact ScalarFrame.of_quiet (hbr hadm) (State.readOnly_refl s []) (State.isWith_refl s) (Ctx.ScalarKept.refl _ _ _)
  case brx =>
    have hreads : s.readOnly s1 [f.sa] := rdAll_reads hr
    exact ScalarFrame.of_quiet (hbrx hadm hr) hreads hreads.isWith (Ctx.ScalarKept.refl _ _ _)
  case call => exact ScalarFrame.of_onMe (hcall hadm hroom) (Ctx.ScalarKept.setX (moved (x.wb + F - 8)) _ _)
  case callx =>
    have hreads : s.readOnly s1 [f.sa] := rdAll_reads hr
    have hme : s1.me = x := (rdAll_me hr).2
    have hexec := hcallx hadm hr (by rw [hme]; exact hroom)
    rw [hme] at hexec
    exact ScalarFrame.of_quiet hexec hreads (State.isWith_onMe _ hreads.isWith) (Ctx.ScalarKept.setX (moved (x.wb + F - 8)) _ _)
  case ret =>
    have hreads : s.readOnly s1 [f.sa] := rdAll_reads hr
    exact ScalarFrame.of_quiet (hret hadm hr hroom) hreads (State.isWith_onMe _ hreads.isWith) (Ctx.ScalarKept.refl _ _ _)
  case ld =>
    obtain ⟨hld, -⟩ := localLoadsAndStores f s s1 s1 v 0 0 0 0 ⟨0, []⟩ 0
    have hexec := hld hadm hsp hr
    obtain rfl := localRead_frame hr
    exact ScalarFrame.of_bumped hexec (State.readOnly_refl s1 []) ((Ctx.ScalarKept.bump x _).setSlot _ _)
  case csrr =>
    obtain ⟨-, -, -, hcsrr, -⟩ := systemInstructions f s s1 0 0 0
    exact ScalarFrame.of_onMe (hcsrr hadm hok hacc) (Ctx.ScalarKept.setX x _ _)

end Sys2Proof.Machine
end

section
/-! What the vector instructions that write no memory leave unchanged. -/

namespace Sys2Proof.Machine
open Sys2Proof

/-! ## Steps that read alone -/

/-- A step that completes leaves the state as it is. -/
def M.keeps {α : Type} (m : M α) : Prop := ∀ (s u : State) (a : α), m s = .ok a u → u = s

theorem M.keeps_pure {α : Type} (a : α) : (pure a : M α).keeps := fun _ _ _ h => (M.pure_ok h).1
theorem M.keeps_throw {α : Type} (e : Stop) : (throw e : M α).keeps := fun _ _ _ h => nomatch h
theorem M.keeps_raise {α : Type} (c : Nat) (v : Word) : (raise c v : M α).keeps := fun _ _ _ h => nomatch h
theorem M.keeps_get : (get : M State).keeps := fun _ _ _ h => by cases h; rfl

theorem M.keeps_waitFor (b : Bool) : (waitFor b).keeps := fun s u _ h => by
  rw [M.run_waitFor] at h
  split at h <;> cases h
  rfl

theorem M.keeps_need (b : Bool) (c : Nat) (v : Word) : (need b c v).keeps := fun s u _ h => by
  rw [M.run_need] at h
  split at h <;> cases h
  rfl

theorem M.keeps_needOp (b : Bool) : (needOp b).keeps := M.keeps_need b _ _

theorem M.keeps_bind {α β : Type} {m : M α} {k : α → M β} (hm : m.keeps) (hk : ∀ a, (k a).keeps) : (m >>= k).keeps := by
  intro s u b h
  rw [M.run_bind] at h
  split at h
  · rename_i a s1 h1
    rw [hk a s1 u b h, hm s s1 a h1]
  · cases h

theorem M.keeps_mapM {α β : Type} {g : α → M β} (hg : ∀ a, (g a).keeps) (l : List α) : (l.mapM g).keeps := by
  induction l with
  | nil => rw [List.mapM_nil]; exact M.keeps_pure _
  | cons a l ih =>
    rw [List.mapM_cons]
    exact M.keeps_bind (hg a) fun b => M.keeps_bind ih fun bs => M.keeps_pure _

theorem localRead_keeps (a : Word) (n : Nat) : (localRead a n).keeps := fun _ _ _ h => localRead_frame h
theorem localLoc_keeps (a : Word) (n : Nat) (store : Bool) : (localLoc a n store).keeps := fun _ _ _ h => (localLoc_frame h).1

theorem readLanes_keeps (x : Ctx) (f : Fields) (at_ : Nat → Word) : (readLanes x f at_).keeps :=
  M.keeps_mapM (fun _ => M.keeps_bind (localRead_keeps _ _) fun _ => M.keeps_pure _) _

theorem localRange_keeps (a : Word) (n : Nat) (store : Bool) : (localRange a n store).keeps := by
  unfold localRange
  refine M.keeps_bind M.keeps_get fun s => ?_
  dsimp only
  split
  · exact M.keeps_raise _ _
  · split
    · exact M.keeps_throw _
    · refine M.keeps_bind (M.keeps_waitFor _) fun _ => M.keeps_bind (M.keeps_waitFor _) fun _ => ?_
      split
      · exact M.keeps_raise _ _
      · exact M.keeps_pure _

theorem blockAt_keeps (x : Ctx) (a : Word) : (blockAt x a).keeps := by
  unfold blockAt
  refine M.keeps_bind (M.keeps_need _ _ _) fun _ => M.keeps_bind (M.keeps_needOp _) fun _ => ?_
  split
  · exact M.keeps_raise _ _
  · exact M.keeps_pure _

theorem readBlock_keeps (x : Ctx) (a : Word) : (readBlock x a).keeps := by
  unfold readBlock
  exact M.keeps_bind (blockAt_keeps x a) fun _ => M.keeps_bind (localRange_keeps _ _ _) fun _ =>
    M.keeps_bind (localRange_keeps _ _ _) fun _ => M.keeps_bind M.keeps_get fun _ => M.keeps_pure _

/-! ## A context kept but for one vector register -/

/-- Context y is x but for vector register k, the bases of some (aK)+ codes and what counts an instruction as issued. -/
structure Ctx.VectorKept (x y : Ctx) (k : Nat) (codes : List (BitVec 8)) : Prop where
  same : x.sameButRegisters y
  regs : x.keepsRegisters y .none codes
  fpst : y.fpst = x.fpst
  vecs : ∀ i, i ≠ k → y.v i = x.v i

theorem Ctx.ScalarKept.setV {x y : Ctx} {codes : List (BitVec 8)} (h : x.ScalarKept y .none codes) (k : Nat) (v : Vec) :
    x.VectorKept (y.setV k v) k codes where
  same := Ctx.sameButRegisters_trans h.same rfl
  regs := fun sl hn hb => by rw [← h.regs sl hn hb]; cases sl <;> rfl
  fpst := h.fpst
  vecs := fun i hi => by
    simp only [Ctx.setV, Ctx.v]
    rw [look_put_other _ _ _ hi, h.vecs]

/-- A result on its way changes no register. -/
theorem Ctx.ScalarKept.pend {x y : Ctx} {codes : List (BitVec 8)} (h : x.ScalarKept y .none codes) (l : List Pend) :
    x.ScalarKept { y with pend := l } .none codes where
  same := Ctx.sameButRegisters_trans h.same rfl
  regs := fun sl hn hb => by rw [← h.regs sl hn hb]; cases sl <;> rfl
  fpst := h.fpst
  vecs := h.vecs

/-- A lane-enable register takes a value, whatever the address registers hold. -/
theorem Ctx.setE_ignoresA (n : Nat) (e : BitVec 64) : Ctx.ignoresA (fun x => x.setE n e) :=
  Ctx.ignoresA_ite _ (fun _ _ => ⟨rfl, rfl⟩) fun _ _ => ⟨rfl, rfl⟩

theorem Ctx.ScalarKept.setE (x : Ctx) (codes : List (BitVec 8)) (n : Nat) (e : BitVec 64) :
    (x.setE n e).ScalarKept ((x.bump codes).setE n e) .none codes :=
  Ctx.ScalarKept.ofBump x codes (Ctx.setE_ignoresA n e)

/-- A last code that is no local one adds no increment. -/
theorem Ctx.bump_snoc (x : Ctx) (codes : List (BitVec 8)) {c : BitVec 8} (h : isLocal c = false) :
    x.bump (codes ++ [c]) = x.bump codes := by
  have hinc : inR 0x88 0x8F c = false := by
    simp only [isLocal, inR, Bool.and_eq_false_iff, decide_eq_false_iff_not] at h ⊢; omega
  simp only [Ctx.bump, List.foldl_append, List.foldl_cons, List.foldl_nil, hinc, Bool.false_eq_true, if_false]

/-! ## The state around it -/

/-- A register destination of a vector: the lanes that are on take their values. -/
theorem wrV_register {x : Ctx} {imm : BitVec 32} {c : BitVec 8} {n : Nat} {on : Nat → Bool} {res : Nat → Nat} {s : State}
    (h1 : isLocal c = false) (h2 : isPort c = false) :
    wrV x imm c n on res s = .ok () (s.onMe (fun y => y.setV (c.toNat - 0x40) (mergeLanes n (x.v (c.toNat - 0x40)).toNat on res))) := by
  unfold wrV; simp only [h1, h2, Bool.false_eq_true, if_false]; rfl

section
variable {i : Instr} {s s1 u : State} {x y : Ctx} {k : Nat} {bumps reads codes : List (BitVec 8)} {ctl : Ctl}

theorem VectorFrame.of_flags {fl : Flags} (hexec : exec i s = .next ((u.raiseFlags u.cur fl).retired s.cur ctl))
    (hr : s.readOnly s1 reads) (hw : s1.isWith u y) (hk : x.VectorKept y k bumps) : VectorFrame i s x k bumps reads fl := by
  obtain ⟨hregs, hvs⟩ := registersOnly_of (ctl := ctl) (fl := fl) hr hw hk.same hk.regs hk.fpst
  exact ⟨_, hexec, hregs, fun j hj => by rw [Ctx.v, hvs]; exact hk.vecs j hj⟩

theorem VectorFrame.of_quiet (hexec : exec i s = .next (u.retired s.cur ctl))
    (hr : s.readOnly s1 reads) (hw : s1.isWith u y) (hk : x.VectorKept y k bumps) : VectorFrame i s x k bumps reads 0 :=
  VectorFrame.of_flags (by rwa [State.raiseFlags_zero]) hr hw hk

/-- A vector instruction whose lanes go to a register. -/
theorem VectorFrame.of_wrV {dst : BitVec 8} {imm : BitVec 32} {n : Nat} {on : Nat → Bool} {res : Nat → Nat} {fl : Flags}
    (hvd : isLocal dst = false ∧ isPort dst = false) (hr : s.readOnly s1 reads) (hcodes : s.me.bump codes = s.me.bump bumps)
    (hexec : ∀ s2, wrV s.me imm dst n on res (s1.bumped codes) = .ok () s2 →
      exec i s = .next ((s2.raiseFlags s2.cur fl).retired s.cur ctl)) :
    VectorFrame i s s.me (dst.toNat - 0x40) bumps reads fl := by
  refine VectorFrame.of_flags (hexec _ (wrV_register hvd.1 hvd.2)) hr (State.isWith_onMe _ (State.isWith_bumped _ hr.isWith)) ?_
  rw [hcodes]
  exact (Ctx.ScalarKept.bump s.me bumps).setV _ _

/-- The same for one that raises no flag. -/
theorem VectorFrame.of_wrV_quiet {dst : BitVec 8} {imm : BitVec 32} {n : Nat} {on : Nat → Bool} {res : Nat → Nat}
    (hvd : isLocal dst = false ∧ isPort dst = false) (hr : s.readOnly s1 reads) (hcodes : s.me.bump codes = s.me.bump bumps)
    (hexec : ∀ s2, wrV s.me imm dst n on res (s1.bumped codes) = .ok () s2 → exec i s = .next (s2.retired s.cur ctl)) :
    VectorFrame i s s.me (dst.toNat - 0x40) bumps reads 0 :=
  VectorFrame.of_wrV hvd hr hcodes fun s2 hw => by rw [State.raiseFlags_zero]; exact hexec s2 hw

/-- An instruction whose result goes to a scalar register. -/
theorem ScalarFrame.of_wr {dst : BitVec 8} {imm : BitVec 32} {t v : Nat} {fl : Flags}
    (hvd : isLocal dst = false ∧ isPort dst = false) (hr : s.readOnly s1 reads) (hcodes : s.me.bump codes = s.me.bump bumps)
    (hexec : ∀ s2, wr s.me t imm dst v (s1.bumped codes) = .ok () s2 →
      exec i s = .next ((s2.raiseFlags s2.cur fl).retired s.cur ctl)) :
    ScalarFrame i s s.me (s.me.slotOf dst) bumps reads fl := by
  refine ScalarFrame.of_flags (hexec _ (wr_register hvd.1 hvd.2)) hr (State.isWith_onMe _ (State.isWith_bumped _ hr.isWith)) ?_
  rw [hcodes]
  exact (Ctx.ScalarKept.bump s.me bumps).setSlot _ _

theorem ScalarFrame.of_wr_quiet {dst : BitVec 8} {imm : BitVec 32} {t v : Nat}
    (hvd : isLocal dst = false ∧ isPort dst = false) (hr : s.readOnly s1 reads) (hcodes : s.me.bump codes = s.me.bump bumps)
    (hexec : ∀ s2, wr s.me t imm dst v (s1.bumped codes) = .ok () s2 → exec i s = .next (s2.retired s.cur ctl)) :
    ScalarFrame i s s.me (s.me.slotOf dst) bumps reads 0 :=
  ScalarFrame.of_wr hvd hr hcodes fun s2 hw => by rw [State.raiseFlags_zero]; exact hexec s2 hw

/-- A long-latency instruction changes no register before it lands. -/
theorem ScalarFrame.of_awaits {la : Nat} {r : Result} {fl : Flags} (hr : s.readOnly s1 reads)
    (hexec : exec i s = .next (((s1.bumped bumps).awaits la r fl).retired s.cur ctl)) : ScalarFrame i s s.me .none bumps reads 0 :=
  ScalarFrame.of_bumped hexec hr ((Ctx.ScalarKept.bump s.me bumps).pend _)

/-- Lanes of a vector register take loaded values. -/
theorem VectorFrame.of_lanesTaken {n : Nat} {ls : List (Nat × Nat)} (hr : s.readOnly s1 reads)
    (hexec : exec i s = .next (((s1.bumped bumps).lanesTaken k n ls).retired s.cur ctl)) : VectorFrame i s s.me k bumps reads 0 :=
  VectorFrame.of_quiet hexec hr (State.isWith_onMe _ (State.isWith_bumped _ hr.isWith)) ((Ctx.ScalarKept.bump s.me bumps).setV _ _)

end

/-! ## Vector loads by lane addresses -/

/-- The frames of a vault are found as before operands were read. -/
theorem State.vaultOff?_readOnly {s s1 : State} {codes : List (BitVec 8)} (h : s.readOnly s1 codes) (t a : Nat) :
    s1.vaultOff? t a = s.vaultOff? t a := by
  have hframes : (s1.core (coreOf t)).frames = (s.core (coreOf t)).frames := by rw [← h.2.1 (coreOf t)]
  simp only [State.vaultOff?, State.frameOf?, State.nlrOf, State.onlyCores_ctx h.1, hframes]
  rfl

/-- The context with VCNF counting the waits of a local access by lanes. -/
def Ctx.counting (x : Ctx) (n : Nat) (offs : List Nat) : Ctx := { x with vcnf := x.vcnf + w64 (bankWaits n offs) }

theorem LanesLoad.vectorFrame {op : Op} {f : Fields} {s s0 s1 : State} {at_ : Nat → Word} {vs : List (Nat × Nat)}
    {reads : List (BitVec 8)} (h : LanesLoad op f s s0 at_) (hsp : f.space = 0) (hr : s.readOnly s0 reads)
    (hv : readLanes s.me f at_ s0 = .ok vs s1) :
    VectorFrame (op.instr f) s (s.me.counting (tyWidth f.tyN / 8)
      (((s.me.lanes f).map at_).filterMap (fun a => s.vaultOff? s.cur a.toNat))) (f.dst.toNat - 0x40) [f.sa] reads 0 := by
  obtain rfl := readLanes_keeps _ _ _ _ _ _ hv
  have hexec := (h s1 vs []).1 hsp hv
  have hcur : s1.cur = s.cur := State.onlyCores_cur hr.1
  simp only [State.banksCounted, hcur, State.vaultOff?_readOnly hr] at hexec
  exact VectorFrame.of_quiet hexec hr
    (State.isWith_onMe _ (State.isWith_bumped _ (State.isWith_onMe _ hr.isWith)))
    ((Ctx.ScalarKept.bump (s.me.counting _ _) [f.sa]).setV _ _)

/-! ## The tables of vector mnemonics -/

theorem vectorTwo_frame {e : LaneRow} (he : e ∈ vectorTwo) {f : Fields} {s s1 s2 : State} {a : Nat} {b : Nat → Nat}
    (hadm : s.admits e.op f) (hvd : isLocal f.dst = false ∧ isPort f.dst = false)
    (ha : rdV s.me f.imm f.sa s = .ok a s1) (hb : rdLanes s.me f.tyN f.imm f.sb s1 = .ok b s2) :
    VectorFrame (e.op.instr f) s s.me (f.dst.toNat - 0x40) [f.sa, f.sb] [f.sa, f.sb]
      (laneFlags (lanesOf (tyWidth f.tyN)) (s.me.laneOn f) (fun i => e.val f (s.me.mode f) (laneOf (tyWidth f.tyN) a i) (b i))) :=
  VectorFrame.of_wrV hvd (State.readOnly_trans (rdV_reads ha) (rdLanes_reads hb)) (s.me.bump_snoc [f.sa, f.sb] hvd.1)
    fun s3 hw => vectorTwo_completes e he f s s1 s2 s3 a b hadm ha hb hw

theorem vectorOne_frame {e : LaneRow} (he : e ∈ vectorOne) {f : Fields} {s s1 : State} {a : Nat} (hadm : s.admits e.op f)
    (hvd : isLocal f.dst = false ∧ isPort f.dst = false) (ha : rdV s.me f.imm f.sa s = .ok a s1) :
    VectorFrame (e.op.instr f) s s.me (f.dst.toNat - 0x40) [f.sa] [f.sa]
      (laneFlags (lanesOf (tyWidth f.tyN)) (s.me.laneOn f) (fun i => e.val f (s.me.mode f) (laneOf (tyWidth f.tyN) a i) 0)) :=
  VectorFrame.of_wrV hvd (rdV_reads ha) (s.me.bump_snoc [f.sa] hvd.1)
    fun s2 hw => vectorOne_completes e he f s s1 s2 a hadm ha hw

/-- Settles O55: each instruction completes as its table has it, and what it does to its context keeps the rest. -/
theorem vectorRegisterFrames : Obligations.Vector_register_frames := by
  unfold Obligations.Vector_register_frames
  refine ⟨fun e he f s s1 s2 s3 a b hadm hloc hport ha hb _ => vectorTwo_frame he hadm ⟨hloc, hport⟩ ha hb,
    fun e he f s s1 a hadm hloc hport ha => vectorOne_frame he hadm ⟨hloc, hport⟩ ha,
    fun e he f s s1 a hadm ha => ScalarFrame.of_awaits (rdLanes_reads ha) (vectorLongResults.1 e he f s s1 a hadm ha), ?single⟩
  intro f s s1 s2 s3 a c v w b ct k vs x d n flags vd dot tree sum scan half lo on cmp ea eb mask counted indexed
  have hquiet : s.readOnly s [] := State.readOnly_refl s []
  obtain ⟨hvcmp, hand, hor, hxor, handn, hnot, hset, -⟩ := laneEnables f s s1 s2 s3 a v b
  refine ⟨fun hadm hvd ha hb hc => ?vfma, fun hadm hvd ha hb hc => ?vdot, fun hadm hvd ha hb => ?vsel, fun hadm ha hb => ?vdiv,
    fun hadm hvd hv => ?vbcast, fun hadm hvd ha hv => ?vext, fun hadm hvd ha hv => ?vins, fun hadm hvd ha hv hc => ?vshuf,
    fun hadm hvd ha hv => ?vrot, fun hadm hvd ha => ?vreds, fun hadm hvd ha => ?vredmMin, fun hadm hvd ha => ?vredmMax,
    fun hadm hvd ha => ?vscan, fun hadm hvd ha => ?vwidn, fun hadm hvd ha => ?vnarr, fun hadm hvd hblk => ?vdqt,
    fun hadm ha => ?vsprs, fun hadm hvd ha => ?vxpnd, fun hadm hvd hv => ?viota, fun hadm ha hb => ?vcmp,
    fun hadm => ?vmaskAnd, fun hadm => ?vmaskOr, fun hadm => ?vmaskXor, fun hadm => ?vmaskAndn, fun hadm => ?vmaskNot,
    fun hadm hv => ?vmaskSet, fun hadm hvd => ?vmaskGet, fun hadm hty hsp hv => ?ldv, fun hadm hty hblk => ?ldvBlock,
    fun hadm hsp hv hvs => ?vlds, fun hadm hsp hvs => ?vgath⟩
  case vfma =>
    exact VectorFrame.of_wrV hvd (State.readOnly_trans (rdV_reads ha) (State.readOnly_trans (rdLanes_reads hb) (rdLanes_reads hc)))
      (x.bump_snoc [f.sa, f.sb, f.sc] hvd.1)
      fun s4 hw => (vectorThreeSourceResults f s s1 s2 s3 s4 a 0 b ct).1 hadm ha hb hc hw
  case vdot =>
    exact VectorFrame.of_wrV hvd (State.readOnly_trans (rdV_reads ha) (State.readOnly_trans (rdLanes_reads hb) (rdV_reads hc)))
      (x.bump_snoc [f.sa, f.sb, f.sc] hvd.1)
      fun s4 hw => (vectorThreeSourceResults f s s1 s2 s3 s4 a c b ct).2.1 hadm ha hb hc hw
  case vsel =>
    exact VectorFrame.of_wrV_quiet hvd (State.readOnly_trans (rdV_reads ha) (rdLanes_reads hb)) (x.bump_snoc [f.sa, f.sb] hvd.1)
      fun s3 hw => (vectorThreeSourceResults f s s1 s2 s3 s a c b ct).2.2 hadm ha hb hw
  case vdiv =>
    exact ScalarFrame.of_awaits (State.readOnly_trans (rdV_reads ha) (rdLanes_reads hb))
      (vectorLongResults.2 f s s1 s2 a b hadm ha hb)
  case vbcast =>
    exact VectorFrame.of_wrV_quiet hvd (rd_reads hv) (x.bump_snoc [] hvd.1)
      fun s2 hw => (laneMoves f s s1 s2 s s a c c v).1 hadm hv hw
  case vext =>
    exact ScalarFrame.of_wr_quiet hvd (State.readOnly_trans (rdV_reads ha) (rd_reads hv)) (x.bump_snoc [f.sa] hvd.1)
      fun s3 hw => (laneMoves f s s1 s2 s3 s a c c v).2.1 hadm ha hv hw
  case vins =>
    exact VectorFrame.of_wrV_quiet hvd (State.readOnly_trans (rd_reads ha) (rd_reads hv)) rfl
      fun s3 hw => (laneMoves f s s1 s2 s3 s a c c v).2.2.1 hadm ha hv hw
  case vshuf =>
    exact VectorFrame.of_wrV_quiet hvd (State.readOnly_trans (rdV_reads ha) (State.readOnly_trans (rdV_reads hv) (rdV_reads hc)))
      (x.bump_snoc [f.sa, f.sb, f.sc] hvd.1)
      fun s4 hw => (laneMoves f s s1 s2 s3 s4 a v c v).2.2.2.1 hadm ha hv hc hw
  case vrot =>
    exact VectorFrame.of_wrV_quiet hvd (State.readOnly_trans (rdV_reads ha) (rd_reads hv)) (x.bump_snoc [f.sa] hvd.1)
      fun s3 hw => (laneMoves f s s1 s2 s3 s a c c v).2.2.2.2 hadm ha hv hw
  case vreds =>
    exact ScalarFrame.of_wr hvd (rdV_reads ha) (x.bump_snoc [f.sa] hvd.1)
      fun s2 hw => (reductionsAndScans f s s1 s2 a).1 hadm ha hw
  case vredmMin =>
    exact ScalarFrame.of_wr hvd (rdV_reads ha) (x.bump_snoc [f.sa] hvd.1)
      fun s2 hw => (reductionsAndScans f s s1 s2 a).2.1 hadm ha hw
  case vredmMax =>
    exact ScalarFrame.of_wr hvd (rdV_reads ha) (x.bump_snoc [f.sa] hvd.1)
      fun s2 hw => (reductionsAndScans f s s1 s2 a).2.2.1 hadm ha hw
  case vscan =>
    exact VectorFrame.of_wrV hvd (rdV_reads ha) (x.bump_snoc [f.sa] hvd.1)
      fun s2 hw => (reductionsAndScans f s s1 s2 a).2.2.2 hadm ha hw
  case vwidn =>
    exact VectorFrame.of_wrV hvd (rdV_reads ha) (x.bump_snoc [f.sa] hvd.1)
      fun s2 hw => (wideningAndNarrowing f s s1 s2 a).1 hadm ha hw
  case vnarr =>
    exact VectorFrame.of_wrV hvd (rdV_reads ha) (x.bump_snoc [f.sa] hvd.1)
      fun s2 hw => (wideningAndNarrowing f s s1 s2 a).2 hadm ha hw
  case vdqt =>
    have hs : s1 = s := readBlock_keeps _ _ _ _ _ hblk
    subst hs
    exact VectorFrame.of_wrV hvd hquiet rfl
      fun s2 hw => (blocksAndSparsity f s1 s1 s2 s1 s1 a 0 w 0 0 k).2.1 hadm hblk hw
  case vsprs =>
    exact VectorFrame.of_quiet ((blocksAndSparsity f s s1 s s s a 0 w 0 0 k).2.2.1 hadm ha) (rdV_reads ha)
      (State.isWith_onMe _ (State.isWith_bumped _ (rdV_reads ha).isWith)) ((Ctx.ScalarKept.bump x [f.sa]).setV _ _)
  case vxpnd =>
    exact VectorFrame.of_wrV_quiet hvd (rdV_reads ha) rfl
      fun s2 hw => (blocksAndSparsity f s s1 s2 s s a 0 w 0 0 k).2.2.2 hadm ha hw
  case viota =>
    exact VectorFrame.of_wrV_quiet hvd (rd_reads hv) (x.bump_snoc [] hvd.1)
      fun s3 hw => (laneEnables f s s1 s s3 a v b).2.2.2.2.2.2.2.2 hadm hv hw
  case vcmp =>
    have hr : s.readOnly s2 [f.sa, f.sb] := State.readOnly_trans (rdV_reads ha) (rdLanes_reads hb)
    exact ScalarFrame.of_flags (hvcmp hadm ha hb) hr
      (State.isWith_onMe _ (State.isWith_bumped _ hr.isWith)) (Ctx.ScalarKept.setE x _ _ _)
  case vmaskAnd => exact ScalarFrame.of_onMe (hand hadm) (Ctx.ScalarKept.refl _ _ _)
  case vmaskOr => exact ScalarFrame.of_onMe (hor hadm) (Ctx.ScalarKept.refl _ _ _)
  case vmaskXor => exact ScalarFrame.of_onMe (hxor hadm) (Ctx.ScalarKept.refl _ _ _)
  case vmaskAndn => exact ScalarFrame.of_onMe (handn hadm) (Ctx.ScalarKept.refl _ _ _)
  case vmaskNot => exact ScalarFrame.of_onMe (hnot hadm) (Ctx.ScalarKept.refl _ _ _)
  case vmaskSet =>
    exact ScalarFrame.of_quiet (hset hadm hv) (rd_reads hv)
      (State.isWith_onMe _ (rd_reads hv).isWith) (Ctx.ScalarKept.refl _ _ _)
  case vmaskGet =>
    exact ScalarFrame.of_wr_quiet hvd hquiet (x.bump_snoc [] hvd.1)
      fun s1 hw => (laneEnables f s s1 s s a v b).2.2.2.2.2.2.2.1 hadm hw
  case ldv =>
    have hs : s1 = s := localRead_frame hv
    subst hs
    exact VectorFrame.of_lanesTaken hquiet ((localLoadsAndStores f s1 s1 s1 v 0 0 0 0 k 0).2.2.1 hadm hty hsp hv)
  case ldvBlock =>
    have hs : s1 = s := readBlock_keeps _ _ _ _ _ hblk
    subst hs
    exact VectorFrame.of_lanesTaken hquiet ((localLoadsAndStores f s1 s1 s1 v 0 0 w 0 k 0).2.2.2.1 hadm hty hblk)
  case vlds => exact LanesLoad.vectorFrame ((laneAddressedAccesses f s s1 (w64 v)).1 hadm hv) hsp (rd64_reads hv) hvs
  case vgath => exact LanesLoad.vectorFrame ((laneAddressedAccesses f s s 0).2.2.1 hadm) hsp hquiet hvs

end Sys2Proof.Machine
end

section
/-! Stores to the vault where a core's frame table lists a frame twice. -/

namespace Sys2Proof.Machine
open Sys2Proof

/-! ## A block whose exponent byte goes to another frame than the one found before (R219) -/

/-- A frame table that is out of order and lists frame 3 twice: page 1 is found in frame 5 and page 0 in frame 3. The
mark that a write leaves on frame 3 lists its first entry, of page 1, ahead of frame 5. -/
def twiceFrames : Map Frame :=
  [(5, { owner := 0, page := 1, dirty := false }), (3, { owner := 0, page := 1, dirty := false }),
   (3, { owner := 0, page := 0, dirty := false })]

/-- A task of launch 1. -/
def twiceTask : Task :=
  { words := List.replicate 8 0, lid := 1, stage := 0, stageX4 := 0, stageX5 := 0, stageX6 := 0, staged := false, rst := false,
    pri := 1, retries := 0, handler := none, retained := [] }

/-- Context 0 issues, with a 1.0 in lane 0 of v1 and the block format of bank 0 set; its core has the frames above. -/
def twiceState : State :=
  { State.reset with
    ctxs := [(0, { st := .issuing, act := 1, task := some twiceTask, vs := [(1, 0x3F800000)], bfmt := [(0, 0x20)] })]
    cores := [(0, { frames := twiceFrames })]
    sched := { launches := [{ lid := 1, seq := 1, qsrc := true, name := 0, part := 0, asid := 0, block := [0x41000000],
                              bound := true, fields := [0] }] } }

/-- STV of a block at the address in a0. -/
def twiceFields : Fields := { noFields with sa := 0x80, sb := 0x41, ty := 12, mod := 0x08, imm := 0x42 }

/-- The byte of frame 3 at the place of the exponent byte in its page. -/
def twiceByte : Nat := twiceState.vaultLoc 0 (3 * 4096 + 3840)

theorem twice_admits : twiceState.admits .stv twiceFields := by
  unfold State.admits
  decide +kernel

theorem twice_block : blockAt twiceState.me (twiceState.me.localAddr twiceFields.imm twiceFields.sa) twiceState =
    .ok (0x20, 0) twiceState := rfl

/-- The store takes the byte of frame 3. -/
theorem twice_stores : ∀ u, exec (.stv twiceFields) twiceState = .next u → u.byteAt twiceByte ≠ 0 := by
  have hbyte : (match exec (.stv twiceFields) twiceState with | .next u => u.byteAt twiceByte | _ => 0) ≠ 0 := by decide +kernel
  intro u hu
  rw [hu] at hbyte
  exact hbyte

/-- A block can be written there. -/
theorem twice_writes : ∃ s2, writeBlock (twiceState.me.localAddr twiceFields.imm twiceFields.sa) 0x20 0 ⟨0, []⟩
    (twiceState.bumped [twiceFields.sa]) = .ok () s2 := by
  have hdone : (match writeBlock (twiceState.me.localAddr twiceFields.imm twiceFields.sa) 0x20 0 ⟨0, []⟩
      (twiceState.bumped [twiceFields.sa]) with | .ok _ _ => true | .error _ _ => false) = true := by decide +kernel
  split at hdone
  · rename_i s2 h
    exact ⟨s2, h⟩
  · cases hdone

/-- The byte is no byte of the block by the frames found before the store. -/
theorem twice_outside (at_ : Word) (hat : at_ = twiceState.me.localAddr twiceFields.imm twiceFields.sa) :
    (∀ j, j < 4 * fmtWidth 0x20 → (twiceState.vaultOff? twiceState.cur (at_.toNat + j)).map (twiceState.vaultLoc (coreOf twiceState.cur)) ≠ some twiceByte) ∧
    (twiceState.vaultOff? twiceState.cur (expAddr at_ 0).toNat).map (twiceState.vaultLoc (coreOf twiceState.cur)) ≠ some twiceByte := by
  subst hat
  decide +kernel

/-- Refutes O56: nothing keeps a core's frame table in order, and on `twiceState` the dirty mark that the mantissas' write
leaves makes the exponent's page be found in another frame, so that STV of a block changes a byte that is none of its own
by the frames found when it issued. -/
theorem not_storeFrames : ¬ Obligations.Store_frames := by
  unfold Obligations.Store_frames
  rintro ⟨-, -, -, -, -, hblock, -⟩
  obtain ⟨s2, hwrite⟩ := twice_writes
  obtain ⟨u, hexec, hbytes, -⟩ := (hblock twiceFields twiceState twiceState s2 twiceState twiceState 0 0 0 0x20 ⟨0, []⟩).2
    twice_admits rfl twice_block hwrite
  obtain ⟨hmant, hexp⟩ := twice_outside _ rfl
  exact twice_stores u hexec (hbytes twiceByte hmant hexp)

end Sys2Proof.Machine
end

section
/-! Events of the memory system and of the slice ways: what each does where its condition holds. -/

namespace Sys2Proof.Machine
open Sys2Proof

/-! ## Waiting requests and accesses (R102, R113, R124) -/

section
variable {s : State} {k t : Nat} {w : Waiter} {p : Pend}

/-- A directory without a record that is to end leaves its records. -/
theorem State.finishEnds_none (h : ∀ e ∈ (s.stack k).dir, e.2.ending = false) : s.finishEnds k = s := by
  have hnone : (s.stack k).dir.filter (fun e => e.2.ending) = [] :=
    List.filter_eq_nil_iff.mpr fun e he => by simp [h e he]
  simp only [State.finishEnds, hnone, List.foldl_nil]

/-- The first waiter that may be granted is served, alone where no read request of its record follows. -/
theorem State.tenureGrant_serves (hsettled : ∀ e ∈ (s.stack k).dir, e.2.ending = false)
    (hfind : (s.stack k).waiters.find? (fun w => s.mayGrant k w) = some w)
    (halone : w.write = true ∨ ((s.grantWaiter k w).stack k).waiters.filter (fun v => v.slot == w.slot) = []) :
    s.tenureGrant k = s.grantWaiter k w := by
  simp only [State.tenureGrant, State.finishEnds_none hsettled, State.serveWaiters, hfind]
  split
  · rfl
  · rename_i hwrite
    rw [halone.resolve_left hwrite]
    rfl

theorem State.resumeAccess_performs (hrun : (s.field (fieldOf t)).frozen = false)
    (hfind : (s.ctx t).pend.find? (fun p => !p.done && p.work.isAccess) = some p) :
    s.resumeAccess t = (s.perform t p).1.modCtx t (fun y =>
      { y with pend := y.pend.map (fun q => if q == p then (s.perform t p).2 else q) }) := by
  simp only [State.resumeAccess, hrun, Bool.false_eq_true, if_false, hfind]

theorem State.tenureWaitTrap_fails (hrun : (s.field (fieldOf t)).frozen = false) (hwrap : s.wrap = 0)
    (hfind : (s.ctx t).pend.find? (fun p => !p.done && p.since.any (fun v => decide (v + 2 ^ 16 ≤ s.vclk (fieldOf t)))) = some p) :
    s.tenureWaitTrap t = s.modCtx t (fun y => { y with pend := y.pend.map (fun q =>
      if q == p then q.fails { cause := cTenure, tval := s.stalledAt t p.work } else q) }) := by
  simp only [State.tenureWaitTrap, hrun, hwrap, ne_eq, not_true_eq_false, decide_false, Bool.or_self, Bool.false_eq_true, if_false,
    hfind]

end

/-! ## Lines of a slice (R96, R115, R116, R120) -/

section
variable {s : State} {fi ln seq : Nat} {m : LineMiss} {x : LineMsg} {l : L2Line} {h : HomeAt} {y : Copy}

/-- The home serves a miss that nothing holds back, and sends the fill. -/
theorem State.readFillEvent_sends (hrun : (s.field fi).frozen = false) (hwrap : s.wrap = 0) (hspace : paSpace (128 * ln) < 0xE)
    (hhome : s.home? (128 * ln) = some h) (hcube : h.cube = s.cubeid) (hmiss : look? (s.field fi).miss ln = some m)
    (hfills : (s.field fi).fills.any (fun m => m.line == ln) = false) (hl2 : look? (s.field fi).l2 ln = none)
    (hfree : s.fieldExcluded h.stack fi ln = false) (hseq : s.seqHeld ln = false)
    (hcov : ((s.recallForFill h.stack ln (some fi) false).ensureCovered h.stack ln (s.field fi).fpart).1 = true) :
    let sent := ((s.recallForFill h.stack ln (some fi) false).ensureCovered h.stack ln (s.field fi).fpart).2.bumpSeq h.stack ln
    s.readFillEvent fi ln = (sent.2.modCovering h.stack ln (fun r => r.addSharer fi)).modField fi (fun f =>
      { f with fills := f.fills ++ [{ line := ln, seq := sent.1, data := (sent.2.lineAt h.loc).data,
                                      tags := (sent.2.lineAt h.loc).tags, syn := (sent.2.lineAt h.loc).syn,
                                      bad := (sent.2.lineAt h.loc).bad }] }) := by
  have hnot : ¬ paSpace (128 * ln) ≥ 0xE := by omega
  simp only [State.readFillEvent, hrun, hwrap, hmiss, hfills, hl2, hhome, hcube, hfree, hseq, hcov, hnot, ne_eq, not_true_eq_false,
    decide_false, Option.isNone_some, Option.isSome_none, Bool.or_self, Bool.false_eq_true, if_false, Bool.not_true]

theorem State.fillArrival_installs (hrun : (s.field fi).frozen = false) (hmiss : look? (s.field fi).miss ln = some m)
    (hfind : (s.field fi).fills.find? (fun m => m.line == ln) = some x) (hl2 : look? (s.field fi).l2 ln = none)
    (hkeep : m.inval.any (fun i => seqGe i x.seq) = false) :
    s.fillArrival fi ln = (s.modField fi (fun f => { f with miss := drop f.miss ln, fills := f.fills.erase x })).install fi ln .s
      { data := x.data, tags := x.tags, syn := x.syn, bad := x.bad } (s.markFor fi ln) 0 := by
  have hkept : (match m.inval with | some i => !seqGe i x.seq | none => true) = true := by
    cases hi : m.inval with
    | none => rfl
    | some i => rw [hi, Option.any_some] at hkeep; exact congrArg not hkeep
  simp only [State.fillArrival, hrun, Bool.false_eq_true, if_false, hmiss, hfind, hl2, Option.isNone_none, Bool.and_true]
  exact if_pos hkept

/-- A fill that a recorded invalidation is not older than is given up. -/
theorem State.fillArrival_gives_up (hrun : (s.field fi).frozen = false) (hmiss : look? (s.field fi).miss ln = some m)
    (hfind : (s.field fi).fills.find? (fun m => m.line == ln) = some x) (hdrop : m.inval.any (fun i => seqGe i x.seq) = true) :
    s.fillArrival fi ln = s.modField fi (fun f => { f with miss := drop f.miss ln, fills := f.fills.erase x }) := by
  cases hi : m.inval with
  | none => rw [hi] at hdrop; cases hdrop
  | some i =>
    rw [hi, Option.any_some] at hdrop
    simp only [State.fillArrival, hrun, Bool.false_eq_true, if_false, hmiss, hfind, hi, hdrop, Bool.not_true, Bool.false_and]

/-- An invalidation that finds a miss pending is recorded there. -/
theorem State.invalidationArrival_recorded (hl2 : look? (s.field fi).l2 ln = none)
    (hmiss : look? (s.field fi).miss ln = some { inval := none }) :
    s.invalidationArrival fi ln seq = s.modField fi (fun f => { f with miss := put f.miss ln { inval := some seq } }) := by
  simp only [State.invalidationArrival, State.arriveInval, State.dropLine, hl2, hmiss]

/-- An invalidation drops a clean shared copy. -/
theorem State.invalidationArrival_drops (hl2 : look? (s.field fi).l2 ln = some l) (hst : l.st = .s) (hclean : l.dirty = false)
    (hmiss : look? ((s.unhold fi ln).field fi).miss ln = none) :
    s.invalidationArrival fi ln seq = s.modField fi (fun f => { f with l2 := drop f.l2 ln }) := by
  have hl : (l.st == LineSt.l) = false := by rw [hst]; rfl
  have ho : (l.st == LineSt.o) = false := by rw [hst]; rfl
  simp only [State.invalidationArrival, State.arriveInval, State.dropLine, hl2, hl, ho, hclean, Bool.false_eq_true, if_false, hmiss]
  rfl

/-- What keeps the engine of a field from a line leaves the line's leased copy alone. -/
theorem State.ownFor_owns {t : Nat} (hwrap : s.wrap = 0) (hspace : paSpace (128 * ln) < 0xE)
    (hhome : s.home? (128 * ln) = some h) (hcube : h.cube = s.cubeid) (hfree : s.excluded t h.stack (128 * ln) 128 true = false)
    (heng : s.engineOwns ln (fun _ => true) = false) (hlease : ∀ l, look? (s.field (fieldOf t)).l2 ln = some l → l.st ≠ .l) :
    s.ownFor t ln = ((s.ownLine h.stack h.loc (fieldOf t) ln).2, (s.ownLine h.stack h.loc (fieldOf t) ln).1) := by
  have hnot : ¬ paSpace (128 * ln) ≥ 0xE := by omega
  have hkeep : (match look? (s.field (fieldOf t)).l2 ln with
      | some l => if l.st == LineSt.l then s.unhold (fieldOf t) ln else s
      | none => s) = s := by
    cases hl2 : look? (s.field (fieldOf t)).l2 ln with
    | none => rfl
    | some l => exact if_neg (by rw [beq_iff_eq]; exact hlease l hl2)
  simp only [State.ownFor, hwrap, hnot, hhome, hcube, hfree, heng, ne_eq, not_true_eq_false, decide_false, Bool.or_self,
    Bool.false_eq_true, if_false]
  exact congrArg (fun u : State => ((u.ownLine h.stack h.loc (fieldOf t) ln).2, (u.ownLine h.stack h.loc (fieldOf t) ln).1)) hkeep

theorem State.ownershipEvent_takes (hrun : (s.field fi).frozen = false) (hwants : s.copyWants fi ln = some y)
    (hown : (s.ownFor y.tid ln).2 = true) :
    s.ownershipEvent fi ln = (s.ownFor y.tid ln).1.modCore (coreOf y.tid) (fun c => { c with copies := c.copies.map (fun z =>
      if z.tid == y.tid && z.seq == y.seq then { z with owned := z.owned ++ [ln] } else z) }) := by
  simp only [State.ownershipEvent, hrun, Bool.false_eq_true, if_false, hwants, hown, if_true]

theorem State.writeBackEvent_cleans (hrun : (s.field fi).frozen = false) (hl2 : look? (s.field fi).l2 ln = some l)
    (hdirty : l.dirty = true) : s.writeBackEvent fi ln = (s.writeHome ln l).setHeld fi ln { l with dirty := false } := by
  simp only [State.writeBackEvent, hrun, Bool.false_eq_true, if_false, State.cleanLine, hl2, hdirty, if_true]

theorem State.leaseExpiry_drops (hrun : (s.field fi).frozen = false) (hl2 : look? (s.field fi).l2 ln = some l) (hst : l.st = .l)
    (hend : l.exp - 8 ≤ s.sid) : s.leaseExpiry fi ln = s.unhold fi ln := by
  have hover : s.leaseOver l = true := by
    have hl : (l.st == LineSt.l) = true := by rw [hst]; rfl
    rw [State.leaseOver, hl, Bool.true_and, decide_eq_true_eq]
    exact hend
  simp only [State.leaseExpiry, hl2, hover, hrun, Bool.not_false, Bool.and_self, if_true]

end

/-! ## Records of a directory (R97, R110, R112) -/

section
variable {s : State} {k slot : Nat} {r : DirRec}

theorem State.rejoinPieces_rejoins (hr : look? (s.stack k).dir slot = some r) (hfirst : r.piece = false)
    (hmany : ((s.stack k).pieces slot).length > 1)
    (hwhole : r.kind = .box ∨ ∃ u, (s.stack k).hull slot = some u ∧
      u.len + 1 = (((s.stack k).pieces slot).map (fun i => ((look? (s.stack k).dir i).map (fun d => d.len + 1)).getD 0)).sum)
    (hcalm : ∀ i ∈ (s.stack k).pieces slot, ∃ d, look? (s.stack k).dir i = some d ∧ d.ten = 0 ∧ d.quiet + 2 ^ 20 ≤ s.dirClock) :
    s.rejoinPieces k slot = (s.spareOwners k ((s.stack k).pieces slot)).modStack k (fun st => st.rejoin slot) := by
  have hall : ((s.stack k).pieces slot).all (fun j => match look? (s.stack k).dir j with
      | some r => r.ten == 0 && decide (r.quiet + 2 ^ 20 ≤ s.dirClock)
      | none => false) = true := by
    refine List.all_eq_true.mpr fun i hi => ?_
    obtain ⟨d, hd, hten, hquiet⟩ := hcalm i hi
    simp only [hd, hten, hquiet, beq_self_eq_true, decide_true, Bool.and_self]
  have hunion : (r.kind == .box || (match (s.stack k).hull slot with
      | some h => h.len + 1 == (((s.stack k).pieces slot).map (fun j => ((look? (s.stack k).dir j).map (fun q => q.len + 1)).getD 0)).sum
      | none => false)) = true := by
    obtain hbox | ⟨u, hu, hlen⟩ := hwhole
    · rw [hbox]; rfl
    · simp only [hu, hlen, beq_self_eq_true, Bool.or_true]
  unfold State.rejoinPieces
  simp only [hr]
  refine if_pos ?_
  rw [Bool.and_eq_true, Bool.and_eq_true, Bool.and_eq_true, hfirst]
  exact ⟨⟨⟨rfl, decide_eq_true hmany⟩, hall⟩, hunion⟩

theorem State.mergeRegion_frees (hr : look? (s.stack k).dir slot = some r) (hkind : r.kind = .region) (hun : r.unshared = true) :
    s.mergeRegion k slot = s.setStack k ((s.stack k).freeRegion slot) := by
  have hregion : (r.kind != .region) = false := by rw [hkind]; rfl
  simp only [State.mergeRegion, hr, hregion, hun, Bool.false_eq_true, if_false, if_true]

/-- A region record that may grow: it has sharers, stands alone, is aligned to its length and has been quiet for a period. -/
def DirRec.mayGrow (r : DirRec) (now : Nat) : Prop :=
  r.kind = .region ∧ r.piece = false ∧ r.next = 0 ∧ r.unshared = false ∧ r.len + 1 < 512 ∧ r.base % (r.len + 1) = 0 ∧
    r.quiet + 2 ^ 20 ≤ now ∧ 512 % (r.len + 1) = 0

/-- The first line of the record that a region record and its buddy make, and the first line of the buddy. -/
def DirRec.parentBase (r : DirRec) : Nat := r.base / (2 * (r.len + 1)) * (2 * (r.len + 1))
def DirRec.buddyBase (r : DirRec) : Nat := if r.base = r.parentBase then r.parentBase + (r.len + 1) else r.parentBase

/-- The region records that meet the buddy's place. -/
def Stack.inBuddy (st : Stack) (r : DirRec) : Map DirRec :=
  st.dir.filter (fun e => e.2.kind == .region && decide (e.2.base < r.buddyBase + (r.len + 1)) &&
    decide (r.buddyBase ≤ e.2.base + e.2.len))

/-- A record that may grow merges by what stands in its buddy's place. -/
theorem State.mergeRegion_grows (hr : look? (s.stack k).dir slot = some r) (hgrow : r.mayGrow s.dirClock) :
    s.mergeRegion k slot = match (s.stack k).inBuddy r with
      | [] => s.setStack k ((s.stack k).setRec slot
          { r with base := r.parentBase, len := 2 * (r.len + 1) - 1, quiet := s.dirClock })
      | [(j, q)] =>
        if q.base = r.buddyBase ∧ q.len = r.len ∧ q.quiet + 2 ^ 20 ≤ s.dirClock ∧ q.piece = false ∧ q.next = 0 then
          (s.spareOwners k [slot, j]).modStack k (fun st => (st.setRec slot
            { ((look? ((s.spareOwners k [slot, j]).stack k).dir slot).getD r).joinSharers
                ((look? ((s.spareOwners k [slot, j]).stack k).dir j).getD q) with
              base := r.parentBase, len := 2 * (r.len + 1) - 1, quiet := s.dirClock }).freeRec j)
        else s
      | _ => s := by
  obtain ⟨hkind, hpiece, hnext, hshared, hlen, halign, hquiet, hdiv⟩ := hgrow
  have hregion : (r.kind != .region) = false := by rw [hkind]; rfl
  have hstay : ¬ ((decide (r.len + 1 ≥ 512) || r.base % (r.len + 1) ≠ 0 || decide (r.quiet + 2 ^ 20 > s.dirClock) ||
      512 % (r.len + 1) ≠ 0) = true) := by
    simp only [Bool.or_eq_true, decide_eq_true_eq]; omega
  simp only [State.mergeRegion, hr, hregion, hshared, hpiece, hnext, ne_eq, not_true_eq_false, decide_false, Bool.or_self,
    Bool.false_eq_true, if_false]
  rw [if_neg hstay]
  rfl

end

/-- The events of the memory system: each by its equation above. -/
theorem memorySystemEvents : MemorySystemEvents := by
  intro s fi ln k slot j t seq l m x w p h r q r2 q2 y f runs st fill covered sent from_ open_ due homed came n base bud calm inBud
    left settled alone
  refine ⟨fun hs hf ha hh => ?_, fun hs hf ha hh => ?_, fun hrun hf => ?_, fun hrun hwrap hf => ?_,
    fun hhome hmiss hfills hl2 hex hseq hcov => ?_, fun hrun hmiss hf hl2 hkeep => ?_, fun hrun hmiss hf hdrop => ?_,
    fun hl2 hmiss => ?_, fun hl2 hst hclean hmiss => ?_, fun hhome hwants hfield hex heng hlease hown => ?_,
    fun hrun hl2 hdirty => ?_, fun hrun hl2 hst hend => ?_, fun hr hfirst hmany hwhole hcalm => ?_, fun hr hkind hun => ?_,
    fun hr hcalm hbud => ?_, fun hr hcalm hbud hb hlen hquiet hpiece hnext h2 hq2 => ?_⟩
  · have hsome : ((s.handleSlot w.handle).isNone) = false := by rwa [Option.isNone_eq_false_iff, Option.isSome_iff_ne_none]
    refine congrArg Host.Outcome.next ((State.tenureGrant_serves hs hf ha).trans ?_)
    simp only [State.grantWaiter, hsome, Bool.false_eq_true, if_false, left]
  · refine congrArg Host.Outcome.next ((State.tenureGrant_serves hs hf ha).trans ?_)
    simp only [State.grantWaiter, hh, Option.isNone_none, if_true, left]
  · exact congrArg Host.Outcome.next (State.resumeAccess_performs hrun hf)
  · exact congrArg Host.Outcome.next (State.tenureWaitTrap_fails hrun hwrap hf)
  · obtain ⟨hrun, hwrap, hspace, hat, hcube⟩ := hhome
    exact congrArg Host.Outcome.next (State.readFillEvent_sends hrun hwrap hspace hat hcube hmiss hfills hl2 hex hseq hcov)
  · exact congrArg Host.Outcome.next (State.fillArrival_installs hrun hmiss hf hl2 hkeep)
  · exact congrArg Host.Outcome.next (State.fillArrival_gives_up hrun hmiss hf hdrop)
  · exact congrArg Host.Outcome.next (State.invalidationArrival_recorded hl2 hmiss)
  · exact congrArg Host.Outcome.next (State.invalidationArrival_drops hl2 hst hclean hmiss)
  · obtain ⟨hrun, hwrap, hspace, hat, hcube⟩ := hhome
    have howns := State.ownFor_owns (t := y.tid) hwrap hspace hat hcube hex heng (by rw [hfield]; exact hlease)
    rw [hfield] at howns
    refine congrArg Host.Outcome.next ((State.ownershipEvent_takes hrun hwants (by rw [howns]; exact hown)).trans ?_)
    rw [howns]
  · exact congrArg Host.Outcome.next (State.writeBackEvent_cleans hrun hl2 hdirty)
  · exact congrArg Host.Outcome.next (State.leaseExpiry_drops hrun hl2 hst hend)
  · exact congrArg Host.Outcome.next (State.rejoinPieces_rejoins hr hfirst hmany hwhole hcalm)
  · exact congrArg Host.Outcome.next (State.mergeRegion_frees hr hkind hun)
  · refine congrArg Host.Outcome.next ((State.mergeRegion_grows hr hcalm).trans ?_)
    rw [show (s.stack k).inBuddy r = [] from hbud]
    rfl
  · refine congrArg Host.Outcome.next ((State.mergeRegion_grows hr hcalm).trans ?_)
    rw [show (s.stack k).inBuddy r = [(j, q)] from hbud]
    refine (if_pos ⟨hb, hlen, hquiet, hpiece, hnext⟩).trans ?_
    rw [h2, hq2]
    rfl

/-! ## The upper ways of a slice (R85) -/

section
variable {s : State} {fi : Nat}

/-- A transition that ends with no write held is over. -/
theorem State.afterL2_none (h : (s.field fi).surrHeld = none) : s.afterL2 fi = s := by
  simp only [State.afterL2, h]

theorem State.writeSurr_held (b : Bool) (h : (s.field fi).l2state = 1 ∨ (s.field fi).l2state = 3) :
    s.writeSurr fi b = s.setField fi { s.field fi with surrHeld := some b } := by
  have hmoving : (decide ((s.field fi).l2state = 1) || decide ((s.field fi).l2state = 3)) = true := by
    simpa only [Bool.or_eq_true, decide_eq_true_eq] using h
  simp only [State.writeSurr, hmoving, if_true]

theorem State.writeSurr_applied (b : Bool) (h1 : (s.field fi).l2state ≠ 1) (h3 : (s.field fi).l2state ≠ 3) :
    s.writeSurr fi b = s.applySurr fi b := by
  simp only [State.writeSurr, h1, h3, decide_false, Bool.or_self, Bool.false_eq_true, if_false]

end

/-- The events of the slice ways: by the state of the ways. -/
theorem sliceWayEvents : SliceWayEvents := by
  intro s fi f hi emptied ended
  refine ⟨fun h => ?_, fun h => ?_, fun h => congrArg Host.Outcome.next (State.writeSurr_held true h), fun h => ?_, fun h => ?_,
    fun h => congrArg Host.Outcome.next (State.writeSurr_held false h), fun h hrun hheld => ?_, fun h hrun hheld hopen => ?_,
    fun h => ?_⟩
  · refine congrArg Host.Outcome.next ((State.writeSurr_applied true (fun e => absurd (h.symm.trans e) (by decide)) (fun e => absurd (h.symm.trans e) (by decide))).trans ?_)
    simp only [State.applySurr, h, decide_true, Bool.and_self, if_true, f]
  · refine congrArg Host.Outcome.next ((State.writeSurr_applied true (fun e => absurd (h.symm.trans e) (by decide)) (fun e => absurd (h.symm.trans e) (by decide))).trans ?_)
    simp [State.applySurr, show (s.field fi).l2state = 2 from h]
  · refine congrArg Host.Outcome.next ((State.writeSurr_applied false (fun e => absurd (h.symm.trans e) (by decide)) (fun e => absurd (h.symm.trans e) (by decide))).trans ?_)
    simp [State.applySurr, show (s.field fi).l2state = 2 from h, f]
  · refine congrArg Host.Outcome.next ((State.writeSurr_applied false (fun e => absurd (h.symm.trans e) (by decide)) (fun e => absurd (h.symm.trans e) (by decide))).trans ?_)
    simp [State.applySurr, show (s.field fi).l2state = 0 from h]
  · refine congrArg Host.Outcome.next ?_
    rw [State.surrenderDone, if_pos (by rw [decide_eq_true h, hrun]; rfl)]
    exact State.afterL2_none hheld
  · refine congrArg Host.Outcome.next ?_
    rw [State.restoreDone, if_pos (by rw [decide_eq_true h, hrun, hopen]; rfl)]
    exact State.afterL2_none (by rw [State.field_modField]; exact hheld)
  · refine congrArg Host.Outcome.next ?_
    rw [State.restoreDone, if_neg (fun hgo => ?_)]
    obtain ⟨⟨hstate, -⟩, hclosed⟩ := (Bool.and_eq_true_iff.trans (and_congr_left' Bool.and_eq_true_iff)).mp hgo
    obtain hne | hopen := h
    · exact hne (of_decide_eq_true hstate)
    · rw [hopen] at hclosed; cases hclosed

/-- Settles O42: the memory system and the slice ways. -/
theorem memoryAndSliceEvents : Obligations.Memory_and_slice_events := ⟨memorySystemEvents, sliceWayEvents⟩

end Sys2Proof.Machine
end

section
/-! Events of the cores and the hubs: copies, posted stores, late faults, the array, wakes and trap queues. -/

namespace Sys2Proof.Machine
open Sys2Proof

/-! ## Copies that retire (R115, R229, R233) -/

section
variable {s : State} {tid seq c : Nat} {y : Copy}

theorem State.copyRetire_done (hfind : (s.core (coreOf tid)).copies.find? (fun k => k.tid == tid && k.seq == seq) = some y)
    (hrun : (s.field (fieldOf tid)).frozen = false) (hopen : s.copyBlocked y = false) (hok : (s.moveCopy y).fail = none)
    (hrest : (s.moveCopy y).rest = []) :
    s.copyRetire tid seq = ((s.moveCopy y).st.dropCopy y).copyRecord tid y.act seq false := by
  simp only [State.copyRetire, hfind, hrun, hopen, Bool.or_self, Bool.false_eq_true, if_false, hok, hrest, List.isEmpty_nil, if_true]

theorem State.copyRetire_goes_on (hfind : (s.core (coreOf tid)).copies.find? (fun k => k.tid == tid && k.seq == seq) = some y)
    (hrun : (s.field (fieldOf tid)).frozen = false) (hopen : s.copyBlocked y = false) (hok : (s.moveCopy y).fail = none)
    (hrest : (s.moveCopy y).rest ≠ []) :
    s.copyRetire tid seq = (s.moveCopy y).st.keepCopy y (s.moveCopy y).rest := by
  simp only [State.copyRetire, hfind, hrun, hopen, Bool.or_self, Bool.false_eq_true, if_false, hok, List.isEmpty_eq_false_iff.mpr hrest]

theorem State.copyRetire_fails (hfind : (s.core (coreOf tid)).copies.find? (fun k => k.tid == tid && k.seq == seq) = some y)
    (hrun : (s.field (fieldOf tid)).frozen = false) (hopen : s.copyBlocked y = false) (hfail : (s.moveCopy y).fail = some c) :
    s.copyRetire tid seq = (((s.moveCopy y).st.dropCopy y).modCtx tid (fun x => if x.act == y.act then { x with copyErr := x.copyErr ++
        [(seq, { cause := c, tval := copyTag tid seq, eng := true })] } else x)).copyRecord tid y.act seq true := by
  simp only [State.copyRetire, hfind, hrun, hopen, Bool.or_self, Bool.false_eq_true, if_false, hfail]

end

/-! ## Posted stores (R122, R343) -/

section
variable {s s1 : State} {core k t c : Nat} {e : LogEnt} {u : Unit} {ref : Pending}

/-- A store for this cube that nothing holds back is tried at its home. -/
theorem State.tryPosted_home (hrun : s.stopped core = false) (hfirst : (s.core core).earlierLog e = false)
    (hfree : s.homeHolds e.tid 1 e.pa true = false) (hmember : e.member = none) (hkept : s.isLost e.e2e = false)
    (hnear : s.farCube? e.pa = none) :
    s.tryPosted core e = s.storeNow e.tid 1 e.pa e.size e.mask.toNat e.data.toNat := by
  simp only [State.tryPosted, hrun, hfirst, hfree, hmember, hkept, hnear, Bool.or_self, Bool.false_eq_true, if_false]

theorem State.tryPosted_replica (hrun : s.stopped core = false) (hkept : s.isLost e.e2e = false) (hmember : e.member = some c)
    (hreach : s.reachable c = true) : s.tryPosted core e = if s.isOut e.e2e then .stall s else .ok () s := by
  simp only [State.tryPosted, State.packetsDone, hrun, hkept, hmember, hreach, Bool.not_true, Bool.false_eq_true, if_false]

/-- A store whose packet was given up is refused. -/
theorem State.tryPosted_lost (hrun : s.stopped core = false) (hlost : s.isLost e.e2e = true) : s.tryPosted core e = .fault cPhys := by
  simp only [State.tryPosted, hrun, hlost, Bool.false_eq_true, if_false, if_true]

theorem State.postedAck_ok (hlog : look? (s.core core).log k = some e) (htry : s.tryPosted core e = .ok u s1) :
    s.postedAck core k = s1.freeLog core k := by
  simp only [State.postedAck, hlog, htry]

theorem State.postedAck_stall (hlog : look? (s.core core).log k = some e) (htry : s.tryPosted core e = .stall s1) :
    s.postedAck core k = s := by
  simp only [State.postedAck, hlog, htry]

theorem State.postedRefusal_fault (hlog : look? (s.core core).log k = some e) (htry : s.tryPosted core e = .fault c) :
    s.postedRefusal core k = (s.freeLog core k).refuse k e := by
  simp only [State.postedRefusal, hlog, htry]

@[simp] theorem State.ctx_settled (l : List (Nat × Nat)) : (s.settled l).ctx t = s.ctx t := by
  unfold State.settled
  split <;> rfl

@[simp] theorem State.ctx_freeLog : (s.freeLog core k).ctx t = s.ctx t := by
  simp only [State.freeLog, State.ctx_modCore, State.ctx_settled]

/-- The refusal that a store leaves with its activation. -/
theorem State.refuse_pending (hact : (s.ctx e.tid).act = e.act) (hst : (s.ctx e.tid).st ≠ .free) :
    s.refuse k e = s.modCtx e.tid (fun x => { x with refusal := match x.refusal with
      | none => some { cause := cPosted, addr := e.named, entry := k, size := e.size, mask := e.mask,
                       data := e.data.extractLsb' 0 64, count := 1 }
      | some o => some { o with count := o.count + 1 } }) := by
  simp only [State.refuse, hact, beq_self_eq_true, Bool.true_and]
  exact if_pos (bne_iff_ne.mpr hst)

theorem State.postedTrap_takes (hrun : s.stopped (coreOf t) = false) (hst : (s.ctx t).st = .issuing) (hlone : (s.ctx t).lone = none)
    (hex : (s.ctx t).exchanging = false) (href : (s.ctx t).refusal = some ref) (hsup : (s.ctx t).sup = false)
    (hdone : (s.ctx t).pend.any (fun p => !p.done) = false) :
    s.postedTrap t = ((s.landThese t (fun _ => true)).modCtx t (fun z => { z with refusal := none })).take t
      { cause := cPosted, tval := ref.addr, loge := ref.entry } false (s.ctx t).pc (s.ctx t).pc (some ref) := by
  simp only [State.postedTrap, State.takeRefusal, hrun, hst, hlone, hex, href, hsup, hdone, bne_self_eq_false, Option.isSome_none,
    Bool.or_self, Bool.false_eq_true, if_false]

end

/-! ## Landing and late faults (R150, R151) -/

section
variable {s : State} {t : Nat} {p : Pend} {x : Exc}

/-- An instruction that completed without a fault has no late fault. -/
theorem Ctx.lateDue_of_no_fault (c : Ctx) (h : p.fault.isNone = true) : c.lateDue p = false := by
  simp [Ctx.lateDue, Option.isNone_iff_eq_none.mp h]

theorem State.landing_lands (hrun : s.stopped (coreOf t) = false) (hdue : (s.ctx t).pend.filter (dueNow (s.ctx t).pend) ≠ [])
    (hok : ((s.ctx t).pend.filter (dueNow (s.ctx t).pend)).all (fun p => p.done && p.fault.isNone) = true) :
    s.landing t = s.landThese t (dueNow (s.ctx t).pend) := by
  have hnone : ((s.ctx t).pend.filter (dueNow (s.ctx t).pend)).any (fun p => !p.done || (s.ctx t).lateDue p) = false := by
    refine List.any_eq_false.mpr fun p hp => ?_
    obtain ⟨hdone, hfault⟩ := Bool.and_eq_true_iff.mp (List.all_eq_true.mp hok p hp)
    rw [hdone, Ctx.lateDue_of_no_fault _ hfault]
    decide
  simp only [State.landing, hrun, List.isEmpty_eq_false_iff.mpr hdue, hnone, Bool.or_self, Bool.false_eq_true, if_false]

theorem State.lateFault_takes (hrun : s.stopped (coreOf t) = false) (hslot : (s.ctx t).inSlot = true)
    (hex : (s.ctx t).exchanging = false) (hlate : (s.ctx t).lateNow = some p)
    (hdone : (s.ctx t).pend.any (fun q => !q.done) = false) (hfault : p.fault = some x) (hsup : p.sup = false) :
    s.lateFault t = ((s.modCtx t (fun z => { z with pend := z.pend.filter (fun q => q != p) })).landThese t
      (fun _ => true)).take t x true p.pc (s.ctx t).pc none := by
  simp only [State.lateFault, State.takeLate, hrun, hslot, hex, hlate, hdone, hfault, hsup, Bool.not_true, Bool.or_self,
    Bool.false_and, Bool.false_eq_true, if_false]

end

/-! ## Answers of the hub (R49, R275) -/

theorem State.wqryAnswer_writes {s : State} {fi : Nat} {q : Query} {qs : List Query} (hq : (s.field fi).queries = q :: qs)
    (hrun : (s.field fi).frozen = false) (hcopy : (s.core q.core).copyBefore q = false) :
    s.wqryAnswer fi = ((s.modField fi (fun f => { f with queries := qs })).writeVault q.core q.lo 16 q.item.toNat).modCore q.core
      (fun c => { c with sb := c.sb.filter (fun e => !(e.tid == q.tid && e.ticket == q.ticket)) }) := by
  simp only [State.wqryAnswer, hq, hrun, hcopy, Bool.or_self, Bool.false_eq_true, if_false, State.modField]

/-! ## The array and its commands (R249, R252, R259) -/

section
variable {s : State} {t c : Nat} {e : ArrEntry} {es : List ArrEntry} {w : Word} {ws : List Word}

/-- What the array does for an entry at the head of a queue, by its operation. -/
def State.arrayWork (s : State) (t : Nat) (e : ArrEntry) : ArrOp → State
  | .mclr r c => (s.modCtx t (fun x => x.clearRows ((List.range c).map (fun i => r + i)))).finishEntry t e
  | .mldbLocal a fmt => s.mldb t e fmt (fun s j => s.localBlock t (a + 4 * fmtWidth fmt * j) fmt)
  | .mldbTile els fmt => (s.addPins t e.seq els).mldb t e fmt (fun s j => s.tileBlock t e.seq (els.getD j (0, 0)) fmt)
  | .mmaLocal .. => s.mmaRows t 16
  | .mmaTile _ _ _ els _ => (s.addPins t e.seq (els.drop e.done)).mmaRows t 16

/-- The array carries out the head of a queue whose rows do not drain. -/
theorem State.arrayStep_head {op : ArrOp} (hrun : (s.field (fieldOf t)).frozen = false) (hserved : (s.ctx t).served = true)
    (hq : (s.ctx t).arrQ = e :: es) (hrows : e.op.rows.any (fun r => (s.ctx t).drain.getLsbD r) = false) (hop : e.op = op) :
    s.arrayStep t = s.arrayWork t e op := by
  simp only [State.arrayStep, hrun, hserved, hq, hrows, Bool.not_true, Bool.or_self, Bool.false_eq_true, if_false, ArrEntry.left]
  rw [hop]
  cases op <;> rfl

theorem State.mcmdAccept_answers (hcmd : (s.ctx t).mcmd = some (w, ws, none)) (hrun : (s.field (fieldOf t)).frozen = false)
    (hbad : s.cmdStatus t w ws ≠ 0) :
    s.mcmdAccept t = s.modCtx t (fun z => { z with mcmd := some (w, ws, some (s.cmdStatus t w ws)) }) := by
  simp only [State.mcmdAccept, hcmd, hrun, Bool.false_eq_true, if_false, ne_eq, hbad, not_false_eq_true, if_true]

/-- A command that passes its checks enters the queue of its target. -/
theorem State.mcmdAccept_queues (hcmd : (s.ctx t).mcmd = some (w, ws, none)) (hrun : (s.field (fieldOf t)).frozen = false)
    (hok : s.cmdStatus t w ws = 0) {u : Nat} (hu : bits w.toNat 19 0 * 16 + (cmdOf ws).tctx = u)
    (htarget : (s.field (fieldOf u)).frozen = false) (hroom : (s.ctx u).arrQ.length < 8) :
    let c := cmdOf ws
    let fmt := (s.ctx u).bank (c.addr / 8192)
    let op : ArrOp := if c.opc = 1 then .mldbLocal c.addr fmt
      else if c.opc = 2 then .mmaLocal c.row c.cnt c.k c.addr fmt else .mclr c.row c.cnt
    s.mcmdAccept t = (s.modCtx u (fun y => { y with
      arrQ := y.arrQ ++ [{ op := op, owner := t, act := (s.ctx t).act, cmd := true, seq := y.arrSeq }]
      arrSeq := y.arrSeq + 1 })).modCtx t (fun x => { x with mcmd := some (w, ws, some 0) }) := by
  subst hu
  simp only [State.mcmdAccept, hcmd, hrun, hok, htarget, Nat.not_le.mpr hroom, Bool.false_eq_true, if_false, ne_eq,
    not_true_eq_false, decide_false, Bool.or_self]

end

/-- The events of the cores. -/
theorem coreEvents : CoreEvents := by
  intro s s1 core k tid seq fi t r c a fl fmt y e p x ref u qy qs ae es w ws els kv copy retired m kept posted freed acked replica
    refusal ps due all head cmd dest answered fmtC op
  refine ⟨?_, ?_, ?_, ?_, ?_, ?_, ?_, ?_, ?_, ?_, ?_, ?_, ?_, ?_, ?_, ?_, ?_, ?_, ?_, ?_, ?_⟩
  · rintro ⟨hfind, hrun, hopen⟩ hok hrest
    exact congrArg Host.Outcome.next (State.copyRetire_done hfind hrun hopen hok hrest)
  · rintro ⟨hfind, hrun, hopen⟩ hok hrest
    exact congrArg Host.Outcome.next (State.copyRetire_goes_on hfind hrun hopen hok hrest)
  · rintro ⟨hfind, hrun, hopen⟩ hfail
    exact congrArg Host.Outcome.next (State.copyRetire_fails hfind hrun hopen hfail)
  · rintro ⟨hlog, hrun, hfirst, hfree, hmember, hkept, hnear⟩ hstore
    exact congrArg Host.Outcome.next
      (State.postedAck_ok hlog ((State.tryPosted_home hrun hfirst hfree hmember hkept hnear).trans hstore))
  · rintro ⟨hlog, hrun, hkept, hmember⟩ hreach hout
    exact congrArg Host.Outcome.next
      (State.postedAck_ok hlog ((State.tryPosted_replica hrun hkept hmember hreach).trans (if_neg (by rw [hout]; decide))))
  · rintro ⟨hlog, hrun, hkept, hmember⟩ hreach hout
    exact congrArg Host.Outcome.next (State.postedAck_stall hlog ((State.tryPosted_replica hrun hkept hmember hreach).trans (if_pos hout)))
  · rintro ⟨hlog, hrun, hfirst, hfree, hmember, hkept, hnear⟩ hstore hact hst
    exact congrArg Host.Outcome.next ((State.postedRefusal_fault hlog
      ((State.tryPosted_home hrun hfirst hfree hmember hkept hnear).trans hstore)).trans
      (State.refuse_pending (by rwa [State.ctx_freeLog]) (by rwa [State.ctx_freeLog])))
  · intro hlog hrun hlost hact hst
    exact congrArg Host.Outcome.next ((State.postedRefusal_fault hlog (State.tryPosted_lost hrun hlost)).trans
      (State.refuse_pending (by rwa [State.ctx_freeLog]) (by rwa [State.ctx_freeLog])))
  · exact fun hrun hst hlone hex href hsup hdone =>
      congrArg Host.Outcome.next (State.postedTrap_takes hrun hst hlone hex href hsup hdone)
  · exact fun hrun hdue hok => congrArg Host.Outcome.next (State.landing_lands hrun hdue hok)
  · exact fun hrun hslot hex hlate hdone hfault hsup =>
      congrArg Host.Outcome.next (State.lateFault_takes hrun hslot hex hlate hdone hfault hsup)
  · exact fun hrun => congrArg Host.Outcome.next (if_neg (by rw [hrun]; decide))
  · exact fun hrun => congrArg Host.Outcome.next (if_pos hrun)
  · exact fun hq hrun hcopy => congrArg Host.Outcome.next (State.wqryAnswer_writes hq hrun hcopy)
  · exact fun ⟨hrun, hserved, hq, hrows⟩ hop => congrArg Host.Outcome.next (State.arrayStep_head hrun hserved hq hrows hop)
  · exact fun ⟨hrun, hserved, hq, hrows⟩ hop => congrArg Host.Outcome.next (State.arrayStep_head hrun hserved hq hrows hop)
  · exact fun ⟨hrun, hserved, hq, hrows⟩ hop => congrArg Host.Outcome.next (State.arrayStep_head hrun hserved hq hrows hop)
  · exact fun ⟨hrun, hserved, hq, hrows⟩ hop => congrArg Host.Outcome.next (State.arrayStep_head hrun hserved hq hrows hop)
  · exact fun ⟨hrun, hserved, hq, hrows⟩ hop => congrArg Host.Outcome.next (State.arrayStep_head hrun hserved hq hrows hop)
  · rintro hcmd hrun rfl hbad
    exact congrArg Host.Outcome.next (State.mcmdAccept_answers hcmd hrun hbad)
  · exact fun hcmd hrun hok htarget hroom =>
      congrArg Host.Outcome.next (State.mcmdAccept_queues hcmd hrun hok rfl htarget hroom)

/-! ## Handlers and wakes (R30, R278, R279) -/

section
variable {s : State} {core q j t d : Nat} {v : Word} {r : BitVec 8} {h : Task}

theorem State.startHandler_starts (hhand : (s.core core).hand q = some h) (hidle : (s.core core).hrun q = none)
    (hmsg : (s.core core).oldest q = some j) (hfree : s.freeCtx? core = some t) :
    s.startHandler core q = s.activateHandler t q (((s.core core).msg q j).hand.getD h) := by
  simp only [State.startHandler, hhand, hidle, hmsg, hfree]

/-- A context that does not sleep only keeps the bits. -/
theorem State.notifyCtx_kept (hwait : ∀ d r, (s.ctx t).wait ≠ .sleep d r) :
    s.notifyCtx t v = s.modCtx t (fun x => { x with notify := x.notify ||| v }) := by
  simp only [State.notifyCtx, State.ctx_modCtx]

/-- The end of a SLEEP: its register takes the notify word. -/
theorem State.modCtx_wakeSleep {dl : Option Nat} (hwait : (s.ctx t).wait = .sleep dl r) :
    s.modCtx t Ctx.wakeSleep = s.modCtx t (fun x => { x.setX r.toNat x.notify with notify := 0 }) := by
  simp only [State.modCtx, Ctx.wakeSleep, hwait]

theorem State.notifyCtx_wakes {dl : Option Nat} (hwait : (s.ctx t).wait = .sleep dl r) :
    s.notifyCtx t v = ((s.modCtx t (fun x => { x with notify := x.notify ||| v })).modCtx t (fun x =>
      { x.setX r.toNat x.notify with notify := 0 })).makeReady t := by
  have hnoted : ((s.modCtx t (fun x => { x with notify := x.notify ||| v })).ctx t).wait = .sleep dl r := by
    rw [State.ctx_modCtx]; exact hwait
  simp only [State.notifyCtx, hnoted, State.modCtx_wakeSleep hnoted]

theorem State.wakeArrival_free (hopen : s.apertureOff t = false) (hst : (s.ctx t).st = .free) : s.wakeArrival t v = s := by
  simp only [State.wakeArrival, hopen, Bool.false_eq_true, if_false, hst, beq_self_eq_true, if_true]

theorem State.wakeArrival_notifies (hopen : s.apertureOff t = false) (hst : (s.ctx t).st ≠ .free) :
    s.wakeArrival t v = s.notifyCtx t v := by
  simp only [State.wakeArrival, hopen, Bool.false_eq_true, if_false, beq_eq_false_iff_ne.mpr hst]

theorem State.latchDelivery_notifies (hrun : (s.field (fieldOf t)).frozen = false) (hv : (s.ctx t).latch ≠ 0)
    (hst : (s.ctx t).st ≠ .free) :
    s.latchDelivery t = (s.modCtx t (fun x => { x with latch := 0 })).notifyCtx t (s.ctx t).latch := by
  simp only [State.latchDelivery, hrun, hv, decide_false, Bool.or_self, Bool.false_eq_true, if_false, beq_eq_false_iff_ne.mpr hst]

theorem State.sleepTimeout_wakes (hrun : (s.field (fieldOf t)).frozen = false) (hwrap : s.wrap = 0)
    (hwait : (s.ctx t).wait = .sleep (some d) r) (hlatch : (s.ctx t).latch = 0) (hlate : d < s.sid) :
    s.sleepTimeout t = (s.modCtx t (fun x => { x.setX r.toNat x.notify with notify := 0 })).makeReady t := by
  simp only [State.sleepTimeout, hwait, hrun, hwrap, hlatch, Nat.not_le.mpr hlate, ne_eq, not_true_eq_false, decide_false, Bool.or_self,
    Bool.false_eq_true, if_false, State.modCtx_wakeSleep hwait]

end

/-! ## Trap queues and poisoned blocks (R345, R346) -/

section
variable {s : State} {fi k t : Nat}

/-- A slot that no thread waits for is only made free. -/
theorem State.freeTqSlot_frees (hvalid : (s.field fi).tqvalid.getLsbD k = true) (hwait : (s.field fi).tqwait = [])
    (hparked : ∀ e ∈ s.ctxs, fieldOf e.1 = fi → e.2.wait ≠ .slot k) :
    s.freeTqSlot fi k = s.modField fi (fun f => { f with tqvalid := f.tqvalid &&& ~~~(1#64 <<< k), tqwait := [] }) := by
  have hnone : s.ctxs.filter (fun e => fieldOf e.1 == fi && e.2.wait == .slot k) = [] := by
    refine List.filter_eq_nil_iff.mpr fun e he hboth => ?_
    obtain ⟨hfi, hslot⟩ := Bool.and_eq_true_iff.mp hboth
    exact hparked e he (beq_iff_eq.mp hfi) (beq_iff_eq.mp hslot)
  simp only [State.freeTqSlot, hvalid, hwait, hnone, Bool.not_true, Bool.false_eq_true, if_false, List.foldl_nil, State.modField,
    List.append_nil]

theorem fieldOfCore_coreOf (t : Nat) : fieldOfCore (coreOf t) = fieldOf t := Nat.div_div_eq_div_mul t 16 1024

theorem State.refetch_drops (hrun : (s.field (fieldOf t)).frozen = false) (hst : (s.ctx t).st = .issuing) :
    let out := fun (b : IBlock) => b.poison && b.asid == s.asidOf t && b.va == (s.ctx t).pc.toNat / 128
    s.refetch t = (s.modCore (coreOf t) (fun c => { c with icache := c.icache.filter (fun b => !out b) })).modField (fieldOf t)
      (fun f => { f with pdisc := f.pdisc + BitVec.ofNat 32 (9 * ((s.core (coreOf t)).icache.filter out).length) }) := by
  simp only [State.refetch, State.stopped, fieldOfCore_coreOf, hrun, hst, bne_self_eq_false, Bool.or_self, Bool.false_eq_true, if_false]

end

/-- The events of wakes and of the trap queues. -/
theorem wakeAndTrapQueueEvents : WakeAndTrapQueueEvents := by
  intro s core q j t k fi d v r h runs out noted woken
  refine ⟨fun hrun hhand hidle hmsg hfree => ?_, fun hoff => ?_, fun hopen hst => ?_, fun hopen hst hwait => ?_,
    fun hopen hst hwait => ?_, ?_, fun hrun hwrap hwait hlatch hlate => ?_, rfl, fun hvalid hnone hparked => ?_, fun hrun hst => ?_⟩
  · refine congrArg Host.Outcome.next ((if_neg (by rw [hrun]; decide)).trans ?_)
    exact State.startHandler_starts hhand hidle hmsg hfree
  · exact congrArg Host.Outcome.next (if_pos hoff)
  · exact congrArg Host.Outcome.next (State.wakeArrival_free hopen hst)
  · exact congrArg Host.Outcome.next ((State.wakeArrival_notifies hopen hst).trans (State.notifyCtx_kept hwait))
  · exact congrArg Host.Outcome.next ((State.wakeArrival_notifies hopen hst).trans (State.notifyCtx_wakes hwait))
  · rintro hrun rfl hv hst hwait
    refine congrArg Host.Outcome.next ((State.latchDelivery_notifies hrun hv hst).trans (State.notifyCtx_kept ?_))
    rw [State.ctx_modCtx]
    exact hwait
  · exact congrArg Host.Outcome.next (State.sleepTimeout_wakes hrun hwrap hwait hlatch hlate)
  · exact State.freeTqSlot_frees hvalid hnone hparked
  · exact congrArg Host.Outcome.next (State.refetch_drops hrun hst)

/-- Settles O43: the cores, the wakes and the trap queues. -/
theorem coreAndHubEvents : Obligations.Core_and_hub_events := ⟨coreEvents, wakeAndTrapQueueEvents⟩

end Sys2Proof.Machine
end

section
/-! Events of tasks and issue slots, and of launches: what each does where its condition holds. -/

namespace Sys2Proof.Machine
open Sys2Proof

/-! ## Tasks and issue slots (R22 to R26, R315 to R322) -/

section
variable {s : State} {core fi t u lid : Nat} {k : Task} {l : Launch} {c : Nat × Ctx}

theorem State.startInitial_activates (hl : s.launch? k.lid = some l) (hbound : l.bound = true)
    (hin : l.initial.contains (core, k) = true) (hfree : s.freeCtx? core = some t) :
    s.startInitial core k = (s.modLaunch l.lid (fun l => { l with initial := l.initial.erase (core, k) })).activate t k := by
  simp only [State.startInitial, hl, hbound, hin, hfree, Bool.not_true, Bool.or_self, Bool.false_eq_true, if_false]

/-- The best of the ready contexts that may enter takes the lowest free slot. -/
theorem State.slotFill_enters (hrun : s.stopped core = false) (hbest : bestBy readyBefore ((ctxsOf core).filterMap (fun t =>
      if s.mayEnter t && s.slotFor t then some (t, s.ctx t) else none)) = some c) : s.slotFill core = s.enterSlot c.1 := by
  simp only [State.slotFill, State.fillSlot, hrun, Bool.false_eq_true, if_false, hbest]

theorem State.takeTask_takes {h : Task} {avoid : Option Nat} {q : QTask} {rest : List QTask} (hrun : (s.field fi).frozen = false)
    (hhead : (s.field fi).headTask = some (h, avoid)) (hcore : s.takeCore fi h.pri avoid = some core)
    (htake : s.take? fi = some (q, rest)) (hfree : s.freeCtx? core = some t) :
    s.takeTask fi = (s.modField fi (fun f => { f with tasks := rest })).activate t q.task := by
  simp only [State.takeTask, hrun, Bool.false_eq_true, if_false, hhead, hcore, htake, hfree, State.modField]

theorem State.slotRise_rises (hrun : s.stopped (coreOf t) = false) (hst : (s.ctx t).st = .ready) (hpri : (s.ctx t).slotPri < 3)
    (hold : (s.ctx t).readyV + 2 ^ 20 ≤ s.vclk (fieldOf t)) :
    s.slotRise t = s.modCtx t (fun x => { x with slotPri := x.slotPri + 1, readyV := x.readyV + 2 ^ 20 }) := by
  simp only [State.slotRise, hrun, hst, bne_self_eq_false, Nat.not_le.mpr hpri, Nat.not_lt.mpr hold,
    decide_false, Bool.or_self, Bool.false_eq_true, if_false]

/-- A context that a better ready one waits for, and that has no exchange under way, quiesces. -/
theorem State.startQuiesce_quiesces
    (hbest : bestBy victimBefore (((ctxsOf core).map (fun t => (t, s.ctx t))).filter (fun c => c.2.st == .issuing)) = some c)
    (hfull : s.slotsUsed core ≥ 4) (hnone : ((ctxsOf core).map (fun t => (t, s.ctx t))).any (fun c => c.2.st == .quiescing) = false)
    (hbetter : ((ctxsOf core).map (fun t => (t, s.ctx t))).any (fun d => s.mayEnter d.1 && decide (d.2.slotPri > c.2.pri)) = true)
    (hex : c.2.exchanging = false) :
    s.startQuiesce core = s.modCtx c.1 (fun x => { x with st := .quiescing, stallAt := none }) := by
  simp only [State.startQuiesce, hbest, hnone, hbetter, hex, decide_eq_true hfull, Bool.not_false, Bool.and_self, if_true]

theorem State.quiesceEnd_ends (hrun : s.stopped core = false)
    (hfind : (ctxsOf core).find? (fun t => (s.ctx t).st == .quiescing) = some t) (hex : (s.ctx t).exchanging = false)
    (hending : (s.ctx t).ending = false) (hlate : (s.ctx t).lateNow = none) (hdone : (s.ctx t).pend.all (fun p => p.done) = true) :
    s.quiesceEnd core = ((s.landThese t (fun _ => true)).forgetFaults t).endQuiesce t := by
  have hopen : (s.ctx t).pend.filter (fun p => !p.done) = [] :=
    List.filter_eq_nil_iff.mpr fun p hp => by rw [List.all_eq_true.mp hdone p hp]; decide
  simp only [State.quiesceEnd, hfind, hrun, hex, hending, hlate, hopen, Bool.or_self, Bool.false_eq_true, if_false, List.isEmpty_nil,
    if_true]

/-- An idle core takes the upper half of the chunks of the donor. -/
theorem State.splitFrom_halves {r : Rng} (hr : (s.ctx u).rng = some r) (hk : (s.ctx u).task = some k)
    (hfree : s.freeCtx? core = some t) (hn : 2 ≤ (r.hi - r.c + r.g - 1) / r.g) (hle : r.c ≤ r.hi) :
    let mid := r.c + (r.hi - r.c + r.g - 1) / r.g / 2 * r.g
    s.splitFrom core u = (s.modCtx u (fun x => { x with rng := some { r with hi := mid } })).activate t
      { k with words := k.words.take 7 ++ [w64 (r.hi * 2 ^ 32 + mid)], retries := 0, retained := [] } := by
  simp only [State.splitFrom, hr, hk, hfree, Nat.not_lt.mpr hn, Nat.not_lt.mpr hle, decide_false, Bool.or_self, Bool.false_eq_true,
    if_false]

theorem State.rangeSplit_splits (hrun : s.stopped core = false) (hl : s.launch? (s.field (fieldOfCore core)).flid = some l)
    (hidle : l.fields.any (fun f => !(s.field f).tasks.isEmpty) = false) (hfree : s.freeCtx? core = some t)
    (hdonor : s.donor (fieldOfCore core) = some u) : s.rangeSplit core = s.splitFrom core u := by
  simp only [State.rangeSplit, State.trySplit, hrun, hl, hidle, hfree, hdonor, Option.isNone_some, Bool.or_self, Bool.false_eq_true,
    if_false]

/-- A stage that waits for no channel starts: as initial tasks of its cores, or as their handlers. -/
theorem State.releaseStage_starts {st : Nat} (hl : s.launch? lid = some l) (hbound : l.bound = true) (hbinding : l.binding = false)
    (hgoing : l.completing = false) (hkind : l.kind = 2) (hst : st < l.stages) (hnew : l.staged.contains st = false)
    (hup : l.channels.all (fun c => chPstg c != st || l.stageUp (chCstg c)) = true) :
    let released := s.modLaunch lid (fun l => { l with staged := l.staged ++ [st] })
    s.releaseStage lid st = if taskQb (l.stageRecord st) = 0 then
        released.modLaunch lid (fun x => { x with initial := x.initial ++ (l.coresOfStage st).map (fun c => (c, s.stageTask l st c)) })
      else (l.coresOfStage st).foldl (fun s1 c =>
        s1.modCore c (fun k => k.setHand (taskQb (l.stageRecord st) - 2) (some (s.stageTask l st c)))) released := by
  simp only [State.releaseStage, hl, hbound, hbinding, hgoing, hkind, hnew, hup, Nat.not_le.mpr hst, ne_eq, not_true_eq_false,
    decide_false, Bool.not_true, Bool.or_self, Bool.false_eq_true, if_false]

end

/-- The events of tasks and of issue slots. -/
theorem schedulingEvents : SchedulingEvents := by
  intro s core fi stamp t u lid st k h l c q rest r avoid f runs cands used all n mid qb ended stage released
  refine ⟨fun hrun hl hbound hin hfree => ?_, fun hrun hbest => ?_, fun hrun hhead hcore htake hfree => ?_, fun hrun => ?_,
    fun hrun hst hpri hold => ?_, fun hrun hbest hfull hnone hbetter hex => ?_, fun hrun hfind hex hending hlate hdone => ?_,
    fun hrun hl hidle hfree hdonor hr hk hn hle => ?_, fun hrun => ?_, ?_, ?_⟩
  · refine congrArg Host.Outcome.next ((if_neg (fun hf => ?_)).trans (State.startInitial_activates hl hbound hin hfree))
    exact absurd (hrun.symm.trans hf) (by decide)
  · exact congrArg Host.Outcome.next (State.slotFill_enters hrun hbest)
  · exact congrArg Host.Outcome.next (State.takeTask_takes hrun hhead hcore htake hfree)
  · exact congrArg Host.Outcome.next (if_neg (fun hf => absurd (hrun.symm.trans hf) (by decide)))
  · exact congrArg Host.Outcome.next (State.slotRise_rises hrun hst hpri hold)
  · refine congrArg Host.Outcome.next ((if_neg (fun hf => ?_)).trans (State.startQuiesce_quiesces hbest hfull hnone hbetter hex))
    exact absurd (hrun.symm.trans hf) (by decide)
  · exact congrArg Host.Outcome.next (State.quiesceEnd_ends hrun hfind hex hending hlate hdone)
  · exact congrArg Host.Outcome.next
      ((State.rangeSplit_splits hrun hl hidle hfree hdonor).trans (State.splitFrom_halves hr hk hfree hn hle))
  · exact congrArg Host.Outcome.next (if_neg (fun hf => absurd (hrun.symm.trans hf) (by decide)))
  · rintro ⟨hl, hbound, hbinding, hgoing, hkind, hst, hnew, hup⟩ hqb
    exact congrArg Host.Outcome.next
      ((State.releaseStage_starts hl hbound hbinding hgoing hkind hst hnew hup).trans (if_pos hqb))
  · rintro ⟨hl, hbound, hbinding, hgoing, hkind, hst, hnew, hup⟩ hqb
    exact congrArg Host.Outcome.next
      ((State.releaseStage_starts hl hbound hbinding hgoing hkind hst hnew hup).trans (if_neg hqb))

/-! ## Launches (R309 to R314, R324, R360) -/

section
variable {s s1 s2 s3 : State}

theorem State.entryDue_iff : s.entryDue = true ↔ s.sched.en = true ∧ s.sched.cerr = false ∧ s.sched.rerr = false ∧
    s.sched.lqhead ≠ s.sched.lqtail % 2 ^ s.sched.logn ∧ s.pending.length < 1024 := by
  simp only [State.entryDue, Bool.and_eq_true, Bool.not_eq_true', bne_iff_ne, decide_eq_true_eq, and_assoc]

/-- An LNCH request that comes with a queue entry waits for it. -/
theorem State.judgeFirst_waits (hdue : s.entryDue = true) (hlate : ∀ r, s.sched.reqs.head? = some r → r.at_ = s.time) :
    s.judgeFirst = none := by
  unfold State.judgeFirst
  split
  · rfl
  · next r rest hreqs =>
    have hr := hlate r (by rw [hreqs]; rfl)
    exact if_pos (by rw [hdue, hr, beq_self_eq_true]; exact Bool.or_true _)

theorem State.judgeFirst_judges {r : LnchReq} {rest : List LnchReq} (hreqs : s.sched.reqs = r :: rest)
    (hroom : s.pending.length < 1024) (hfirst : (r.at_ == s.time && s.entryDue) = false) :
    let judged := { s with sched := { s.sched with reqs := rest } }.judgeLnch r.tid r.launch r.tags
    s.judgeFirst = some (judged.2.answerTo r.tid r.act judged.1.toNat) := by
  simp only [State.judgeFirst, hreqs, Nat.not_le.mpr hroom, decide_false, hfirst, Bool.or_self, Bool.false_eq_true, if_false]

theorem State.launchQueueEntry_request {r : LnchReq} {rest : List LnchReq} (hreqs : s.sched.reqs = r :: rest)
    (hroom : s.pending.length < 1024) (hfirst : (r.at_ == s.time && s.entryDue) = false) :
    let judged := { s with sched := { s.sched with reqs := rest } }.judgeLnch r.tid r.launch r.tags
    s.launchQueueEntry = judged.2.answerTo r.tid r.act judged.1.toNat := by
  intro judged
  rw [State.launchQueueEntry, State.judgeFirst_judges hreqs hroom hfirst, Option.getD_some]

/-- The bits of a queue entry that are reserved are 0. -/
theorem rsvd_clear {w : Nat → Nat} (h : bits (w 0) 8 0 = 0 ∧ bits (w 0) 57 52 = 0 ∧ bits (w 2) 63 16 = 0 ∧ w 3 = 0) :
    (bits (w 0) 8 0 != 0 || bits (w 0) 57 52 != 0 || bits (w 2) 63 16 != 0 || w 3 != 0) = false := by
  obtain ⟨hlow, hmid, hhigh, hlast⟩ := h
  rw [hlow, hmid, hhigh, hlast]
  decide

/-- The capability under which the cube reads its launch queue. -/
def State.queueCap (s : State) : Cap :=
  { w0 := (s.sched.lqcap.extractLsb' 0 64).toNat, w1 := (s.sched.lqcap.extractLsb' 64 64).toNat }

/-- The entry at the head of the launch queue is judged, and its status written. -/
theorem State.takeEntry_judges {ws b : List Word} {tags : List Bool} (hdue : s.entryDue = true)
    (hcap : capCheck s.sched.lqtag s.queueCap useLaunchQ = 0) (hext : s.queueCap.holdsExtent (32 * 2 ^ s.sched.logn) = true)
    (hread : s.readWords (s.queueCap.addr + 32 * s.sched.lqhead) 4 = .ok ws s1)
    (hblock : s1.readBlock (bits (tw ws 0) 51 9 * 512) = .ok (b, tags) s2)
    (hclear : bits (tw ws 0) 8 0 = 0 ∧ bits (tw ws 0) 57 52 = 0 ∧ bits (tw ws 2) 63 16 = 0 ∧ tw ws 3 = 0) :
    let entry : Launch := { lid := 0, seq := 0, qsrc := true, name := 0, part := bits (tw ws 0) 63 58, asid := bits (tw ws 2) 15 0,
                            block := b }
    s.takeEntry = s2.finishEntryLQ (s.queueCap.addr + 32 * s.sched.lqhead) entry
      (s2.judge entry tags (s2.partEn (bits (tw ws 0) 63 58) && s2.asidOk (bits (tw ws 0) 63 58) (bits (tw ws 2) 15 0))) := by
  unfold State.queueCap at hcap hext hread
  simp only [State.takeEntry, State.queueCap, hdue, hcap, hext, hread, hblock, rsvd_clear hclear, Bool.not_true, Bool.false_eq_true, if_false, ne_eq,
    not_true_eq_false, decide_false, Bool.or_self]

theorem State.finishEntryLQ_refused {pa st : Nat} {l : Launch} {u : Unit} (hst : st ≠ 0)
    (hwrite : s.writeDirect (pa + 8) 8 (statusWord272 0 0 st).toNat = .ok u s1) :
    s.finishEntryLQ pa l st = { s1 with sched := { s1.sched with lqhead := (s1.sched.lqhead + 1) % 2 ^ s1.sched.logn } } := by
  simp only [State.finishEntryLQ, hst, if_false, hwrite, ne_eq, not_false_eq_true, if_true]

theorem State.finishEntryLQ_accepted {pa : Nat} {l : Launch} {u : Unit}
    (hwrite : s.writeDirect (pa + 8) 8 (statusWord272 (s.sched.qseq + 1) s.nextLid 0).toNat = .ok u s1) :
    let taken := ({ s1 with sched := { s1.sched with lqhead := (s1.sched.lqhead + 1) % 2 ^ s1.sched.logn } } : State).accept
      { l with seq := w64 (s.sched.qseq + 1) }
    s.finishEntryLQ pa l 0 = { taken with sched := { taken.sched with qseq := s.sched.qseq + 1 } } := by
  simp only [State.finishEntryLQ, if_true, hwrite, ne_eq, not_true_eq_false, if_false]

end

section
variable {s s1 : State} {lid fi : Nat} {l : Launch} {v : Word} {r : Ratio}

/-- A bind that is refused leaves its status and binds nothing. -/
theorem State.bindc_refused (hop : bits v.toNat 17 16 = 1)
    (hst : s.bindStatus (bits v.toNat 15 0) ((List.range 1024).filter (fun i => s.sched.bindf.getLsbD i)) ≠ 0) :
    s.bindc v = { s with sched := { s.sched with
      bstat := s.bindStatus (bits v.toNat 15 0) ((List.range 1024).filter (fun i => s.sched.bindf.getLsbD i)) } } := by
  cases hl : s.launch? (bits v.toNat 15 0) <;>
    simp only [State.bindc, hop, hl, hst, ne_eq, not_true_eq_false, if_false]

theorem State.bindc_binds {fs : List Nat} (hop : bits v.toNat 17 16 = 1)
    (hfs : (List.range 1024).filter (fun i => s.sched.bindf.getLsbD i) = fs) (hst : s.bindStatus (bits v.toNat 15 0) fs = 0)
    (hl : s.launch? (bits v.toNat 15 0) = some l) :
    let bound := (fs.foldl (fun s f => s.bindField l.lid f) s).setLaunch
      { l with bound := true, binding := true, fields := fs, bars := [], used := [], staged := [] }
    s.bindc v = { bound.askRun with sched := { bound.askRun.sched with bstat := 0 } } := by
  subst hfs
  simp only [State.bindc, State.bindLaunch, hop, hl, hst, ne_eq, not_true_eq_false, if_false, if_true]

/-- A launch without work left ends: its status goes out or is kept, and its fields are unbound. -/
theorem State.complete_ends (wb : State → Launch → State) (hl : s.launch? lid = some l) (hbound : l.bound = true)
    (hbinding : l.binding = false) (hwork : s.workLeft l = false) (hrun : l.fields.any (fun f => (s.field f).frozen) = false)
    (hwrap : s.wrap = 0) :
    let stored := (wb (s.afterActions { l with completing := true }) l).completionStore l
    let told : State := if stored.1 then stored.2
      else { stored.2 with sched := { stored.2.sched with cmplfV := true, cmplf := lid } }
    s.complete lid wb = (if l.irqen then told.raiseIid l.iid else told).unbind l := by
  simp only [State.complete, hl, hbound, hbinding, hwork, hrun, hwrap, Bool.not_true, ne_eq, not_true_eq_false, decide_false,
    Bool.or_self, Bool.false_eq_true, if_false]

/-- A switch that no other follows takes effect. -/
theorem State.switchField_switches (htarget : (s.field fi).target = some r) (hsw : (s.field fi).switching = true)
    (hrun : (s.field fi).frozen = false) (hlast : (s.field fi).again = none) :
    let f1 : Field := { s.field fi with ratio := r, gen := (s.field fi).gen + 1, target := none, switching := false, again := none,
                                        vclk := s.vclk fi, vclkAt := s.counted }
    let switched := ((s.setField fi f1).ctxs.filter (fun e => fieldOf e.1 == fi && e.2.st != .free)).foldl
      (fun s e => s.postEvent e.1 (w64 (2 ^ 60 + f1.ratioWord))) (s.setField fi f1)
    s.switchField fi = { switched with mer := { switched.mer with busy := switched.switchesLeft } } := by
  simp only [State.switchField, htarget, hsw, hrun, hlast, Bool.not_true, Bool.or_self, Bool.false_eq_true, if_false]

end

/-- The events of launches and of switches. -/
theorem launchAndSwitchEvents : LaunchEvents := by
  intro s s1 s2 s3 lid fi v l ws b tags u r req reqs q cap pa w there queued entry st answer popped taken judged blid fs stat bound l1
    done f f1 switched
  have hentry (h : queued) : s.launchQueueEntry = s2.finishEntryLQ pa entry st := by
    obtain ⟨hthere, hlate, hcap, hext, hread, hblock, hclear⟩ := h
    have hdue := State.entryDue_iff.mpr hthere
    simp only [State.launchQueueEntry, State.judgeFirst_waits hdue hlate, Option.getD_none]
    exact State.takeEntry_judges hdue hcap hext hread hblock hclear
  refine ⟨fun hq hwrite hst => ?_, fun hq hwrite hst => ?_, fun hreqs hroom hfirst => ?_, fun hop hst => ?_, fun hop hst hl => ?_,
    fun hl hbound hbinding hwork hrun hwrap hstore => ?_, fun hl hbound hbinding hwork hrun hwrap hstore hirq => ?_,
    fun htarget hsw hrun hlast => ?_, fun hnone => ?_, fun hsome => ?_⟩
  · have hanswer : answer = statusWord272 0 0 st := if_neg hst
    rw [hanswer] at hwrite
    exact congrArg Host.Outcome.next ((hentry hq).trans (State.finishEntryLQ_refused hst hwrite))
  · have hanswer : answer = statusWord272 (s2.sched.qseq + 1) s2.nextLid 0 := if_pos hst
    rw [hanswer] at hwrite
    refine congrArg Host.Outcome.next ((hentry hq).trans ?_)
    rw [hst]
    exact State.finishEntryLQ_accepted hwrite
  · have hgoes : (req.at_ == s.time && s.entryDue) = false := by
      refine Bool.eq_false_iff.mpr fun h => hfirst ?_
      obtain ⟨hat, hdue⟩ := Bool.and_eq_true_iff.mp h
      exact ⟨beq_iff_eq.mp hat, State.entryDue_iff.mp hdue⟩
    exact congrArg Host.Outcome.next (State.launchQueueEntry_request hreqs hroom hgoes)
  · exact congrArg Host.Outcome.next (State.bindc_refused hop hst)
  · have hbinds := State.bindc_binds (fs := fs) hop rfl hst hl
    have hs : exec (.bindc v) s = .next (s.bindc v) := rfl
    rw [hs, hbinds]
  · refine congrArg Host.Outcome.next ((State.complete_ends State.namedOut hl hbound hbinding hwork hrun hwrap).trans ?_)
    rw [show (State.namedOut (s.afterActions { l with completing := true }) l).completionStore l = (true, s1) from hstore]
    rfl
  · refine congrArg Host.Outcome.next ((State.complete_ends State.namedOut hl hbound hbinding hwork hrun hwrap).trans ?_)
    rw [show (State.namedOut (s.afterActions { l with completing := true }) l).completionStore l = (false, s1) from hstore, hirq]
    rfl
  · exact congrArg Host.Outcome.next (State.switchField_switches htarget hsw hrun hlast)
  · exact congrArg Host.Outcome.next (if_neg (by rw [hnone]; decide))
  · exact congrArg Host.Outcome.next (if_pos hsome)

/-- Settles O44: tasks, issue slots and launches. -/
theorem schedulingAndLaunchEvents : Obligations.Scheduling_and_launch_events := ⟨schedulingEvents, launchAndSwitchEvents⟩

end Sys2Proof.Machine
end

section
/-! Events of walks, shootdowns, frames, partitions and re-stripes: what each does where its condition holds. -/

namespace Sys2Proof.Machine
open Sys2Proof

/-! ## Walks and shootdowns (R331 to R333) -/

section
variable {s s1 : State} {fi : Nat} {m : Miss} {w : Walk} {q : Shoot}

/-- A page that the TLB already holds needs no walk. -/
theorem State.startWalk_covered (hrun : (s.field fi).frozen = false)
    (hmiss : (s.field fi).misses.find? (fun m => m.walk.isNone) = some m)
    (htlb : (s.field fi).tlb.any (fun e => e.covers m.asid (m.va * 4096)) = true) :
    s.startWalk fi = s.setField fi { s.field fi with misses := (s.field fi).misses.erase m } := by
  simp only [State.startWalk, hrun, hmiss, htlb, Bool.false_eq_true, if_false, if_true]

/-- A request for a page that a walker serves is merged with it. -/
theorem State.startWalk_merges (hrun : (s.field fi).frozen = false)
    (hmiss : (s.field fi).misses.find? (fun m => m.walk.isNone) = some m)
    (htlb : (s.field fi).tlb.any (fun e => e.covers m.asid (m.va * 4096)) = false)
    (hwalk : (s.field fi).walks.find? (fun w => w.asid == m.asid && w.va == m.va) = some w) :
    s.startWalk fi = s.setField fi { s.field fi with
      misses := (s.field fi).misses.map (fun q => if q == m then { q with walk := some w.id } else q) } := by
  simp only [State.startWalk, hrun, hmiss, htlb, hwalk, Bool.false_eq_true, if_false]

theorem State.startWalk_serves (hrun : (s.field fi).frozen = false)
    (hmiss : (s.field fi).misses.find? (fun m => m.walk.isNone) = some m)
    (htlb : (s.field fi).tlb.any (fun e => e.covers m.asid (m.va * 4096)) = false)
    (hnew : (s.field fi).walks.find? (fun w => w.asid == m.asid && w.va == m.va) = none) (hfree : (s.field fi).walks.length < 8) :
    let id := (s.field fi).walks.foldl (fun n w => Nat.max n (w.id + 1)) 0
    s.startWalk fi = s.setField fi { s.field fi with
      walks := (s.field fi).walks ++ [{ id := id, asid := m.asid, va := m.va }]
      misses := (s.field fi).misses.map (fun q => if q == m then { q with walk := some id } else q) } := by
  simp only [State.startWalk, hrun, hmiss, htlb, hnew, Nat.not_le.mpr hfree, Bool.false_eq_true, if_false]

theorem State.startWalk_idle (h : (s.field fi).frozen = true ∨ (s.field fi).misses.find? (fun m => m.walk.isNone) = none) :
    s.startWalk fi = s := by
  cases hrun : (s.field fi).frozen with
  | true => simp only [State.startWalk, hrun, if_true]
  | false =>
    have hnone := h.resolve_left (by rw [hrun]; decide)
    simp only [State.startWalk, hrun, hnone, Bool.false_eq_true, if_false]

/-- What the end of a walk leaves in its field: the leaf that answers the page, or a fault for each that waits. -/
def Field.walked (f : Field) (w : Walk) : Option TlbEnt → Field
  | some leaf => { f with walks := f.walks.erase w, tlb := tlbInsert 16384 f.tlb leaf,
                          misses := f.misses.filter (fun m => !leaf.covers m.asid (m.va * 4096)) }
  | none => { f with walks := f.walks.erase w, misses := f.misses.filter (fun m => m.walk != some w.id)
                     mfaults := f.mfaults ++ (f.misses.filter (fun m => m.walk == some w.id)).map (fun m =>
                       { core := m.core, tid := m.tid, asid := m.asid, va := m.va, pc := m.pc, idx := m.idx }) }

theorem State.endWalk_ends {r : Option TlbEnt} (hrun : (s.field fi).frozen = false) (hwrap : s.wrap = 0)
    (hwalk : (s.field fi).walks[Config.choice s.free % (s.field fi).walks.length]? = some w)
    (hr : ({ s with free := s.free + 1 } : State).walk w.asid (w.va * 4096) = (r, s1)) :
    s.endWalk fi = s1.modField fi (fun f => f.walked w r) := by
  have hgo : ((s.field fi).frozen || decide (s.wrap ≠ 0)) = false := by rw [hrun, hwrap]; decide
  simp only [State.endWalk, State.tick, hgo, hwalk, hr, Bool.false_eq_true, if_false]
  cases r <;> rfl

theorem State.shootAck_idle (h : s.trans.shoots.find? (fun q => q.left.contains fi) = none) : s.shootAck fi = s := by
  simp only [State.shootAck, h]

theorem State.shootAck_drops (h : s.trans.shoots.find? (fun q => q.left.contains fi) = some q) (hrun : (s.field fi).frozen = false)
    (hidle : s.fieldBusy fi = false) :
    s.shootAck fi = ({ s.dropLeaves fi q with trans := { (s.dropLeaves fi q).trans with
      shoots := (s.dropLeaves fi q).trans.shoots.map (fun (p : Shoot) =>
        if p.seq == q.seq then { p with left := p.left.filter (fun g => g != fi) } else p) } } : State).settleShoots := by
  simp only [State.shootAck, h, hrun, hidle, Bool.or_self, Bool.false_eq_true, if_false]

end

/-! ## The re-stripe engine (R335, R336) -/

section
variable {s : State}

theorem State.restripe_idle (h : s.trans.busy = false) : s.restripe = s := by
  simp only [State.restripe, h, Bool.not_false, if_true]

theorem State.restripe_ends (hbusy : s.trans.busy = true) (hend : granules (s.hmapWord s.trans.ent) ≤ s.trans.gran) :
    s.restripe = { s with
      hmap := (List.range 8).foldl (fun m w => put m (8 * s.trans.ent + w) (look s.trans.rsnew w 0)) s.hmap
      trans := { s.trans with busy := false, fwd := true, status := 0 } } := by
  simp only [State.restripe, hbusy, hend, Bool.not_true, Bool.false_eq_true, if_false, if_true]

section
variable {n piece pa : Nat} (hbusy : s.trans.busy = true) (hmore : s.trans.gran < granules (s.hmapWord s.trans.ent))
  (hn : 2 ^ bits (s.hmapWord s.trans.ent 0) 9 5 = n) (hpiece : Nat.min n (2 ^ bits (s.rsWord 0) 9 5) = piece)
  (hpa : granPa (s.hmapWord s.trans.ent) s.trans.gran = pa)
include hbusy hmore hn hpiece hpa

/-- A granule none of whose pieces changes its home is passed over. -/
theorem State.restripe_passes (hstay : ∀ i < n / piece, homeMoves (s.hmapWord s.trans.ent) s.rsWord (pa + i * piece) = false) :
    s.restripe = { s with trans := { s.trans with gran := s.trans.gran + 1 } } := by
  have hnone : ((List.range (n / piece)).filter (fun i =>
      homeMoves (s.hmapWord s.trans.ent) s.rsWord (pa + i * piece))).isEmpty = true :=
    List.isEmpty_iff.mpr (List.filter_eq_nil_iff.mpr fun i hi => Bool.eq_false_iff.mp (hstay i (List.mem_range.mp hi)))
  subst hn hpiece hpa
  simp only [State.restripe, hbusy, Nat.not_le.mpr hmore, Bool.not_true, Bool.false_eq_true, if_false, hnone, if_true]

/-- A granule with a piece that changes its home is copied and entered in the forwarding records. -/
theorem State.restripe_moves (hmove : ∃ i < n / piece, homeMoves (s.hmapWord s.trans.ent) s.rsWord (pa + i * piece) = true) :
    let old := s.hmapWord s.trans.ent
    let quiet := if (entryHome old pa).cube = s.cubeid then s.quietRegions (entryHome old pa).stack (pa / 128) (n / 128) else s
    let copied := (List.range (n / piece)).foldl (fun u i =>
      u.copyLines (entryHome old (pa + i * piece)).loc (entryHome s.rsWord (pa + i * piece)).loc (piece / 128)) quiet
    s.restripe = { copied with trans := { copied.trans with gran := s.trans.gran + 1, moved := s.trans.gran :: copied.trans.moved } } := by
  obtain ⟨i, hi, hmoves⟩ := hmove
  have hsome : ((List.range (n / piece)).filter (fun i =>
      homeMoves (s.hmapWord s.trans.ent) s.rsWord (pa + i * piece))).isEmpty = false :=
    List.isEmpty_eq_false_iff.mpr (List.ne_nil_of_mem (List.mem_filter.mpr ⟨List.mem_range.mpr hi, hmoves⟩))
  subst hn hpiece hpa
  simp only [State.restripe, hbusy, Nat.not_le.mpr hmore, Bool.not_true, Bool.false_eq_true, if_false, hsome]

end

end

/-! ## Frames and selected contexts (R73 to R75, R301) -/

section
variable {s s1 s2 : State} {core t page n : Nat} {rest : List (Nat × Nat)} {l : Launch}

theorem State.pageFill_fills (hwants : (s.core core).wants = (t, page) :: rest) (hrun : (s.field (fieldOfCore core)).frozen = false)
    (hwrap : s.wrap = 0) (hst : (s.ctx t).st ≠ .free) (hnew : s.frameOf? t page = none) (hl : s.ctxLaunch? t = some l)
    (hpick : (s.setCore core { s.core core with wants := rest }).pickFrame core page (bit (s.nlrOf t) page) = (some n, s1))
    (hfree : s1.freeFrame core n = some s2) : s.pageFill core = s2.fillFrame t page n (bit (s.nlrOf t) page) l := by
  simp only [State.pageFill, hwants, hrun, hwrap, beq_eq_false_iff_ne.mpr hst, hnew, hl, hpick, hfree, Option.isSome_none, ne_eq,
    not_true_eq_false, decide_false, Bool.or_self, Bool.false_eq_true, if_false]

/-- The image of a context goes out, and its frames after it. -/
theorem State.flushComplete_flushes (hsome : (s.core core).flushing ≠ []) (hrun : (s.field (fieldOfCore core)).frozen = false)
    (hwrap : s.wrap = 0) :
    s.flushComplete core = ((s.core core).flushing.foldl (fun (u : State) t =>
      let u1 := (u.writeImage t).getD (u.failBacking t)
      ((u1.core core).frames.filter (fun e =>
        e.2.owner == t || (e.2.owner == namedOwner && bit (u1.nlrOf t) e.2.page))).foldl (fun u e => u.frameOut core e.1) u1)
      s).modCore core (fun c => { c with flushing := [] }) := by
  simp only [State.flushComplete, List.isEmpty_eq_false_iff.mpr hsome, hrun, hwrap, ne_eq, not_true_eq_false, decide_false,
    Bool.or_self, Bool.false_eq_true, if_false]
  refine congrArg (fun (g : State → Nat → State) => (((s.core core).flushing.foldl g s).modCore core (fun c =>
    { c with flushing := [] }))) (funext fun u => funext fun t => ?_)
  cases u.writeImage t <;> rfl

theorem State.flushComplete_idle
    (h : (s.core core).flushing = [] ∨ (s.field (fieldOfCore core)).frozen = true ∨ s.wrap ≠ 0) : s.flushComplete core = s := by
  refine if_pos ?_
  obtain h | h | h := h <;> simp [h]

theorem State.flushCtx_queues (hout : (s.ctx (core * 16 + (s.core core).ctxsel)).inSlot = false)
    (hnew : (s.core core).flushing.contains (core * 16 + (s.core core).ctxsel) = false) :
    s.flushCtx core = s.modCore core (fun c =>
      { c with ferr := false, flushing := c.flushing ++ [core * 16 + (s.core core).ctxsel] }) := by
  simp only [State.flushCtx, State.modCore, hout, hnew, Bool.or_self, Bool.false_eq_true, if_false]

theorem State.flushCtx_fails (hin : (s.ctx (core * 16 + (s.core core).ctxsel)).inSlot = true) :
    s.flushCtx core = s.modCore core (fun c => { c with ferr := true }) := by
  simp only [State.flushCtx, hin, Bool.true_or, if_true]

theorem State.resumeCtx_resumes (hst : (s.ctx (core * 16 + (s.core core).ctxsel)).st = .parked)
    (hwait : (s.ctx (core * 16 + (s.core core).ctxsel)).wait = .halted) :
    s.resumeCtx core = (s.modCore core (fun c => { c with ferr := false })).makeReady (core * 16 + (s.core core).ctxsel) := by
  simp only [State.resumeCtx, hst, hwait, beq_self_eq_true, Bool.and_self, Bool.not_true, if_true]

theorem State.resumeCtx_fails (h : ¬ ((s.ctx (core * 16 + (s.core core).ctxsel)).st = .parked ∧
    (s.ctx (core * 16 + (s.core core).ctxsel)).wait = .halted)) :
    s.resumeCtx core = s.modCore core (fun c => { c with ferr := true }) := by
  have hno : ((s.ctx (core * 16 + (s.core core).ctxsel)).st == .parked &&
      (s.ctx (core * 16 + (s.core core).ctxsel)).wait == .halted) = false :=
    Bool.eq_false_iff.mpr fun hb => h (by simpa only [Bool.and_eq_true, beq_iff_eq] using hb)
  simp only [State.resumeCtx, hno, Bool.not_false, Bool.false_eq_true, if_false]

end

/-- Settles O45: walks, shootdowns, frames, partitions and re-stripes. -/
theorem translationEvents : Obligations.Translation_events := by
  intro s s1 s2 fi core t n page asid part e v m w leaf q rest l f waiting id served walked shot sends keep left ent old g n0 piece pa
    quiet copied flushed sel named scrubbed
  refine ⟨?_, ?_, ?_, fun h => ?_, ?_, ?_, rfl, rfl, rfl, fun h => ?_, ?_, fun h => ?_, ?_, fun hbusy hend => ?_,
    fun hbusy hmore hstay => ?_, fun hbusy hmore hmove => ?_, fun u a b m => ⟨?_, ?_⟩, fun h => ?_, rfl, ?_,
    fun hsome hrun hwrap => ?_, fun h => ?_, fun hout hnew => ?_, fun hin => ?_, fun hst hwait => ?_, fun h => ?_, rfl, fun h => ?_,
    fun h => ?_⟩
  · rintro ⟨hrun, hmiss⟩ htlb
    exact congrArg Host.Outcome.next (State.startWalk_covered hrun hmiss htlb)
  · rintro ⟨hrun, hmiss⟩ htlb hwalk
    exact congrArg Host.Outcome.next (State.startWalk_merges hrun hmiss htlb hwalk)
  · rintro ⟨hrun, hmiss⟩ htlb hnew hfree
    exact congrArg Host.Outcome.next (State.startWalk_serves hrun hmiss htlb hnew hfree)
  · exact congrArg Host.Outcome.next (State.startWalk_idle h)
  · rintro ⟨hrun, hwrap, hwalk⟩ hr
    exact congrArg Host.Outcome.next (State.endWalk_ends hrun hwrap hwalk hr)
  · rintro ⟨hrun, hwrap, hwalk⟩ hr
    exact congrArg Host.Outcome.next (State.endWalk_ends hrun hwrap hwalk hr)
  · exact congrArg Host.Outcome.next (State.shootAck_idle h)
  · rintro h hrun hidle hs1
    refine congrArg Host.Outcome.next ((State.shootAck_drops h hrun hidle).trans ?_)
    rw [show s.dropLeaves fi q = s1 from hs1.symm]
  · exact congrArg Host.Outcome.next (if_pos h)
  · rintro rfl h
    exact congrArg Host.Outcome.next (if_neg h)
  · exact congrArg Host.Outcome.next (State.restripe_ends hbusy hend)
  · exact congrArg Host.Outcome.next (State.restripe_passes hbusy hmore rfl rfl rfl hstay)
  · exact congrArg Host.Outcome.next (State.restripe_moves hbusy hmore rfl rfl rfl hmove)
  · exact State.copyLines.eq_def u a b 0
  · exact State.copyLines.eq_def u a b (m + 1)
  · exact congrArg Host.Outcome.next (State.restripe_idle h)
  · exact fun hwants hrun hwrap hst hnew hl hpick hfree =>
      congrArg Host.Outcome.next (State.pageFill_fills hwants hrun hwrap hst hnew hl hpick hfree)
  · exact congrArg Host.Outcome.next (State.flushComplete_flushes hsome hrun hwrap)
  · exact congrArg Host.Outcome.next (State.flushComplete_idle h)
  · exact congrArg Host.Outcome.next (State.flushCtx_queues hout hnew)
  · exact congrArg Host.Outcome.next (State.flushCtx_fails hin)
  · exact congrArg Host.Outcome.next (State.resumeCtx_resumes hst hwait)
  · exact congrArg Host.Outcome.next (State.resumeCtx_fails h)
  · exact congrArg Host.Outcome.next (if_pos h)
  · exact congrArg Host.Outcome.next (if_neg (not_not_intro h))

end Sys2Proof.Machine
end

section
/-! Events of the arbiter: grant runs, the power registers and the temperature. -/

namespace Sys2Proof.Machine
open Sys2Proof

/-! ## Grant runs (R354 to R360) -/

/-- The coefficients as written come into use. -/
def Meridian.inUse (m : Meridian) : Meridian := { m with coefUse := m.coef, leakUse := m.leak }

/-- A grant run is kept: its grants aim the fields of their launches. -/
def State.giveGrants (s : State) (gs : List Grant) (rot : Map Nat) (ovr : Bool) : State :=
  let ran : State := { s with mer := { s.mer.inUse with
    runs := s.mer.runs + 1, rot := rot, ovr := ovr, est := BitVec.ofNat 32 (estimate s.mer.inUse gs), due := false, busy := true,
    ran := true, runAt := s.time } }
  let given := gs.foldl (fun s g =>
    match s.launch? g.lid with
    | none => s
    | some l => l.fields.foldl (fun s fi => s.modField fi (fun f => f.aim (s.granted g.vec))) s) ran
  { given with mer := { given.mer with busy := given.switchesLeft } }

section
variable {s : State} {gs : List Grant} {rot : Map Nat} {ovr : Bool}

theorem State.grantRun_gives (hloop : ({ s with mer := s.mer.inUse } : State).grantLoop s.mer.rot (s.boundLaunches.map Launch.grant)
      (48 * s.boundLaunches.length) = (gs, rot, ovr)) :
    s.grantRun none = if (ovr && !s.mer.ovr) = true then (s.giveGrants gs rot ovr).meridianIrq else s.giveGrants gs rot ovr := by
  rw [← List.length_map (f := Launch.grant) (as := s.boundLaunches)] at hloop
  unfold State.grantRun
  refine Eq.trans (congrArg (fun r : List Grant × Map Nat × Bool =>
    if (r.2.2 && !s.mer.ovr) = true then (s.giveGrants r.1 r.2.1 r.2.2).meridianIrq else s.giveGrants r.1 r.2.1 r.2.2) hloop) rfl

theorem State.runGrant_runs (hdue : s.mer.due = true) (hgap : s.mer.ran = false ∨ s.mer.runAt + 20000 ≤ s.time) :
    s.runGrant = match s.bindingLaunch with
      | some l => (s.grantRun (some l.lid)).finishBind l
      | none => s.grantRun none := by
  refine if_pos ?_
  obtain h | h := hgap <;> simp [hdue, h]

/-- A run that no event has asked for, or that comes too early, is not made. -/
theorem State.runGrant_waits (h : ¬ (s.mer.due = true ∧ (s.mer.ran = false ∨ s.mer.runAt + 20000 ≤ s.time))) : s.runGrant = s := by
  refine if_neg fun hgo => h ?_
  simpa only [Bool.and_eq_true, Bool.or_eq_true, Bool.not_eq_true', decide_eq_true_eq] using hgo

end

/-! ## The cap, the coefficients, the limits and the shares (R354, R355, R363, R364) -/

section
variable {s : State} {v : Word} {d n p : Nat}

theorem State.tcapStep_waits (h : s.time < s.mer.tcapAt + 2000000) : s.tcapStep = s := if_pos h

theorem State.tcapStep_steps (h : s.mer.tcapAt + 2000000 ≤ s.time) :
    let t := if s.mer.temp ≥ s.mer.thot then Nat.max 1200 (s.mer.tcap - 100)
      else if s.mer.temp ≤ s.mer.tok then Nat.min 3600 (s.mer.tcap + 100) else s.mer.tcap
    s.tcapStep = { s with mer := { s.mer with tcap := t, tcapAt := s.time, due := s.mer.due || t != s.mer.tcap } } :=
  if_neg (Nat.not_lt.mpr h)

/-- What a reading of the sensors leaves, before the end of a cold spell: TEMP, HOT and the interrupt of a rise. -/
def State.sensed (s : State) (temp : Nat) : State :=
  let read : State := { s with mer := { s.mer with temp := temp, hot := decide (s.mer.thot ≤ temp) } }
  if s.mer.thot ≤ temp ∧ s.mer.hot = false then read.meridianIrq else read

theorem State.setTemp_eq (temp : Nat) : s.setTemp temp = if s.mer.cold = true ∧ temp ≤ s.mer.tok then
    { s.sensed temp with mer := { (s.sensed temp).mer with cold := false, due := true } } else s.sensed temp := by
  simp only [State.setTemp, State.sensed, Bool.and_eq_true, decide_eq_true_eq, Bool.not_eq_true', ge_iff_le]

theorem State.tempCritical_quiet (h : s.mer.temp < 105 ∨ (s.mer.cold = true ∧ s.mer.crit = true)) : s.tempCritical = s := by
  refine if_neg ?_
  obtain h | ⟨hcold, hcrit⟩ := h
  · simp [Nat.not_le.mpr h]
  · simp [hcold, hcrit]

theorem State.tempCritical_cools (htemp : 105 ≤ s.mer.temp) (hnew : (s.mer.cold && s.mer.crit) = false) : s.tempCritical = s.goCold :=
  if_pos (by rw [decide_eq_true htemp, hnew]; rfl)

theorem State.thotTok_keeps (hthot : bits v.toNat 15 8 ≤ 104) (htok : bits v.toNat 23 16 < bits v.toNat 15 8) :
    s.thotTok v = (s.setMer true { s.mer with thot := bits v.toNat 15 8, tok := bits v.toNat 23 16 }).setTemp s.mer.temp :=
  if_neg (by simp [hthot, htok])

theorem State.thotTok_ignores (h : ¬ (bits v.toNat 15 8 ≤ 104 ∧ bits v.toNat 23 16 < bits v.toNat 15 8)) : s.thotTok v = s :=
  if_pos (by
    obtain hthot | htok := Classical.not_and_iff_not_or_not.mp h
    · simp [Nat.not_le.mp hthot]
    · simp [Nat.not_lt.mp htok])

end

/-- Settles O46: the arbiter. -/
theorem arbiterEvents : Obligations.Arbiter_events := by
  intro s d n p v sensors gs rot ovr bl m used irq ran given after runs loop c asks coef leak thot tok limits tcap temp read told share
    ctl cold held
  have hgrant (hruns : runs) (hnone : s.bindingLaunch = none) : s.runGrant = s.grantRun none := by
    obtain ⟨hdue, hgap⟩ := hruns
    rw [State.runGrant_runs hdue hgap, hnone]
  have hcap : (1200 ≤ c ∧ c ≤ 3600) ↔ (decide (1200 ≤ c) && decide (c ≤ 3600)) = true := by
    simp only [Bool.and_eq_true, decide_eq_true_eq]
  have hcoef : (d < 4 ∧ 4 ≤ n ∧ n ≤ 16 ∧ coef.rowOk d = true ∧ coef.boundOk = true) ↔
      (decide (d < 4) && decide (4 ≤ n) && decide (n ≤ 16) && coef.rowOk d && coef.boundOk) = true := by
    simp only [Bool.and_eq_true, decide_eq_true_eq, and_assoc]
  refine ⟨fun hruns hnone hloop hovr => ?_, fun hruns hnone hloop hnew hovr => ?_, fun hruns hbl => ?_, fun h => ?_, fun h => ?_,
    fun h => ?_, fun h => ?_, fun hcold htok => ?_, fun htemp hcold hcrit => ?_, fun htemp hcrit => ?_, fun h => ?_,
    fun h => congrArg Host.Outcome.next (if_pos h), fun h => congrArg Host.Outcome.next (if_neg (Nat.not_le.mpr h)),
    fun hlo hhi => congrArg Host.Outcome.next (if_pos (hcap.mp ⟨hlo, hhi⟩)),
    fun h => congrArg Host.Outcome.next (if_neg (fun hb => h (hcap.mpr hb))),
    fun hd hlo hhi hrow hbound => congrArg Host.Outcome.next (if_pos (hcoef.mp ⟨hd, hlo, hhi, hrow, hbound⟩)),
    fun h => congrArg Host.Outcome.next (if_neg (fun hb => h (hcoef.mpr hb))),
    fun h => congrArg Host.Outcome.next (if_pos h), fun h => congrArg Host.Outcome.next (if_neg (Bool.eq_false_iff.mp h)),
    fun hthot htok => congrArg Host.Outcome.next (State.thotTok_keeps hthot htok),
    fun h => congrArg Host.Outcome.next (State.thotTok_ignores h),
    fun h => congrArg Host.Outcome.next (if_neg (Nat.not_lt.mpr h)), fun h => congrArg Host.Outcome.next (if_pos h),
    fun h => congrArg Host.Outcome.next (if_neg (Nat.not_lt.mpr h)), fun h => congrArg Host.Outcome.next (if_pos h)⟩
  · refine congrArg Host.Outcome.next ((hgrant hruns hnone).trans ((State.grantRun_gives hloop).trans (if_neg ?_)))
    obtain h | h := hovr
    · rw [h, Bool.false_and]; decide
    · rw [show s.mer.ovr = true from h, Bool.not_true, Bool.and_false]; decide
  · refine congrArg Host.Outcome.next ((hgrant hruns hnone).trans ((State.grantRun_gives hloop).trans (if_pos ?_)))
    rw [hnew, show s.mer.ovr = false from hovr]; rfl
  · obtain ⟨hdue, hgap⟩ := hruns
    refine congrArg Host.Outcome.next ((State.runGrant_runs hdue hgap).trans ?_)
    rw [hbl]
  · exact congrArg Host.Outcome.next (State.runGrant_waits h)
  · exact congrArg Host.Outcome.next (State.tcapStep_waits h)
  · exact congrArg Host.Outcome.next (State.tcapStep_steps h)
  · exact congrArg Host.Outcome.next ((State.setTemp_eq temp).trans (if_neg h))
  · exact congrArg Host.Outcome.next ((State.setTemp_eq temp).trans (if_pos ⟨hcold, htok⟩))
  · refine congrArg Host.Outcome.next ((State.tempCritical_cools htemp ?_).trans (if_pos hcrit))
    rw [show s.mer.cold = false from hcold]; rfl
  · refine congrArg Host.Outcome.next ((State.tempCritical_cools htemp ?_).trans (if_neg (Bool.eq_false_iff.mp hcrit)))
    rw [show s.mer.crit = false from hcrit, Bool.and_false]
  · exact congrArg Host.Outcome.next (State.tempCritical_quiet h)

end Sys2Proof.Machine
end

section
/-! Events of the sidereal clock and of Eclipse: what each does where its condition holds. -/

namespace Sys2Proof.Machine
open Sys2Proof

/-! ## Wraps (R113, R117 to R119) -/

/-- A fold over steps that change nothing. -/
theorem foldl_unchanged {α β : Type} {f : α → β → α} {a : α} :
    ∀ {l : List β}, (∀ b ∈ l, f a b = a) → l.foldl f a = a
  | [], _ => rfl
  | b :: l, h => by
    rw [List.foldl_cons, h b List.mem_cons_self]
    exact foldl_unchanged fun c hc => h c (List.mem_cons_of_mem b hc)

/-- Reading a map whose values a function that keeps the default has changed. -/
theorem look_map {α : Type} {g : α → α} {d : α} (hd : g d = d) (m : Map α) (k : Nat) :
    look (m.map (fun e => (e.1, g e.2))) k d = g (look m k d) := by
  induction m with
  | nil => exact hd.symm
  | cons e m ih =>
    simp only [List.map_cons, look]
    split
    · rfl
    · exact ih

/-- A slice without its leased lines. -/
def Field.dropLeases (f : Field) : Field := { f with l2 := f.l2.filter (fun l => l.2.st != .l) }

section
variable {s : State} {fi n p : Nat} {count : BitVec 40} {wrapn : BitVec 8} {v : Word}

theorem State.field_dropAllLeases : s.dropAllLeases.field fi = (s.field fi).dropLeases :=
  look_map (g := Field.dropLeases) rfl s.fields fi

/-- Dropped leases leave a field's clock. -/
theorem State.vclk_dropAllLeases : s.dropAllLeases.vclk fi = s.vclk fi := by
  simp only [State.vclk, State.field_dropAllLeases, Field.dropLeases]
  rfl

theorem State.near_iff : (decide (s.wrap = 0) && (s.master || !s.blost) &&
      decide (s.sid + (if s.master then 0 else 4) ≥ 0xFFFFFFF000)) = true ↔
    s.wrap = 0 ∧ (s.master = true ∨ s.blost = false) ∧ 0xFFFFFFF000 ≤ s.sid + (if s.master then 0 else 4) := by
  simp only [Bool.and_eq_true, Bool.or_eq_true, Bool.not_eq_true', decide_eq_true_eq, and_assoc, ge_iff_le]

/-- Without an armed timer and an armed assertion a wrap only restarts the counter and ends the leases. -/
theorem State.endWrap_unarmed (htimer : ∀ e ∈ s.fields, bit (s.field e.1).ftcmp.toNat 63 = false)
    (harmed : ∀ e ∈ s.parts, (s.part e.1).earmed = false) :
    s.endWrap = { s with
      sid := 0, sidHold := 0, wrapn := s.wrapn + 1, wrap := 0, beaconAt := s.time
      fields := s.fields.map (fun (e : Nat × Field) => (e.1, { e.2 with l2 := e.2.l2.filter (fun l => l.2.st != .l) }))
      ctxs := s.ctxs.map (fun (e : Nat × Ctx) =>
        (e.1, (e.2.rebase s.sid).unpause (s.vclk (fieldOf e.1)) (s.field (fieldOf e.1)).pauseV)) } := by
  have hparts : (s.parts.map Prod.fst).foldl State.eclipseTick s = s := by
    refine foldl_unchanged fun p hp => ?_
    obtain ⟨e, he, rfl⟩ := List.mem_map.mp hp
    exact if_neg (by rw [harmed e he, Bool.false_and]; decide)
  have htimers : (s.fields.map Prod.fst).foldl State.wrapTimer s = s := by
    refine foldl_unchanged fun fi hfi => ?_
    obtain ⟨e, he, rfl⟩ := List.mem_map.mp hfi
    exact if_pos (by rw [htimer e he]; rfl)
  simp only [State.endWrap, hparts, htimers, State.vclk_dropAllLeases, State.field_dropAllLeases, Field.dropLeases]
  rfl

/-- When the master ends a wrap by itself. -/
theorem State.ends_iff : (!s.master || decide (s.wrap = 0) || (decide (s.wrap ≠ 3) && decide (s.sid < sidMax)) || !s.wrapDrained) = false ↔
    s.master = true ∧ (s.wrap = 3 ∨ (s.wrap ≠ 0 ∧ sidMax ≤ s.sid)) ∧ s.wrapDrained = true := by
  simp only [Bool.or_eq_false_iff, Bool.not_eq_false', decide_eq_false_iff_not, Bool.and_eq_false_iff, Classical.not_not, Nat.not_lt]
  constructor
  · rintro ⟨⟨⟨hmaster, hwrap⟩, hend⟩, hdrained⟩
    exact ⟨hmaster, hend.imp_right fun h => ⟨hwrap, h⟩, hdrained⟩
  · rintro ⟨hmaster, hend, hdrained⟩
    refine ⟨⟨⟨hmaster, ?_⟩, hend.imp_right And.right⟩, hdrained⟩
    obtain h | ⟨h, -⟩ := hend
    · rw [h]; decide
    · exact h

theorem State.wrapComplete_announced (hnext : s.wrapNext = some n) : s.wrapComplete = s.wrapBeacon n := by
  simp only [State.wrapComplete, hnext]

theorem State.wrapComplete_own (hnext : s.wrapNext = none) (h : s.master = true ∧ (s.wrap = 3 ∨ (s.wrap ≠ 0 ∧ 2 ^ 40 - 1 ≤ s.sid)) ∧
    s.wrapDrained = true) : s.wrapComplete = s.endWrap := by
  simp only [State.wrapComplete, hnext]
  exact if_neg (Bool.eq_false_iff.mp (State.ends_iff.mpr h))

theorem State.wrapComplete_waits (hnext : s.wrapNext = none) (h : ¬ (s.master = true ∧
    (s.wrap = 3 ∨ (s.wrap ≠ 0 ∧ 2 ^ 40 - 1 ≤ s.sid)) ∧ s.wrapDrained = true)) : s.wrapComplete = s := by
  simp only [State.wrapComplete, hnext]
  exact if_pos (eq_true_of_ne_false fun hf => h (State.ends_iff.mp hf))

/-! ## Beacons and field timers (R117, R119, R367) -/

/-- What a cube that has heard a beacon keeps of it first. -/
def State.hears (s : State) : State := { s with beaconAt := s.time, joined := true }

/-- A beacon at a cube that follows the master. -/
theorem State.beacon_follower (hmaster : s.master = false) : s.beacon count wrapn =
    if wrapn = s.wrapn then
      if s.sid ≤ count.toNat then { s.hears with sid := count.toNat, sidHold := 0 }
      else { s.hears with sidHold := s.sid - count.toNat }
    else if wrapn = s.wrapn + 1 ∧ (s.wrap ≠ 0 ∨ s.joined = true) then
      (if s.wrap = 0 then s.hears.beginWrap 3 else s.hears).wrapBeacon count.toNat
    else { s.hears with sid := count.toNat, wrapn := wrapn, sidHold := 0 } := by
  simp only [State.beacon, State.hears, hmaster, Bool.false_eq_true, if_false, Bool.and_eq_true, Bool.or_eq_true, decide_eq_true_eq,
    ge_iff_le]

/-- The next wrap number is not the present one. -/
theorem wrapn_succ_ne (w : BitVec 8) : w + 1 ≠ w := by bv_omega

theorem State.lost_iff : (s.master || s.blost || !s.zen.links.any (fun e => bit e.2.lctl 1) ||
      decide (s.beaconAt + 128000 > s.time)) = false ↔
    s.master = false ∧ s.blost = false ∧ s.zen.links.any (fun e => bit e.2.lctl 1) = true ∧ s.beaconAt + 128000 ≤ s.time := by
  simp only [Bool.or_eq_false_iff, Bool.not_eq_false', decide_eq_false_iff_not, Nat.not_lt, and_assoc, gt_iff_lt]

theorem State.timer_due_iff : (!bit (s.field fi).ftcmp.toNat 63 ||
      (!(s.field fi).ftdue && decide (s.sid < bits (s.field fi).ftcmp.toNat 39 0))) = false ↔
    bit (s.field fi).ftcmp.toNat 63 = true ∧ ((s.field fi).ftdue = true ∨ bits (s.field fi).ftcmp.toNat 39 0 ≤ s.sid) := by
  simp only [Bool.or_eq_false_iff, Bool.not_eq_false', Bool.and_eq_false_iff, decide_eq_false_iff_not, Nat.not_lt]

theorem State.timerCompare_eq : s.timerCompare fi =
    if ((s.field fi).frozen || (!bit (s.field fi).ftcmp.toNat 63 ||
      (!(s.field fi).ftdue && decide (s.sid < bits (s.field fi).ftcmp.toNat 39 0)))) = true then s else s.fireTimer fi := by
  simp only [State.timerCompare, Bool.or_assoc]

end

/-- The events of the sidereal clock. -/
theorem clockEvents : ClockEvents := by
  intro s count wrapn fi v n heard w fired set due lost near paused over_ hears done ends
  refine ⟨fun h => congrArg Host.Outcome.next (if_pos (State.near_iff.mpr h)),
    fun h => congrArg Host.Outcome.next (if_neg (fun hb => h (State.near_iff.mp hb))),
    fun h => congrArg Host.Outcome.next (if_pos h), fun h => congrArg Host.Outcome.next (if_neg h),
    fun h => ?_, State.endWrap_unarmed, fun hnext h => ?_, fun m hnext hdrained => ?_, fun m hnext hdrained => ?_,
    fun h => congrArg Host.Outcome.next (if_pos h), fun hm hw hn => ?_, fun hm hw hn => ?_, fun hm hover hdrained => ?_,
    fun hm hover hdrained => ?_, fun hm hw hover => ?_,
    fun h => congrArg Host.Outcome.next (if_neg (Bool.eq_false_iff.mp (State.lost_iff.mpr h))),
    fun h => congrArg Host.Outcome.next (if_pos (eq_true_of_ne_false fun hf => h (State.lost_iff.mp hf))),
    fun hrun hdue => ?_, fun h => ?_, fun h => ?_, fun hen hle => ?_⟩
  · obtain ⟨hnext, hends⟩ := h
    exact congrArg Host.Outcome.next (State.wrapComplete_own hnext hends)
  · exact congrArg Host.Outcome.next (State.wrapComplete_waits hnext fun hends => h ⟨hnext, hends⟩)
  · exact congrArg Host.Outcome.next ((State.wrapComplete_announced hnext).trans (if_pos hdrained))
  · exact congrArg Host.Outcome.next ((State.wrapComplete_announced hnext).trans (if_neg (Bool.eq_false_iff.mp hdrained)))
  · exact congrArg Host.Outcome.next ((State.beacon_follower hm).trans ((if_pos hw).trans (if_pos hn)))
  · exact congrArg Host.Outcome.next ((State.beacon_follower hm).trans ((if_pos hw).trans (if_neg (Nat.not_le.mpr hn))))
  · have hw : wrapn ≠ s.wrapn := by rw [hover.1]; exact wrapn_succ_ne s.wrapn
    exact congrArg Host.Outcome.next
      ((State.beacon_follower hm).trans ((if_neg hw).trans ((if_pos hover).trans (if_pos hdrained))))
  · have hw : wrapn ≠ s.wrapn := by rw [hover.1]; exact wrapn_succ_ne s.wrapn
    exact congrArg Host.Outcome.next ((State.beacon_follower hm).trans
      ((if_neg hw).trans ((if_pos hover).trans (if_neg (Bool.eq_false_iff.mp hdrained)))))
  · exact congrArg Host.Outcome.next ((State.beacon_follower hm).trans ((if_neg hw).trans (if_neg hover)))
  · refine congrArg Host.Outcome.next (State.timerCompare_eq.trans (if_neg ?_))
    rw [hrun, State.timer_due_iff.mpr hdue]; decide
  · refine congrArg Host.Outcome.next (State.timerCompare_eq.trans (if_pos ?_))
    obtain hfrozen | hnot := h
    · rw [hfrozen, Bool.true_or]
    · rw [eq_true_of_ne_false fun hf => hnot (State.timer_due_iff.mp hf), Bool.or_true]
  · refine congrArg Host.Outcome.next (if_neg ?_)
    obtain hoff | hlate := h
    · rw [hoff, Bool.false_and]; decide
    · rw [decide_eq_false (Nat.not_le.mpr hlate), Bool.and_false]; decide
  · refine congrArg Host.Outcome.next ((if_pos (by rw [hen, decide_eq_true hle]; rfl)).trans ?_)
    simp only [State.fireTimer, State.field_modField]
    rfl

/-! ## Eclipse (R350 to R352) -/

section
variable {s : State} {p c o : Nat} {site : SoftSite} {l : L2Line}

/-- What an assertion does to a partition. -/
def Part.asserted (y : Part) : Part := { y with assert := true, erel := false, ecount := if y.frozen then none else some true }

theorem State.tickCome_iff : s.tickCome p = true ↔
    s.wrapn.toNat = bits (s.part p).etick.toNat 47 40 ∧ bits (s.part p).etick.toNat 39 0 ≤ s.sid := by
  simp only [State.tickCome, Bool.and_eq_true, beq_iff_eq, decide_eq_true_eq, ge_iff_le]

theorem State.periodPast_iff : s.periodPast p = true ↔ 0 < (s.wrapn.toNat + 256 - bits (s.part p).etick.toNat 47 40) % 256 ∧
    (s.wrapn.toNat + 256 - bits (s.part p).etick.toNat 47 40) % 256 < 128 := by
  simp only [State.periodPast, Bool.and_eq_true, decide_eq_true_eq]

/-- A change of a partition that leaves ETICK leaves what is due. -/
theorem State.tickCome_modPart {g : Part → Part} (hg : (g (s.part p)).etick = (s.part p).etick) :
    (s.modPart p g).tickCome p = s.tickCome p := by
  simp only [State.tickCome, State.part_modPart, hg]
  rfl

theorem State.periodPast_modPart {g : Part → Part} (hg : (g (s.part p)).etick = (s.part p).etick) :
    (s.modPart p g).periodPast p = s.periodPast p := by
  simp only [State.periodPast, State.part_modPart, hg]
  rfl

/-- An aligned assertion asserts at once where its tick has come or its period is past, else it waits. -/
theorem State.eclipseAssert_aligned (h : (s.part p).ealign = true) : s.eclipseAssert p =
    if (s.tickCome p || s.periodPast p) = true then s.modPart p (fun y => { y with ealign := true, earmed := false }.asserted)
    else s.modPart p (fun y => { y with assert := true, ealign := true, earmed := true }) := by
  simp only [State.eclipseAssert, h, if_true, State.eclipseArm, State.assertEclipse, State.modPart_modPart, State.tickCome_modPart,
    State.periodPast_modPart]
  rfl

theorem State.eclipseTick_asserts (harmed : (s.part p).earmed = true) (htick : s.tickCome p = true) :
    s.eclipseTick p = s.modPart p (fun y => { y with earmed := false }.asserted) := by
  simp only [State.eclipseTick, harmed, htick, Bool.and_self, if_true, State.assertEclipse, State.modPart_modPart]
  rfl

theorem State.eclipseFreeze_freezes (h : (s.part p).ecount = some true) :
    s.eclipseFreeze p = (s.setFrozen p true).modPart p (fun y => { y with frozen := true, ecount := none }) := by
  simp only [State.eclipseFreeze, h, bne_self_eq_false, Bool.false_eq_true, if_false]

theorem State.eclipseRestart_restarts (h : (s.part p).ecount = some false) :
    s.eclipseRestart p = (s.setFrozen p false).modPart p (fun y => { y with frozen := false, ecount := none }) := by
  simp only [State.eclipseRestart, h, bne_self_eq_false, Bool.false_eq_true, if_false]

theorem State.eclipseRelease_counting (hsnap : s.snapBusy p = false) (h : (s.part p).ecount = some true) :
    s.eclipseRelease p = (s.eclipseFreeze p).modPart p (fun y => { y with assert := false, ecount := some false, erel := false }) := by
  simp only [State.eclipseRelease, hsnap, h, beq_self_eq_true, Bool.false_eq_true, if_false, if_true]

theorem State.eclipseRelease_settled (hsnap : s.snapBusy p = false) (h : (s.part p).ecount ≠ some true) :
    s.eclipseRelease p = if (s.part p).frozen = true then
        s.modPart p (fun y => { y with assert := false, ecount := some false, erel := false })
      else s.modPart p (fun y => { y with assert := false, erel := false }) := by
  simp only [State.eclipseRelease, hsnap, beq_eq_false_iff_ne.mpr h, Bool.false_eq_true, if_false]

/-- A soft error that is counted for a field. -/
theorem State.countSoft_counts (b : Bool) (h : siteField site = some c) :
    s.countSoft site b = s.modField c (fun f => if b then { f with secor := f.secor + 1 } else { f with seunc := f.seunc + 1 }) := by
  simp only [State.countSoft, h]

/-- A clean line that cannot be corrected is dropped: its home has the bytes. -/
theorem State.softError_clean (hline : look? (s.field c).l2 o = some l) (hclean : l.dirty = false) :
    s.softError (.l2clean c o) false = (s.modField c (fun f => { f with secor := f.secor + 1 })).unhold c o := by
  simp only [State.softError, hline, Option.any_some, hclean, Bool.not_false, Bool.false_eq_true, if_false, Bool.false_and,
    State.countSoft, siteField, if_true, State.softUncorrected, State.field_modField]

end

/-- The events of Eclipse. -/
theorem eclipseEvents : EclipseEvents := by
  intro s p c o sel v site l x asserts w tick past mine clocks sp counted
  have hcome : s.tickCome p = true ↔ tick := State.tickCome_iff
  have hdue : (s.tickCome p || s.periodPast p) = true ↔ tick ∨ past :=
    (Bool.or_eq_true _ _).to_iff.trans (or_congr State.tickCome_iff State.periodPast_iff)
  refine ⟨fun h => congrArg Host.Outcome.next (if_neg (Bool.eq_false_iff.mp h)),
    fun h ht => congrArg Host.Outcome.next ((State.eclipseAssert_aligned h).trans (if_pos (hdue.mpr ht))),
    fun h ht => congrArg Host.Outcome.next ((State.eclipseAssert_aligned h).trans (if_neg (fun hb => ht (hdue.mp hb)))),
    fun h ht => congrArg Host.Outcome.next (State.eclipseTick_asserts h (hcome.mpr ht)), fun h => ?_,
    fun h => congrArg Host.Outcome.next (State.eclipseFreeze_freezes h),
    fun h => congrArg Host.Outcome.next (State.eclipseRestart_restarts h),
    fun h => congrArg Host.Outcome.next (if_pos (bne_iff_ne.mpr h)), fun h => congrArg Host.Outcome.next (if_pos (bne_iff_ne.mpr h)),
    fun h => congrArg Host.Outcome.next (if_pos h), fun hsnap h => ?_, fun hsnap hfrozen h => ?_, fun hsnap hfrozen h => ?_,
    fun h => ?_, fun h => ?_, fun h => congrArg Host.Outcome.next (if_pos h),
    fun h => congrArg Host.Outcome.next (if_neg (Bool.eq_false_iff.mp h)),
    fun h => congrArg Host.Outcome.next (State.countSoft_counts true h), rfl, rfl,
    fun hline hclean => congrArg Host.Outcome.next (State.softError_clean hline hclean)⟩
  · refine congrArg Host.Outcome.next (if_neg fun hb => h ?_)
    obtain ⟨harmed, hcame⟩ := Bool.and_eq_true_iff.mp hb
    exact ⟨harmed, hcome.mp hcame⟩
  · refine congrArg Host.Outcome.next ((State.eclipseRelease_counting hsnap h).trans ?_)
    rw [State.eclipseFreeze_freezes h]
    rfl
  · exact congrArg Host.Outcome.next ((State.eclipseRelease_settled hsnap h).trans (if_neg (Bool.eq_false_iff.mp hfrozen)))
  · exact congrArg Host.Outcome.next ((State.eclipseRelease_settled hsnap h).trans (if_pos hfrozen))
  · exact congrArg (fun t => Host.Outcome.next { s with tap := t }) (if_pos h)
  · exact congrArg (fun t => Host.Outcome.next { s with tap := t }) (if_neg (Bool.eq_false_iff.mp h))

/-- Settles O47: the sidereal clock and Eclipse. -/
theorem clockAndEclipseEvents : Obligations.Clock_and_eclipse_events := ⟨clockEvents, eclipseEvents⟩

end Sys2Proof.Machine
end

section
/-! Events of the snapshot engines (R382 to R387). -/

namespace Sys2Proof.Machine
open Sys2Proof

section
variable {s s1 s2 s3 s4 : State} {k p t n st c : Nat} {pa : Nat} {pages rest : List Nat} {sh : List (Nat × Nat)}
  {vs : List (Option (List Nat))} {bs : List Byte} {late : Bool}

/-! ## Commands -/

/-- The command that a free engine takes. -/
def State.snapTaken (s : State) (k p cmd : Nat) : State :=
  s.modStack k (fun x => { x with snap := { x.snap with busy := true, part := p, cmd := cmd, begun := false, waitAt := none } })

/-- An engine at the end of a command, before a release of Eclipse that waited for it. -/
def State.snapEnded (s : State) (k st : Nat) : State :=
  s.modStack k (fun x =>
    { x with snap := { x.snap with busy := false, status := st, begun := false, todo := [], waitAt := none } })

theorem State.snapEnd_quiet (h : (s.part (s.stack k).snap.part).erel = false) : s.snapEnd k st = s.snapEnded k st :=
  if_neg (Bool.eq_false_iff.mp h)

theorem State.snap_snapTaken (cmd : Nat) : ((s.snapTaken k p cmd).stack k).snap =
    { (s.stack k).snap with busy := true, part := p, cmd := cmd, begun := false, waitAt := none } := by
  rw [State.snapTaken, State.stack_modStack]

theorem State.snapCmd_busy (cmd : Nat) (h : (s.stack k).snap.busy = true) :
    s.snapCmd k p cmd = s.modStack k (fun x => { x with snap := { x.snap with rej := true } }) := if_pos h

theorem State.snapCmd_free (cmd : Nat) (h : (s.stack k).snap.busy = false) :
    s.snapCmd k p cmd = (s.snapTaken k p cmd).snapGo k false := if_neg (Bool.eq_false_iff.mp h)

/-- A pause of a wrap holds a command. -/
theorem State.snapGo_held (h : (s.stack k).snap.busy = false ∨ s.wrap ≠ 0) : s.snapGo k late = s := by
  refine if_pos ?_
  obtain h | h := h
  · rw [h]; rfl
  · rw [decide_eq_true h, Bool.or_true]

theorem State.snapGo_goes (hbusy : (s.stack k).snap.busy = true) (hwrap : s.wrap = 0) :
    s.snapGo k late = if (s.stack k).snap.cmd = 2 then s.snapRestore k
      else if (s.stack k).snap.begun = true then s.snapPages k late ((s.stack k).snap.todo.length + 1) else s.snapBegin k := by
  refine if_neg ?_
  rw [hbusy, hwrap]
  decide

theorem State.snapCmd_snapshot (hfree : (s.stack k).snap.busy = false) (hwrap : s.wrap = 0) :
    s.snapCmd k p 1 = (s.snapTaken k p 1).snapBegin k := by
  rw [State.snapCmd_free 1 hfree, State.snapGo_goes (s := s.snapTaken k p 1) (by rw [State.snap_snapTaken]) hwrap, State.snap_snapTaken]
  rfl

theorem State.snapCmd_restore (hfree : (s.stack k).snap.busy = false) (hwrap : s.wrap = 0) :
    s.snapCmd k p 2 = (s.snapTaken k p 2).snapRestore k := by
  rw [State.snapCmd_free 2 hfree, State.snapGo_goes (s := s.snapTaken k p 2) (by rw [State.snap_snapTaken]) hwrap, State.snap_snapTaken]
  rfl

/-! ## A snapshot -/

theorem State.snapChecks_unfrozen (h : (s.part (s.stack k).snap.part).frozen = false) : s.snapChecks k = .error 1 :=
  if_pos (by rw [h]; rfl)

theorem State.snapBegin_refused (h : s.snapChecks k = .error st) : s.snapBegin k = s.snapEnd k st := by
  simp only [State.snapBegin, h]

theorem State.snapBegin_unwritten (h : s.snapChecks k = .ok (pages, s1))
    (hw : s1.hubWrite ((s1.stack k).snap.base ((s1.stack k).snap.step.toNat % 2)) 64 0 = none) :
    s.snapBegin k = s1.snapEnd k 4 := by
  simp only [State.snapBegin, h, hw]

theorem State.snapBegin_begins (h : s.snapChecks k = .ok (pages, s1))
    (hw : s1.hubWrite ((s1.stack k).snap.base ((s1.stack k).snap.step.toNat % 2)) 64 0 = some s2) :
    s.snapBegin k = (s2.modStack k (fun x => { x with snap := { x.snap with
      begun := true, slot := (s1.stack k).snap.step.toNat % 2, todo := pages, mani := [], cut := s.sid, waitAt := none } })).snapPages
        k false (pages.length + 1) := by
  simp only [State.snapBegin, h, hw]

theorem State.snapPages_unread (h : (s.stack k).snap.todo = pa :: rest) (hr : s.snapRead pa 65536 = .error c) :
    s.snapPages k late (n + 1) = s.snapEnd k (if c = cPhys then 2 else 5) := by
  simp only [State.snapPages, h, hr]

theorem State.snapPages_done (h : (s.stack k).snap.todo = []) : s.snapPages k late (n + 1) = s.snapCommit k := by
  simp only [State.snapPages, h]

/-! ## A restore -/

theorem State.snapRestore_unfrozen (h : (s.part (s.stack k).snap.part).frozen = false) : s.snapRestore k = s.snapEnd k 1 :=
  if_pos (by rw [h]; rfl)

section
variable (hfrozen : (s.part (s.stack k).snap.part).frozen = true)
include hfrozen

theorem State.snapRestore_tableless (h : s.shardTable k = .error c) : s.snapRestore k = s.snapEnd k (if c = cPhys then 4 else 5) := by
  simp only [State.snapRestore, hfrozen, Bool.not_true, Bool.false_eq_true, if_false, h]

variable (htab : s.shardTable k = .ok (sh, s1)) (hvs : s1.validSteps sh = (vs, s2))
include htab hvs

/-- No step that every shard can have. -/
theorem State.snapRestore_stepless (hsome : vs.filterMap id ≠ []) (hnone : commonStep (vs.filterMap id) = none) :
    s.snapRestore k = s2.snapEnd k 3 := by
  simp only [State.snapRestore, hfrozen, Bool.not_true, Bool.false_eq_true, if_false, htab, hvs, List.isEmpty_eq_false_iff.mpr hsome,
    hnone, Option.isNone_none, Bool.not_false, Bool.and_self, if_true]

/-- A shard that cannot be read. -/
theorem State.snapRestore_shardless (hpass : (!(vs.filterMap id).isEmpty && (commonStep (vs.filterMap id)).isNone) = false)
    (hbad : vs.any Option.isNone = true) : s.snapRestore k = s2.snapEnd k 4 := by
  simp only [State.snapRestore, hfrozen, Bool.not_true, Bool.false_eq_true, if_false, htab, hvs, hpass, hbad, if_true]

variable (hstep : commonStep (vs.filterMap id) = some t) (hall : vs.any Option.isNone = false)
include hstep hall

theorem State.snapRestore_unread
    (hr : s2.snapRead ((fun x : Nat × Nat => if t % 2 = 0 then x.1 else x.2) (sh.getD (s.stack k).snap.shself (0, 0))) 64 = .error c) :
    s.snapRestore k = s2.snapEnd k (if c = cPhys then 4 else 5) := by
  simp only [State.snapRestore, hfrozen, Bool.not_true, Bool.false_eq_true, if_false, htab, hvs, hstep, Option.isNone_some,
    Bool.and_false, hall, hr]

theorem State.snapRestore_writes
    (hr : s2.snapRead ((fun x : Nat × Nat => if t % 2 = 0 then x.1 else x.2) (sh.getD (s.stack k).snap.shself (0, 0))) 64 =
      .ok (bs, s3))
    (hw : s3.restorePages (sh.map (fun x : Nat × Nat => if t % 2 = 0 then x.1 else x.2))
      ((fun x : Nat × Nat => if t % 2 = 0 then x.1 else x.2) (sh.getD (s.stack k).snap.shself (0, 0))) 0 (wordAt bs 2 / 2 ^ 32) = (st, s4)) :
    s.snapRestore k = if st = 0 then (s4.modStack k (fun x => { x with snap := { x.snap with rstep := w64 t } })).snapEnd k 0
      else s4.snapEnd k st := by
  simp only [State.snapRestore, hfrozen, Bool.not_true, Bool.false_eq_true, if_false, htab, hvs, hstep, Option.isNone_some,
    Bool.and_false, hall, hr, hw]

end

theorem State.dedupTimeout_waits (h : (s.stack k).snap.waitAt = some n) :
    s.dedupTimeout k = s.snapGo k (decide (n + 2000000 ≤ s.time)) := by
  simp only [State.dedupTimeout, h]

/-- DEDUP_TIMEOUT goes on with the command, whether or not a page waits. -/
theorem State.dedupTimeout_goes : ∃ late, s.dedupTimeout k = s.snapGo k late := by
  cases h : (s.stack k).snap.waitAt with
  | none => exact ⟨false, by simp only [State.dedupTimeout, h]⟩
  | some n => exact ⟨_, State.dedupTimeout_waits h⟩

end

/-- The events of the snapshot engines. -/
theorem snapshotEvents : SnapshotEvents := by
  intro s s1 s2 s3 s4 k p t n st c late pa pages rest sh vs bs q began ends idle slot at_ known status tables newest writes
  refine ⟨fun h => congrArg Host.Outcome.next (State.snapCmd_busy 1 h), fun h => congrArg Host.Outcome.next (State.snapCmd_busy 2 h),
    fun h hwrap => congrArg Host.Outcome.next ((State.snapCmd_free 1 h).trans (State.snapGo_held (Or.inr hwrap))),
    fun h hwrap => congrArg Host.Outcome.next ((State.snapCmd_free 2 h).trans (State.snapGo_held (Or.inr hwrap))),
    ?_, ?_, fun h => congrArg Host.Outcome.next (State.snapCmd_snapshot h.1 h.2),
    fun h => congrArg Host.Outcome.next (State.snapCmd_restore h.1 h.2), State.snapBegin_refused, State.snapBegin_unwritten,
    State.snapBegin_begins, fun h hr => ?_, State.snapPages_unread, State.snapPages_done, State.snapRestore_tableless,
    ?_, ?_, ?_, ?_, ?_, fun hbusy hwrap hcmd hbegun hwait => ?_, fun hbusy hwrap hcmd hbegun => ?_, fun hbusy hwrap hcmd => ?_,
    fun h => ?_⟩
  · rintro ⟨hfree, hwrap⟩ hfrozen herel
    have hpart : ((s.snapTaken k p 1).stack k).snap.part = p := by rw [State.snap_snapTaken]
    refine congrArg Host.Outcome.next ((State.snapCmd_snapshot hfree hwrap).trans ((State.snapBegin_refused
      (State.snapChecks_unfrozen ?_)).trans (State.snapEnd_quiet ?_)))
    · rw [hpart]; exact hfrozen
    · rw [hpart]; exact herel
  · rintro ⟨hfree, hwrap⟩ hfrozen herel
    have hpart : ((s.snapTaken k p 2).stack k).snap.part = p := by rw [State.snap_snapTaken]
    refine congrArg Host.Outcome.next ((State.snapCmd_restore hfree hwrap).trans
      ((State.snapRestore_unfrozen ?_).trans (State.snapEnd_quiet ?_)))
    · rw [hpart]; exact hfrozen
    · rw [hpart]; exact herel
  · simp only [State.snapPages, show (s.stack k).snap.todo = pa :: rest from h, hr] <;> rfl
  · rintro ⟨hfrozen, htab, hvs⟩ hsome hnone
    exact State.snapRestore_stepless hfrozen htab hvs hsome hnone
  · rintro ⟨hfrozen, htab, hvs⟩ hcommon hbad
    refine State.snapRestore_shardless hfrozen htab hvs ?_ hbad
    obtain h | h := hcommon
    · rw [show vs.filterMap id = [] from h]; rfl
    · rw [show commonStep (vs.filterMap id) = some t from h, Option.isNone_some, Bool.and_false]
  · rintro ⟨⟨hfrozen, htab, hvs⟩, hstep, hall⟩ hr
    exact State.snapRestore_unread hfrozen htab hvs hstep hall hr
  · rintro ⟨⟨⟨hfrozen, htab, hvs⟩, hstep, hall⟩, hr, hw⟩ hst
    exact (State.snapRestore_writes hfrozen htab hvs hstep hall hr hw).trans (if_neg hst)
  · rintro ⟨⟨⟨hfrozen, htab, hvs⟩, hstep, hall⟩, hr, hw⟩ hst
    exact (State.snapRestore_writes hfrozen htab hvs hstep hall hr hw).trans (if_pos hst)
  · exact congrArg Host.Outcome.next ((State.dedupTimeout_waits hwait).trans
      ((State.snapGo_goes hbusy hwrap).trans ((if_neg hcmd).trans (if_pos hbegun))))
  · obtain ⟨late, hgoes⟩ := State.dedupTimeout_goes (s := s) (k := k)
    exact congrArg Host.Outcome.next
      (hgoes.trans ((State.snapGo_goes hbusy hwrap).trans ((if_neg hcmd).trans (if_neg (Bool.eq_false_iff.mp hbegun)))))
  · obtain ⟨late, hgoes⟩ := State.dedupTimeout_goes (s := s) (k := k)
    exact congrArg Host.Outcome.next (hgoes.trans ((State.snapGo_goes hbusy hwrap).trans (if_pos hcmd)))
  · obtain ⟨late, hgoes⟩ := State.dedupTimeout_goes (s := s) (k := k)
    exact congrArg Host.Outcome.next (hgoes.trans (State.snapGo_held h))

end Sys2Proof.Machine
end

section
/-! Events of the links, of the collectives, of PCIe and of the service queue (R285, R372 to R380). -/

namespace Sys2Proof.Machine
open Sys2Proof

/-! ## Packets that are not acknowledged (R376) -/

section
variable {s : State} {c n : Nat} {e : E2E} {o : TaskOut}

theorem State.claimTask_some (h : s.zen.tasksOut.find? (fun o => o.cube == c && o.seq == n) = some o) :
    s.claimTask c n = some (o, { s with zen := { s.zen with tasksOut := s.zen.tasksOut.erase o } }) := by
  simp only [State.claimTask, h, Option.map_some]

theorem State.claimTask_none (h : s.zen.tasksOut.find? (fun o => o.cube == c && o.seq == n) = none) : s.claimTask c n = none := by
  simp only [State.claimTask, h, Option.map_none]

/-- The state without the packet that is given up. -/
def State.givenUp (s : State) (e : E2E) : State :=
  { s with zen := { s.zen with unacked := s.zen.unacked.filter (fun x => x != e) } }

theorem State.e2eTimeout_unknown (h : s.zen.unacked.find? (fun e => e.cube == c && e.seq == n) = none) : s.e2eTimeout c n = s := by
  simp only [State.e2eTimeout, h]

section
variable (h : s.zen.unacked.find? (fun e => e.cube == c && e.seq == n) = some e)
include h

theorem State.e2eTimeout_early (hearly : s.time < e.sentAt + 40000) : s.e2eTimeout c n = s := by
  simp only [State.e2eTimeout, h]
  exact if_pos hearly

variable (hlate : e.sentAt + 40000 ≤ s.time)
include hlate

theorem State.e2eTimeout_resends (htries : e.tries < 8) :
    s.e2eTimeout c n = ({ s with zen := { s.zen with
      unacked := s.zen.unacked.filter (fun x => x != e) ++ [{ e with tries := e.tries + 1, sentAt := s.time }] } } : State).forward
        e.packet true := by
  simp only [State.e2eTimeout, h]
  rw [if_neg (Nat.not_lt.mpr hlate), if_pos htries]

/-- A SENDT whose packet is given up after eight resends takes status 5. -/
theorem State.e2eTimeout_sendt (htries : 8 ≤ e.tries)
    (ho : s.zen.tasksOut.find? (fun o => o.cube == c && o.seq == n) = some o) :
    s.e2eTimeout c n = ({ s.givenUp e with zen := { (s.givenUp e).zen with
      tasksOut := s.zen.tasksOut.erase o } } : State).answerTo o.tid o.act 5 := by
  have hclaim := State.claimTask_some (s := s.givenUp e) ho
  unfold State.givenUp at hclaim ⊢
  simp only [State.e2eTimeout, h]
  rw [if_neg (Nat.not_lt.mpr hlate), if_neg (Nat.not_lt.mpr htries), hclaim]

/-- An access whose packet is given up is lost. -/
theorem State.e2eTimeout_access (htries : 8 ≤ e.tries)
    (ho : s.zen.tasksOut.find? (fun o => o.cube == c && o.seq == n) = none) :
    s.e2eTimeout c n = (s.givenUp e).lose (c, n) := by
  have hclaim := State.claimTask_none (s := s.givenUp e) ho
  unfold State.givenUp at hclaim ⊢
  simp only [State.e2eTimeout, h]
  rw [if_neg (Nat.not_lt.mpr hlate), if_neg (Nat.not_lt.mpr htries), hclaim]

end

end

/-! ## Packets that arrive (R374, R377) -/

section
variable {s s1 : State} {k l : Nat} {p : Packet} {reply : List Byte} {h : HomeAt}

/-- Reserved values are dropped and counted. -/
theorem State.packetReceive_reserved (hres : p.cls = 3 ∨ 10 < p.kind.toNat) : s.packetReceive k p = s.countDrop k :=
  if_pos (by simpa only [Bool.or_eq_true, decide_eq_true_eq] using hres)

section
variable (hcls : p.cls ≠ 3) (hkind : p.kind.toNat ≤ 10)
include hcls hkind

theorem State.packetReceive_legal : s.packetReceive k p = if p.dcube.toNat ≠ s.cubeid then
    (match s.route? p.dcube.toNat false with
     | some l => s.sendOn l p
     | none => s.countDrop k) else s.perform1 p :=
  if_neg (by simp only [Bool.or_eq_true, decide_eq_true_eq, not_or, Nat.not_lt]; exact ⟨hcls, hkind⟩)

theorem State.packetReceive_passes (haway : p.dcube.toNat ≠ s.cubeid) (hroute : s.route? p.dcube.toNat false = some l) :
    s.packetReceive k p = s.sendOn l p := by
  rw [State.packetReceive_legal hcls hkind, if_pos haway, hroute]

theorem State.packetReceive_lost (haway : p.dcube.toNat ≠ s.cubeid) (hroute : s.route? p.dcube.toNat false = none) :
    s.packetReceive k p = s.countDrop k := by
  rw [State.packetReceive_legal hcls hkind, if_pos haway, hroute]

theorem State.packetReceive_mine (hmine : p.dcube.toNat = s.cubeid) : s.packetReceive k p = s.perform1 p := by
  rw [State.packetReceive_legal hcls hkind, if_neg (not_not_intro hmine)]

end

/-- A packet that has been performed is noted with its source, and acknowledged. -/
def State.notePacket (u s : State) (p : Packet) : State :=
  let now := (p.e2e.toNat :: look s.zen.acked p.scube.toNat []).take (2 ^ 15)
  ({ u with zen := { u.zen with
    acked := put u.zen.acked p.scube.toNat now
    rxNext := put u.zen.rxNext p.scube.toNat (nextE2e now (look u.zen.rxNext p.scube.toNat 0) now.length) } } : State).ackPacket p

/-- What follows from what a request's home has made of it. -/
def State.answered (s : State) (p : Packet) : Served → State
  | .ok reply s1 => (if asksReply p then s1.respond p kResponse reply false else s1).notePacket s p
  | .poisoned reply s1 => (s1.respond p kResponse reply true).notePacket s p
  | .refused => (s.respond p kResponse [0x0D#8] false).notePacket s p
  | .moved h => (s.respond p kMoved (homeBytes h) false).notePacket s p
  | .wait => s

/-- An acknowledgement ends the wait of its packet. -/
theorem State.perform1_ack (hkind : p.kind = 10) : s.perform1 p = { s with zen := { s.zen with
    unacked := s.zen.unacked.filter (fun e => !(e.cube == p.scube.toNat && e.seq == p.e2e.toNat)) } } := if_pos hkind

section
variable (hkind : p.kind ≠ 10)
include hkind

theorem State.perform1_again (hseen : (look s.zen.acked p.scube.toNat []).contains p.e2e.toNat = true) :
    s.perform1 p = s.ackPacket p := (if_neg hkind).trans (if_pos hseen)

variable (hnew : (look s.zen.acked p.scube.toNat []).contains p.e2e.toNat = false)
include hnew

theorem State.perform1_early (hbehind : s.behind p = true) : s.perform1 p = s :=
  (if_neg hkind).trans ((if_neg (Bool.eq_false_iff.mp hnew)).trans (if_pos hbehind))

/-- A packet in its turn is performed once. -/
theorem State.perform1_serves (hbehind : s.behind p = false) : s.perform1 p = s.answered p (s.serve p) := by
  refine (if_neg hkind).trans ((if_neg (Bool.eq_false_iff.mp hnew)).trans ((if_neg (Bool.eq_false_iff.mp hbehind)).trans ?_))
  cases s.serve p <;> rfl

end

theorem State.serve_write (hkind : p.kind = 1) : s.serve p = s.serveWrite p p.pa.toNat := by
  simp only [State.serve, hkind]
  rfl

theorem asksReply_write (hkind : p.kind = 1) : asksReply p = false := by
  rw [asksReply, hkind]
  decide

end

/-! ## Flits and training (R375) -/

section
variable {s : State} {k : Nat} {f : Vec} {hi : BitVec 12} {l : Link} {ok : Bool} {seq : BitVec 12}

/-- The state with a link as given. -/
def State.withLink (s : State) (k : Nat) (r : Link) : State := { s with zen := { s.zen with links := put s.zen.links k r } }

/-- What a link that replays does at a sign that its replay has failed. -/
def Link.replayFails (l : Link) (hi : BitVec 12) : Link :=
  if 7 ≤ l.fails then { l with fails := 0, hiSeq := none, training := true }
  else { l with replc := l.replc + 1, fails := l.fails + 1, hiSeq := some hi }

theorem Link.refuseFlit_first (h : l.hiSeq = none) :
    l.refuseFlit ok seq = { l with replc := l.replc + 1, hiSeq := some (if ok = true then seq else l.rxSeq) } := by
  simp only [Link.refuseFlit, h]

theorem Link.refuseFlit_passes (h : l.hiSeq = some hi) (hahead : seqAhead hi l.rxSeq < seqAhead seq l.rxSeq) :
    l.refuseFlit true seq = { l with hiSeq := some seq } := by
  simp only [Link.refuseFlit, h, Bool.not_true, Bool.false_eq_true, if_false, gt_iff_lt, hahead, if_true]

theorem Link.refuseFlit_fails (h : l.hiSeq = some hi) (hahead : ¬ (ok = true ∧ seqAhead hi l.rxSeq < seqAhead seq l.rxSeq)) :
    l.refuseFlit ok seq = l.replayFails (if ok = true then seq else l.rxSeq) := by
  cases ok with
  | false =>
    simp only [Link.refuseFlit, h, Bool.not_false, if_true]
    rfl
  | true =>
    have hbehind : ¬ seqAhead hi l.rxSeq < seqAhead seq l.rxSeq := fun hb => hahead ⟨rfl, hb⟩
    simp only [Link.refuseFlit, h, Bool.not_true, Bool.false_eq_true, if_false, gt_iff_lt, hbehind, if_true]
    rfl

theorem State.flitReceive_deaf (h : ¬ ((look s.zen.links k {}).up = true ∧ (look s.zen.links k {}).training = false ∧
    bit (look s.zen.links k {}).lctl 0 = true)) : s.flitReceive k f = s := by
  refine if_pos (eq_true_of_ne_false fun hf => h ?_)
  simpa only [Bool.or_eq_false_iff, Bool.not_eq_false', and_assoc] using hf

section
variable (hheard : (look s.zen.links k {}).up = true ∧ (look s.zen.links k {}).training = false ∧
  bit (look s.zen.links k {}).lctl 0 = true)
include hheard

theorem State.not_deaf : ¬ (!(look s.zen.links k {}).up || (look s.zen.links k {}).training ||
    !bit (look s.zen.links k {}).lctl 0) = true := by
  obtain ⟨hup, htrain, hen⟩ := hheard
  rw [hup, htrain, hen]
  decide

theorem State.flitReceive_old (hok : flitOk f = true)
    (hold : 2 ^ 11 ≤ seqAhead (f.extractLsb' 468 12) (look s.zen.links k {}).rxSeq) : s.flitReceive k f = s :=
  (if_neg (State.not_deaf hheard)).trans ((if_neg (by rw [hok]; decide)).trans (if_pos hold))

theorem State.flitReceive_refuses (h : flitOk f = false ∨
      (seqAhead (f.extractLsb' 468 12) (look s.zen.links k {}).rxSeq < 2 ^ 11 ∧ f.extractLsb' 468 12 ≠ (look s.zen.links k {}).rxSeq)) :
    s.flitReceive k f = s.modLink k (fun l => l.refuseFlit (flitOk f) (f.extractLsb' 468 12)) := by
  refine (if_neg (State.not_deaf hheard)).trans ?_
  cases hok : flitOk f with
  | false => rfl
  | true =>
    obtain ⟨hnear, hother⟩ := h.resolve_left (by rw [hok]; decide)
    exact (if_neg (by decide)).trans ((if_neg (Nat.not_le.mpr hnear)).trans (if_pos (bne_iff_ne.mpr hother)))

/-- A link as the next flit in sequence leaves it. -/
def Link.takes (l : Link) (f : Vec) (parts : List (BitVec 448)) (asks : Prop) [Decidable asks] : Link :=
  ({ l with
    rxSeq := l.rxSeq + 1, fails := 0, hiSeq := none, txAck := f.extractLsb' 456 12
    part := if flitCount (parts.headD 0) ≤ parts.length then [] else parts
    replay := l.replay.drop (f.extractLsb' 456 12 - l.txAck).toNat
    wire := if asks then l.wire ++ l.replay else l.wire } : Link).pump l.queue.length

/-- The next flit in sequence is taken, and a packet received with its last one. -/
theorem State.flitReceive_takes (hok : flitOk f = true) (hseq : f.extractLsb' 468 12 = (look s.zen.links k {}).rxSeq) :
    let parts := (look s.zen.links k {}).part ++ [f.extractLsb' 0 448]
    let took := ({ s with free := s.free + 1 } : State).modLink k (fun l => l.takes f parts
      (f.extractLsb' 456 12 = (look s.zen.links k {}).txAck ∧ Config.evict s.free = true))
    s.flitReceive k f = if flitCount (parts.headD 0) ≤ parts.length then took.packetReceive k (packetOf (parts.flatMap flitBytes))
      else took := by
  have hnear : ¬ seqAhead (f.extractLsb' 468 12) (look s.zen.links k {}).rxSeq ≥ 2 ^ 11 := by
    rw [hseq, seqAhead, BitVec.sub_self]
    decide
  have hsame : ¬ (f.extractLsb' 468 12 != (look s.zen.links k {}).rxSeq) = true := by rw [hseq, bne_self_eq_false]; decide
  refine (if_neg (State.not_deaf hheard)).trans ((if_neg (by rw [hok]; decide)).trans ((if_neg hnear).trans ((if_neg hsame).trans ?_)))
  simp only [State.tick, Link.takes, decide_eq_true_eq, Bool.and_eq_true, beq_iff_eq, ge_iff_le]

end

theorem State.linkTrain_retrains {up : Bool} {c : BitVec 8} (hup : up = true) (hlink : (look s.zen.links k {}).up = true) :
    s.linkTrain k up c = s.modLink k (fun l => { l with
      nbr := c.toNat, fails := 0, hiSeq := none, training := false, idSent := s.cubeid, wire := l.wire ++ l.replay }) := by
  simp only [State.linkTrain, State.modLink, hup, hlink, Bool.and_self, if_true]

theorem State.linkTrain_resets {up : Bool} {c : BitVec 8} (h : ¬ (up = true ∧ (look s.zen.links k {}).up = true)) :
    s.linkTrain k up c = s.modLink k (fun l => { l with
      up := up, nbr := if up then c.toNat else 0, fails := 0, hiSeq := none, training := false
      idSent := if up then s.cubeid else l.idSent
      part := [], rxSeq := 0, txSeq := 0, txAck := 0, replay := [], queue := [] }) := by
  have hno : (up && (look s.zen.links k {}).up) = false := Bool.eq_false_iff.mpr fun hb => h (Bool.and_eq_true_iff.mp hb)
  simp only [State.linkTrain, State.modLink, hno, Bool.false_eq_true, if_false]

end

/-! ## Collectives (R378 to R380) -/

section
variable {s s1 : State} {k c w l : Nat} {v : BitVec 32} {h : HomeAt} {es : List Contrib}

/-- The group's word, as the tables of this cube have it. -/
def State.group (s : State) (k : Nat) : List Word := look s.zen.groups k []

/-- Where a window stands. -/
def windowBase (g : List Word) : Nat := (g.getD 1 0).toNat / 64 * 64

/-- The state that keeps a contribution. -/
def State.keepContrib (s : State) (k c w : Nat) (v : BitVec 32) : State :=
  { s with zen := { s.zen with
    contribs := s.zen.contribs ++ [{ group := k, cube := c, word := w, value := v }]
    epochs := if s.zen.contribs.any (fun c => c.group == k) = true then s.zen.epochs
      else put s.zen.epochs k (groupMembers (s.group k)) } }

theorem State.contribution_eq : s.contribution k c w v =
    if (!bit ((s.group k).getD 0 0).toNat 0 || decide (groupOpr (s.group k) = 4) || !groupMember (s.group k) c ||
        decide (w ≥ groupWords (s.group k))) = true then s
    else match s.home? (windowBase (s.group k) + 4 * w) with
      | none => s
      | some h =>
        if h.cube ≠ s.cubeid then
          if c ≠ s.cubeid then s
          else s.sendPacket (s.mkPacket h.cube 2 kContribution (windowBase (s.group k) + 4 * w) k (leBytes 4 w ++ leBytes 4 v.toNat))
        else (s.keepContrib k c w v).reduce k := rfl

theorem State.contributes_iff : (!bit ((s.group k).getD 0 0).toNat 0 || decide (groupOpr (s.group k) = 4) ||
      !groupMember (s.group k) c || decide (w ≥ groupWords (s.group k))) = false ↔
    bit ((s.group k).getD 0 0).toNat 0 = true ∧ groupOpr (s.group k) ≠ 4 ∧ groupMember (s.group k) c = true ∧
      w < groupWords (s.group k) := by
  simp only [Bool.or_eq_false_iff, Bool.not_eq_false', decide_eq_false_iff_not, Nat.not_le, and_assoc, ge_iff_le, ne_eq]

theorem State.contribution_refused (h : ¬ (bit ((s.group k).getD 0 0).toNat 0 = true ∧ groupOpr (s.group k) ≠ 4 ∧
    groupMember (s.group k) c = true ∧ w < groupWords (s.group k))) : s.contribution k c w v = s :=
  State.contribution_eq.trans (if_pos (eq_true_of_ne_false fun hf => h (State.contributes_iff.mp hf)))

section
variable (hmember : bit ((s.group k).getD 0 0).toNat 0 = true ∧ groupOpr (s.group k) ≠ 4 ∧ groupMember (s.group k) c = true ∧
  w < groupWords (s.group k)) (hhome : s.home? (windowBase (s.group k) + 4 * w) = some h)
include hmember hhome

/-- A contribution to a window of this cube is kept, and may complete its epoch. -/
theorem State.contribution_kept (hcube : h.cube = s.cubeid) : s.contribution k c w v = (s.keepContrib k c w v).reduce k := by
  rw [State.contribution_eq, if_neg (Bool.eq_false_iff.mp (State.contributes_iff.mpr hmember)), hhome]
  exact if_neg (not_not_intro hcube)

/-- A contribution of this cube to a window of another one goes there. -/
theorem State.contribution_sent (hcube : h.cube ≠ s.cubeid) (hown : c = s.cubeid) : s.contribution k c w v =
    s.sendPacket (s.mkPacket h.cube 2 kContribution (windowBase (s.group k) + 4 * w) k (leBytes 4 w ++ leBytes 4 v.toNat)) := by
  rw [State.contribution_eq, if_neg (Bool.eq_false_iff.mp (State.contributes_iff.mpr hmember)), hhome]
  exact (if_pos hcube).trans (if_neg (not_not_intro hown))

end

theorem State.reduce_waits (hwait : epochOf s.zen.contribs k (s.group k) (look s.zen.epochs k []) = none) : s.reduce k = s := by
  unfold State.group at hwait
  simp only [State.reduce, hwait]

/-- A complete epoch: its folds in the window, one more in the completion word, its contributions gone. -/
theorem State.reduce_completes (hready : epochOf s.zen.contribs k (s.group k) (look s.zen.epochs k []) = some es) (hsome : es ≠ [])
    (hread : ((List.range (groupWords (s.group k))).foldl (fun s1 w => s1.putWord (windowBase (s.group k) + 4 * w) 4
      (foldWord (groupOpr (s.group k)) (es.filter (fun e => e.word == w)))) s).hubRead
        (bits ((s.group k).getD 3 0).toNat 51 3 * 8) 8 = some (l, s1)) :
    let counted := s1.putWord (bits ((s.group k).getD 3 0).toNat 51 3 * 8) 8 ((l + 1) % 2 ^ 64)
    let rest := es.foldl (fun l e => l.erase e) counted.zen.contribs
    s.reduce k = { counted with zen := { counted.zen with
      contribs := rest
      epochs := if rest.any (fun c => c.group == k) = true then put counted.zen.epochs k (groupMembers (s.group k))
        else drop counted.zen.epochs k } } := by
  unfold State.group windowBase at hread
  unfold State.group at hready
  simp only [State.reduce, hready, List.isEmpty_eq_false_iff.mpr hsome, Bool.false_eq_true, if_false, hread]
  rfl

end

/-! ## PCIe and the service queue (R285, R372, R373) -/

section
variable {s s1 : State} {i j l k t act q w : Nat} {a x : Word} {b : Byte} {reply : List Byte}

theorem State.pcieLines_nil : s.pcieLines i a [] j = s := by
  cases j with
  | zero => rfl
  | succ j => exact if_pos rfl

/-- A write of one byte is one line. -/
theorem State.pcieLines_byte : s.pcieLines i a [b] 1 = (match Config.iommu i a 1 with
    | none => s
    | some page => s.pcieLine (inPage page a) [b]) := by
  have hone : Nat.min (128 - a.toNat % 128) [b].length = 1 := by
    have := Nat.mod_lt a.toNat (show 0 < 128 by decide)
    exact Nat.min_eq_right (by simp only [List.length_singleton]; omega)
  simp only [State.pcieLines, List.isEmpty_cons, Bool.false_eq_true, if_false, hone, List.take_succ_cons, List.take_zero] <;> rfl

theorem State.pcieLine_plain (h : reply.length ≠ 4) : s.pcieLine w reply = (s.hubWrite w reply.length (leNat reply)).getD s := by
  simp only [State.pcieLine, h, if_false]

/-- Four bytes that fall on an interrupt file are an MSI. -/
theorem State.pcieLine_msi (h : reply.length = 4) (hfile : Config.imsicAt w = some i) : s.pcieLine w reply =
    if leNat reply = 0 ∨ 2047 < leNat reply ∨ 8 < i % 16 then s else s.deliverMsi (i / 16 % 16) (i % 16) (leNat reply) := by
  simp only [State.pcieLine, h, if_true, hfile, Bool.or_eq_true, decide_eq_true_eq, or_assoc, gt_iff_lt]

theorem State.pcieLine_four (h : reply.length = 4) (hfile : Config.imsicAt w = none) :
    s.pcieLine w reply = (s.hubWrite w 4 (leNat reply)).getD s := by
  simp only [State.pcieLine, h, if_true, hfile]

section
variable {b1 : Bool} {page : Word} {v : Nat} {s2 : State}

/-- A read completes with its bytes. -/
theorem State.pcieRead_completes
    (h : ({ s with free := s.free + 1 } : State).pcieBytes s.free a l = (reply, b1, s1)) :
    s.pcieRead a l = { s1 with zen := { s1.zen with pcieOut := s1.zen.pcieOut ++ [(a, reply, b1)] } } := by
  simp only [State.pcieRead, State.tick, h]

variable (h : s.pcieBytes i a l = (reply, b1, s1))
include h

theorem State.pcieBytes_unmapped (hpage : Config.iommu i (a + BitVec.ofNat 64 l) 0 = none) :
    s.pcieBytes i a (l + 1) = (reply ++ [0xFF#8], b1, s1) := by
  simp only [State.pcieBytes, h, hpage]

theorem State.pcieBytes_read (hpage : Config.iommu i (a + BitVec.ofNat 64 l) 0 = some page)
    (hread : s1.hubRead (inPage page (a + BitVec.ofNat 64 l)) 1 = some (v, s2)) :
    s.pcieBytes i a (l + 1) = (reply ++ [BitVec.ofNat 8 v], b1, s2) := by
  simp only [State.pcieBytes, h, hpage, hread]

theorem State.pcieBytes_poisoned (hpage : Config.iommu i (a + BitVec.ofNat 64 l) 0 = some page)
    (hread : s1.hubRead (inPage page (a + BitVec.ofNat 64 l)) 1 = none) :
    s.pcieBytes i a (l + 1) = (reply ++ [0#8], true, s1) := by
  simp only [State.pcieBytes, h, hpage, hread]

end

theorem State.reply_unknown (h : (s.part k).outst.find? (fun o => o.1 == bits x.toNat 31 0) = none) :
    s.reply k x = s.modPart k (fun y => { y with rplErr := true }) := by
  simp only [State.reply, h]

/-- The reservations of a partition without the one that a reply names. -/
def State.claimReply (s : State) (k named : Nat) : State :=
  s.modPart k (fun y => { y with outst := y.outst.filter (fun o => o.1 != named) })

section
variable (h : (s.part k).outst.find? (fun o => o.1 == bits x.toNat 31 0) = some (bits x.toNat 31 0, t, act, q, j))
include h

/-- A reply whose sender still waits in the slot that it reserved. -/
theorem State.reply_arrives (hact : ((s.claimReply k (bits x.toNat 31 0)).ctx t).act = act)
    (hst : ((s.claimReply k (bits x.toNat 31 0)).ctx t).st ≠ .free)
    (hslot : (((s.claimReply k (bits x.toNat 31 0)).core (coreOf t)).msg q j).st = .reply t act 0) :
    s.reply k x = (((s.claimReply k (bits x.toNat 31 0)).queueMsg (coreOf t) q j
      { sender := BitVec.ofNat 32 ((s.claimReply k (bits x.toNat 31 0)).ctxName t), n := bits x.toNat 35 32 + 1,
        words := (List.range (bits x.toNat 35 32 + 1)).map (fun i => look (s.part k).rplw i 0) }).wakeArrival t (w64 (2 ^ 63))) := by
  unfold State.claimReply at *
  simp only [State.reply, h]
  refine if_pos ?_
  rw [hact, hslot, beq_self_eq_true, beq_self_eq_true, bne_iff_ne.mpr hst]
  rfl

theorem State.reply_gone (hgone : ¬ (((s.claimReply k (bits x.toNat 31 0)).ctx t).act = act ∧
    ((s.claimReply k (bits x.toNat 31 0)).ctx t).st ≠ .free ∧
    (((s.claimReply k (bits x.toNat 31 0)).core (coreOf t)).msg q j).st = .reply t act 0)) :
    s.reply k x = (s.claimReply k (bits x.toNat 31 0)).modPart k (fun y => { y with rplGone := true }) := by
  unfold State.claimReply at *
  simp only [State.reply, h]
  refine if_neg fun hb => hgone ?_
  simpa only [Bool.and_eq_true, beq_iff_eq, bne_iff_ne, and_assoc] using hb

end

end

/-- The events of the links, of the collectives and of the devices. -/
theorem linkAndDeviceEvents : LinkAndDeviceEvents := by
  intro s s1 s2 c n k w e p l j i f up v a x b h b1 b2 b3 t act q reply o hi es un others modL s' link heard seq ahead refused mark
    again good parts ack asks took waits dropped given g base aux ours epochs kept member ready folded forgets counted mine seen fresh
    now noted completes piece named found popped waiting msg
  have hrefused (hr : refused) : s.flitReceive k f = s.modLink k (fun l => l.refuseFlit (flitOk f) seq) :=
    State.flitReceive_refuses hr.1 hr.2
  have hagain (ha : again) : s.flitReceive k f = s.modLink k (fun l => l.replayFails mark) := by
    obtain ⟨hr, hhi, hnot⟩ := ha
    rw [hrefused hr]
    exact congrArg (s.withLink k)
      (Link.refuseFlit_fails hhi hnot)
  have hserves (hf : fresh) (hbehind : s.behind p = false) : s.packetReceive k p = s.answered p (s.serve p) := by
    obtain ⟨⟨hcls, hkind, hmine⟩, hnack, hnew⟩ := hf
    rw [State.packetReceive_mine hcls hkind hmine]
    exact State.perform1_serves hnack hnew hbehind
  refine ⟨fun h hlate htries => ?_, fun ⟨h, hlate, htries⟩ ho hsent => ?_, fun ⟨h, hlate, htries⟩ ho hsent => ?_,
    fun ⟨h, hlate, htries⟩ ho => ?_, fun h hearly => ?_, fun h => ?_, fun h => ?_, fun hcls hkind haway hroute => ?_,
    fun hcls hkind haway hroute => ?_, fun ⟨hcls, hkind, hmine⟩ hack => ?_, fun ⟨hcls, hkind, hmine⟩ hnack hseen => ?_,
    fun ⟨⟨hcls, hkind, hmine⟩, hnack, hnew⟩ hbehind => ?_, fun hf hbehind hwrite hserve => ?_, fun hf hbehind hserve hasks => ?_,
    fun hf hbehind hserve hasks => ?_, fun hf hbehind hserve => ?_, fun hf hbehind hserve => ?_, fun hf hbehind hserve => ?_,
    fun hf hbehind hserve => ?_, fun hr hnone => ?_, fun hr hsome hok hahead => ?_, fun ha hfew => ?_, fun ha hmany => ?_,
    fun hheard hok hold => ?_, fun hdeaf => ?_, fun ⟨hheard, hok, hseq⟩ hmore => ?_, fun ⟨hheard, hok, hseq⟩ hlast => ?_,
    fun hup hlink => ?_, fun hno => ?_, fun hm hhome hcube hready => ?_, fun hm hhome hcube hready hsome hread => ?_,
    fun hm hhome hcube hown => ?_, fun hm => ?_, ?_, rfl, fun hsome => ?_, State.pcieLines_nil, fun hwrite => ?_, fun hwrite => ?_,
    fun hlen => ?_, fun hlen => ?_, ?_, fun hread => ?_, fun hread => ?_, rfl, fun hnone => ?_, fun hf hw => ?_, fun hf hw => ?_⟩
  · exact congrArg Host.Outcome.next (State.e2eTimeout_resends h hlate htries)
  · exact congrArg Host.Outcome.next ((State.e2eTimeout_access h hlate htries ho).trans (if_pos hsent))
  · exact congrArg Host.Outcome.next
      ((State.e2eTimeout_access h hlate htries ho).trans (if_neg (Bool.eq_false_iff.mp hsent)))
  · exact congrArg Host.Outcome.next (State.e2eTimeout_sendt h hlate htries ho)
  · exact congrArg Host.Outcome.next (State.e2eTimeout_early h hearly)
  · exact congrArg Host.Outcome.next (State.e2eTimeout_unknown h)
  · exact congrArg Host.Outcome.next (State.packetReceive_reserved h)
  · exact congrArg Host.Outcome.next (State.packetReceive_passes hcls hkind haway hroute)
  · exact congrArg Host.Outcome.next (State.packetReceive_lost hcls hkind haway hroute)
  · exact congrArg Host.Outcome.next ((State.packetReceive_mine hcls hkind hmine).trans (State.perform1_ack hack))
  · exact congrArg Host.Outcome.next ((State.packetReceive_mine hcls hkind hmine).trans (State.perform1_again hnack hseen))
  · exact congrArg Host.Outcome.next ((State.packetReceive_mine hcls hkind hmine).trans (State.perform1_early hnack hnew hbehind))
  · refine congrArg Host.Outcome.next ((hserves hf hbehind).trans ?_)
    rw [State.serve_write hwrite, hserve, State.answered, asksReply_write hwrite]
    rfl
  · refine congrArg Host.Outcome.next ((hserves hf hbehind).trans ?_)
    rw [hserve, State.answered, hasks]
    rfl
  · refine congrArg Host.Outcome.next ((hserves hf hbehind).trans ?_)
    rw [hserve, State.answered, hasks]
    rfl
  · refine congrArg Host.Outcome.next ((hserves hf hbehind).trans ?_)
    rw [hserve]
    rfl
  · refine congrArg Host.Outcome.next ((hserves hf hbehind).trans ?_)
    rw [hserve]
    rfl
  · refine congrArg Host.Outcome.next ((hserves hf hbehind).trans ?_)
    rw [hserve]
    rfl
  · refine congrArg Host.Outcome.next ((hserves hf hbehind).trans ?_)
    rw [hserve]
    rfl
  · refine congrArg Host.Outcome.next ((hrefused hr).trans ?_)
    exact congrArg (s.withLink k)
      (Link.refuseFlit_first hnone)
  · refine congrArg Host.Outcome.next ((hrefused hr).trans ?_)
    rw [hok]
    exact congrArg (s.withLink k)
      (Link.refuseFlit_passes hsome hahead)
  · refine congrArg Host.Outcome.next ((hagain ha).trans ?_)
    exact congrArg (s.withLink k)
      (if_neg (Nat.not_le.mpr hfew))
  · refine congrArg Host.Outcome.next ((hagain ha).trans ?_)
    exact congrArg (s.withLink k) (if_pos hmany)
  · exact congrArg Host.Outcome.next (State.flitReceive_old hheard hok hold)
  · exact congrArg Host.Outcome.next (State.flitReceive_deaf hdeaf)
  · exact congrArg Host.Outcome.next ((State.flitReceive_takes hheard hok hseq).trans (if_neg (Nat.not_le.mpr hmore)))
  · exact congrArg Host.Outcome.next ((State.flitReceive_takes hheard hok hseq).trans (if_pos hlast))
  · exact congrArg Host.Outcome.next (State.linkTrain_retrains hup hlink)
  · exact congrArg Host.Outcome.next (State.linkTrain_resets hno)
  · exact congrArg Host.Outcome.next ((State.contribution_kept hm hhome hcube).trans (State.reduce_waits hready))
  · exact congrArg Host.Outcome.next
      ((State.contribution_kept hm hhome hcube).trans (State.reduce_completes hready hsome hread))
  · exact congrArg Host.Outcome.next (State.contribution_sent hm hhome hcube hown)
  · exact congrArg Host.Outcome.next (State.contribution_refused hm)
  · exact congrArg Host.Outcome.next State.pcieLines_byte
  · exact if_neg (fun hnil => hsome (List.isEmpty_iff.mp hnil))
  · exact (State.pcieLine_plain (reply := [b]) (show (1 : Nat) ≠ 4 by decide)).trans (congrArg (fun r => r.getD s) hwrite)
  · exact (State.pcieLine_plain (reply := [b]) (show (1 : Nat) ≠ 4 by decide)).trans (congrArg (fun r => r.getD s) hwrite)
  · exact State.pcieLine_plain hlen
  · cases hfile : Config.imsicAt w with
    | some i => exact State.pcieLine_msi hlen hfile
    | none => exact State.pcieLine_four hlen hfile
  · have hzero : s'.pcieBytes s.free a 0 = ([], false, s') := rfl
    cases hpage : Config.iommu s.free (a + BitVec.ofNat 64 0) 0 with
    | none => exact congrArg Host.Outcome.next (State.pcieRead_completes (State.pcieBytes_unmapped hzero hpage))
    | some page =>
      cases hread : s'.hubRead (inPage page (a + BitVec.ofNat 64 0)) 1 with
      | none =>
        refine congrArg Host.Outcome.next ((State.pcieRead_completes (State.pcieBytes_poisoned hzero hpage hread)).trans ?_)
        simp only [hread] <;> rfl
      | some r =>
        refine congrArg Host.Outcome.next ((State.pcieRead_completes (State.pcieBytes_read hzero hpage hread)).trans ?_)
        simp only [hread] <;> rfl
  · exact congrArg Host.Outcome.next (State.pcieRead_completes hread)
  · cases hpage : Config.iommu i (a + BitVec.ofNat 64 l) 0 with
    | none => exact State.pcieBytes_unmapped hread hpage
    | some page =>
      cases hbyte : s1.hubRead (inPage page (a + BitVec.ofNat 64 l)) 1 with
      | none => simp only [hbyte]; exact State.pcieBytes_poisoned hread hpage hbyte
      | some r => simp only [hbyte]; exact State.pcieBytes_read hread hpage hbyte
  · exact congrArg Host.Outcome.next (State.reply_unknown hnone)
  · obtain ⟨hact, hst, hslot⟩ := hw
    exact congrArg Host.Outcome.next (State.reply_arrives hf hact hst hslot)
  · exact congrArg Host.Outcome.next (State.reply_gone hf hw)

/-- Settles O48: snapshots, links and devices. -/
theorem snapshotLinkAndDeviceEvents : Obligations.Snapshot_link_and_device_events := ⟨snapshotEvents, linkAndDeviceEvents⟩

end Sys2Proof.Machine
end

section
/-! Resets, measurements, reports and register writes. -/

namespace Sys2Proof.Machine
open Sys2Proof

/-! ## Resets (R394 to R399) -/

section
variable {s s1 s2 : State} {cause p : Nat} {r : Reg} {a : BitVec 52} {x : Word} {h : HomeAt}

/-- A cube that a reset has emptied, with its home map as the reset leaves it. -/
def State.restarted (s : State) (keep : Bool) (cause : Nat) (b : Boot) (harts : Map Hart) (turn : Option Turn) : State :=
  { ((s.resetMemory keep).renumber 0).clean b harts turn with
    hmap := if s.trans.busy = true ∧ (cause = 1 ∨ cause = 2) then s.hmap else [] }

/-- A reset other than the thermal trip starts hart 0, or halts where a spare map fails. -/
theorem State.resetCube_restarts (hcause : (cause == 3) = false) : s.resetCube cause =
    if (List.range 1024).all Config.spareMapOk then
      s.restarted (cause == 1) cause { rcause := cause, rbcnt := s.boot.rbcnt } [(0, { running := true })] (some (.hart 0))
    else s.restarted (cause == 1) cause { phase := .halted, fail := 1, rcause := cause, rbcnt := s.boot.rbcnt } [] none := by
  simp only [State.resetCube, State.restarted, State.hmapKept, hcause, Bool.and_eq_true, Bool.or_eq_true, beq_iff_eq]
  split <;> rfl

theorem State.rbadv_eq (v : Nat) : s.rbadv v = if s.rbCount < v ∧ v ≤ s.boot.rbidx then
    { s with boot := { s.boot with rbcnt := v } } else s := by
  simp only [State.rbadv, Bool.and_eq_true, decide_eq_true_eq, gt_iff_lt]

/-! ## Reports (R397) -/

theorem State.startReport_refused (hno : s.boot.atbusy = true ∨ s.home? s.boot.ataddr.toNat = none) :
    s.startReport = { s with boot := { s.boot with aterr := true } } := by
  obtain hbusy | hhome := hno
  · simp only [State.startReport, hbusy, Bool.true_or, if_true]
  · simp only [State.startReport, hhome, Bool.not_false, Bool.or_true, if_true]

theorem State.startReport_starts (hbusy : s.boot.atbusy = false) (hhome : s.home? s.boot.ataddr.toNat = some h)
    (hcube : h.cube = s.cubeid) (hstack : h.stack = 0) (hspace : paSpace s.boot.ataddr.toNat < 0xE) :
    s.startReport = { s with boot := { s.boot with atbusy := true, atat := s.boot.ataddr } } := by
  simp only [State.startReport, hbusy, hhome, hcube, hstack, decide_eq_true hspace, beq_self_eq_true, Bool.and_self, Bool.not_true,
    Bool.or_self, Bool.false_eq_true, if_false]

theorem State.reportSigned_idle (h : s.boot.atbusy = false) : s.reportSigned = s := by
  simp only [State.reportSigned, h, Bool.not_false, if_true]

section
variable {nonce : List Byte} (hbusy : s.boot.atbusy = true)
include hbusy

/-- A report whose buffer cannot be read is refused. -/
theorem State.reportSigned_unread (hr : s.snapRead s.boot.atat.toNat 32 = .error p) (hq : s.boot.mextQ = []) :
    s.reportSigned = { s with boot := { s.boot with atbusy := false, mextQ := [], aterr := true } } := by
  simp only [State.reportSigned, hbusy, Bool.not_true, Bool.false_eq_true, if_false, hr, hq, List.foldl_nil]

variable (hr : s.snapRead s.boot.atat.toNat 32 = .ok (nonce, s1)) (hq : s2.boot.mextQ = [])
include hr hq

theorem State.reportSigned_writes (hw : s1.snapWrite (s.boot.atat.toNat + 32)
      (s1.reportBody ++ leBytes 7856 (Config.slhSign deviceSeed (nonce ++ s1.reportBody)).toNat) = (true, s2)) :
    s.reportSigned = { s2 with boot := { s2.boot with atbusy := false, mextQ := [] } } := by
  simp only [State.reportSigned, hbusy, Bool.not_true, Bool.false_eq_true, if_false, hr, hw, hq, List.foldl_nil]

theorem State.reportSigned_unwritten (hw : s1.snapWrite (s.boot.atat.toNat + 32)
      (s1.reportBody ++ leBytes 7856 (Config.slhSign deviceSeed (nonce ++ s1.reportBody)).toNat) = (false, s2)) :
    s.reportSigned = { s2 with boot := { s2.boot with atbusy := false, mextQ := [], aterr := true } } := by
  simp only [State.reportSigned, hbusy, Bool.not_true, Bool.false_eq_true, if_false, hr, hw, hq, List.foldl_nil]

end

/-! ## Register writes (R300, R302) -/

theorem exec_registerWrite_some (hr : s.reg? a.toNat = some r) : exec (.registerWrite a x) s = .next (s.writeReg r x) := by
  refine Eq.trans (show exec (.registerWrite a x) s = execRegisterWrite a x s from rfl) ?_
  simp only [execRegisterWrite, hr]

theorem exec_registerWrite_none (hr : s.reg? a.toNat = none) : exec (.registerWrite a x) s = .next s := by
  refine Eq.trans (show exec (.registerWrite a x) s = execRegisterWrite a x s from rfl) ?_
  simp only [execRegisterWrite, hr]

end

/-- Settles O49: resets, the boot window, attestation and register writes. -/
theorem bootAndRegisterEvents : Obligations.Boot_and_register_events := by
  intro s s1 s2 v m a x h fi p r nonce maps kept mapped starts halts signed_ buffer homed body report
  refine ⟨congrArg Host.Outcome.next (State.resetCube_restarts rfl), congrArg Host.Outcome.next (State.resetCube_restarts rfl),
    congrArg Host.Outcome.next (State.resetCube_restarts rfl), congrArg Host.Outcome.next (State.resetCube_restarts rfl), rfl,
    congrArg Host.Outcome.next (State.rbadv_eq v.toNat), fun hidle => congrArg Host.Outcome.next (if_neg (Bool.eq_false_iff.mp hidle)),
    fun hbusy => congrArg Host.Outcome.next (if_pos hbusy), fun hidle ⟨hhome, hcube, hstack, hspace⟩ =>
      congrArg Host.Outcome.next (State.startReport_starts hidle hhome hcube hstack hspace),
    fun hno => congrArg Host.Outcome.next (State.startReport_refused hno),
    fun hbusy hr hw hq => congrArg Host.Outcome.next (State.reportSigned_writes hbusy hr hq hw),
    fun hbusy hr hw hq => congrArg Host.Outcome.next (State.reportSigned_unwritten hbusy hr hq hw),
    fun hbusy hr hq => congrArg Host.Outcome.next (State.reportSigned_unread hbusy hr hq),
    fun hidle => congrArg Host.Outcome.next (State.reportSigned_idle hidle), exec_registerWrite_none, exec_registerWrite_some,
    exec_registerWrite_some, exec_registerWrite_some, exec_registerWrite_some, exec_registerWrite_some⟩

end Sys2Proof.Machine
end

section
namespace Sys2Proof.Machine
open Sys2Proof

/-! ## Memory stays in its canonical form: What a meaning keeps, and the state's parts

In the order of the model's files: `f_mem` says that f leaves memory alone, `f_wf` that it keeps its canonical form, and
`f_keepsMem` that a meaning does. Each lemma takes its definition apart by binds and branches and cites those of the
functions that the definition calls. -/

/-- The outcome of a meaning has memory in its canonical form, whether it ends well or not. -/
def Kept {ε α : Type} : EStateM.Result ε State α → Prop
  | .ok _ u => u.mem.wf = true
  | .error _ u => u.mem.wf = true

/-- A meaning that keeps memory in its canonical form. -/
def KeepsMem {ε α : Type} (m : EStateM ε State α) : Prop := ∀ s : State, s.mem.wf = true → Kept (m s)

theorem KeepsMem.bind {ε α β : Type} {m : EStateM ε State α} {f : α → EStateM ε State β} (hm : KeepsMem m)
    (hf : ∀ a, KeepsMem (f a)) :
    KeepsMem (m >>= f) := by
  intro s h
  have h1 := hm s h
  show Kept (EStateM.bind m f s)
  unfold EStateM.bind
  cases hr : m s with
  | ok a u => rw [hr] at h1; exact hf a u h1
  | error e u => rw [hr] at h1; exact h1

@[simp] theorem KeepsMem.pure {ε α : Type} (a : α) : KeepsMem (Pure.pure a : EStateM ε State α) := fun _ h => h
@[simp] theorem KeepsMem.throw {ε α : Type} (e : ε) : KeepsMem (MonadExcept.throw e : EStateM ε State α) := fun _ h => h
@[simp] theorem KeepsMem.throwThe {ε α : Type} (e : ε) :
    KeepsMem (MonadExceptOf.throw e : EStateM ε State α) := fun _ h => h
@[simp] theorem KeepsMem.act_iff {g : State → State} :
    KeepsMem (act g) ↔ ∀ s, s.mem.wf = true → (g s).mem.wf = true := Iff.rfl
@[simp] theorem raise_keepsMem {α : Type} (c : Nat) (t : Word) : KeepsMem (raise c t : M α) := KeepsMem.throw _
@[simp] theorem opFault_keepsMem {α : Type} : KeepsMem (opFault : M α) := KeepsMem.throw _
@[simp] theorem getCtx_keepsMem : KeepsMem getCtx := fun _ h => h
@[simp] theorem getCore_keepsMem : KeepsMem getCore := fun _ h => h
@[simp] theorem getField_keepsMem : KeepsMem getField := fun _ h => h
@[simp] theorem ask_keepsMem {α : Type} (g : State → α) : KeepsMem (ask g) := fun _ h => h
@[simp] theorem get_keepsMem : KeepsMem (get : M State) := fun _ h => h
@[simp] theorem modCtx_keepsMem (g : Ctx → Ctx) : KeepsMem (modCtx g) := fun _ h => h
@[simp] theorem modCore_keepsMem (g : Core → Core) : KeepsMem (modCore g) := fun _ h => h
@[simp] theorem modField_keepsMem (g : Field → Field) : KeepsMem (modField g) := fun _ h => h
@[simp] theorem freeNat_keepsMem : KeepsMem freeNat := fun _ h => h

@[simp] theorem KeepsMem.ite {ε α : Type} {p : Prop} [Decidable p] {m n : EStateM ε State α} (hm : KeepsMem m)
    (hn : KeepsMem n) :
    KeepsMem (if p then m else n) := by
  split
  · exact hm
  · exact hn

/-- What a guard that may stop the instruction is followed by. -/
theorem KeepsMem.guarded {ε α : Type} {p : Prop} [Decidable p] {m : EStateM ε State PUnit} {k : PUnit → EStateM ε State α}
    (hm : KeepsMem m) (hk : ∀ u, KeepsMem (k u)) : KeepsMem (if p then m >>= k else k ⟨⟩) :=
  KeepsMem.ite (KeepsMem.bind hm hk) (hk _)

@[simp] theorem need_keepsMem (b : Bool) (c : Nat) (t : Word) :
    KeepsMem (need b c t) := KeepsMem.ite (KeepsMem.pure ()) (raise_keepsMem c t)
@[simp] theorem needOp_keepsMem (b : Bool) : KeepsMem (needOp b) := need_keepsMem b _ _
@[simp] theorem waitFor_keepsMem (b : Bool) : KeepsMem (waitFor b) := KeepsMem.ite (KeepsMem.pure ()) (KeepsMem.throw _)

@[simp] theorem KeepsMem.mapM {ε α β : Type} {f : α → EStateM ε State β} (hf : ∀ a, KeepsMem (f a)) : ∀ l :
    List α, KeepsMem (l.mapM f)
  | [] => by rw [List.mapM_nil]; exact KeepsMem.pure _
  | a :: l => by
    rw [List.mapM_cons]
    exact KeepsMem.bind (hf a) fun b => KeepsMem.bind (KeepsMem.mapM hf l) fun bs => KeepsMem.pure _

@[simp] theorem KeepsMem.forIn {ε α σ : Type} {f : α → σ → EStateM ε State (ForInStep σ)} (hf : ∀ a b, KeepsMem (f a b)) :
    ∀ (l : List α) (b : σ), KeepsMem (forIn l b f)
  | [], b => by rw [List.forIn_nil]; exact KeepsMem.pure _
  | a :: l, b => by
    rw [List.forIn_cons]
    refine KeepsMem.bind (hf a b) fun r => ?_
    cases r with
    | done c => exact KeepsMem.pure c
    | yield c => exact KeepsMem.forIn hf l c

@[simp] theorem KeepsMem.foldlM {ε α σ : Type} {f : σ → α → EStateM ε State σ} (hf : ∀ b a, KeepsMem (f b a)) :
    ∀ (l : List α) (b : σ), KeepsMem (l.foldlM f b)
  | [], b => by rw [List.foldlM_nil]; exact KeepsMem.pure _
  | a :: l, b => by
    rw [List.foldlM_cons]
    exact KeepsMem.bind (hf b a) fun c => KeepsMem.foldlM hf l c

/-- What follows a reading of the state may use that its memory is in canonical form. -/
theorem KeepsMem.get_bind {α : Type} {f : State → M α} (hf : ∀ s : State, s.mem.wf = true → KeepsMem (f s)) :
    KeepsMem (get >>= f) := fun s h => hf s h s h

/-- The same of a reading of a part of the state. -/
theorem KeepsMem.ask_bind {α β : Type} {g : State → α} {f : α → M β}
    (hf : ∀ s : State, s.mem.wf = true → KeepsMem (f (g s))) :
    KeepsMem (ask g >>= f) := fun s h => hf s h s h

theorem set_keepsMem {s : State} (h : s.mem.wf = true) : KeepsMem (set s : M PUnit) := fun _ _ => h

@[simp] theorem foldl_mem {β : Type} {f : State → β → State} (hf : ∀ s b, (f s b).mem = s.mem) (l : List β) (s : State) :
    (l.foldl f s).mem = s.mem := by
  induction l generalizing s with
  | nil => rfl
  | cons b l ih => rw [List.foldl_cons, ih, hf]

@[simp] theorem foldl_wf {β : Type} {f : State → β → State} (hf : ∀ s b, s.mem.wf = true → (f s b).mem.wf = true)
    (l : List β) (s : State)
    (h : s.mem.wf = true) : (l.foldl f s).mem.wf = true := by
  induction l generalizing s with
  | nil => exact h
  | cons b l ih => exact ih _ (hf s b h)

@[simp] theorem ite_mem {p : Prop} [Decidable p] {s u : State} {m : Memory} (hs : s.mem = m) (hu : u.mem = m) :
    (if p then s else u).mem = m := by
  split
  · exact hs
  · exact hu

@[simp] theorem ite_wf {p : Prop} [Decidable p] {s u : State} (hs : s.mem.wf = true) (hu : u.mem.wf = true) :
    (if p then s else u).mem.wf = true := by
  split
  · exact hs
  · exact hu

@[simp] theorem KeepsMem.map {ε α β : Type} {f : α → β} {m : EStateM ε State α} (hm : KeepsMem m) :
    KeepsMem (f <$> m) := by
  rw [map_eq_pure_bind]
  exact KeepsMem.bind hm fun _ => KeepsMem.pure _

theorem foldl_fst_wf {β γ : Type} {f : State × γ → β → State × γ}
    (hf : ∀ a b, a.1.mem.wf = true → (f a b).1.mem.wf = true)
    (l : List β) (a : State × γ) (h : a.1.mem.wf = true) : (l.foldl f a).1.mem.wf = true := by
  induction l generalizing a with
  | nil => exact h
  | cons b l ih => exact ih _ (hf a b h)

theorem foldl_fst_mem {β γ : Type} {f : State × γ → β → State × γ} (hf : ∀ a b, (f a b).1.mem = a.1.mem)
    (l : List β) (a : State × γ) : (l.foldl f a).1.mem = a.1.mem := by
  induction l generalizing a with
  | nil => rfl
  | cons b l ih => exact (ih _).trans (hf a b)

/-- The state that a pair holds, where the pair is known. -/
theorem wf_of_snd {α : Type} {p : α × State} {a : α} {u : State} (h : p.2.mem.wf = true) (e : p = (a, u)) :
    u.mem.wf = true := by
  rw [e] at h; exact h

/-- The outcome of an access has memory in its canonical form. -/
def Acc.Wf {α : Type} : Acc α → Prop
  | .ok _ s => s.mem.wf = true
  | .stall s => s.mem.wf = true
  | .fault _ => True

theorem Acc.Wf.ok {α : Type} {r : Acc α} {v : α} {s : State} (h : r.Wf) (hr : r = .ok v s) : s.mem.wf = true := by
  rw [hr] at h; exact h
theorem Acc.Wf.stall {α : Type} {r : Acc α} {s : State} (h : r.Wf) (hr : r = .stall s) : s.mem.wf = true := by
  rw [hr] at h; exact h

@[simp] theorem Acc.wf_ok {α : Type} (v : α) (s : State) : (Acc.ok v s).Wf ↔ s.mem.wf = true := Iff.rfl
@[simp] theorem Acc.wf_stall {α : Type} (s : State) : (Acc.stall s : Acc α).Wf ↔ s.mem.wf = true := Iff.rfl
@[simp] theorem Acc.wf_fault {α : Type} (c : Nat) : (Acc.fault c : Acc α).Wf := trivial

@[simp] theorem State.tick_mem (s : State) : s.tick.2.mem = s.mem := rfl

@[simp] theorem State.setLaunch_mem (s : State) (l : Launch) : (s.setLaunch l).mem = s.mem := rfl

@[simp] theorem State.modLaunch_mem (s : State) (lid : Nat) (g : Launch → Launch) : (s.modLaunch lid g).mem = s.mem := rfl

@[simp] theorem State.setLineAt_wf (s : State) (loc : Nat) (l : HomeLine) (h : s.mem.wf = true) :
    (s.setLineAt loc l).mem.wf = true := by
  simp [State.setLineAt, h, Memory.wf_setVal]

@[simp] theorem State.setHeld_mem (s : State) (fi ln : Nat) (l : L2Line) : (s.setHeld fi ln l).mem = s.mem := rfl

@[simp] theorem State.unhold_mem (s : State) (fi ln : Nat) : (s.unhold fi ln).mem = s.mem := rfl

@[simp] theorem State.writeHome_wf (s : State) (ln : Nat) (l : L2Line) (h : s.mem.wf = true) :
    (s.writeHome ln l).mem.wf = true := by
  simp only [State.writeHome]
  split <;> simp [h]

@[simp] theorem State.cleanLine_wf (s : State) (fi ln : Nat) (h : s.mem.wf = true) :
    (s.cleanLine fi ln).mem.wf = true := by
  simp only [State.cleanLine]
  split <;> simp [h]

@[simp] theorem State.recallLine_wf (s : State) (fi ln : Nat) (h : s.mem.wf = true) :
    (s.recallLine fi ln).mem.wf = true := by
  simp only [State.recallLine]
  split <;> simp [h]

@[simp] theorem State.settleOwn_mem (s : State) (fi ln : Nat) : (s.settleOwn fi ln).mem = s.mem := by
  simp only [State.settleOwn]
  split <;> simp

@[simp] theorem State.dropLine_wf (s : State) (fi ln : Nat) (h : s.mem.wf = true) : (s.dropLine fi ln).mem.wf = true := by
  simp only [State.dropLine]
  repeat' split
  all_goals simp [h]

@[simp] theorem State.arriveInval_wf (s : State) (fi ln seq : Nat) (h : s.mem.wf = true) :
    (s.arriveInval fi ln seq).mem.wf = true := by
  simp only [State.arriveInval]
  split <;> simp [h]

@[simp] theorem State.invalAt_wf (s : State) (k fi ln : Nat) (h : s.mem.wf = true) :
    (s.invalAt k fi ln).mem.wf = true := by
  simp [State.invalAt, h]

@[simp] theorem State.zDrop_wf (s : State) (ln : Nat) (h : s.mem.wf = true) : (s.zDrop ln).mem.wf = true := by
  simp only [State.zDrop]
  split <;> simp [h]

@[simp] theorem State.zRecall_wf (s : State) (ln : Nat) (h : s.mem.wf = true) : (s.zRecall ln).mem.wf = true := by
  simp only [State.zRecall]
  split <;> simp [h]

@[simp] theorem State.makeRoom_wf (s : State) (fi ln : Nat) (h : s.mem.wf = true) : (s.makeRoom fi ln).mem.wf = true := by
  simp only [State.makeRoom]
  repeat' split
  all_goals simp [h]

@[simp] theorem State.install_wf (s : State) (fi ln : Nat) (st : LineSt) (h : HomeLine) (mark : Bool) (exp : Nat)
    (hs : s.mem.wf = true) :
    (s.install fi ln st h mark exp).mem.wf = true := by
  simp [State.install, hs]

@[simp] theorem State.bumpSeq_mem (s : State) (k ln : Nat) : (s.bumpSeq k ln).2.mem = s.mem := rfl

@[simp] theorem State.halve_mem (s : State) (k slot ln : Nat) : (s.halve k slot ln).mem = s.mem := by
  simp only [State.halve]
  repeat' split
  all_goals simp

@[simp] theorem State.invalEvent_wf (s : State) (k : Nat) (fs : List Nat) (zen : Bool) (ln : Nat) (h : s.mem.wf = true) :
    (s.invalEvent k fs zen ln).mem.wf = true := by
  simp only [State.invalEvent, State.bumpSeq_mem]
  split
  · exact State.zDrop_wf _ ln (foldl_wf (fun s f h => by simp [h]) _ s h)
  · exact foldl_wf (fun s f h => by simp [h]) _ s h

@[simp] theorem State.purgeRegion_wf (s : State) (k slot : Nat) (fs : List Nat) (zen : Bool) (keep : Option Nat)
    (joins : Bool)
    (h : s.mem.wf = true) : (s.purgeRegion k slot fs zen keep joins).mem.wf = true := by
  unfold State.purgeRegion
  split
  · exact h
  · exact ite_wf (foldl_wf (fun s ln h => State.invalEvent_wf s k fs zen ln h) _ s h)
      (foldl_wf (fun s ln h => State.invalEvent_wf s k fs zen ln h) _ s h)

@[simp] theorem State.purgeHalf_wf (s : State) (k c : Nat) (except : Option Nat) (keepZ : Bool) (h : s.mem.wf = true) :
    (s.purgeHalf k c except keepZ).mem.wf = true := by
  unfold State.purgeHalf
  split
  · exact State.purgeRegion_wf s k c _ _ except _ h
  · exact h

@[simp] theorem State.recallOwners_wf (s : State) (k ln : Nat) (h : s.mem.wf = true) :
    (s.recallOwners k ln).mem.wf = true := by
  refine foldl_wf (fun s c h => ?_) _ s h
  split
  · have hf := foldl_wf (fun s f h => State.recallLine_wf s f ln h)
    exact ite_wf (State.zRecall_wf _ ln (hf _ s h)) (hf _ s h)
  · exact h

@[simp] theorem State.zRecallRec_wf (s : State) (k c : Nat) (r : DirRec) (h : s.mem.wf = true) :
    (s.zRecallRec k c r).mem.wf = true := by
  simp +contextual [State.zRecallRec, h]

@[simp] theorem State.zInvalRec_wf (s : State) (k c : Nat) (r : DirRec) (h : s.mem.wf = true) :
    (s.zInvalRec k c r).mem.wf = true := by
  simp +contextual [State.zInvalRec, h]

@[simp] theorem State.spareOwners_wf (s : State) (k : Nat) (slots : List Nat) (h : s.mem.wf = true) :
    (s.spareOwners k slots).mem.wf = true := by
  refine foldl_wf (fun s f h => foldl_wf (fun s c h => ?_) slots s h) _ s h
  split
  · exact ite_wf (foldl_wf (fun s ln h => State.recallLine_wf s f ln h) _ s h) h
  · exact h

@[simp] theorem State.recallForFill_wf (s : State) (k ln : Nat) (except : Option Nat) (keepZ : Bool)
    (h : s.mem.wf = true) :
    (s.recallForFill k ln except keepZ).mem.wf = true := by
  refine foldl_wf (fun s c h => State.purgeHalf_wf s k c except keepZ h) _ _ (foldl_wf (fun s c h => ?_) _ _ ?_)
  · split
    · have hf := foldl_wf (fun s f h => State.recallLine_wf s f ln h)
      exact ite_wf (State.zRecallRec_wf _ k c _ (hf _ s h)) (hf _ s h)
    · exact h
  · exact foldl_wf (fun s c h => by simp [h]) _ s h

@[simp] theorem State.invalidateOthers_wf (s : State) (k ln : Nat) (except : Option Nat) (keepZ : Bool)
    (h : s.mem.wf = true) :
    (s.invalidateOthers k ln except keepZ).mem.wf = true := by
  refine foldl_wf (fun s c h => State.purgeHalf_wf s k c except keepZ h) _ _ (foldl_wf (fun s c h => ?_) _ _ ?_)
  · split
    · have hf := foldl_wf (fun s f h => State.invalAt_wf s k f ln h)
      exact ite_wf (ite_wf (State.zDrop_wf _ ln (hf _ s h)) (State.zInvalRec_wf _ k c _ (hf _ s h))) (hf _ s h)
    · exact h
  · exact foldl_wf (fun s c h => by simp [h]) _ s h

@[simp] theorem State.ensureCovered_wf (s : State) (k ln part : Nat) (h : s.mem.wf = true) :
    (s.ensureCovered k ln part).2.mem.wf = true := by
  unfold State.ensureCovered
  repeat' split
  all_goals simp [h]

@[simp] theorem State.modCovering_mem (s : State) (k ln : Nat) (g : DirRec → DirRec) :
    (s.modCovering k ln g).mem = s.mem := rfl

@[simp] theorem State.readFill_wf (s : State) (k loc fi ln : Nat) (h : s.mem.wf = true) :
    (s.readFill k loc fi ln).mem.wf = true := by
  have hc := State.ensureCovered_wf _ k ln (s.field fi).fpart (State.recallForFill_wf s k ln (some fi) false h)
  simp only [State.readFill]
  split <;> simp [hc]

@[simp] theorem State.retireOwner_wf (s : State) (k c fi : Nat) (h : s.mem.wf = true) :
    (s.retireOwner k c fi).mem.wf = true := by
  simp only [State.retireOwner]
  repeat' split
  all_goals simp +contextual [h]

@[simp] theorem State.ownLine_wf (s : State) (k loc fi ln : Nat) (h : s.mem.wf = true) :
    (s.ownLine k loc fi ln).2.mem.wf = true := by
  have hc := State.ensureCovered_wf _ k ln (s.field fi).fpart (State.invalidateOthers_wf s k ln (some fi) false h)
  have hf := foldl_wf (fun s c h => State.retireOwner_wf s k c fi h)
  simp only [State.ownLine]
  repeat' split
  all_goals simp [hc, hf]

@[simp] theorem State.streamFill_wf (s : State) (loc fi ln : Nat) (h : s.mem.wf = true) :
    (s.streamFill loc fi ln).mem.wf = true :=
  State.install_wf s fi ln .l (s.lineAt loc) false _ h

@[simp] theorem State.dropLeases_mem (s : State) (fi : Nat) (p : Nat → Bool) : (s.dropLeases fi p).mem = s.mem := rfl

@[simp] theorem State.acquire_mem (s : State) (t scope : Nat) (p : Nat → Bool) : (s.acquire t scope p).mem = s.mem := by
  simp only [State.acquire]
  refine foldl_mem (fun s e => ?_) _ _
  all_goals simp

@[simp] theorem State.reach_mem (s : State) (ln : Nat) : (s.reach ln).mem = s.mem := by
  simp [State.reach]

theorem State.readDirect_wf (s : State) (pa n : Nat) (h : s.mem.wf = true) : (s.readDirect pa n).Wf := by
  simp only [State.readDirect]
  repeat' split
  all_goals simp [h]

theorem State.storeHome_wf (s : State) (loc n v : Nat) (h : s.mem.wf = true) : (s.storeHome loc n v).Wf := by
  simp only [State.storeHome]
  split <;> simp [h]

@[simp] theorem State.clearCopies_wf (s : State) (h : HomeAt) (ln : Nat) (hs : s.mem.wf = true) :
    (s.clearCopies h ln).mem.wf = true := by
  simp [State.clearCopies, hs]

theorem State.writeDirect_wf (s : State) (pa n v : Nat) (h : s.mem.wf = true) : (s.writeDirect pa n v).Wf := by
  unfold State.writeDirect
  repeat' split
  · exact Acc.wf_fault _
  · exact Acc.wf_fault _
  · exact State.storeHome_wf _ _ _ _ (by simp [h])

theorem State.writeDirectBytes_wf (bs : List Byte) :
    ∀ (s : State) (pa : Nat), s.mem.wf = true → (s.writeDirectBytes pa bs).Wf := by
  induction bs with
  | nil => exact fun s pa h => h
  | cons b t ih =>
    intro s pa h
    have hw := State.writeDirect_wf s pa 1 b.toNat h
    unfold State.writeDirectBytes
    split
    · exact ih _ _ (hw.ok ‹_›)
    · exact hw.stall ‹_›
    · exact Acc.wf_fault _

theorem State.readGroup_wf (n : Nat) : ∀ (s : State) (pa : Nat), s.mem.wf = true → (s.readGroup pa n).Wf := by
  induction n with
  | zero => exact fun s pa h => h
  | succ n ih =>
    intro s pa h
    have hr := State.readDirect_wf s pa 8 h
    unfold State.readGroup
    split
    · have hg := ih _ (pa + 8) (hr.ok ‹_›)
      split
      · exact hg.ok ‹_›
      · exact hg.stall ‹_›
      · exact Acc.wf_fault _
    · exact hr.stall ‹_›
    · exact Acc.wf_fault _

theorem State.walkFrom_wf (asid va : Nat) (l : Nat) : ∀ (s : State) (t : Nat), s.mem.wf = true →
    (s.walkFrom asid va t l).2.mem.wf = true := by
  induction l with
  | zero => exact fun s t h => h
  | succ l ih =>
    intro s t h
    simp only [State.walkFrom]
    split
    · exact h
    split
    next e s1 hr =>
      have h1 := (State.readDirect_wf s _ 8 h).ok hr
      have hg := State.readGroup_wf 16 s1
      repeat' split
      all_goals simp only [h1, ih]
      all_goals exact (hg _ h1).ok ‹_›
    next => exact h

@[simp] theorem State.walk_wf (s : State) (asid va : Nat) (h : s.mem.wf = true) : (s.walk asid va).2.mem.wf = true := by
  unfold State.walk
  split
  · exact h
  split
  next e s1 hr =>
    have h1 := (State.readDirect_wf s _ 8 h).ok hr
    split
    · exact State.walkFrom_wf asid va 5 s1 _ h1
    · exact h1
  next => exact h

@[simp] theorem State.underView_mem (s : State) (v : HomeView) : (s.underView v).mem = s.mem := rfl

@[simp] theorem State.askWalk_mem (s : State) (t asid va : Nat) : (s.askWalk t asid va).mem = s.mem := rfl

@[simp] theorem State.forgetFaults_mem (s : State) (t : Nat) : (s.forgetFaults t).mem = s.mem := rfl

@[simp] theorem State.takeWalkFault_mem (s : State) (t asid va : Nat) : (s.takeWalkFault t asid va).mem = s.mem := rfl

@[simp] theorem State.keepLeaf_mem (s : State) (t : Nat) (e : TlbEnt) : (s.keepLeaf t e).mem = s.mem := by
  unfold State.keepLeaf
  split <;> rfl

@[simp] theorem State.forgetLeaves_mem (s : State) (core : Nat) : (s.forgetLeaves core).mem = s.mem := rfl

@[simp] theorem translate_keepsMem (va : Word) (nd : Need) : KeepsMem (translate va nd) := by
  intro s h
  unfold translate
  split
  · show (s.keepLeaf s.cur _).mem.wf = true
    simp [h]
  · exact h

@[simp] theorem State.hubTranslate_wf (s : State) (asid va : Nat) (nd : Need) (h : s.mem.wf = true) :
    (s.hubTranslate asid va nd).2.mem.wf = true := by
  have hw := State.walk_wf s asid va h
  unfold State.hubTranslate
  split
  · exact h
  split
  next e s1 hr =>
    rw [hr] at hw
    split <;> exact hw
  next s1 hr => rwa [hr] at hw

@[simp] theorem State.dirtyFrame_mem (s : State) (core off : Nat) : (s.dirtyFrame core off).mem = s.mem := rfl

@[simp] theorem State.afterAperture_mem (s : State) (pa n : Nat) : (s.afterAperture pa n).mem = s.mem := by
  simp [State.afterAperture]

theorem accOf_wf {α : Type} (r : Except Nat α) (s : State) (h : s.mem.wf = true) : (accOf r s).Wf := by
  unfold accOf
  split
  · exact h
  · exact Acc.wf_fault _

theorem State.load_wf (s : State) (t cls pa n : Nat) (h : s.mem.wf = true) : (s.load t cls pa n).Wf := by
  simp only [State.load]
  repeat' split
  any_goals with_reducible apply accOf_wf
  any_goals with_reducible apply State.streamFill_wf
  all_goals simp [h]

@[simp] theorem State.contribute_mem (s : State) (g pa base n mask v : Nat) :
    (s.contribute g pa base n mask v).mem = s.mem := by
  simp [State.contribute]

theorem State.storeDirect_wf (s : State) (a : HomeAt) (pa n mask v : Nat) (h : s.mem.wf = true) :
    (s.storeDirect a pa n mask v).Wf := by
  simp only [State.storeDirect]
  split <;> simp [h]

/-- A masked store leaves the bytes of the aperture and of scratch in canonical form. -/
theorem foldl_set_wf (l : List Nat) (mask v pa : Nat) (s : State) (h : s.mem.wf = true) :
    (l.foldl (fun s i => if bit mask i then { s with mem := s.mem.set (pa + i) (BitVec.ofNat 8 (v / 256 ^ i)) } else s) s).mem.wf = true :=
  foldl_wf (fun s i h => by simp [h, Memory.wf_set]) l s h

theorem State.storeNow_wf (s : State) (t cls pa n mask v : Nat) (h : s.mem.wf = true) :
    (s.storeNow t cls pa n mask v).Wf := by
  have hd := fun u a (hu : u.mem.wf = true) => State.storeDirect_wf u a pa n mask v hu
  simp only [State.storeNow]
  repeat' split
  any_goals simp [h, hd, foldl_set_wf]
  any_goals refine (hd _ _ ?_).ok ‹_›
  all_goals split
  all_goals simp [h]

theorem State.store_wf (s : State) (t cls pa n mask v : Nat) (h : s.mem.wf = true) : (s.store t cls pa n mask v).Wf := by
  unfold State.store
  split
  · exact h
  · exact State.storeNow_wf s t cls pa n mask v h

theorem State.rmw_wf (s : State) (t pa n : Nat) (g : Nat → Option Nat) (h : s.mem.wf = true) : (s.rmw t pa n g).Wf := by
  simp only [State.rmw]
  repeat' split
  all_goals simp [h, Memory.wf_setVal]

@[simp] theorem State.sendOn_mem (s : State) (link : Nat) (p : Packet) : (s.sendOn link p).mem = s.mem := rfl

@[simp] theorem State.forward_mem (s : State) (p : Packet) (again : Bool) : (s.forward p again).mem = s.mem := by
  unfold State.forward
  split <;> rfl

@[simp] theorem State.sendPacket_mem (s : State) (p : Packet) : (s.sendPacket p).mem = s.mem := by
  simp [State.sendPacket]

@[simp] theorem State.settled_mem (s : State) (l : List (Nat × Nat)) : (s.settled l).mem = s.mem := by
  simp [State.settled]

@[simp] theorem State.sendNamed_mem (s : State) (p : Packet) : (s.sendNamed p).2.mem = s.mem := State.sendPacket_mem s p

@[simp] theorem State.sendAll_mem (ps : List Packet) : ∀ s : State, (s.sendAll ps).2.mem = s.mem := by
  induction ps with
  | nil => exact fun s => rfl
  | cons p ps ih => exact fun s => (ih (s.sendNamed p).2).trans (State.sendNamed_mem s p)

@[simp] theorem State.passFar_mem (s : State) (kind pa : Nat) (payload : List Byte) :
    (s.passFar kind pa payload).mem = s.mem := by
  simp only [State.passFar]
  split
  · rfl
  · rw [State.settled_mem, State.sendNamed_mem]

@[simp] theorem State.postRest_mem (t : Nat) (qs : List ToPost) : ∀ s : State, (s.postRest t qs).mem = s.mem := by
  induction qs with
  | nil => exact fun s => rfl
  | cons q qs ih =>
    intro s
    simp only [State.postRest]
    split
    · rfl
    · rw [ih, State.modCore_mem, State.sendAll_mem]

@[simp] theorem postStores_keepsMem (qs : List ToPost) : KeepsMem (postStores qs) := by
  unfold postStores
  split
  · exact KeepsMem.pure ()
  · refine KeepsMem.bind getCore_keepsMem fun c => KeepsMem.bind (waitFor_keepsMem _) fun _ => ?_
    exact KeepsMem.act_iff.mpr fun s h => by rwa [State.postRest_mem]

@[simp] theorem State.raiseFlags_mem (s : State) (t : Nat) (fl : Flags) : (s.raiseFlags t fl).mem = s.mem := by
  unfold State.raiseFlags
  split <;> rfl

@[simp] theorem raiseFlags_keepsMem (fl : Flags) : KeepsMem (raiseFlags fl) := fun s h => by
  show (s.raiseFlags s.cur fl).mem.wf = true
  simp [h]

@[simp] theorem portRead_keepsMem (p : Nat) : KeepsMem (portRead p) := by
  simp only [portRead]
  repeat' with_reducible refine KeepsMem.bind ?_ fun _ => ?_
  repeat' split
  all_goals simp

@[simp] theorem portWrite_keepsMem (p : Nat) (v : Vec) : KeepsMem (portWrite p v) := by
  simp only [portWrite]
  repeat' with_reducible refine KeepsMem.bind ?_ fun _ => ?_
  repeat' split
  repeat' with_reducible refine KeepsMem.bind ?_ fun _ => ?_
  all_goals simp

@[simp] theorem localLoc_keepsMem (a : Word) (n : Nat) (store : Bool) : KeepsMem (localLoc a n store) := by
  unfold localLoc
  refine KeepsMem.bind (fun _ h => h) fun s => ?_
  simp only
  split
  · exact raise_keepsMem _ a
  split
  · exact KeepsMem.throw _
  · exact KeepsMem.bind (waitFor_keepsMem _) fun _ => KeepsMem.bind (waitFor_keepsMem _) fun _ => by simp

@[simp] theorem localRead_keepsMem (a : Word) (n : Nat) : KeepsMem (localRead a n) := by
  simp only [localRead]
  repeat' with_reducible refine KeepsMem.bind ?_ fun _ => ?_
  all_goals simp

@[simp] theorem State.writeVault_wf (s : State) (core off n v : Nat) (h : s.mem.wf = true) :
    (s.writeVault core off n v).mem.wf = true := by
  simp [State.writeVault, h, Memory.wf_setVal]

@[simp] theorem localWrite_keepsMem (a : Word) (n v : Nat) : KeepsMem (localWrite a n v) :=
  KeepsMem.bind (localLoc_keepsMem a n true) fun l => by simp +contextual

@[simp] theorem bump_keepsMem (codes : List (BitVec 8)) : KeepsMem (bump codes) := by
  simp [bump]

@[simp] theorem rd_keepsMem (x : Ctx) (t : Nat) (imm : BitVec 32) (c : BitVec 8) : KeepsMem (rd x t imm c) := by
  unfold rd
  simp only
  repeat' with_reducible refine KeepsMem.ite ?_ ?_
  repeat' with_reducible refine KeepsMem.bind ?_ fun _ => ?_
  all_goals simp

@[simp] theorem rd64_keepsMem (x : Ctx) (imm : BitVec 32) (c : BitVec 8) : KeepsMem (rd64 x imm c) := by
  simp [rd64]

@[simp] theorem wr_keepsMem (x : Ctx) (t : Nat) (imm : BitVec 32) (c : BitVec 8) (v : Nat) : KeepsMem (wr x t imm c v) :=
  KeepsMem.ite (localWrite_keepsMem _ _ _) (KeepsMem.ite (portWrite_keepsMem _ _) (modCtx_keepsMem _))

@[simp] theorem wr64_keepsMem (x : Ctx) (imm : BitVec 32) (c : BitVec 8) (v : Word) : KeepsMem (wr64 x imm c v) :=
  wr_keepsMem x 7 imm c v.toNat

theorem State.readWords_wf (n : Nat) : ∀ (s : State) (pa : Nat), s.mem.wf = true → (s.readWords pa n).Wf := by
  induction n with
  | zero => exact fun s pa h => h
  | succ n ih =>
    intro s pa h
    have hr := State.readDirect_wf s pa 8 h
    unfold State.readWords
    split
    · have hg := ih _ (pa + 8) (hr.ok ‹_›)
      split
      · exact hg.ok ‹_›
      · exact hg.stall ‹_›
      · exact Acc.wf_fault _
    · exact hr.stall ‹_›
    · exact Acc.wf_fault _

@[simp] theorem State.countDrop_mem (s : State) (link : Nat) : (s.countDrop link).mem = s.mem := rfl

@[simp] theorem State.deliverMsi_mem (s : State) (h file id : Nat) : (s.deliverMsi h file id).mem = s.mem := rfl

@[simp] theorem State.raiseIid_mem (s : State) (iid : Nat) : (s.raiseIid iid).mem = s.mem := by
  simp only [State.raiseIid]
  repeat' split
  all_goals simp

@[simp] theorem State.meridianIrq_mem (s : State) : s.meridianIrq.mem = s.mem := by
  simp [State.meridianIrq]

/-- The grants are handed to the fields of each launch. -/
theorem foldl_aim_mem {c : Prop} [Decidable c] (g k : State → Nat → Field → Field) (l : List Nat) (s : State) :
    (l.foldl (fun s fi => if c then s.modField fi (g s fi) else s.modField fi (k s fi)) s).mem = s.mem :=
  foldl_mem (fun s fi => ite_mem (State.modField_mem s fi _) (State.modField_mem s fi _)) l s

@[simp] theorem State.grantRun_mem (s : State) (direct : Option Nat) : (s.grantRun direct).mem = s.mem := by
  have hf : ∀ (f : State → Grant → State) (l : List Grant) (u : State), (∀ s g, (f s g).mem = s.mem) →
      u.mem = s.mem → (l.foldl f u).mem = s.mem := fun f l u hf hu => (foldl_mem hf l u).trans hu
  simp only [State.grantRun]
  split
  · rw [State.meridianIrq_mem]
    refine hf _ _ _ (fun u g => ?_) rfl
    split
    · rfl
    · exact foldl_aim_mem _ _ _ u
  · refine hf _ _ _ (fun u g => ?_) rfl
    split
    · rfl
    · exact foldl_aim_mem _ _ _ u

@[simp] theorem State.askRun_mem (s : State) : s.askRun.mem = s.mem := rfl

@[simp] theorem State.postEvent_mem (s : State) (t : Nat) (r : Word) : (s.postEvent t r).mem = s.mem := rfl

@[simp] theorem State.switchField_mem (s : State) (fi : Nat) : (s.switchField fi).mem = s.mem := by
  simp only [State.switchField]
  split
  · rfl
  split
  · rfl
  · exact foldl_mem (fun s (e : Nat × Ctx) => State.postEvent_mem s e.1 _) _ _

@[simp] theorem State.startRaised_mem (s : State) : s.startRaised.mem = s.mem := by
  simp [State.startRaised]

@[simp] theorem State.setTemp_mem (s : State) (temp : Nat) : (s.setTemp temp).mem = s.mem := by
  simp [State.setTemp]

@[simp] theorem State.goCold_mem (s : State) : s.goCold.mem = s.mem := by
  have hf := foldl_mem (fun s fi => State.modField_mem s fi fun f => f.aim {})
  simp only [State.goCold]
  split
  · exact hf _ _
  · exact (State.meridianIrq_mem _).trans (hf _ _)

end Sys2Proof.Machine
end

section
namespace Sys2Proof.Machine
open Sys2Proof

/-! ## Memory stays in its canonical form: Tenures, schedulers, and the instructions on registers -/

@[simp] theorem State.splitFor_mem (s : State) (k slot : Nat) (q : DirRec) : (s.splitFor k slot q).mem = s.mem := by
  simp only [State.splitFor]
  repeat' split
  all_goals simp

@[simp] theorem State.splitAll_mem (s : State) (k slot : Nat) (write : Bool) : (s.splitAll k slot write).mem = s.mem := by
  unfold State.splitAll
  split
  · rfl
  · refine foldl_mem (fun s j => ?_) _ s
    split <;> simp

@[simp] theorem State.modRecord_mem (s : State) (k slot : Nat) (g : DirRec → DirRec) :
    (s.modRecord k slot g).mem = s.mem := rfl

/-- Two folds, one in the other, keep memory canonical where the inner step does. -/
theorem foldl_foldl_wf {β γ : Type} {f : State → β → γ → State} (hf : ∀ s b c, s.mem.wf = true → (f s b c).mem.wf = true)
    (g : State → β → List γ) (l : List β) (s : State) (h : s.mem.wf = true) :
    (l.foldl (fun s b => (g s b).foldl (fun s c => f s b c) s) s).mem.wf = true :=
  foldl_wf (fun s b h => foldl_wf (fun s c h => hf s b c h) (g s b) s h) l s h

@[simp] theorem State.recallRec_wf (s : State) (k slot : Nat) (h : s.mem.wf = true) :
    (s.recallRec k slot).mem.wf = true := by
  simp only [State.recallRec]
  split
  · exact h
  next r _ =>
    have h1 := foldl_foldl_wf (fun s f (e : Nat × L2Line) h => State.recallLine_wf s f e.1 h)
      (fun s f => (s.field f).l2.filter fun e => recCovers (s.stack k) r e.1) r.owners s h
    rw [State.modStack_mem]
    exact ite_wf (foldl_wf (fun s (e : Nat × L2Line) h => State.zRecall_wf s e.1 h) _ _ h1) h1

@[simp] theorem State.invalRec_wf (s : State) (k slot keep : Nat) (h : s.mem.wf = true) :
    (s.invalRec k slot keep).mem.wf = true := by
  unfold State.invalRec
  split
  · exact h
  next r _ =>
    extract_lets s1 s2 r'
    have h1 : s1.mem.wf = true := foldl_foldl_wf (fun s f ln h => State.invalAt_wf s k f ln h) _ _ s h
    have h2 : s2.mem.wf = true := ite_wf (foldl_wf (fun s (e : Nat × L2Line) h => State.zDrop_wf s e.1 h) _ _ h1) h1
    exact ite_wf h2 h2

@[simp] theorem State.halveFor_mem (s : State) (k slot fi : Nat) : (s.halveFor k slot fi).mem = s.mem := by
  unfold State.halveFor
  split
  · rfl
  · refine foldl_mem (fun s j => ?_) _ s
    split <;> simp

@[simp] theorem State.markLines_mem (s : State) (k slot fi : Nat) (b : Bool) :
    (s.markLines k slot fi b).mem = s.mem := rfl

@[simp] theorem State.raiseSeqs_mem (s : State) (k : Nat) (slots : List Nat) : (s.raiseSeqs k slots).mem = s.mem := rfl

@[simp] theorem State.grantTenure_wf (s : State) (t k slot : Nat) (handle : Word) (write : Bool) (scope : Nat)
    (h : s.mem.wf = true) :
    (s.grantTenure t k slot handle write scope).mem.wf = true := by
  have hi := foldl_wf (fun s j h => State.invalRec_wf s k j (fieldOf t) h)
  have hr := foldl_wf (fun s j h => State.recallRec_wf s k j h)
  cases write <;> simp [State.grantTenure, hi, hr, h, -List.foldl_append]

@[simp] theorem State.releaseTenure_wf (s : State) (t : Nat) (x : Tenure) (scope : Nat) (h : s.mem.wf = true) :
    (s.releaseTenure t x scope).mem.wf = true := by
  simp only [State.releaseTenure]
  repeat' split
  all_goals simp +contextual [h]

@[simp] theorem State.makeReady_mem (s : State) (t : Nat) : (s.makeReady t).mem = s.mem := rfl

@[simp] theorem State.answerTacq_mem (s : State) (t : Nat) (handle : Word) (flt : Option Exc) :
    (s.answerTacq t handle flt).mem = s.mem := by
  simp only [State.answerTacq]
  split <;> simp

@[simp] theorem State.grantWaiter_wf (s : State) (k : Nat) (w : Waiter) (h : s.mem.wf = true) :
    (s.grantWaiter k w).mem.wf = true := by
  simp only [State.grantWaiter]
  split
  · simp [h]
  · rw [State.answerTacq_mem]
    exact State.grantTenure_wf _ _ _ _ _ _ _ h

@[simp] theorem State.serveWaiters_wf (s : State) (k : Nat) (h : s.mem.wf = true) : (s.serveWaiters k).mem.wf = true := by
  simp only [State.serveWaiters]
  split
  · exact h
  · have hg := fun w => State.grantWaiter_wf s k w h
    split
    · exact hg _
    · exact foldl_wf (fun s v h => by simp [h]) _ _ (hg _)

@[simp] theorem State.dropWaiters_mem (s : State) (t : Nat) : (s.dropWaiters t).mem = s.mem := rfl

@[simp] theorem State.passLine_wf (s : State) (k : Nat) (r : DirRec) (ln : Nat) (h : s.mem.wf = true) :
    (s.passLine k r ln).mem.wf = true := by
  have hr := foldl_wf (fun s f h => State.recallLine_wf s f ln h)
  have hi := foldl_wf (fun s f h => State.invalAt_wf s k f ln h)
  have hc := State.ensureCovered_wf s k ln r.part h
  simp only [State.passLine]
  repeat' split
  all_goals simp [hr, hi, hc]

@[simp] theorem State.endRecord_wf (s : State) (k slot : Nat) (h : s.mem.wf = true) :
    (s.endRecord k slot).mem.wf = true := by
  have hr := fun t => foldl_wf (fun s (x : Tenure) h => State.releaseTenure_wf s t x x.scope h)
  unfold State.endRecord
  refine foldl_wf (fun s w h => by simpa using h) _ _ (foldl_wf (fun s x h => State.passLine_wf s k x.1 x.2 h) _ _ ?_)
  exact foldl_wf (fun s (e : Nat × Ctx) h => hr e.1 _ s h) _ s h

@[simp] theorem State.beginEnd_wf (s : State) (k slot : Nat) (h : s.mem.wf = true) : (s.beginEnd k slot).mem.wf = true :=
  ite_wf (State.endRecord_wf s k slot h) h

@[simp] theorem State.finishEnds_wf (s : State) (k : Nat) (h : s.mem.wf = true) : (s.finishEnds k).mem.wf = true :=
  foldl_wf (fun s e h => ite_wf (State.endRecord_wf s k e.1 h) h) _ s h

@[simp] theorem State.rejoinPieces_wf (s : State) (k slot : Nat) (h : s.mem.wf = true) :
    (s.rejoinPieces k slot).mem.wf = true := by
  simp only [State.rejoinPieces]
  split <;> simp [h]

@[simp] theorem State.mergeRegion_wf (s : State) (k slot : Nat) (h : s.mem.wf = true) :
    (s.mergeRegion k slot).mem.wf = true := by
  simp only [State.mergeRegion]
  repeat' split
  all_goals simp [h]

@[simp] theorem State.enterSlot_mem (s : State) (t : Nat) : (s.enterSlot t).mem = s.mem := rfl

@[simp] theorem State.toReady_mem (s : State) (t : Nat) : (s.toReady t).mem = s.mem := rfl

@[simp] theorem State.fillSlot_mem (s : State) (core : Nat) : (s.fillSlot core).mem = s.mem := by
  simp only [State.fillSlot]
  split <;> simp

@[simp] theorem State.startQuiesce_mem (s : State) (core : Nat) : (s.startQuiesce core).mem = s.mem := by
  simp only [State.startQuiesce]
  split <;> simp

@[simp] theorem State.leaveQueues_mem (s : State) (t : Nat) : (s.leaveQueues t).mem = s.mem := rfl

@[simp] theorem State.endQuiesce_mem (s : State) (t : Nat) : (s.endQuiesce t).mem = s.mem := rfl

@[simp] theorem State.freeMsg_mem (s : State) (core q k : Nat) : (s.freeMsg core q k).mem = s.mem := by
  simp only [State.freeMsg]
  split <;> simp

@[simp] theorem State.queueMsg_mem (s : State) (core q k : Nat) (m : MsgSlot) : (s.queueMsg core q k m).mem = s.mem := by
  simp [State.queueMsg]

@[simp] theorem State.activate_mem (s : State) (t : Nat) (k : Task) : (s.activate t k).mem = s.mem := by
  simp only [State.activate]
  split <;> simp

@[simp] theorem State.activateHandler_mem (s : State) (t q : Nat) (k : Task) : (s.activateHandler t q k).mem = s.mem := by
  simp only [State.activateHandler]
  split <;> simp

@[simp] theorem State.startHandler_mem (s : State) (core q : Nat) : (s.startHandler core q).mem = s.mem := by
  simp only [State.startHandler]
  split <;> simp

theorem State.hubWrite_wf (s : State) (pa n v : Nat) {u : State} (h : s.mem.wf = true) (hu : s.hubWrite pa n v = some u) :
    u.mem.wf = true := by
  have hw := State.writeDirect_wf s pa n v h
  unfold State.hubWrite at hu
  repeat' split at hu
  · cases hu
  · cases hu
  · cases hu
    exact hw.ok ‹_›
  · cases hu

theorem State.imageFrom_wf (t base k : Nat) : ∀ (s : State) (n : Nat) {u : State}, s.mem.wf = true →
    s.imageFrom t base n k = some u → u.mem.wf = true := by
  induction k with
  | zero =>
    rintro s n u h ⟨⟩
    exact h
  | succ k ih =>
    intro s n u h hu
    unfold State.imageFrom at hu
    split at hu
    · exact ih _ _ (State.hubWrite_wf s _ _ _ h ‹_›) hu
    · cases hu

theorem State.writeImage_wf (s : State) (t : Nat) {u : State} (h : s.mem.wf = true) (hu : s.writeImage t = some u) :
    u.mem.wf = true :=
  State.imageFrom_wf t _ _ s 0 h hu

@[simp] theorem State.giveUp_wf (s : State) (t : Nat) (hs : List Nat) (h : s.mem.wf = true) :
    (s.giveUp t hs).mem.wf = true := by
  refine foldl_wf (fun s n h => ?_) hs s h
  extract_lets w x s1
  have h1 : s1.mem.wf = true := by
    simp only [s1]
    split <;> simp [h]
  refine ite_wf ?_ h1
  split <;> simp [h1]

@[simp] theorem State.dropFetches_mem (s : State) (t : Nat) : (s.dropFetches t).mem = s.mem := rfl

@[simp] theorem State.endActivation_wf (s : State) (t : Nat) (h : s.mem.wf = true) :
    (s.endActivation t).mem.wf = true := by
  unfold State.endActivation
  extract_lets x core fi s1 s2 s3 s4 s5 s6
  have h1 : s1.mem.wf = true := by simp [s1, h]
  have h2 : s2.mem.wf = true := by
    simp only [s2]
    split <;> simp [h1]
  have h5 : s5.mem.wf = true := by
    simp only [s5]
    split <;> exact h2
  have h6 : s6.mem.wf = true := h5
  refine ite_wf h6 (ite_wf h6 ?_)
  split
  · exact State.writeImage_wf s6 t h6 ‹_›
  · exact h6

@[simp] theorem State.kill_wf (s : State) (t : Nat) (h : s.mem.wf = true) : (s.kill t).mem.wf = true := by
  unfold State.kill
  extract_lets x s1 s2
  have h1 : s1.mem.wf = true := by
    simp only [s1]
    split <;> exact h
  have h2 : s2.mem.wf = true := by
    simp only [s2]
    split <;> exact h1
  exact ite_wf h (State.endActivation_wf s2 t h2)

@[simp] theorem State.enqueue_mem (s : State) (fi : Nat) (k : Task) : (s.enqueue fi k).mem = s.mem := rfl

@[simp] theorem State.takeTask_mem (s : State) (fi : Nat) : (s.takeTask fi).mem = s.mem := by
  simp only [State.takeTask]
  repeat' split
  all_goals simp

@[simp] theorem State.splitFrom_mem (s : State) (core donor : Nat) : (s.splitFrom core donor).mem = s.mem := by
  simp only [State.splitFrom]
  split <;> simp

@[simp] theorem State.trySplit_mem (s : State) (core : Nat) : (s.trySplit core).mem = s.mem := by
  simp only [State.trySplit]
  repeat' split
  all_goals simp

@[simp] theorem State.publish_mem (s : State) (fi : Nat) : (s.publish fi).mem = s.mem := rfl

@[simp] theorem State.answerTo_mem (s : State) (t act v : Nat) : (s.answerTo t act v).mem = s.mem := rfl

@[simp] theorem State.landPend_mem (s : State) (t : Nat) (p : Pend) : (s.landPend t p).mem = s.mem := by
  simp [State.landPend]

@[simp] theorem State.landThese_mem (s : State) (t : Nat) (which : Pend → Bool) : (s.landThese t which).mem = s.mem := by
  simp [State.landThese]

@[simp] theorem State.writeRecord_mem (s : State) (fi k : Nat) (ws : List Word) :
    (s.writeRecord fi k ws).mem = s.mem := by
  simp only [State.writeRecord]
  split <;> simp

@[simp] theorem State.killIn_wf (s : State) (t lid lvl : Nat) (h : s.mem.wf = true) :
    (s.killIn t lid lvl).mem.wf = true :=
  foldl_wf (fun s e h => State.kill_wf s e.1 h) _ s h

@[simp] theorem State.killInstance_wf (s : State) (t lvl : Nat) (h : s.mem.wf = true) :
    (s.killInstance t lvl).mem.wf = true :=
  State.killIn_wf s t _ lvl h

@[simp] theorem State.killLid_wf (s : State) (t lid : Nat) (h : s.mem.wf = true) : (s.killLid t lid).mem.wf = true := by
  simp only [State.killLid, State.modLaunch_mem]
  exact State.killIn_wf s t lid 4 h

@[simp] theorem State.killLaunch_wf (s : State) (t : Nat) (h : s.mem.wf = true) : (s.killLaunch t).mem.wf = true :=
  State.killLid_wf s t _ h

@[simp] theorem State.retry_wf (s : State) (t : Nat) (h : s.mem.wf = true) : (s.retry t).mem.wf = true := by
  simp only [State.retry]
  repeat' split
  all_goals simp [h]

@[simp] theorem State.walkUp_wf (t n : Nat) :
    ∀ (s : State) (lvl : Nat), s.mem.wf = true → (s.walkUp t lvl n).2.2.mem.wf = true := by
  induction n with
  | zero => exact fun s lvl h => State.killLaunch_wf s t h
  | succ n ih =>
    intro s lvl h
    unfold State.walkUp
    repeat' split
    all_goals simp [h, ih]

@[simp] theorem State.fatal_wf (s : State) (t : Nat) (e : Exc) (late : Bool) (fpc rpc : Word) (ref : Option Pending)
    (h : s.mem.wf = true) : (s.fatal t e late fpc rpc ref).mem.wf = true := by
  have hw := State.walkUp_wf t 5 s 0 h
  simp only [State.fatal]
  split <;> simpa using hw

@[simp] theorem State.walkEnded_wf (t : Nat) (k : Task) (n : Nat) : ∀ (s : State) (lvl : Nat), s.mem.wf = true →
    (s.walkEnded t k lvl n).2.2.mem.wf = true := by
  induction n with
  | zero => exact fun s lvl h => State.killLid_wf s t _ h
  | succ n ih =>
    intro s lvl h
    unfold State.walkEnded
    repeat' split
    all_goals simp [h, ih]

@[simp] theorem State.fatalEnded_wf (s : State) (t lid : Nat) (k : Option Task) (e : Exc) (ref : Option Pending)
    (h : s.mem.wf = true) : (s.fatalEnded t lid k e ref).mem.wf = true := by
  have hw := fun k => State.walkEnded_wf t k 5 s 0 h
  cases k <;> simp only [State.fatalEnded] <;> split <;> simp [h, hw]

@[simp] theorem State.deliverOrphans_wf (s : State) (h : s.mem.wf = true) : s.deliverOrphans.mem.wf = true := by
  refine foldl_wf (fun s e h => ite_wf h ?_) _ s h
  split <;> simp [h]

@[simp] theorem State.enterHandler_mem (s : State) (t : Nat) (e : Exc) (late repl : Bool) (tepc rpc : Word)
    (slot : Option Nat) :
    (s.enterHandler t e late repl tepc rpc slot).mem = s.mem := rfl

@[simp] theorem State.parkReplay_mem (s : State) (t : Nat) (late : Bool) (fpc rpc : Word) (w : Wait) :
    (s.parkReplay t late fpc rpc w).mem = s.mem := rfl

@[simp] theorem State.take_wf (s : State) (t : Nat) (e : Exc) (late : Bool) (fpc rpc : Word) (ref : Option Pending)
    (h : s.mem.wf = true) : (s.take t e late fpc rpc ref).mem.wf = true := by
  have hf := State.fatal_wf s t e late fpc rpc ref h
  simp only [State.take]
  repeat' split
  all_goals simp [h, hf]

@[simp] theorem State.takeLate_wf (s : State) (t : Nat) (p : Pend) (h : s.mem.wf = true) :
    (s.takeLate t p).mem.wf = true := by
  unfold State.takeLate
  refine ite_wf h ?_
  extract_lets rpc s1 s2
  have h2 : s2.mem.wf = true := by simp [s2, s1, h]
  split
  · exact State.take_wf _ t _ _ _ _ _ (ite_wf h2 h2)
  · exact h2

@[simp] theorem State.takeExact_wf (s : State) (t : Nat) (e : Exc) (h : s.mem.wf = true) :
    (s.takeExact t e).mem.wf = true := by
  simp only [State.takeExact]
  repeat' split
  · exact h
  · exact State.takeLate_wf s t _ h
  · exact State.take_wf _ t e _ _ _ _ (by simp [h])
  · exact State.take_wf _ t e _ _ _ _ (by simp [h])

@[simp] theorem State.takeRefusal_wf (s : State) (t : Nat) (h : s.mem.wf = true) : (s.takeRefusal t).mem.wf = true := by
  simp only [State.takeRefusal]
  repeat' split
  · exact h
  · exact h
  · exact State.take_wf _ t _ _ _ _ _ (by simp [h])

@[simp] theorem State.freeTqSlot_mem (s : State) (fi k : Nat) : (s.freeTqSlot fi k).mem = s.mem := by
  refine ite_mem rfl ((foldl_mem State.makeReady_mem _ _).trans ?_)
  exact foldl_mem (fun s (e : Nat × Ctx) => State.makeReady_mem s e.1) _ _

@[simp] theorem State.sret_mem (s : State) (t : Nat) : (s.sret t).mem = s.mem := by
  simp only [State.sret, State.modCtx_mem]
  exact ite_mem (State.freeTqSlot_mem s _ _) rfl

theorem KeepsMem.ok {α : Type} {m : M α} (hm : KeepsMem m) {s u : State} {a : α} (h : s.mem.wf = true)
    (hr : m s = .ok a u) :
    u.mem.wf = true := by
  have hk := hm s h
  rw [hr] at hk
  exact hk

theorem KeepsMem.error {α : Type} {m : M α} (hm : KeepsMem m) {s u : State} {e : Stop} (h : s.mem.wf = true)
    (hr : m s = .error e u) :
    u.mem.wf = true := by
  have hk := hm s h
  rw [hr] at hk
  exact hk

/-- An instruction whose meaning keeps memory canonical does so however it ends. -/
theorem State.issue_wf (s : State) (op : Op) (body : Fields → M Ctl) (f : Fields) (hb : ∀ f, KeepsMem (body f))
    (h : s.mem.wf = true) : (s.issue op body f).mem.wf = true := by
  have hs := fun e => State.takeExact_wf s s.cur e h
  simp only [State.issue]
  repeat' split
  any_goals simp [h, hs]
  · exact (hb _).ok h ‹_›
  · exact State.takeExact_wf _ _ _ ((hb _).error h ‹_›)
  · exact (hb _).error h ‹_›

@[simp] theorem landAll_keepsMem : KeepsMem (landAll) := by
  simp only [landAll]
  repeat' with_reducible refine KeepsMem.bind ?_ fun _ => ?_
  all_goals simp

@[simp] theorem pushPend_keepsMem (f : Fields) (r : Result) (fl : Flags) : KeepsMem (pushPend f r fl) := by
  simp [pushPend]

@[simp] theorem scalar2_keepsMem (f : Fields) (g : Nat → Nat → Nat → Nat × Flags) : KeepsMem (scalar2 f g) := by
  simp only [scalar2]
  repeat' with_reducible refine KeepsMem.bind ?_ fun _ => ?_
  all_goals simp

@[simp] theorem scalar1_keepsMem (f : Fields) (g : Nat → Nat → Nat × Flags) : KeepsMem (scalar1 f g) := by
  simp only [scalar1]
  repeat' with_reducible refine KeepsMem.bind ?_ fun _ => ?_
  all_goals simp

@[simp] theorem scalarLong2_keepsMem (f : Fields) (g : Nat → Nat → Nat → Nat × Flags) : KeepsMem (scalarLong2 f g) := by
  simp only [scalarLong2]
  repeat' with_reducible refine KeepsMem.bind ?_ fun _ => ?_
  all_goals simp

@[simp] theorem bodyAdd_keepsMem (f : Fields) : KeepsMem (bodyAdd f) := by
  simp [bodyAdd]

@[simp] theorem bodySub_keepsMem (f : Fields) : KeepsMem (bodySub f) := by
  simp [bodySub]

@[simp] theorem bodyMul_keepsMem (f : Fields) : KeepsMem (bodyMul f) := by
  simp [bodyMul]

@[simp] theorem bodyMulh_keepsMem (f : Fields) : KeepsMem (bodyMulh f) := by
  simp [bodyMulh]

@[simp] theorem bodyDiv_keepsMem (f : Fields) : KeepsMem (bodyDiv f) := by
  simp [bodyDiv]

@[simp] theorem bodyRem_keepsMem (f : Fields) : KeepsMem (bodyRem f) := by
  simp [bodyRem]

@[simp] theorem bodyMin_keepsMem (f : Fields) : KeepsMem (bodyMin f) := by
  simp [bodyMin]

@[simp] theorem bodyMax_keepsMem (f : Fields) : KeepsMem (bodyMax f) := by
  simp [bodyMax]

@[simp] theorem bodyAnd_keepsMem (f : Fields) : KeepsMem (bodyAnd f) := by
  simp [bodyAnd]

@[simp] theorem bodyOr_keepsMem (f : Fields) : KeepsMem (bodyOr f) := by
  simp [bodyOr]

@[simp] theorem bodyXor_keepsMem (f : Fields) : KeepsMem (bodyXor f) := by
  simp [bodyXor]

@[simp] theorem bodyAndn_keepsMem (f : Fields) : KeepsMem (bodyAndn f) := by
  simp [bodyAndn]

@[simp] theorem bodyOrn_keepsMem (f : Fields) : KeepsMem (bodyOrn f) := by
  simp [bodyOrn]

@[simp] theorem bodyShl_keepsMem (f : Fields) : KeepsMem (bodyShl f) := by
  simp [bodyShl]

@[simp] theorem bodyShr_keepsMem (f : Fields) : KeepsMem (bodyShr f) := by
  simp [bodyShr]

@[simp] theorem bodySha_keepsMem (f : Fields) : KeepsMem (bodySha f) := by
  simp [bodySha]

@[simp] theorem bodyRol_keepsMem (f : Fields) : KeepsMem (bodyRol f) := by
  simp [bodyRol]

@[simp] theorem bodyNeg_keepsMem (f : Fields) : KeepsMem (bodyNeg f) := by
  simp [bodyNeg]

@[simp] theorem bodyAbs_keepsMem (f : Fields) : KeepsMem (bodyAbs f) := by
  simp [bodyAbs]

@[simp] theorem bodyNot_keepsMem (f : Fields) : KeepsMem (bodyNot f) := by
  simp [bodyNot]

@[simp] theorem bodyClz_keepsMem (f : Fields) : KeepsMem (bodyClz f) := by
  simp [bodyClz]

@[simp] theorem bodyCtz_keepsMem (f : Fields) : KeepsMem (bodyCtz f) := by
  simp [bodyCtz]

@[simp] theorem bodyPopc_keepsMem (f : Fields) : KeepsMem (bodyPopc f) := by
  simp [bodyPopc]

@[simp] theorem bodyBrev_keepsMem (f : Fields) : KeepsMem (bodyBrev f) := by
  simp [bodyBrev]

@[simp] theorem bodyBfx_keepsMem (f : Fields) : KeepsMem (bodyBfx f) := by
  simp only [bodyBfx]
  repeat' with_reducible refine KeepsMem.bind ?_ fun _ => ?_
  all_goals simp

@[simp] theorem bodyBfi_keepsMem (f : Fields) : KeepsMem (bodyBfi f) := by
  simp only [bodyBfi]
  repeat' with_reducible refine KeepsMem.bind ?_ fun _ => ?_
  all_goals simp

@[simp] theorem bodySext_keepsMem (f : Fields) : KeepsMem (bodySext f) := by
  simp [bodySext]

@[simp] theorem bodyZext_keepsMem (f : Fields) : KeepsMem (bodyZext f) := by
  simp [bodyZext]

@[simp] theorem bodyMov_keepsMem (f : Fields) : KeepsMem (bodyMov f) := by
  simp [bodyMov]

@[simp] theorem bodyMovi_keepsMem (f : Fields) : KeepsMem (bodyMovi f) := by
  simp only [bodyMovi]
  repeat' with_reducible refine KeepsMem.bind ?_ fun _ => ?_
  all_goals simp

@[simp] theorem bodyMovh_keepsMem (f : Fields) : KeepsMem (bodyMovh f) := by
  simp only [bodyMovh]
  repeat' with_reducible refine KeepsMem.bind ?_ fun _ => ?_
  all_goals simp

@[simp] theorem bodySel_keepsMem (f : Fields) : KeepsMem (bodySel f) := by
  simp only [bodySel]
  repeat' with_reducible refine KeepsMem.bind ?_ fun _ => ?_
  all_goals simp

@[simp] theorem truth2_keepsMem (f : Fields) (g : Nat → Nat → Bool × Flags) : KeepsMem (truth2 f g) := by
  simp only [truth2]
  repeat' with_reducible refine KeepsMem.bind ?_ fun _ => ?_
  all_goals simp

@[simp] theorem bodyCmp_keepsMem (f : Fields) : KeepsMem (bodyCmp f) := by
  simp [bodyCmp]

@[simp] theorem bodyTest_keepsMem (f : Fields) : KeepsMem (bodyTest f) := by
  simp [bodyTest]

@[simp] theorem bodyFma_keepsMem (f : Fields) : KeepsMem (bodyFma f) := by
  simp only [bodyFma]
  repeat' with_reducible refine KeepsMem.bind ?_ fun _ => ?_
  all_goals simp

@[simp] theorem bodySqrt_keepsMem (f : Fields) : KeepsMem (bodySqrt f) := by
  simp only [bodySqrt]
  repeat' with_reducible refine KeepsMem.bind ?_ fun _ => ?_
  all_goals simp

@[simp] theorem bodyCvt_keepsMem (f : Fields) : KeepsMem (bodyCvt f) := by
  simp only [bodyCvt]
  repeat' with_reducible refine KeepsMem.bind ?_ fun _ => ?_
  all_goals simp

@[simp] theorem bodyFclass_keepsMem (f : Fields) : KeepsMem (bodyFclass f) := by
  simp only [bodyFclass]
  repeat' with_reducible refine KeepsMem.bind ?_ fun _ => ?_
  all_goals simp

@[simp] theorem bodyRndi_keepsMem (f : Fields) : KeepsMem (bodyRndi f) := by
  simp [bodyRndi]

@[simp] theorem bodyMovsRead_keepsMem (f : Fields) : KeepsMem (bodyMovsRead f) := by
  simp only [bodyMovsRead]
  repeat' with_reducible refine KeepsMem.bind ?_ fun _ => ?_
  all_goals simp

@[simp] theorem bodyMovsWrite_keepsMem (f : Fields) : KeepsMem (bodyMovsWrite f) := by
  simp only [bodyMovsWrite]
  repeat' with_reducible refine KeepsMem.bind ?_ fun _ => ?_
  all_goals simp

@[simp] theorem bodyAmov_keepsMem (f : Fields) : KeepsMem (bodyAmov f) := by
  simp only [bodyAmov]
  repeat' with_reducible refine KeepsMem.bind ?_ fun _ => ?_
  all_goals simp

@[simp] theorem bodyAstr_keepsMem (f : Fields) : KeepsMem (bodyAstr f) := by
  simp only [bodyAstr]
  repeat' with_reducible refine KeepsMem.bind ?_ fun _ => ?_
  all_goals simp

@[simp] theorem bodyAadv_keepsMem (f : Fields) : KeepsMem (bodyAadv f) := by
  simp only [bodyAadv]
  repeat' with_reducible refine KeepsMem.bind ?_ fun _ => ?_
  all_goals simp

@[simp] theorem bodyLea_keepsMem (f : Fields) : KeepsMem (bodyLea f) := by
  simp only [bodyLea]
  repeat' with_reducible refine KeepsMem.bind ?_ fun _ => ?_
  all_goals simp

@[simp] theorem pred2_keepsMem (f : Fields) (g : Bool → Bool → Bool) : KeepsMem (pred2 f g) := by
  simp only [pred2]
  repeat' with_reducible refine KeepsMem.bind ?_ fun _ => ?_
  all_goals simp

@[simp] theorem bodyPand_keepsMem (f : Fields) : KeepsMem (bodyPand f) := by
  simp [bodyPand]

@[simp] theorem bodyPor_keepsMem (f : Fields) : KeepsMem (bodyPor f) := by
  simp [bodyPor]

@[simp] theorem bodyPxor_keepsMem (f : Fields) : KeepsMem (bodyPxor f) := by
  simp [bodyPxor]

@[simp] theorem bodyPnot_keepsMem (f : Fields) : KeepsMem (bodyPnot f) := by
  simp [bodyPnot]

@[simp] theorem bodyPmov_keepsMem (f : Fields) : KeepsMem (bodyPmov f) := by
  simp only [bodyPmov]
  repeat' with_reducible refine KeepsMem.bind ?_ fun _ => ?_
  all_goals simp

@[simp] theorem rdV_keepsMem (x : Ctx) (imm : BitVec 32) (c : BitVec 8) : KeepsMem (rdV x imm c) := by
  simp [rdV]

@[simp] theorem rdLanes_keepsMem (x : Ctx) (t : Nat) (imm : BitVec 32) (c : BitVec 8) : KeepsMem (rdLanes x t imm c) := by
  simp [rdLanes]

@[simp] theorem State.storeLanes_wf (s : State) (core off n : Nat) (on : Nat → Bool) (res : Nat → Nat)
    (h : s.mem.wf = true) :
    (s.storeLanes core off n on res).mem.wf = true := by
  refine foldl_wf (fun s k h => ite_wf (by simp [h]) ?_) _ s h
  exact foldl_wf (fun s i h => by simp [h]) _ s h

@[simp] theorem wrV_keepsMem (x : Ctx) (imm : BitVec 32) (c : BitVec 8) (n : Nat) (on : Nat → Bool) (res : Nat → Nat) :
    KeepsMem (wrV x imm c n on res) := by
  simp only [wrV]
  repeat' split
  repeat' with_reducible refine KeepsMem.bind ?_ fun _ => ?_
  all_goals simp +contextual

@[simp] theorem vecEnd_keepsMem (x : Ctx) (f : Fields) (n : Nat) (codes : List (BitVec 8)) (on : Nat → Bool)
    (g : Nat → Nat × Flags) :
    KeepsMem (vecEnd x f n codes on g) := by
  simp only [vecEnd]
  repeat' with_reducible refine KeepsMem.bind ?_ fun _ => ?_
  all_goals simp

@[simp] theorem vecLong_keepsMem (x : Ctx) (f : Fields) (codes : List (BitVec 8)) (g : Nat → Nat × Flags) :
    KeepsMem (vecLong x f codes g) := by
  simp only [vecLong]
  repeat' with_reducible refine KeepsMem.bind ?_ fun _ => ?_
  all_goals simp

@[simp] theorem vec2_keepsMem (f : Fields) (g : Nat → Nat → Nat → Nat × Flags) : KeepsMem (vec2 f g) := by
  simp only [vec2]
  repeat' with_reducible refine KeepsMem.bind ?_ fun _ => ?_
  all_goals simp

@[simp] theorem vec1_keepsMem (f : Fields) (g : Nat → Nat → Nat × Flags) : KeepsMem (vec1 f g) := by
  simp only [vec1]
  repeat' with_reducible refine KeepsMem.bind ?_ fun _ => ?_
  all_goals simp

@[simp] theorem bodyVadd_keepsMem (f : Fields) : KeepsMem (bodyVadd f) := by
  simp [bodyVadd]

@[simp] theorem bodyVsub_keepsMem (f : Fields) : KeepsMem (bodyVsub f) := by
  simp [bodyVsub]

@[simp] theorem bodyVmul_keepsMem (f : Fields) : KeepsMem (bodyVmul f) := by
  simp [bodyVmul]

@[simp] theorem bodyVmin_keepsMem (f : Fields) : KeepsMem (bodyVmin f) := by
  simp [bodyVmin]

@[simp] theorem bodyVmax_keepsMem (f : Fields) : KeepsMem (bodyVmax f) := by
  simp [bodyVmax]

@[simp] theorem bodyVand_keepsMem (f : Fields) : KeepsMem (bodyVand f) := by
  simp [bodyVand]

@[simp] theorem bodyVor_keepsMem (f : Fields) : KeepsMem (bodyVor f) := by
  simp [bodyVor]

@[simp] theorem bodyVxor_keepsMem (f : Fields) : KeepsMem (bodyVxor f) := by
  simp [bodyVxor]

@[simp] theorem bodyVshl_keepsMem (f : Fields) : KeepsMem (bodyVshl f) := by
  simp [bodyVshl]

@[simp] theorem bodyVshr_keepsMem (f : Fields) : KeepsMem (bodyVshr f) := by
  simp [bodyVshr]

@[simp] theorem bodyVsha_keepsMem (f : Fields) : KeepsMem (bodyVsha f) := by
  simp [bodyVsha]

@[simp] theorem bodyVfma_keepsMem (f : Fields) : KeepsMem (bodyVfma f) := by
  simp only [bodyVfma]
  repeat' with_reducible refine KeepsMem.bind ?_ fun _ => ?_
  all_goals simp

@[simp] theorem bodyVdiv_keepsMem (f : Fields) : KeepsMem (bodyVdiv f) := by
  simp only [bodyVdiv]
  repeat' with_reducible refine KeepsMem.bind ?_ fun _ => ?_
  all_goals simp

@[simp] theorem bodyVdot_keepsMem (f : Fields) : KeepsMem (bodyVdot f) := by
  simp only [bodyVdot]
  repeat' with_reducible refine KeepsMem.bind ?_ fun _ => ?_
  all_goals simp

@[simp] theorem bodyVabs_keepsMem (f : Fields) : KeepsMem (bodyVabs f) := by
  simp [bodyVabs]

@[simp] theorem bodyVneg_keepsMem (f : Fields) : KeepsMem (bodyVneg f) := by
  simp [bodyVneg]

@[simp] theorem vecLong1_keepsMem (f : Fields) (g : Nat → Nat → Nat × Flags) : KeepsMem (vecLong1 f g) := by
  simp only [vecLong1]
  repeat' with_reducible refine KeepsMem.bind ?_ fun _ => ?_
  all_goals simp

@[simp] theorem bodyVsqrt_keepsMem (f : Fields) : KeepsMem (bodyVsqrt f) := by
  simp [bodyVsqrt]

@[simp] theorem bodyVrcp_keepsMem (f : Fields) : KeepsMem (bodyVrcp f) := by
  simp [bodyVrcp]

@[simp] theorem bodyVrsq_keepsMem (f : Fields) : KeepsMem (bodyVrsq f) := by
  simp [bodyVrsq]

@[simp] theorem bodyVexp2_keepsMem (f : Fields) : KeepsMem (bodyVexp2 f) := by
  simp [bodyVexp2]

@[simp] theorem bodyVcmp_keepsMem (f : Fields) : KeepsMem (bodyVcmp f) := by
  simp only [bodyVcmp]
  repeat' with_reducible refine KeepsMem.bind ?_ fun _ => ?_
  all_goals simp

@[simp] theorem bodyVsel_keepsMem (f : Fields) : KeepsMem (bodyVsel f) := by
  simp only [bodyVsel]
  repeat' with_reducible refine KeepsMem.bind ?_ fun _ => ?_
  all_goals simp

@[simp] theorem vmask2_keepsMem (f : Fields) (g : BitVec 64 → BitVec 64 → BitVec 64) : KeepsMem (vmask2 f g) := by
  simp [vmask2]

@[simp] theorem bodyVmaskAnd_keepsMem (f : Fields) : KeepsMem (bodyVmaskAnd f) := by
  simp [bodyVmaskAnd]

@[simp] theorem bodyVmaskOr_keepsMem (f : Fields) : KeepsMem (bodyVmaskOr f) := by
  simp [bodyVmaskOr]

@[simp] theorem bodyVmaskXor_keepsMem (f : Fields) : KeepsMem (bodyVmaskXor f) := by
  simp [bodyVmaskXor]

@[simp] theorem bodyVmaskAndn_keepsMem (f : Fields) : KeepsMem (bodyVmaskAndn f) := by
  simp [bodyVmaskAndn]

@[simp] theorem bodyVmaskNot_keepsMem (f : Fields) : KeepsMem (bodyVmaskNot f) := by
  simp [bodyVmaskNot]

@[simp] theorem bodyVmaskSet_keepsMem (f : Fields) : KeepsMem (bodyVmaskSet f) := by
  simp only [bodyVmaskSet]
  repeat' with_reducible refine KeepsMem.bind ?_ fun _ => ?_
  all_goals simp

@[simp] theorem bodyVmaskGet_keepsMem (f : Fields) : KeepsMem (bodyVmaskGet f) := by
  simp only [bodyVmaskGet]
  repeat' with_reducible refine KeepsMem.bind ?_ fun _ => ?_
  all_goals simp

@[simp] theorem bodyViota_keepsMem (f : Fields) : KeepsMem (bodyViota f) := by
  simp only [bodyViota]
  repeat' with_reducible refine KeepsMem.bind ?_ fun _ => ?_
  all_goals simp

@[simp] theorem bodyVmov_keepsMem (f : Fields) : KeepsMem (bodyVmov f) := by
  simp [bodyVmov]

@[simp] theorem bodyVbcast_keepsMem (f : Fields) : KeepsMem (bodyVbcast f) := by
  simp only [bodyVbcast]
  repeat' with_reducible refine KeepsMem.bind ?_ fun _ => ?_
  all_goals simp

@[simp] theorem bodyVext_keepsMem (f : Fields) : KeepsMem (bodyVext f) := by
  simp only [bodyVext]
  repeat' with_reducible refine KeepsMem.bind ?_ fun _ => ?_
  all_goals simp

@[simp] theorem bodyVins_keepsMem (f : Fields) : KeepsMem (bodyVins f) := by
  simp only [bodyVins]
  repeat' with_reducible refine KeepsMem.bind ?_ fun _ => ?_
  all_goals simp

@[simp] theorem bodyVshuf_keepsMem (f : Fields) : KeepsMem (bodyVshuf f) := by
  simp only [bodyVshuf]
  repeat' with_reducible refine KeepsMem.bind ?_ fun _ => ?_
  all_goals simp

@[simp] theorem bodyVrot_keepsMem (f : Fields) : KeepsMem (bodyVrot f) := by
  simp only [bodyVrot]
  repeat' with_reducible refine KeepsMem.bind ?_ fun _ => ?_
  all_goals simp

@[simp] theorem reduce_keepsMem (f : Fields) (fill : Nat) (op : Nat → Nat → Nat → Nat × Flags) :
    KeepsMem (reduce f fill op) := by
  simp only [reduce]
  repeat' with_reducible refine KeepsMem.bind ?_ fun _ => ?_
  all_goals simp

@[simp] theorem bodyVreds_keepsMem (f : Fields) : KeepsMem (bodyVreds f) := by
  simp [bodyVreds]

@[simp] theorem bodyVredmMin_keepsMem (f : Fields) : KeepsMem (bodyVredmMin f) := by
  simp [bodyVredmMin]

@[simp] theorem bodyVredmMax_keepsMem (f : Fields) : KeepsMem (bodyVredmMax f) := by
  simp [bodyVredmMax]

@[simp] theorem bodyVscan_keepsMem (f : Fields) : KeepsMem (bodyVscan f) := by
  simp only [bodyVscan]
  repeat' with_reducible refine KeepsMem.bind ?_ fun _ => ?_
  all_goals simp

@[simp] theorem bodyVcvt_keepsMem (f : Fields) : KeepsMem (bodyVcvt f) := by
  simp [bodyVcvt]

@[simp] theorem bodyVwidn_keepsMem (f : Fields) : KeepsMem (bodyVwidn f) := by
  simp only [bodyVwidn]
  repeat' with_reducible refine KeepsMem.bind ?_ fun _ => ?_
  all_goals simp

@[simp] theorem bodyVnarr_keepsMem (f : Fields) : KeepsMem (bodyVnarr f) := by
  simp only [bodyVnarr]
  repeat' with_reducible refine KeepsMem.bind ?_ fun _ => ?_
  all_goals simp

@[simp] theorem localRange_keepsMem (a : Word) (n : Nat) (store : Bool) : KeepsMem (localRange a n store) := by
  simp only [localRange]
  repeat' with_reducible refine KeepsMem.bind ?_ fun _ => ?_
  repeat' split
  repeat' with_reducible refine KeepsMem.bind ?_ fun _ => ?_
  all_goals simp

@[simp] theorem State.setLocal_wf (s : State) (t a n v : Nat) (h : s.mem.wf = true) :
    (s.setLocal t a n v).mem.wf = true := by
  unfold State.setLocal
  split
  all_goals
    refine foldl_wf (fun s i h => ?_) _ s h
    split
    · exact State.writeVault_wf s _ _ _ _ h
    · exact h

@[simp] theorem blockAt_keepsMem (x : Ctx) (a : Word) : KeepsMem (blockAt x a) := by
  simp only [blockAt]
  repeat' with_reducible refine KeepsMem.bind ?_ fun _ => ?_
  repeat' split
  all_goals simp

@[simp] theorem readBlock_keepsMem (x : Ctx) (a : Word) : KeepsMem (readBlock x a) := by
  simp only [readBlock]
  repeat' with_reducible refine KeepsMem.bind ?_ fun _ => ?_
  all_goals simp

@[simp] theorem writeBlock_keepsMem (a : Word) (b : BitVec 8) (n : Nat) (k : Blk) : KeepsMem (writeBlock a b n k) := by
  simp only [writeBlock]
  repeat' with_reducible refine KeepsMem.bind ?_ fun _ => ?_
  all_goals simp +contextual

@[simp] theorem bodyVqnt_keepsMem (f : Fields) : KeepsMem (bodyVqnt f) := by
  simp only [bodyVqnt]
  repeat' split
  repeat' with_reducible refine KeepsMem.bind ?_ fun _ => ?_
  all_goals simp

@[simp] theorem bodyVdqt_keepsMem (f : Fields) : KeepsMem (bodyVdqt f) := by
  simp only [bodyVdqt]
  repeat' with_reducible refine KeepsMem.bind ?_ fun _ => ?_
  all_goals simp

@[simp] theorem bodyVsprs_keepsMem (f : Fields) : KeepsMem (bodyVsprs f) := by
  simp only [bodyVsprs]
  repeat' with_reducible refine KeepsMem.bind ?_ fun _ => ?_
  all_goals simp

@[simp] theorem bodyVxpnd_keepsMem (f : Fields) : KeepsMem (bodyVxpnd f) := by
  simp only [bodyVxpnd]
  repeat' with_reducible refine KeepsMem.bind ?_ fun _ => ?_
  all_goals simp

end Sys2Proof.Machine
end

section
namespace Sys2Proof.Machine
open Sys2Proof

/-! ## Memory stays in its canonical form: Memory, copies and tiles -/

@[simp] theorem pagePa_keepsMem (space : Nat) (va : Word) (n : Nat) (nd : Need) : KeepsMem (pagePa space va n nd) := by
  have hout : ∀ pa, KeepsMem (do
      if paSpace pa ≥ 0xE then
        let me ← ask State.cur
        need (!(← ask (fun s => s.outsidePart me pa))) cProt va
      pure pa : M Nat) := fun pa => by
    refine KeepsMem.ite (KeepsMem.bind (ask_keepsMem _) fun me =>
      KeepsMem.bind (ask_keepsMem _) fun _ => ?_) (KeepsMem.pure pa)
    exact KeepsMem.bind (need_keepsMem _ _ _) fun _ => KeepsMem.pure pa
  unfold pagePa
  refine KeepsMem.bind (need_keepsMem _ _ _) fun _ => KeepsMem.ite ?_ ?_
  · exact KeepsMem.bind (need_keepsMem _ _ _) fun _ => hout _
  · exact KeepsMem.bind (translate_keepsMem va nd) hout

@[simp] theorem globalPa_keepsMem (space : Nat) (va : Word) (n : Nat) (nd : Need) :
    KeepsMem (globalPa space va n nd) := by
  simp only [globalPa]
  repeat' with_reducible refine KeepsMem.bind ?_ fun _ => ?_
  repeat' split
  repeat' with_reducible refine KeepsMem.bind ?_ fun _ => ?_
  all_goals simp

/-- The outcome of the reads of a load has memory in its canonical form. -/
def Got.Wf : Got → Prop
  | .done _ s => s.mem.wf = true
  | _ => True

theorem Got.Wf.done {r : Got} (h : r.Wf) {vs : List Nat} {s : State} (hr : r = .done vs s) : s.mem.wf = true := by
  rw [hr] at h
  exact h

theorem State.loadEls_wf (t cls : Nat) (els : List Elem) : ∀ s : State, s.mem.wf = true → (s.loadEls t cls els).Wf := by
  induction els with
  | nil => exact fun s h => h
  | cons el els ih =>
    intro s h
    have hl := State.load_wf s t cls el.pa el.bytes h
    unfold State.loadEls
    split
    · trivial
    split
    · have hr := ih _ (hl.ok ‹_›)
      split
      · exact hr.done ‹_›
      · exact hr
    · trivial
    · trivial

@[simp] theorem State.performNow_wf (s : State) (t : Nat) (p : Pend) (h : s.mem.wf = true) :
    (s.performNow t p).1.mem.wf = true := by
  simp only [State.performNow]
  repeat' split
  any_goals exact h
  · exact (State.loadEls_wf t _ _ s h).done ‹_›
  · exact (State.loadEls_wf t _ _ s h).done ‹_›
  · simpa using (State.rmw_wf s t _ _ _ h).ok ‹_›
  · exact (State.rmw_wf s t _ _ _ h).ok ‹_›

@[simp] theorem State.perform_wf (s : State) (t : Nat) (p : Pend) (h : s.mem.wf = true) :
    (s.perform t p).1.mem.wf = true := by
  simp only [State.perform]
  repeat' split
  all_goals simp [h]

@[simp] theorem pushWork_keepsMem (f : Fields) (w : Work) : KeepsMem (pushWork f w) := by
  intro s h
  have hs : (s.sendAll (s.workPackets s.cur w)).2.mem.wf = true := by simp [h]
  unfold pushWork
  extract_lets t y sent p r
  show (r.1.modCtx t _).mem.wf = true
  rw [State.modCtx_mem]
  simp only [r]
  split
  · exact hs
  · exact State.perform_wf _ t p hs

@[simp] theorem inOrder_keepsMem (els : List Elem) : KeepsMem (inOrder els) := by
  simp only [inOrder]
  repeat' with_reducible refine KeepsMem.bind ?_ fun _ => ?_
  all_goals simp

@[simp] theorem storePiece_keepsMem (space cls : Nat) (q : Piece) : KeepsMem (storePiece space cls q) := by
  simp only [storePiece]
  refine KeepsMem.bind (ask_keepsMem _) fun me => KeepsMem.bind (ask_keepsMem _) fun b =>
    KeepsMem.ite (KeepsMem.pure _) ?_
  refine KeepsMem.get_bind fun s hs => KeepsMem.bind (waitFor_keepsMem _) fun _ => ?_
  split
  · exact set_keepsMem ((State.store_wf s _ _ _ _ _ _ hs).ok ‹_›)
  · exact KeepsMem.ite (KeepsMem.throw _) (KeepsMem.throw _)
  · exact raise_keepsMem _ _

@[simp] theorem globalStore_keepsMem (space cls : Nat) (qs : List Piece) : KeepsMem (globalStore space cls qs) := by
  simp only [globalStore]
  repeat' with_reducible refine KeepsMem.bind ?_ fun _ => ?_
  all_goals simp

@[simp] theorem bodyLd_keepsMem (f : Fields) : KeepsMem (bodyLd f) := by
  simp only [bodyLd]
  repeat' split
  repeat' with_reducible refine KeepsMem.bind ?_ fun _ => ?_
  all_goals simp

@[simp] theorem bodySt_keepsMem (f : Fields) : KeepsMem (bodySt f) := by
  simp only [bodySt]
  repeat' split
  repeat' with_reducible refine KeepsMem.bind ?_ fun _ => ?_
  all_goals simp

@[simp] theorem setLanes_keepsMem (k n : Nat) (ls : List (Nat × Nat)) : KeepsMem (setLanes k n ls) := by
  simp [setLanes]

@[simp] theorem loadBlockLanes_keepsMem (x : Ctx) (f : Fields) : KeepsMem (loadBlockLanes x f) := by
  simp only [loadBlockLanes]
  repeat' with_reducible refine KeepsMem.bind ?_ fun _ => ?_
  all_goals simp

@[simp] theorem bodyLdv_keepsMem (f : Fields) : KeepsMem (bodyLdv f) := by
  simp only [bodyLdv]
  repeat' split
  repeat' with_reducible refine KeepsMem.bind ?_ fun _ => ?_
  all_goals simp

@[simp] theorem storeBlockLanes_keepsMem (x : Ctx) (f : Fields) : KeepsMem (storeBlockLanes x f) := by
  simp only [storeBlockLanes]
  repeat' with_reducible refine KeepsMem.bind ?_ fun _ => ?_
  all_goals simp

@[simp] theorem bodyStv_keepsMem (f : Fields) : KeepsMem (bodyStv f) := by
  simp only [bodyStv]
  repeat' with_reducible refine KeepsMem.bind ?_ fun _ => ?_
  repeat' split
  repeat' with_reducible refine KeepsMem.bind ?_ fun _ => ?_
  all_goals simp +contextual

@[simp] theorem countBanks_keepsMem (n : Nat) (addrs : List Word) : KeepsMem (countBanks n addrs) := by
  simp only [countBanks]
  repeat' with_reducible refine KeepsMem.bind ?_ fun _ => ?_
  all_goals simp

@[simp] theorem loadLanes_keepsMem (x : Ctx) (f : Fields) (addr : Nat → Word) : KeepsMem (loadLanes x f addr) := by
  simp only [loadLanes]
  repeat' split
  repeat' with_reducible refine KeepsMem.bind ?_ fun _ => ?_
  all_goals simp

@[simp] theorem storeEachLane_keepsMem (x : Ctx) (f : Fields) (addr : Nat → Word) :
    KeepsMem (storeEachLane x f addr) := by
  simp only [storeEachLane]
  repeat' split
  repeat' with_reducible refine KeepsMem.bind ?_ fun _ => ?_
  all_goals simp +contextual

@[simp] theorem bodyVlds_keepsMem (f : Fields) : KeepsMem (bodyVlds f) := by
  simp only [bodyVlds]
  repeat' with_reducible refine KeepsMem.bind ?_ fun _ => ?_
  all_goals simp

@[simp] theorem bodyVsts_keepsMem (f : Fields) : KeepsMem (bodyVsts f) := by
  simp only [bodyVsts]
  repeat' with_reducible refine KeepsMem.bind ?_ fun _ => ?_
  all_goals simp

@[simp] theorem bodyVgath_keepsMem (f : Fields) : KeepsMem (bodyVgath f) := by
  simp only [bodyVgath]
  repeat' with_reducible refine KeepsMem.bind ?_ fun _ => ?_
  all_goals simp

@[simp] theorem bodyVscat_keepsMem (f : Fields) : KeepsMem (bodyVscat f) := by
  simp only [bodyVscat]
  repeat' with_reducible refine KeepsMem.bind ?_ fun _ => ?_
  all_goals simp

@[simp] theorem State.prefetch_wf (s : State) (t cls pa : Nat) (h : s.mem.wf = true) :
    (s.prefetch t cls pa).mem.wf = true := by
  simp only [State.prefetch]
  repeat' split
  all_goals simp [h]

@[simp] theorem bodyPref_keepsMem (f : Fields) : KeepsMem (bodyPref f) := by
  simp only [bodyPref]
  refine KeepsMem.bind getCtx_keepsMem fun x => KeepsMem.ite ?_ (KeepsMem.pure _)
  refine KeepsMem.bind (KeepsMem.act_iff.mpr fun s h => ?_) fun _ => KeepsMem.pure _
  split <;> simp [h]

@[simp] theorem State.invalLine_wf (s : State) (fi ln : Nat) (h : s.mem.wf = true) :
    (s.invalLine fi ln).mem.wf = true := by
  simp only [State.invalLine]
  split <;> simp [h]

@[simp] theorem pagesOf_keepsMem (n : Nat) : ∀ first : Nat, KeepsMem (pagesOf first n) := by
  induction n with
  | zero => exact fun first => KeepsMem.pure _
  | succ n ih =>
    exact fun first => KeepsMem.bind (translate_keepsMem _ _) fun pa => KeepsMem.bind (ih _) fun rest => KeepsMem.pure _

theorem maintain_keepsMem (f : Fields) (g : State → Nat → Nat → State)
    (hg : ∀ s a b, s.mem.wf = true → (g s a b).mem.wf = true) :
    KeepsMem (maintain f g) := by
  simp only [maintain]
  repeat' with_reducible refine KeepsMem.bind ?_ fun _ => ?_
  any_goals simp
  refine KeepsMem.ite ?_ (KeepsMem.pure _)
  repeat' with_reducible refine KeepsMem.bind ?_ fun _ => ?_
  any_goals simp
  exact fun s h => foldl_wf (fun s i h => hg s _ _ h) _ s h

@[simp] theorem bodyWbk_keepsMem (f : Fields) : KeepsMem (bodyWbk f) := maintain_keepsMem f _ State.cleanLine_wf

@[simp] theorem bodyInvl_keepsMem (f : Fields) : KeepsMem (bodyInvl f) := maintain_keepsMem f _ State.invalLine_wf

@[simp] theorem releaseWaits_keepsMem : KeepsMem (releaseWaits) := by
  simp only [releaseWaits]
  repeat' with_reducible refine KeepsMem.bind ?_ fun _ => ?_
  repeat' split
  repeat' with_reducible refine KeepsMem.bind ?_ fun _ => ?_
  all_goals simp

@[simp] theorem releaseOrder_keepsMem : KeepsMem (releaseOrder) := by
  simp only [releaseOrder]
  repeat' with_reducible refine KeepsMem.bind ?_ fun _ => ?_
  all_goals simp

@[simp] theorem bodyFence_keepsMem (f : Fields) : KeepsMem (bodyFence f) := by
  simp only [bodyFence]
  repeat' split
  repeat' with_reducible refine KeepsMem.bind ?_ fun _ => ?_
  all_goals simp

@[simp] theorem atomic_keepsMem (f : Fields) : KeepsMem (atomic f) := by
  simp only [atomic]
  repeat' split
  repeat' with_reducible refine KeepsMem.bind ?_ fun _ => ?_
  all_goals simp

@[simp] theorem bodyAtadd_keepsMem (f : Fields) : KeepsMem (bodyAtadd f) := by
  simp [bodyAtadd]

@[simp] theorem bodyAtsub_keepsMem (f : Fields) : KeepsMem (bodyAtsub f) := by
  simp [bodyAtsub]

@[simp] theorem bodyAtmin_keepsMem (f : Fields) : KeepsMem (bodyAtmin f) := by
  simp [bodyAtmin]

@[simp] theorem bodyAtmax_keepsMem (f : Fields) : KeepsMem (bodyAtmax f) := by
  simp [bodyAtmax]

@[simp] theorem bodyAtand_keepsMem (f : Fields) : KeepsMem (bodyAtand f) := by
  simp [bodyAtand]

@[simp] theorem bodyAtor_keepsMem (f : Fields) : KeepsMem (bodyAtor f) := by
  simp [bodyAtor]

@[simp] theorem bodyAtxor_keepsMem (f : Fields) : KeepsMem (bodyAtxor f) := by
  simp [bodyAtxor]

@[simp] theorem bodyAtswp_keepsMem (f : Fields) : KeepsMem (bodyAtswp f) := by
  simp [bodyAtswp]

@[simp] theorem bodyAtcas_keepsMem (f : Fields) : KeepsMem (bodyAtcas f) := by
  simp [bodyAtcas]

@[simp] theorem bodyAtfadd_keepsMem (f : Fields) : KeepsMem (bodyAtfadd f) := by
  simp [bodyAtfadd]

@[simp] theorem bodyAtinc_keepsMem (f : Fields) : KeepsMem (bodyAtinc f) := by
  simp [bodyAtinc]

@[simp] theorem globalParts_keepsMem (space : Nat) (va : Word) (n : Nat) (nd : Need) :
    KeepsMem (globalParts space va n nd) := by
  simp [globalParts]

@[simp] theorem localParts_keepsMem (a : Word) (n : Nat) (store : Bool) : KeepsMem (localParts a n store) := by
  unfold localParts
  refine KeepsMem.bind get_keepsMem fun s => ?_
  simp only
  split
  · exact raise_keepsMem _ a
  · refine KeepsMem.bind (waitFor_keepsMem _) fun _ => KeepsMem.mapM (fun p => ?_) _
    split
    · exact KeepsMem.pure _
    · exact KeepsMem.throw _

@[simp] theorem State.ownFor_wf (s : State) (t ln : Nat) (h : s.mem.wf = true) : (s.ownFor t ln).1.mem.wf = true := by
  simp only [State.ownFor]
  repeat' split
  all_goals simp [h]

@[simp] theorem State.ownAll_wf (s : State) (t : Nat) (lines : List Nat) (h : s.mem.wf = true) :
    (s.ownAll t lines).1.mem.wf = true := by
  refine foldl_fst_wf (fun a ln ha => ?_) lines _ h
  exact State.ownFor_wf a.1 t ln ha

@[simp] theorem State.enterCopy_wf (s : State) (k : Copy) (es : List SbEnt) (h : s.mem.wf = true) :
    (s.enterCopy k es).mem.wf = true :=
  State.ownAll_wf s k.tid _ h

@[simp] theorem State.copyRecord_mem (s : State) (t act seq : Nat) (fail : Bool) :
    (s.copyRecord t act seq fail).mem = s.mem := by
  simp [State.copyRecord]

@[simp] theorem pushCopy_keepsMem (x : Ctx) (f : Fields) (kind : CopyKind) (cls : Nat) (segs : List Seg)
    (gsrc gdst : Bool)
    (ents : List (List (Nat × Nat))) (srcs dsts : List (Nat × Nat)) :
    KeepsMem (pushCopy x f kind cls segs gsrc gdst ents srcs dsts) := by
  simp only [pushCopy]
  refine KeepsMem.bind (ask_keepsMem _) fun me => KeepsMem.bind getCore_keepsMem fun c =>
    KeepsMem.bind (waitFor_keepsMem _) fun _ => ?_
  exact KeepsMem.bind (KeepsMem.act_iff.mpr fun s h => State.enterCopy_wf s _ _ h) fun _ =>
    KeepsMem.act_iff.mpr fun s h => h

@[simp] theorem emptyCopy_keepsMem (x : Ctx) (f : Fields) : KeepsMem (emptyCopy x f) := by
  simp only [emptyCopy]
  repeat' with_reducible refine KeepsMem.bind ?_ fun _ => ?_
  all_goals simp

@[simp] theorem need4_keepsMem (a : Word) (vs : List Nat) : KeepsMem (need4 a vs) := by
  simp [need4]

@[simp] theorem cpyLocal_keepsMem (f : Fields) (inward : Bool) : KeepsMem (cpyLocal f inward) := by
  have hgo : ∀ (x : Ctx) (g a : Word) (n : Nat), KeepsMem (do
      let gp ← globalParts f.space g n (if inward then needSrc else needDst)
      let lp ← localParts a n inward
      bump [f.sc]
      if inward then pushCopy x f .bytes f.clsM (segsOf gp lp) true false [rangesOf lp]
      else pushCopy x f .bytes f.clsM (segsOf lp gp) false true [rangesOf lp]
      pure .seq : M Ctl) := fun x g a n => by
    refine KeepsMem.bind (globalParts_keepsMem _ _ _ _) fun gp => KeepsMem.bind (localParts_keepsMem _ _ _) fun lp => ?_
    refine KeepsMem.bind (bump_keepsMem _) fun _ => KeepsMem.ite ?_ ?_
    · exact KeepsMem.bind (pushCopy_keepsMem _ _ _ _ _ _ _ _ _ _) fun _ => KeepsMem.pure _
    · exact KeepsMem.bind (pushCopy_keepsMem _ _ _ _ _ _ _ _ _ _) fun _ => KeepsMem.pure _
  unfold cpyLocal
  refine KeepsMem.bind getCtx_keepsMem fun x => KeepsMem.bind (rd64_keepsMem _ _ _) fun n => ?_
  refine KeepsMem.bind (need4_keepsMem _ _) fun _ => KeepsMem.bind (need4_keepsMem _ _) fun _ => KeepsMem.ite ?_ ?_
  · exact KeepsMem.bind (bump_keepsMem _) fun _ => KeepsMem.bind (emptyCopy_keepsMem _ _) fun _ => KeepsMem.pure _
  · refine KeepsMem.bind get_keepsMem fun s => KeepsMem.bind get_keepsMem fun s' => ?_
    dsimp only
    split
    · exact KeepsMem.bind (raise_keepsMem _ _) fun _ => hgo x _ _ _
    · exact hgo x _ _ _

@[simp] theorem bodyCpyIn_keepsMem (f : Fields) : KeepsMem (bodyCpyIn f) := by
  simp [bodyCpyIn]

@[simp] theorem bodyCpyOut_keepsMem (f : Fields) : KeepsMem (bodyCpyOut f) := by
  simp [bodyCpyOut]

@[simp] theorem bodyCpyGlobal_keepsMem (f : Fields) : KeepsMem (bodyCpyGlobal f) := by
  simp only [bodyCpyGlobal]
  repeat' with_reducible refine KeepsMem.bind ?_ fun _ => ?_
  repeat' split
  repeat' with_reducible refine KeepsMem.bind ?_ fun _ => ?_
  all_goals simp

@[simp] theorem cpy2d_keepsMem (f : Fields) (inward : Bool) : KeepsMem (cpy2d f inward) := by
  have hparts : ∀ (l : List Nat) (k : Nat → Word) (b : Nat), KeepsMem (l.mapM fun j => localParts (k j) b inward) := fun l k b =>
    KeepsMem.mapM (fun _ => localParts_keepsMem _ _ _) l
  have hglobal : ∀ (l : List Nat) (k : Nat → Word) (b : Nat) (nd : Need),
      KeepsMem (l.mapM fun j => globalParts f.space (k j) b nd) := fun l k b nd =>
    KeepsMem.mapM (fun _ => globalParts_keepsMem _ _ _ _) l
  unfold cpy2d
  refine KeepsMem.bind getCtx_keepsMem fun x => KeepsMem.bind (rd64_keepsMem _ _ _) fun sh => ?_
  refine KeepsMem.bind (need4_keepsMem _ _) fun _ => KeepsMem.bind (need4_keepsMem _ _) fun _ => ?_
  refine KeepsMem.bind (need_keepsMem _ _ _) fun _ => KeepsMem.bind (needOp_keepsMem _) fun _ => KeepsMem.ite ?_ ?_
  · exact KeepsMem.bind (emptyCopy_keepsMem _ _) fun _ => KeepsMem.pure _
  · refine KeepsMem.bind get_keepsMem fun s => ?_
    dsimp only
    split
    all_goals
      repeat' with_reducible refine KeepsMem.bind ?_ fun _ => ?_
      all_goals simp [hparts, hglobal]

@[simp] theorem bodyCpy2dIn_keepsMem (f : Fields) : KeepsMem (bodyCpy2dIn f) := by
  simp [bodyCpy2dIn]

@[simp] theorem bodyCpy2dOut_keepsMem (f : Fields) : KeepsMem (bodyCpy2dOut f) := by
  simp [bodyCpy2dOut]

@[simp] theorem sideExtent_keepsMem (fmt : BitVec 8) (a : Word) (raw n : Nat) : KeepsMem (sideExtent fmt a raw n) := by
  simp only [sideExtent]
  repeat' split
  repeat' with_reducible refine KeepsMem.bind ?_ fun _ => ?_
  all_goals simp

@[simp] theorem bodyCpyl_keepsMem (f : Fields) : KeepsMem (bodyCpyl f) := by
  simp only [bodyCpyl]
  repeat' with_reducible refine KeepsMem.bind ?_ fun _ => ?_
  repeat' split
  repeat' with_reducible refine KeepsMem.bind ?_ fun _ => ?_
  all_goals simp

@[simp] theorem raiseFailure_keepsMem (tag : Nat) : KeepsMem (raiseFailure tag) := by
  simp only [raiseFailure]
  repeat' with_reducible refine KeepsMem.bind ?_ fun _ => ?_
  repeat' split
  repeat' with_reducible refine KeepsMem.bind ?_ fun _ => ?_
  all_goals simp

@[simp] theorem bodyCwait_keepsMem (f : Fields) : KeepsMem (bodyCwait f) := by
  simp only [bodyCwait]
  repeat' with_reducible refine KeepsMem.bind ?_ fun _ => ?_
  all_goals simp

theorem State.copyRead_wf (s : State) (k : Copy) (a n : Nat) (h : s.mem.wf = true) : (s.copyRead k a n).Wf := by
  have hl := State.load_wf s k.tid k.cls a n h
  simp only [State.copyRead]
  repeat' split
  any_goals trivial
  simpa using hl.ok ‹_›

theorem State.copyWrite_wf (s : State) (k : Copy) (a n v : Nat) (h : s.mem.wf = true) : (s.copyWrite k a n v).Wf := by
  have hs := State.store_wf s k.tid k.cls a n (2 ^ n - 1) v h
  unfold State.copyWrite
  repeat' split
  any_goals trivial
  · simpa using hs.ok ‹_›
  · exact State.writeVault_wf s _ a n v h

@[simp] theorem State.moveSome_wf (k : Copy) (ps : List (Nat × Nat × Nat)) : ∀ s : State, s.mem.wf = true →
    (s.moveSome k ps).mem.wf = true := by
  induction ps with
  | nil => exact fun s h => h
  | cons p ps ih =>
    intro s h
    have hr := State.copyRead_wf s k p.1 p.2.2 h
    unfold State.moveSome
    split
    next v s1 hv =>
      have hw := State.copyWrite_wf s1 k p.2.1 p.2.2 v (hr.ok hv)
      split
      · exact ih _ (hw.ok ‹_›)
      · exact h
    next => exact h

@[simp] theorem State.movePieces_wf (k : Copy) (gs : List Seg) : ∀ (s : State) (kept : List Seg), s.mem.wf = true →
    (s.movePieces k kept gs).st.mem.wf = true := by
  induction gs with
  | nil => exact fun s kept h => h
  | cons g gs ih =>
    intro s kept h
    have hr := State.copyRead_wf s k g.src g.n h
    unfold State.movePieces
    split
    · exact ih s _ h
    split
    next v s1 hv =>
      have hw := State.copyWrite_wf s1 k g.dst g.n v (hr.ok hv)
      split
      · exact ih _ _ (hw.ok ‹_›)
      · exact ih s _ h
      · exact State.moveSome_wf k _ s h
    next => exact ih s _ h
    next => exact State.moveSome_wf k _ s h

@[simp] theorem State.setBlock_wf (s : State) (t : Nat) (fmt : BitVec 8) (a : Nat) (k : Blk) (h : s.mem.wf = true) :
    (s.setBlock t fmt a k).mem.wf = true :=
  State.setLocal_wf _ t _ _ _ (State.setLocal_wf s t a _ _ h)

@[simp] theorem State.convertBlock_wf (s : State) (t : Nat) (sf df : BitVec 8) (ty rm src dst i : Nat)
    (h : s.mem.wf = true) :
    (s.convertBlock t sf df ty rm src dst i).1.mem.wf = true := by
  have hb := fun fmt a k => State.setBlock_wf s t fmt a k h
  unfold State.convertBlock
  extract_lets n w b r
  split
  · split
    · exact hb _ _ _
    split
    · exact hb _ _ _
    · refine foldl_fst_wf (fun a j ha => ?_) _ _ h
      exact State.setLocal_wf a.1 t _ _ _ ha
  · exact hb _ _ _

@[simp] theorem State.dropCopy_mem (s : State) (k : Copy) : (s.dropCopy k).mem = s.mem := rfl

@[simp] theorem State.keepCopy_mem (s : State) (k : Copy) (rest : List Seg) : (s.keepCopy k rest).mem = s.mem := rfl

theorem State.moveCopy_wf (s : State) (k : Copy) (h : s.mem.wf = true) : (s.moveCopy k).st.mem.wf = true := by
  unfold State.moveCopy
  split
  · exact State.movePieces_wf k _ s [] h
  · split
    · exact h
    · rw [State.raiseFlags_mem]
      refine foldl_fst_wf (fun a i ha => ?_) _ _ h
      exact State.convertBlock_wf a.1 _ _ _ _ _ _ _ i ha

@[simp] theorem State.copyRetire_wf (s : State) (tid seq : Nat) (h : s.mem.wf = true) :
    (s.copyRetire tid seq).mem.wf = true := by
  simp only [State.copyRetire]
  split
  · exact h
  next k _ =>
    have hm := State.moveCopy_wf s k h
    repeat' split
    all_goals simp [h, hm]

@[simp] theorem translateLeaf_keepsMem (va : Word) (nd : Need) : KeepsMem (translateLeaf va nd) := by
  intro s h
  unfold translateLeaf
  split
  · show (s.keepLeaf s.cur _).mem.wf = true
    simp [h]
  · exact h

@[simp] theorem localAligned_keepsMem (a : Word) (n : Nat) : KeepsMem (localAligned a n) := by
  simp [localAligned]

@[simp] theorem bodyTobj_keepsMem (f : Fields) : KeepsMem (bodyTobj f) := by
  simp only [bodyTobj]
  repeat' with_reducible refine KeepsMem.bind ?_ fun _ => ?_
  repeat' split
  repeat' with_reducible refine KeepsMem.bind ?_ fun _ => ?_
  all_goals simp

@[simp] theorem State.define_wf (s : State) (t k : Nat) (d : Option (BitVec 256)) (r : DirRec) (h : s.mem.wf = true) :
    (s.define t k d r).2.mem.wf = true := by
  simp only [State.define]
  repeat' split
  all_goals simp [h]

@[simp] theorem State.noteHandle_mem (s : State) (fi : Nat) (h : Word) : (s.noteHandle fi h).mem = s.mem := by
  unfold State.noteHandle
  split <;> rfl

@[simp] theorem defineRec_keepsMem (x : Ctx) (f : Fields) (d : Option (BitVec 256)) (r : DirRec) (ls : List Nat) :
    KeepsMem (defineRec x f d r ls) := by
  unfold defineRec
  repeat' with_reducible refine KeepsMem.bind ?_ fun _ => ?_
  any_goals simp
  split
  · exact opFault_keepsMem
  · refine KeepsMem.bind (fun s h => State.define_wf s _ _ d r h) fun _ => ?_
    refine KeepsMem.bind ?_ fun _ => modCtx_keepsMem _
    simp

@[simp] theorem bodyTdefBox_keepsMem (f : Fields) : KeepsMem (bodyTdefBox f) := by
  simp only [bodyTdefBox]
  repeat' with_reducible refine KeepsMem.bind ?_ fun _ => ?_
  all_goals simp

@[simp] theorem bodyTdefSpan_keepsMem (f : Fields) : KeepsMem (bodyTdefSpan f) := by
  simp only [bodyTdefSpan]
  repeat' with_reducible refine KeepsMem.bind ?_ fun _ => ?_
  all_goals simp

@[simp] theorem handleAt_keepsMem (h : Word) : KeepsMem (handleAt h) := by
  simp only [handleAt]
  repeat' with_reducible refine KeepsMem.bind ?_ fun _ => ?_
  repeat' split
  repeat' with_reducible refine KeepsMem.bind ?_ fun _ => ?_
  all_goals simp

@[simp] theorem pushTacq_keepsMem (f : Fields) (h : Word) (write done : Bool) (flt : Option Exc) :
    KeepsMem (pushTacq f h write done flt) := by
  simp [pushTacq]

@[simp] theorem State.requestTenure_wf (s : State) (t k slot : Nat) (h : Word) (write : Bool) (scope : Nat) (w : Waiter)
    (hs : s.mem.wf = true) :
    (s.requestTenure t k slot h write scope w).2.mem.wf = true := by
  simp only [State.requestTenure]
  split <;> simp [hs]

@[simp] theorem bodyTacq_keepsMem (f : Fields) : KeepsMem (bodyTacq f) := by
  unfold bodyTacq
  refine KeepsMem.bind getCtx_keepsMem fun x => KeepsMem.bind (ask_keepsMem _) fun me => ?_
  extract_lets h write jp
  have hp : ∀ ok e, KeepsMem (pushTacq f h write ok e >>= jp) := fun ok e =>
    KeepsMem.bind (pushTacq_keepsMem f h write ok e) fun _ => KeepsMem.pure _
  have hn : KeepsMem (act fun s => s.noteHandle (fieldOf me) h) := by simp
  split
  · exact KeepsMem.bind (needOp_keepsMem _) fun _ => KeepsMem.bind hn fun _ => hp _ _
  refine KeepsMem.bind (waitFor_keepsMem _) fun _ => KeepsMem.bind (needOp_keepsMem _) fun _ =>
    KeepsMem.bind (ask_keepsMem _) fun o => ?_
  split
  · exact hp _ _
  refine KeepsMem.bind (ask_keepsMem _) fun _ => KeepsMem.bind (need_keepsMem _ _ _) fun _ =>
    KeepsMem.bind (ask_keepsMem _) fun w => ?_
  exact KeepsMem.bind (fun s hs => State.requestTenure_wf s _ _ _ _ _ _ _ hs) fun ok => KeepsMem.bind hn fun _ => hp _ _

@[simp] theorem bodyTtry_keepsMem (f : Fields) : KeepsMem (bodyTtry f) := by
  simp only [bodyTtry]
  repeat' with_reducible refine KeepsMem.bind ?_ fun _ => ?_
  all_goals simp +contextual

@[simp] theorem bodyTrel_keepsMem (f : Fields) : KeepsMem (bodyTrel f) := by
  simp only [bodyTrel]
  repeat' with_reducible refine KeepsMem.bind ?_ fun _ => ?_
  repeat' split
  repeat' with_reducible refine KeepsMem.bind ?_ fun _ => ?_
  all_goals simp +contextual

@[simp] theorem bodyTdrop_keepsMem (f : Fields) : KeepsMem (bodyTdrop f) := by
  simp only [bodyTdrop]
  repeat' with_reducible refine KeepsMem.bind ?_ fun _ => ?_
  repeat' split
  repeat' with_reducible refine KeepsMem.bind ?_ fun _ => ?_
  all_goals simp +contextual

@[simp] theorem bodyTqry_keepsMem (f : Fields) : KeepsMem (bodyTqry f) := by
  simp only [bodyTqry]
  repeat' with_reducible refine KeepsMem.bind ?_ fun _ => ?_
  all_goals simp

@[simp] theorem State.splitTenure_mem (s : State) (t k slot : Nat) (h : Word) (scope : Nat) (lo up : DirRec) :
    (s.splitTenure t k slot h scope lo up).2.2.mem = s.mem := rfl

@[simp] theorem bodyTsplt_keepsMem (f : Fields) : KeepsMem (bodyTsplt f) := by
  unfold bodyTsplt
  repeat' with_reducible refine KeepsMem.bind ?_ fun _ => ?_
  any_goals (simp; done)
  split
  extract_lets jp
  have hj : ∀ u, KeepsMem (jp u) := fun _ => KeepsMem.pure _
  split
  · exact KeepsMem.bind opFault_keepsMem hj
  refine KeepsMem.bind (KeepsMem.act_iff.mpr fun s h => State.spareOwners_wf s _ _ h) fun _ =>
    KeepsMem.bind (ask_keepsMem _) fun st0 => ?_
  extract_lets st
  split
  · exact KeepsMem.bind (raise_keepsMem _ _) hj
  split
  · exact KeepsMem.bind opFault_keepsMem hj
  refine KeepsMem.bind (needOp_keepsMem _) fun _ => KeepsMem.bind (ask_keepsMem _) fun fetches =>
    KeepsMem.bind (ask_keepsMem _) fun quota => ?_
  refine KeepsMem.bind (need_keepsMem _ _ _) fun _ => KeepsMem.bind (fun s h => ?_) fun p => ?_
  · show ((s.setStack _ _).splitTenure _ _ _ _ _ _ _).2.2.mem.wf = true
    simpa using h
  · exact KeepsMem.bind (modCtx_keepsMem _) hj

@[simp] theorem State.tenureGrant_wf (s : State) (k : Nat) (h : s.mem.wf = true) : (s.tenureGrant k).mem.wf = true := by
  simp [State.tenureGrant, h]

@[simp] theorem State.resumeAccess_wf (s : State) (t : Nat) (h : s.mem.wf = true) : (s.resumeAccess t).mem.wf = true := by
  simp only [State.resumeAccess]
  repeat' split
  all_goals simp [h]

@[simp] theorem State.tenureWaitTrap_wf (s : State) (t : Nat) (h : s.mem.wf = true) :
    (s.tenureWaitTrap t).mem.wf = true := by
  simp only [State.tenureWaitTrap]
  repeat' split
  all_goals simp [h]

@[simp] theorem State.readFillEvent_wf (s : State) (fi ln : Nat) (h : s.mem.wf = true) :
    (s.readFillEvent fi ln).mem.wf = true := by
  simp only [State.readFillEvent]
  repeat' split
  all_goals simp [h]

@[simp] theorem State.ownershipEvent_wf (s : State) (fi ln : Nat) (h : s.mem.wf = true) :
    (s.ownershipEvent fi ln).mem.wf = true := by
  simp only [State.ownershipEvent]
  repeat' split
  all_goals simp [h]

@[simp] theorem State.writeBackEvent_wf (s : State) (fi ln : Nat) (h : s.mem.wf = true) :
    (s.writeBackEvent fi ln).mem.wf = true := by
  simp [State.writeBackEvent, h]

@[simp] theorem State.leaseExpiry_mem (s : State) (fi ln : Nat) : (s.leaseExpiry fi ln).mem = s.mem := by
  simp only [State.leaseExpiry]
  split <;> simp

@[simp] theorem State.invalidationArrival_wf (s : State) (fi ln seq : Nat) (h : s.mem.wf = true) :
    (s.invalidationArrival fi ln seq).mem.wf = true := by
  simp [State.invalidationArrival, h]

@[simp] theorem State.fillArrival_wf (s : State) (fi ln : Nat) (h : s.mem.wf = true) :
    (s.fillArrival fi ln).mem.wf = true := by
  simp only [State.fillArrival]
  repeat' split
  all_goals simp [h]

end Sys2Proof.Machine
end

section
namespace Sys2Proof.Machine
open Sys2Proof

/-! ## Memory stays in its canonical form: The array, messages, the slice and launches -/

@[simp] theorem needRows_keepsMem (f : Fields) : KeepsMem (needRows f) := by
  simp [needRows]

@[simp] theorem pushArray_keepsMem (op : ArrOp) : KeepsMem (pushArray op) := by
  simp only [pushArray]
  repeat' with_reducible refine KeepsMem.bind ?_ fun _ => ?_
  all_goals simp

@[simp] theorem State.addPins_mem (s : State) (t seq : Nat) (els : List (Nat × Nat)) :
    (s.addPins t seq els).mem = s.mem := by
  simp only [State.addPins]
  refine foldl_mem (fun s e => ?_) _ _
  repeat' split
  all_goals simp

@[simp] theorem State.releasePins_mem (s : State) (t seq : Nat) (left : List (Nat × Nat)) :
    (s.releasePins t seq left).mem = s.mem := rfl

@[simp] theorem State.arrayFlags_mem (s : State) (e : ArrEntry) (fl : Flags) : (s.arrayFlags e fl).mem = s.mem := by
  simp only [State.arrayFlags]
  repeat' split
  all_goals simp

@[simp] theorem State.finishEntry_mem (s : State) (t : Nat) (e : ArrEntry) : (s.finishEntry t e).mem = s.mem := by
  simp [State.finishEntry]

@[simp] theorem State.arrayFailure_mem (s : State) (t cause row : Nat) : (s.arrayFailure t cause row).mem = s.mem := rfl

@[simp] theorem State.wantPage_mem (s : State) (t p : Nat) : (s.wantPage t p).mem = s.mem := rfl

/-- The outcome of a block's fetch has memory in its canonical form. -/
def BlockGot.Wf : BlockGot → Prop
  | .ok _ s => s.mem.wf = true
  | _ => True

theorem BlockGot.Wf.ok {r : BlockGot} (h : r.Wf) {b : Blk} {s : State} (hr : r = .ok b s) : s.mem.wf = true := by
  rw [hr] at h
  exact h

theorem State.localBlock_wf (s : State) (t a : Nat) (fmt : BitVec 8) (h : s.mem.wf = true) :
    (s.localBlock t a fmt).Wf := by
  simp only [State.localBlock]
  repeat' split
  all_goals trivial

theorem State.tileBlock_wf (s : State) (t seq : Nat) (el : Nat × Nat) (fmt : BitVec 8) (h : s.mem.wf = true) :
    (s.tileBlock t seq el fmt).Wf := by
  have h1 := State.load_wf s t 0 el.1 (4 * fmtWidth fmt) h
  simp only [State.tileBlock]
  repeat' split
  any_goals trivial
  exact (State.load_wf _ t 0 el.2 1 (h1.ok ‹_›)).ok ‹_›

theorem gatherBlocks_wf {get : State → Nat → BlockGot} (hg : ∀ s n, s.mem.wf = true → (get s n).Wf) (s : State)
    (h : s.mem.wf = true)
    (n : Nat) : ∀ {bs : List Blk} {u : State} {g : Option BlockGot}, gatherBlocks get s n = (some (bs, u), g) → u.mem.wf = true := by
  induction n with
  | zero =>
    rintro bs u g ⟨⟩
    exact h
  | succ n ih =>
    intro bs u g hr
    unfold gatherBlocks at hr
    split at hr
    next bs1 s1 h1 =>
      split at hr
      next b s2 h2 =>
        cases hr
        exact (hg s1 n (ih h1)).ok h2
      next => cases hr
    next => exact ih hr

@[simp] theorem State.mmaRow_wf (s : State) (t : Nat) (e : ArrEntry) (row cnt : Nat) (k : BitVec 32) (fmt : BitVec 8)
    (g : BlockGot)
    (h : s.mem.wf = true) (hg : g.Wf) : (s.mmaRow t e row cnt k fmt g).1.mem.wf = true := by
  cases g with
  | ok b s1 =>
    have h1 : s1.mem.wf = true := hg
    simp only [State.mmaRow]
    split <;> simp [h1]
  | wait => exact h
  | page p => simpa [State.mmaRow] using h
  | bad c =>
    simp only [State.mmaRow]
    split <;> simp [h]

@[simp] theorem State.mmaRows_wf (t n : Nat) : ∀ s : State, s.mem.wf = true → (s.mmaRows t n).mem.wf = true := by
  induction n with
  | zero => exact fun s h => h
  | succ n ih =>
    intro s h
    unfold State.mmaRows
    split
    · exact h
    next e _ _ =>
      split
      next row cnt k addr fmt _ =>
        have hr := State.mmaRow_wf s t e row cnt k fmt _ h (State.localBlock_wf s t (addr + 4 * fmtWidth fmt * e.done) fmt h)
        exact ite_wf (ih _ hr) hr
      next row cnt k els fmt _ =>
        have hr := State.mmaRow_wf s t e row cnt k fmt _ h (State.tileBlock_wf s t e.seq (els.getD e.done (0, 0)) fmt h)
        exact ite_wf (ih _ hr) hr
      next => exact h

theorem State.mldb_wf (s : State) (t : Nat) (e : ArrEntry) (fmt : BitVec 8) {get : State → Nat → BlockGot}
    (hg : ∀ s n, s.mem.wf = true → (get s n).Wf) (h : s.mem.wf = true) : (s.mldb t e fmt get).mem.wf = true := by
  unfold State.mldb
  split
  next bs s1 _ hr => simpa using gatherBlocks_wf hg s h 8 hr
  all_goals simp [h]

@[simp] theorem State.arrayStep_wf (s : State) (t : Nat) (h : s.mem.wf = true) : (s.arrayStep t).mem.wf = true := by
  simp only [State.arrayStep]
  repeat' split
  · exact h
  · exact h
  · exact h
  · simpa using h
  · exact State.mldb_wf s t _ _ (fun s j h => State.localBlock_wf s t _ _ h) h
  · exact State.mldb_wf _ t _ _ (fun s j h => State.tileBlock_wf s t _ _ _ h) (by simpa using h)
  · exact State.mmaRows_wf t 16 s h
  · exact State.mmaRows_wf t 16 _ (by simpa using h)

@[simp] theorem bodyMldbLocal_keepsMem (f : Fields) : KeepsMem (bodyMldbLocal f) := by
  simp only [bodyMldbLocal]
  repeat' with_reducible refine KeepsMem.bind ?_ fun _ => ?_
  all_goals simp

@[simp] theorem bodyMmaLocal_keepsMem (f : Fields) : KeepsMem (bodyMmaLocal f) := by
  simp only [bodyMmaLocal]
  repeat' with_reducible refine KeepsMem.bind ?_ fun _ => ?_
  all_goals simp

@[simp] theorem tileEls_keepsMem (x : Ctx) (f : Fields) (n : Nat) : KeepsMem (tileEls x f n) := by
  simp only [tileEls]
  repeat' with_reducible refine KeepsMem.bind ?_ fun _ => ?_
  repeat' split
  all_goals simp

@[simp] theorem fetchOrder_keepsMem (els : List (Nat × Nat)) (fmt : BitVec 8) : KeepsMem (fetchOrder els fmt) := by
  simp [fetchOrder]

@[simp] theorem bodyMldbTile_keepsMem (f : Fields) : KeepsMem (bodyMldbTile f) := by
  simp only [bodyMldbTile]
  repeat' with_reducible refine KeepsMem.bind ?_ fun _ => ?_
  all_goals simp

@[simp] theorem bodyMmaTile_keepsMem (f : Fields) : KeepsMem (bodyMmaTile f) := by
  simp only [bodyMmaTile]
  repeat' with_reducible refine KeepsMem.bind ?_ fun _ => ?_
  all_goals simp

@[simp] theorem bodyMclr_keepsMem (f : Fields) : KeepsMem (bodyMclr f) := by
  simp only [bodyMclr]
  repeat' with_reducible refine KeepsMem.bind ?_ fun _ => ?_
  all_goals simp

@[simp] theorem bodyMhnd_keepsMem (f : Fields) : KeepsMem (bodyMhnd f) := by
  simp [bodyMhnd]

@[simp] theorem State.startDrain_mem (s : State) (t u r : Nat) : (s.startDrain t u r).mem = s.mem := by
  simp only [State.startDrain]
  split <;> simp

@[simp] theorem bodyMdrn_keepsMem (f : Fields) : KeepsMem (bodyMdrn f) := by
  have hstart : ∀ (x : Ctx) (me c row : Nat), KeepsMem (do
      match ← ask (fun s => s.freeCtx? (coreOf me)) with
      | none => throw .stallKeep
      | some u =>
        act (fun s => s.startDrain me u row)
        if x.drained + 1 = c then
          modCtx (fun y => { y with drained := 0, ticket := none })
          pure .seq
        else
          modCtx (fun y => { y with drained := x.drained + 1 })
          throw .stallKeep : M Ctl) := fun x me c row => by
    refine KeepsMem.bind (ask_keepsMem _) fun u => ?_
    cases u with
    | none => exact KeepsMem.throw _
    | some u =>
      refine KeepsMem.bind (KeepsMem.act_iff.mpr fun s h => by simpa using h) fun _ => KeepsMem.ite ?_ ?_
      · exact KeepsMem.bind (modCtx_keepsMem _) fun _ => KeepsMem.pure _
      · exact KeepsMem.bind (modCtx_keepsMem _) fun _ => KeepsMem.throw _
  unfold bodyMdrn
  refine KeepsMem.bind (needRows_keepsMem f) fun rc => KeepsMem.bind getCtx_keepsMem fun x => ?_
  refine KeepsMem.bind (ask_keepsMem _) fun me => ?_
  have hrow : ∀ row ahead, KeepsMem (do
      modCtx (fun y => { y with ticket := some ahead })
      if x.arrQ.any (fun e => decide (e.seq < ahead)) || x.drain.getLsbD row then throw .stallKeep
      match ← ask (fun s => s.freeCtx? (coreOf me)) with
      | none => throw .stallKeep
      | some u =>
        act (fun s => s.startDrain me u row)
        if x.drained + 1 = rc.2 then
          modCtx (fun y => { y with drained := 0, ticket := none })
          pure .seq
        else
          modCtx (fun y => { y with drained := x.drained + 1 })
          throw .stallKeep : M Ctl) := fun row ahead =>
    KeepsMem.bind (modCtx_keepsMem _) fun _ => KeepsMem.guarded (KeepsMem.throw _) fun _ => hstart x me rc.2 row
  refine KeepsMem.ite ?_ (hrow _ _)
  refine KeepsMem.bind (needOp_keepsMem _) fun _ => KeepsMem.bind (ask_keepsMem _) fun _ => ?_
  exact KeepsMem.bind (needOp_keepsMem _) fun _ => KeepsMem.bind releaseOrder_keepsMem fun _ => hrow _ _

@[simp] theorem raiseArrErr_keepsMem : KeepsMem (raiseArrErr) := by
  simp only [raiseArrErr]
  repeat' with_reducible refine KeepsMem.bind ?_ fun _ => ?_
  repeat' split
  repeat' with_reducible refine KeepsMem.bind ?_ fun _ => ?_
  all_goals simp

@[simp] theorem bodyMwait_keepsMem (x0 : Fields) : KeepsMem (bodyMwait x0) := by
  simp only [bodyMwait]
  repeat' with_reducible refine KeepsMem.bind ?_ fun _ => ?_
  all_goals simp

@[simp] theorem bodyMstat_keepsMem (f : Fields) : KeepsMem (bodyMstat f) := by
  simp only [bodyMstat]
  repeat' with_reducible refine KeepsMem.bind ?_ fun _ => ?_
  all_goals simp

@[simp] theorem localRecord_keepsMem (a : Word) : KeepsMem (localRecord a) := by
  simp [localRecord]

@[simp] theorem bodyMcmd_keepsMem (f : Fields) : KeepsMem (bodyMcmd f) := by
  simp only [bodyMcmd]
  repeat' with_reducible refine KeepsMem.bind ?_ fun _ => ?_
  repeat' split
  repeat' with_reducible refine KeepsMem.bind ?_ fun _ => ?_
  all_goals simp

@[simp] theorem State.mcmdAccept_mem (s : State) (t : Nat) : (s.mcmdAccept t).mem = s.mem := by
  simp only [State.mcmdAccept]
  repeat' split
  all_goals simp

@[simp] theorem State.queueFor_mem (s : State) (t core q : Nat) : (s.queueFor t core q).2.mem = s.mem := by
  simp only [State.queueFor]
  split <;> simp

@[simp] theorem State.unqueue_mem (s : State) (t core q : Nat) : (s.unqueue t core q).mem = s.mem := rfl

@[simp] theorem State.sendMsg_mem (s : State) (t core q k : Nat) (l : Launch) (ch : Option (Nat × Nat))
    (words : List Word) :
    (s.sendMsg t core q k l ch words).mem = s.mem := by
  simp only [State.sendMsg]
  split <;> simp

@[simp] theorem sendWords_keepsMem (f : Fields) (words : List Word) : KeepsMem (sendWords f words) := by
  unfold sendWords
  repeat' with_reducible refine KeepsMem.bind ?_ fun _ => ?_
  any_goals (simp; done)
  split
  · exact raise_keepsMem _ _
  refine KeepsMem.bind (need_keepsMem _ _ _) fun _ => KeepsMem.bind (waitFor_keepsMem _) fun _ => ?_
  refine KeepsMem.bind (ask_keepsMem _) fun _ => KeepsMem.bind (waitFor_keepsMem _) fun _ => ?_
  refine KeepsMem.bind (fun s h => ?_) fun first => KeepsMem.bind (ask_keepsMem _) fun k => ?_
  · show (s.queueFor _ _ _).2.mem.wf = true
    simpa using h
  · split
    · exact KeepsMem.throw _
    · refine KeepsMem.ite (KeepsMem.bind (KeepsMem.throw _) fun _ => ?_) ?_
      all_goals simp

@[simp] theorem bodySend_keepsMem (f : Fields) : KeepsMem (bodySend f) := by
  simp only [bodySend]
  repeat' with_reducible refine KeepsMem.bind ?_ fun _ => ?_
  all_goals simp

@[simp] theorem bodySendv_keepsMem (f : Fields) : KeepsMem (bodySendv f) := by
  simp only [bodySendv]
  repeat' with_reducible refine KeepsMem.bind ?_ fun _ => ?_
  all_goals simp

@[simp] theorem claim_keepsMem (f : Fields) : KeepsMem (claim f) := by
  simp only [claim]
  repeat' with_reducible refine KeepsMem.bind ?_ fun _ => ?_
  repeat' split
  repeat' with_reducible refine KeepsMem.bind ?_ fun _ => ?_
  all_goals simp

@[simp] theorem bodyPoll_keepsMem (f : Fields) : KeepsMem (bodyPoll f) := by
  simp only [bodyPoll]
  repeat' with_reducible refine KeepsMem.bind ?_ fun _ => ?_
  all_goals simp

@[simp] theorem bodyWaitq_keepsMem (f : Fields) : KeepsMem (bodyWaitq f) := by
  simp only [bodyWaitq]
  repeat' with_reducible refine KeepsMem.bind ?_ fun _ => ?_
  repeat' split
  repeat' with_reducible refine KeepsMem.bind ?_ fun _ => ?_
  all_goals simp

@[simp] theorem bodyRls_keepsMem (x0 : Fields) : KeepsMem (bodyRls x0) := by
  simp only [bodyRls]
  repeat' with_reducible refine KeepsMem.bind ?_ fun _ => ?_
  repeat' split
  repeat' with_reducible refine KeepsMem.bind ?_ fun _ => ?_
  all_goals simp

@[simp] theorem State.acceptTask_mem (s : State) (fi lid : Nat) (ws : List Word) :
    (s.acceptTask fi lid ws).mem = s.mem := by
  simp only [State.acceptTask]
  repeat' split
  all_goals simp

@[simp] theorem State.sendTask_mem (s : State) (t act dst pa lid : Nat) (ws : List Word) (again : optParam Bool false) :
    (s.sendTask t act dst pa lid ws again).mem = s.mem := by
  simp [State.sendTask]

theorem State.placeSendt_mem (s : State) (w : SendtWait) {u : State} (hu : s.placeSendt w = some u) : u.mem = s.mem := by
  unfold State.placeSendt at hu
  split at hu
  · cases hu
    simp
  · cases hu
  · cases hu
    simp

@[simp] theorem State.deliverSendts_mem (s : State) : s.deliverSendts.mem = s.mem := by
  refine foldl_mem (fun s w => ?_) _ s
  split
  next s1 hs => exact (State.placeSendt_mem s w hs :)
  · rfl

@[simp] theorem bodySendt_keepsMem (f : Fields) : KeepsMem (bodySendt f) := by
  unfold bodySendt
  refine KeepsMem.bind getCtx_keepsMem fun x => KeepsMem.bind (ask_keepsMem _) fun me => ?_
  extract_lets finish
  have hf : ∀ v, KeepsMem (finish v) := fun v => KeepsMem.bind (modCtx_keepsMem _) fun _ => KeepsMem.pure _
  split
  · exact hf _
  · exact KeepsMem.throw _
  refine KeepsMem.bind (by simp) fun ws => ?_
  extract_lets jp
  have hj : ∀ pa, KeepsMem (jp pa) := by
    intro pa
    refine KeepsMem.bind (by simp) fun _ => KeepsMem.bind (by simp) fun _ => KeepsMem.bind (ask_keepsMem _) fun o => ?_
    split
    · exact hf 1
    refine KeepsMem.bind (ask_keepsMem _) fun cube => KeepsMem.ite ?_ ?_
    · refine KeepsMem.bind (ask_keepsMem _) fun b => KeepsMem.ite (hf 5) ?_
      exact KeepsMem.bind (KeepsMem.act_iff.mpr fun s h => by simpa using h) fun _ => KeepsMem.throw _
    · refine KeepsMem.bind (ask_keepsMem _) fun p => ?_
      split
      refine KeepsMem.ite (hf _) ?_
      split
      · exact KeepsMem.bind (KeepsMem.act_iff.mpr fun s h => h) fun _ =>
          KeepsMem.bind (modCtx_keepsMem _) fun _ => KeepsMem.throw _
      · exact KeepsMem.bind (KeepsMem.act_iff.mpr fun s h => by simpa using h) fun _ => hf 0
  exact KeepsMem.ite (KeepsMem.bind (KeepsMem.pure _) hj) (KeepsMem.bind (translate_keepsMem _ _) hj)

@[simp] theorem State.zeroScratch_wf (s : State) (fi : Nat) (h : s.mem.wf = true) : (s.zeroScratch fi).mem.wf = true :=
  Memory.wf_filter _ h

@[simp] theorem State.applySurr_mem (s : State) (fi : Nat) (b : Bool) : (s.applySurr fi b).mem = s.mem := by
  simp [State.applySurr]

@[simp] theorem State.writeSurr_mem (s : State) (fi : Nat) (b : Bool) : (s.writeSurr fi b).mem = s.mem := by
  simp [State.writeSurr]

@[simp] theorem State.afterL2_mem (s : State) (fi : Nat) : (s.afterL2 fi).mem = s.mem := by
  simp only [State.afterL2]
  split <;> simp

@[simp] theorem State.finishSurrender_wf (s : State) (fi : Nat) (h : s.mem.wf = true) :
    (s.finishSurrender fi).mem.wf = true := by
  have h1 := foldl_wf (fun s (e : Nat × L2Line) h => State.cleanLine_wf s fi e.1 h) (s.field fi).highLines s h
  have h2 := foldl_wf (f := fun s (e : Nat × L2Line) => (s.dropLine fi e.1).unhold fi e.1) (fun s e h => by simp [h])
    (s.field fi).highLines _ h1
  simpa only [State.finishSurrender, State.modField_mem] using State.zeroScratch_wf _ fi h2

@[simp] theorem State.surrenderDone_wf (s : State) (fi : Nat) (h : s.mem.wf = true) :
    (s.surrenderDone fi).mem.wf = true := by
  unfold State.surrenderDone
  split <;> simp [h]

@[simp] theorem State.restoreDone_wf (s : State) (fi : Nat) (h : s.mem.wf = true) : (s.restoreDone fi).mem.wf = true := by
  simp [State.restoreDone, h]

@[simp] theorem State.settleL2_wf (s : State) (fi : Nat) (h : s.mem.wf = true) : (s.settleL2 fi).mem.wf = true := by
  simp only [State.settleL2]
  split <;> simp [h]

@[simp] theorem State.emptySlice_wf (s : State) (fi : Nat) (h : s.mem.wf = true) : (s.emptySlice fi).mem.wf = true := by
  have h1 := foldl_wf (fun s ln h => State.cleanLine_wf s fi ln h) ((s.field fi).l2.map Prod.fst) s h
  exact foldl_wf (fun s ln h => by simp [h]) ((s.field fi).l2.map Prod.fst) _ h1

@[simp] theorem State.accept_mem (s : State) (l : Launch) : (s.accept l).mem = s.mem := rfl

@[simp] theorem State.finishEntryLQ_wf (s : State) (pa : Nat) (l : Launch) (st : Nat) (h : s.mem.wf = true) :
    (s.finishEntryLQ pa l st).mem.wf = true := by
  unfold State.finishEntryLQ
  extract_lets seq word
  split
  next s1 hr =>
    have h1 := (State.writeDirect_wf s _ _ _ h).ok hr
    exact ite_wf h1 (by simpa using h1)
  next => exact h

@[simp] theorem State.judgeLnch_mem (s : State) (t : Nat) (l : Launch) (tags : List Bool) :
    (s.judgeLnch t l tags).2.mem = s.mem := by
  simp only [State.judgeLnch]
  split <;> simp

theorem State.judgeFirst_mem (s : State) {u : State} (hu : s.judgeFirst = some u) : u.mem = s.mem := by
  simp only [State.judgeFirst] at hu
  repeat' split at hu
  · cases hu
  · cases hu
  · cases hu
    simp

theorem State.readBlock_wf (s : State) (pa : Nat) (h : s.mem.wf = true) : (s.readBlock pa).Wf := by
  have hr := State.readWords_wf 64 s pa h
  unfold State.readBlock
  split
  · exact hr.ok ‹_›
  · exact hr.stall ‹_›
  · trivial

@[simp] theorem State.takeEntry_wf (s : State) (h : s.mem.wf = true) : s.takeEntry.mem.wf = true := by
  unfold State.takeEntry
  extract_lets q cap pa
  refine ite_wf h (ite_wf h ?_)
  split
  next ws s1 hr =>
    have h1 := (State.readWords_wf 4 s _ h).ok hr
    extract_lets w blk part asid rsvd mk
    split
    · exact State.finishEntryLQ_wf _ _ _ _ ((State.readBlock_wf s1 blk h1).ok ‹_›)
    · exact State.finishEntryLQ_wf s1 _ _ _ h1
  next => exact h
  next => exact h

@[simp] theorem State.launchQueueEntry_wf (s : State) (h : s.mem.wf = true) : s.launchQueueEntry.mem.wf = true := by
  unfold State.launchQueueEntry
  cases hj : s.judgeFirst with
  | none => exact State.takeEntry_wf s h
  | some u => rwa [Option.getD_some, State.judgeFirst_mem s hj]

@[simp] theorem State.beforeActions_wf (s : State) (l : Launch) (h : s.mem.wf = true) :
    (s.beforeActions l).mem.wf = true := by
  refine foldl_wf (fun s i h => ite_wf (foldl_wf State.zRecall_wf _ s h) ?_) _ s h
  rw [foldl_mem (fun s f => State.dropLeases_mem s f _)]
  exact foldl_wf State.zDrop_wf _ s h

@[simp] theorem State.afterActions_wf (s : State) (l : Launch) (h : s.mem.wf = true) :
    (s.afterActions l).mem.wf = true := by
  refine foldl_wf (fun s i h => foldl_wf (fun s f h => foldl_wf (fun s ln h => ?_) _ s h) _ s h) _ s h
  have hc := State.cleanLine_wf s f ln h
  exact ite_wf (State.dropLine_wf _ f ln hc) hc

@[simp] theorem State.bindField_wf (s : State) (lid fi : Nat) (h : s.mem.wf = true) :
    (s.bindField lid fi).mem.wf = true := by
  simp [State.bindField, h]

@[simp] theorem State.bindLaunch_wf (s : State) (l : Launch) (fs : List Nat) (h : s.mem.wf = true) :
    (s.bindLaunch l fs).mem.wf = true := by
  simp only [State.bindLaunch, State.askRun_mem, State.setLaunch_mem]
  exact foldl_wf (fun s f h => State.bindField_wf s l.lid f h) fs s h

@[simp] theorem State.finishBind_wf (s : State) (l : Launch) (h : s.mem.wf = true) : (s.finishBind l).mem.wf = true := by
  simp [State.finishBind, h]

@[simp] theorem State.bindc_wf (s : State) (v : Word) (h : s.mem.wf = true) : (s.bindc v).mem.wf = true := by
  simp only [State.bindc]
  repeat' split
  all_goals simp [h]

@[simp] theorem State.startInitial_mem (s : State) (core : Nat) (k : Task) : (s.startInitial core k).mem = s.mem := by
  simp only [State.startInitial]
  repeat' split
  all_goals simp

@[simp] theorem State.releaseStage_mem (s : State) (lid st : Nat) : (s.releaseStage lid st).mem = s.mem := by
  simp only [State.releaseStage]
  split
  · rfl
  repeat' split
  · rfl
  · simp
  · exact (foldl_mem (fun s c => State.modCore_mem s c _) _ _).trans (State.modLaunch_mem s lid _)

@[simp] theorem State.completionStore_wf (s : State) (l : Launch) (h : s.mem.wf = true) :
    (s.completionStore l).2.mem.wf = true := by
  have ht := State.hubTranslate_wf s l.asid l.cmpl { w := true, stores := true } h
  unfold State.completionStore
  split
  · exact wf_of_snd ht ‹_›
  next pa s1 hr =>
    have h1 := wf_of_snd ht hr
    repeat' split
    any_goals exact h1
    exact (State.writeDirect_wf s1 _ _ _ h1).ok ‹_›

@[simp] theorem State.unbind_mem (s : State) (l : Launch) : (s.unbind l).mem = s.mem := by
  simp only [State.unbind]
  refine foldl_mem (fun s e => ?_) _ _
  all_goals simp

theorem State.complete_wf (s : State) (lid : Nat) {writeBack : State → Launch → State}
    (hw : ∀ s l, s.mem.wf = true → (writeBack s l).mem.wf = true) (h : s.mem.wf = true) : (s.complete lid writeBack).mem.wf = true := by
  unfold State.complete
  split
  · exact h
  next l _ =>
    refine ite_wf h ?_
    extract_lets s1 r u q s2 s3
    have hr : r.2.mem.wf = true := State.completionStore_wf s1 l (hw _ l (State.afterActions_wf s _ h))
    have h2 : s2.mem.wf = true := ite_wf hr hr
    have h3 : s3.mem.wf = true := ite_wf (by simpa using h2) h2
    simpa using h3

end Sys2Proof.Machine
end

section
namespace Sys2Proof.Machine
open Sys2Proof

/-! ## Memory stays in its canonical form: Tasks, synchronization, control registers and frames -/

@[simp] theorem myLaunch_keepsMem : KeepsMem (myLaunch) := by
  simp only [myLaunch]
  repeat' with_reducible refine KeepsMem.bind ?_ fun _ => ?_
  repeat' split
  all_goals simp

@[simp] theorem holdSlot_keepsMem {α : Type} : KeepsMem ((holdSlot) : M α) := by
  simp only [holdSlot]
  repeat' with_reducible refine KeepsMem.bind ?_ fun _ => ?_
  all_goals simp

@[simp] theorem exchanged_keepsMem : KeepsMem (exchanged) := by
  simp [exchanged]

@[simp] theorem spawnRecord_keepsMem (x : Ctx) (f : Fields) (l : Launch) (range : Bool) :
    KeepsMem (spawnRecord x f l range) := by
  simp only [spawnRecord]
  repeat' with_reducible refine KeepsMem.bind ?_ fun _ => ?_
  all_goals simp

@[simp] theorem placeTask_keepsMem (l : Launch) (ws : List Word) : KeepsMem (placeTask l ws) := by
  unfold placeTask
  refine KeepsMem.bind (ask_keepsMem _) fun me => KeepsMem.bind (ask_keepsMem _) fun o => ?_
  split <;> simp

@[simp] theorem bodySpawn_keepsMem (f : Fields) : KeepsMem (bodySpawn f) := by
  simp only [bodySpawn]
  repeat' with_reducible refine KeepsMem.bind ?_ fun _ => ?_
  repeat' split
  repeat' with_reducible refine KeepsMem.bind ?_ fun _ => ?_
  all_goals simp

@[simp] theorem bodySpawnr_keepsMem (f : Fields) : KeepsMem (bodySpawnr f) := by
  simp only [bodySpawnr]
  repeat' with_reducible refine KeepsMem.bind ?_ fun _ => ?_
  repeat' split
  repeat' with_reducible refine KeepsMem.bind ?_ fun _ => ?_
  all_goals simp

@[simp] theorem bodyRnext_keepsMem (f : Fields) : KeepsMem (bodyRnext f) := by
  simp only [bodyRnext]
  repeat' with_reducible refine KeepsMem.bind ?_ fun _ => ?_
  repeat' split
  all_goals simp

@[simp] theorem doneCopies_keepsMem : KeepsMem (doneCopies) := by
  simp only [doneCopies]
  repeat' with_reducible refine KeepsMem.bind ?_ fun _ => ?_
  all_goals simp

theorem markEnding_keepsMem {m : M Ctl} (hm : KeepsMem m) : KeepsMem (markEnding m) := by
  intro s h
  unfold markEnding
  split
  · exact h
  · exact hm s h

@[simp] theorem doneSteps_keepsMem : KeepsMem doneSteps := by
  unfold doneSteps
  repeat' with_reducible refine KeepsMem.bind ?_ fun _ => ?_
  any_goals (simp; done)
  extract_lets last jp
  have hl : ∀ u, KeepsMem (last u) := fun u => KeepsMem.pure _
  have hj : ∀ u, KeepsMem (jp u) := by
    intro u
    refine KeepsMem.bind (ask_keepsMem _) fun _ => KeepsMem.bind (waitFor_keepsMem _) fun _ =>
      KeepsMem.bind (ask_keepsMem _) fun _ => ?_
    refine KeepsMem.bind (waitFor_keepsMem _) fun _ =>
      KeepsMem.bind (KeepsMem.act_iff.mpr fun s h => by simp [h]) fun _ => ?_
    split
    · exact KeepsMem.bind (KeepsMem.act_iff.mpr fun s h => by simp [h]) hl
    · exact hl ()
  exact KeepsMem.ite (KeepsMem.bind (by simp) hj) (KeepsMem.bind (by simp) hj)

@[simp] theorem bodyDone_keepsMem (f : Fields) : KeepsMem (bodyDone f) := markEnding_keepsMem doneSteps_keepsMem

@[simp] theorem lnchBlock_keepsMem (va : Word) (pa : Nat) : KeepsMem (lnchBlock va pa) := by
  unfold lnchBlock
  refine KeepsMem.bind (ask_keepsMem _) fun me => KeepsMem.bind (by simp) fun _ => KeepsMem.get_bind fun s h => ?_
  split
  · exact KeepsMem.bind (set_keepsMem ((State.loadEls_wf _ _ _ s h).done ‹_›)) fun _ => KeepsMem.pure _
  · exact KeepsMem.throw _
  · exact KeepsMem.throw _

@[simp] theorem lnchEnd_keepsMem (f : Fields) (w : Word) : KeepsMem (lnchEnd f w) := by
  simp [lnchEnd]

@[simp] theorem lnchSend_keepsMem (f : Fields) : KeepsMem (lnchSend f) := by
  unfold lnchSend
  refine KeepsMem.bind getCtx_keepsMem fun x => KeepsMem.bind (ask_keepsMem _) fun me =>
    KeepsMem.bind (ask_keepsMem _) fun part => ?_
  refine KeepsMem.bind (need_keepsMem _ _ _) fun _ => KeepsMem.bind (ask_keepsMem _) fun _ =>
    KeepsMem.bind (need_keepsMem _ _ _) fun _ => ?_
  refine KeepsMem.bind (by simp) fun pa => KeepsMem.bind (by simp) fun _ =>
    KeepsMem.bind (lnchBlock_keepsMem _ _) fun b => ?_
  split
  refine KeepsMem.bind (ask_keepsMem _) fun asid => KeepsMem.bind (ask_keepsMem _) fun name => ?_
  extract_lets l
  refine KeepsMem.bind (ask_keepsMem _) fun b => KeepsMem.ite (KeepsMem.ask_bind fun s h => ?_) ?_
  · have hj : ∀ tags, (s.judgeLnch me l tags).2.mem.wf = true := fun tags => by simpa using h
    exact KeepsMem.bind (set_keepsMem (hj _)) fun _ => lnchEnd_keepsMem _ _
  · exact KeepsMem.bind (KeepsMem.act_iff.mpr fun s h => h) fun _ => holdSlot_keepsMem

@[simp] theorem bodyLnch_keepsMem (f : Fields) : KeepsMem (bodyLnch f) := by
  simp only [bodyLnch]
  repeat' with_reducible refine KeepsMem.bind ?_ fun _ => ?_
  repeat' split
  all_goals simp

@[simp] theorem bodyWcfg_keepsMem (f : Fields) : KeepsMem (bodyWcfg f) := by
  simp only [bodyWcfg]
  repeat' with_reducible refine KeepsMem.bind ?_ fun _ => ?_
  all_goals simp

@[simp] theorem bodyWqry_keepsMem (f : Fields) : KeepsMem (bodyWqry f) := by
  simp only [bodyWqry]
  repeat' with_reducible refine KeepsMem.bind ?_ fun _ => ?_
  all_goals simp

@[simp] theorem State.wqryAnswer_wf (s : State) (fi : Nat) (h : s.mem.wf = true) : (s.wqryAnswer fi).mem.wf = true := by
  simp only [State.wqryAnswer]
  split <;> simp [h]

@[simp] theorem State.depart_mem (s : State) (lid scope inst b phase : Nat) :
    (s.depart lid scope inst b phase).mem = s.mem := by
  simp [State.depart]

@[simp] theorem State.arrive_mem (s : State) (t : Nat) (l : Launch) (scope b : Nat) :
    (s.arrive t l scope b).2.mem = s.mem := by
  simp only [State.arrive]
  repeat' split
  all_goals simp

@[simp] theorem arriveAt_keepsMem (f : Fields) : KeepsMem (arriveAt f) := by
  unfold arriveAt
  refine KeepsMem.bind (ask_keepsMem _) fun me => KeepsMem.bind (by simp) fun _ => KeepsMem.bind (by simp) fun l => ?_
  refine KeepsMem.bind (fun s h => ?_) fun ph => KeepsMem.pure _
  show (s.arrive _ _ _ _).2.mem.wf = true
  simpa using h

@[simp] theorem awaitPhase_keepsMem (scope inst b phase : Nat) : KeepsMem (awaitPhase scope inst b phase) := by
  simp only [awaitPhase]
  repeat' with_reducible refine KeepsMem.bind ?_ fun _ => ?_
  all_goals simp

@[simp] theorem bodyBar_keepsMem (f : Fields) : KeepsMem (bodyBar f) := by
  simp only [bodyBar]
  repeat' with_reducible refine KeepsMem.bind ?_ fun _ => ?_
  all_goals simp

@[simp] theorem bodyBara_keepsMem (f : Fields) : KeepsMem (bodyBara f) := by
  simp only [bodyBara]
  repeat' with_reducible refine KeepsMem.bind ?_ fun _ => ?_
  all_goals simp

@[simp] theorem bodyBarw_keepsMem (f : Fields) : KeepsMem (bodyBarw f) := by
  simp only [bodyBarw]
  repeat' with_reducible refine KeepsMem.bind ?_ fun _ => ?_
  all_goals simp

@[simp] theorem State.notifyCtx_mem (s : State) (t : Nat) (v : Word) : (s.notifyCtx t v).mem = s.mem := by
  simp only [State.notifyCtx]
  split <;> simp

@[simp] theorem State.wakeArrival_mem (s : State) (t : Nat) (v : Word) : (s.wakeArrival t v).mem = s.mem := by
  simp [State.wakeArrival]

@[simp] theorem State.latchDelivery_mem (s : State) (t : Nat) : (s.latchDelivery t).mem = s.mem := by
  simp [State.latchDelivery]

@[simp] theorem State.sleepTimeout_mem (s : State) (t : Nat) : (s.sleepTimeout t).mem = s.mem := by
  simp only [State.sleepTimeout]
  repeat' split
  all_goals simp

@[simp] theorem bodyWake_keepsMem (f : Fields) : KeepsMem (bodyWake f) := by
  simp only [bodyWake]
  repeat' with_reducible refine KeepsMem.bind ?_ fun _ => ?_
  all_goals simp

@[simp] theorem bodySleep_keepsMem (f : Fields) : KeepsMem (bodySleep f) := by
  simp only [bodySleep]
  repeat' with_reducible refine KeepsMem.bind ?_ fun _ => ?_
  repeat' split
  repeat' with_reducible refine KeepsMem.bind ?_ fun _ => ?_
  all_goals simp

@[simp] theorem bodyEvq_keepsMem (f : Fields) : KeepsMem (bodyEvq f) := by
  unfold bodyEvq
  refine KeepsMem.guarded (modCtx_keepsMem _) fun _ => KeepsMem.bind getCtx_keepsMem fun x => ?_
  split
  · refine KeepsMem.ite (KeepsMem.bind (modCtx_keepsMem _) fun _ => ?_) ?_
    · exact KeepsMem.bind (KeepsMem.throw _) fun _ => KeepsMem.pure _
    · exact KeepsMem.bind (modCtx_keepsMem _) fun _ => KeepsMem.pure _
  · exact KeepsMem.bind (modCtx_keepsMem _) fun _ => KeepsMem.pure _

@[simp] theorem bodyRatq_keepsMem (f : Fields) : KeepsMem (bodyRatq f) := by
  simp only [bodyRatq]
  repeat' with_reducible refine KeepsMem.bind ?_ fun _ => ?_
  all_goals simp

@[simp] theorem bodyRatr_keepsMem (f : Fields) : KeepsMem (bodyRatr f) := by
  simp only [bodyRatr]
  repeat' with_reducible refine KeepsMem.bind ?_ fun _ => ?_
  repeat' split
  repeat' with_reducible refine KeepsMem.bind ?_ fun _ => ?_
  all_goals simp

@[simp] theorem State.flushCtx_mem (s : State) (core : Nat) : (s.flushCtx core).mem = s.mem := rfl

@[simp] theorem State.resumeCtx_mem (s : State) (core : Nat) : (s.resumeCtx core).mem = s.mem := by
  simp only [State.resumeCtx]
  split <;> simp

@[simp] theorem State.writeCtxctl_mem (s : State) (core v : Nat) : (s.writeCtxctl core v).mem = s.mem := by
  simp only [State.writeCtxctl]
  repeat' split
  all_goals simp

@[simp] theorem State.setCsr_mem (s : State) (t n : Nat) (v : Word) : (s.setCsr t n v).mem = s.mem := by
  simp only [State.setCsr]
  repeat' split
  all_goals simp

@[simp] theorem State.settleShoots_mem (s : State) : s.settleShoots.mem = s.mem := by
  simp only [State.settleShoots]
  split <;> simp

@[simp] theorem State.startShoot_mem (s : State) (kind va who : Nat) : (s.startShoot kind va who).2.mem = s.mem := by
  simp [State.startShoot]

@[simp] theorem levelFault_keepsMem {α : Type} : KeepsMem ((levelFault) : M α) := by
  simp only [levelFault]
  repeat' with_reducible refine KeepsMem.bind ?_ fun _ => ?_
  all_goals simp

@[simp] theorem needSup_keepsMem : KeepsMem (needSup) := by
  simp only [needSup]
  repeat' with_reducible refine KeepsMem.bind ?_ fun _ => ?_
  all_goals simp

@[simp] theorem bodyTrap_keepsMem (f : Fields) : KeepsMem (bodyTrap f) := by
  simp [bodyTrap]

@[simp] theorem State.assertEclipse_mem (s : State) (p : Nat) : (s.assertEclipse p).mem = s.mem := rfl

@[simp] theorem bodyBkpt_keepsMem (f : Fields) : KeepsMem (bodyBkpt f) := by
  simp only [bodyBkpt]
  repeat' with_reducible refine KeepsMem.bind ?_ fun _ => ?_
  repeat' split
  repeat' with_reducible refine KeepsMem.bind ?_ fun _ => ?_
  all_goals simp

@[simp] theorem bodySret_keepsMem (x0 : Fields) : KeepsMem (bodySret x0) := by
  simp only [bodySret]
  repeat' with_reducible refine KeepsMem.bind ?_ fun _ => ?_
  all_goals simp

@[simp] theorem bodyHalt_keepsMem (x0 : Fields) : KeepsMem (bodyHalt x0) := by
  simp only [bodyHalt]
  repeat' with_reducible refine KeepsMem.bind ?_ fun _ => ?_
  all_goals simp

@[simp] theorem bodyIrq_keepsMem (f : Fields) : KeepsMem (bodyIrq f) := by
  simp only [bodyIrq]
  repeat' with_reducible refine KeepsMem.bind ?_ fun _ => ?_
  repeat' split
  repeat' with_reducible refine KeepsMem.bind ?_ fun _ => ?_
  all_goals simp

@[simp] theorem accessesDone_keepsMem : KeepsMem (accessesDone) := by
  simp only [accessesDone]
  repeat' with_reducible refine KeepsMem.bind ?_ fun _ => ?_
  all_goals simp

@[simp] theorem csrAccess_keepsMem (n : Nat) (reads writes : Bool) : KeepsMem (csrAccess n reads writes) := by
  simp only [csrAccess]
  repeat' with_reducible refine KeepsMem.bind ?_ fun _ => ?_
  repeat' split
  repeat' with_reducible refine KeepsMem.bind ?_ fun _ => ?_
  all_goals simp

@[simp] theorem bodyCsrr_keepsMem (f : Fields) : KeepsMem (bodyCsrr f) := by
  simp only [bodyCsrr]
  repeat' with_reducible refine KeepsMem.bind ?_ fun _ => ?_
  all_goals simp

@[simp] theorem csrPut_keepsMem (n : Nat) (v old : Word) : KeepsMem (csrPut n v old) := by
  simp only [csrPut]
  repeat' with_reducible refine KeepsMem.bind ?_ fun _ => ?_
  repeat' split
  repeat' with_reducible refine KeepsMem.bind ?_ fun _ => ?_
  all_goals simp

@[simp] theorem csrHeld_keepsMem (old : Nat) : KeepsMem (csrHeld old) := by
  simp only [csrHeld]
  repeat' with_reducible refine KeepsMem.bind ?_ fun _ => ?_
  repeat' split
  repeat' with_reducible refine KeepsMem.bind ?_ fun _ => ?_
  all_goals simp

@[simp] theorem bodyCsrw_keepsMem (f : Fields) : KeepsMem (bodyCsrw f) := by
  simp only [bodyCsrw]
  repeat' with_reducible refine KeepsMem.bind ?_ fun _ => ?_
  repeat' split
  repeat' with_reducible refine KeepsMem.bind ?_ fun _ => ?_
  all_goals simp

@[simp] theorem bodyCsrx_keepsMem (f : Fields) : KeepsMem (bodyCsrx f) := by
  simp only [bodyCsrx]
  repeat' with_reducible refine KeepsMem.bind ?_ fun _ => ?_
  repeat' split
  repeat' with_reducible refine KeepsMem.bind ?_ fun _ => ?_
  all_goals simp

@[simp] theorem tlbi_keepsMem (f : Fields) (kind va who : Nat) : KeepsMem (tlbi f kind va who) := by
  unfold tlbi
  refine KeepsMem.bind getCtx_keepsMem fun x => KeepsMem.ite ?_ ?_
  · split
    · refine KeepsMem.bind (ask_keepsMem _) fun b => KeepsMem.ite ?_ ?_
      · exact KeepsMem.bind (KeepsMem.throw _) fun _ => KeepsMem.bind (modCtx_keepsMem _) fun _ => KeepsMem.pure _
      · exact KeepsMem.bind (modCtx_keepsMem _) fun _ => KeepsMem.pure _
    · refine KeepsMem.bind (by simp) fun _ => KeepsMem.bind (fun s h => ?_) fun q => ?_
      · show (s.startShoot kind va who).2.mem.wf = true
        simpa using h
      · exact KeepsMem.bind (modCtx_keepsMem _) fun _ => KeepsMem.throw _
  · exact KeepsMem.bind (KeepsMem.act_iff.mpr fun s h => h) fun _ => KeepsMem.pure _

@[simp] theorem spaceOf_keepsMem (v : Word) : KeepsMem (spaceOf v) := by
  simp [spaceOf]

@[simp] theorem bodyTlbiVa_keepsMem (f : Fields) : KeepsMem (bodyTlbiVa f) := by
  simp only [bodyTlbiVa]
  repeat' with_reducible refine KeepsMem.bind ?_ fun _ => ?_
  all_goals simp

@[simp] theorem bodyTlbiAs_keepsMem (f : Fields) : KeepsMem (bodyTlbiAs f) := by
  simp only [bodyTlbiAs]
  repeat' with_reducible refine KeepsMem.bind ?_ fun _ => ?_
  all_goals simp

@[simp] theorem bodyTlbiAll_keepsMem (f : Fields) : KeepsMem (bodyTlbiAll f) := by
  simp only [bodyTlbiAll]
  repeat' with_reducible refine KeepsMem.bind ?_ fun _ => ?_
  all_goals simp

theorem State.writeWords_wf (ws : List Word) : ∀ (s : State) (pa : Nat) {u : State}, s.mem.wf = true →
    s.writeWords pa ws = some u → u.mem.wf = true := by
  induction ws with
  | nil =>
    rintro s pa u h ⟨⟩
    exact h
  | cons w ws ih =>
    intro s pa u h hu
    have hw := State.writeDirect_wf s pa 8 w.toNat h
    unfold State.writeWords at hu
    split at hu
    · exact ih _ _ (hw.ok ‹_›) hu
    · cases hu

@[simp] theorem reserveReply_keepsMem (q : Nat) : KeepsMem (reserveReply q) := by
  unfold reserveReply
  refine KeepsMem.bind getCtx_keepsMem fun x => KeepsMem.bind (ask_keepsMem _) fun me => KeepsMem.ite (KeepsMem.pure _) ?_
  refine KeepsMem.bind (fun s h => ?_) fun first => KeepsMem.bind (ask_keepsMem _) fun o => ?_
  · show (s.queueFor _ _ _).2.mem.wf = true
    simpa using h
  · split
    · exact KeepsMem.throw _
    · have ha : ∀ c g, KeepsMem (act fun s : State => (s.unqueue me c q).modCore c g) := fun c g => by simp
      exact KeepsMem.ite (KeepsMem.bind (KeepsMem.throw _) fun _ => KeepsMem.bind (ha _ _) fun _ => modCtx_keepsMem _)
        (KeepsMem.bind (ha _ _) fun _ => modCtx_keepsMem _)

@[simp] theorem postRecord_keepsMem (p : Nat) (ws : List Word) : KeepsMem (postRecord p ws) := by
  unfold postRecord
  refine KeepsMem.bind (ask_keepsMem _) fun q => ?_
  extract_lets stop write check
  have hs : KeepsMem (act stop) := KeepsMem.act_iff.mpr fun s h => h
  have hw : ∀ u, KeepsMem (write u) := by
    refine fun u => KeepsMem.get_bind fun s h => ?_
    split
    · exact KeepsMem.bind hs fun _ => KeepsMem.throw _
    next s1 hr => exact set_keepsMem (by simpa using State.writeWords_wf ws s _ h hr)
  have hc : ∀ u, KeepsMem (check u) := fun u => KeepsMem.ite (KeepsMem.bind hs fun _ =>
    KeepsMem.bind (KeepsMem.throw _) hw) (hw ())
  exact KeepsMem.ite (KeepsMem.bind (KeepsMem.throw _) hc) (hc ())

@[simp] theorem releaseKeep_keepsMem : KeepsMem releaseKeep := by
  intro s h
  have hr := releaseOrder_keepsMem
  unfold releaseKeep
  split
  next hu => exact hr.ok h hu
  next hu => exact hr.error h hu

@[simp] theorem bodySysc_keepsMem (f : Fields) : KeepsMem (bodySysc f) := by
  simp only [bodySysc]
  repeat' with_reducible refine KeepsMem.bind ?_ fun _ => ?_
  repeat' split
  repeat' with_reducible refine KeepsMem.bind ?_ fun _ => ?_
  repeat' split
  repeat' with_reducible refine KeepsMem.bind ?_ fun _ => ?_
  all_goals simp

theorem State.hubRead_wf (s : State) (pa n : Nat) {v : Nat} {u : State} (h : s.mem.wf = true)
    (hu : s.hubRead pa n = some (v, u)) :
    u.mem.wf = true := by
  have hr := State.readDirect_wf s pa n h
  unfold State.hubRead at hu
  repeat' split at hu
  · cases hu
  · cases hu
  · cases hu
    exact hr.ok ‹_›
  · cases hu

@[simp] theorem State.poisonLine_mem (s : State) (pa : Nat) : (s.poisonLine pa).mem = s.mem := by
  unfold State.poisonLine
  split <;> rfl

@[simp] theorem State.failBacking_wf (s : State) (t : Nat) (h : s.mem.wf = true) : (s.failBacking t).mem.wf = true := by
  simp [State.failBacking, h]

@[simp] theorem State.failLine_wf (s : State) (core : Nat) (t : Option Nat) (h : s.mem.wf = true) :
    (s.failLine core t).mem.wf = true := by
  simp only [State.failLine]
  split <;> simp [h]

theorem State.pageToMem_wf (k : Nat) : ∀ (s : State) (loc pa : Nat) {u : State}, s.mem.wf = true →
    s.pageToMem loc pa k = some u → u.mem.wf = true := by
  induction k with
  | zero =>
    rintro s loc pa u h ⟨⟩
    exact h
  | succ k ih =>
    intro s loc pa u h hu
    unfold State.pageToMem at hu
    split at hu
    next s1 hs =>
      have h1 := State.hubWrite_wf s pa 128 _ h hs
      exact ih _ _ _ (ite_wf (by simpa using h1) h1) hu
    next => cases hu

theorem State.pageToVault_wf (k : Nat) : ∀ (s : State) (loc pa : Nat) {u : State}, s.mem.wf = true →
    s.pageToVault loc pa k = some u → u.mem.wf = true := by
  induction k with
  | zero =>
    rintro s loc pa u h ⟨⟩
    exact h
  | succ k ih =>
    intro s loc pa u h hu
    unfold State.pageToVault at hu
    split at hu
    next v s1 hs => exact ih _ _ _ (Memory.wf_setVal _ _ _ (State.hubRead_wf s pa 128 h hs)) hu
    next => cases hu

@[simp] theorem State.cleanFrame_mem (s : State) (loc : Nat) : (s.cleanFrame loc).mem = s.mem := by
  simp [State.cleanFrame]

@[simp] theorem State.frameOut_wf (s : State) (core k : Nat) (h : s.mem.wf = true) :
    (s.frameOut core k).mem.wf = true := by
  unfold State.frameOut
  split
  next f l _ _ =>
    refine ite_wf h ?_
    extract_lets clean t va
    have ht := State.hubTranslate_wf s l.asid va { r := true, w := true } h
    split
    next pa s1 hr =>
      have h1 := wf_of_snd ht hr
      split
      next s2 hs => exact (State.pageToMem_wf 32 s1 _ pa h1 hs :)
      next => exact State.failLine_wf (clean s1) core t h1
    next s1 hr =>
      have h1 := wf_of_snd ht hr
      exact State.failLine_wf (clean s1) core t h1
  next => exact h

@[simp] theorem State.frameDrop_wf (s : State) (core k : Nat) (h : s.mem.wf = true) :
    (s.frameDrop core k).mem.wf = true := by
  simp [State.frameDrop, h]

@[simp] theorem State.moveFrame_wf (s : State) (core a b : Nat) (h : s.mem.wf = true) :
    (s.moveFrame core a b).mem.wf = true := by
  simp only [State.moveFrame]
  split
  · exact h
  · simp [h, Memory.wf_setVal]

theorem State.freeFrame_wf (s : State) (core k : Nat) {u : State} (h : s.mem.wf = true)
    (hu : s.freeFrame core k = some u) :
    u.mem.wf = true := by
  unfold State.freeFrame at hu
  repeat' split at hu
  · cases hu
    exact State.frameDrop_wf s core k h
  · cases hu
  · cases hu
  · cases hu
    exact State.moveFrame_wf _ core k _ (State.frameDrop_wf s core _ h)

@[simp] theorem State.pickFrame_mem (s : State) (core page : Nat) (named : Bool) :
    (s.pickFrame core page named).2.mem = s.mem := by
  unfold State.pickFrame
  split <;> rfl

@[simp] theorem State.fillFrame_wf (s : State) (t page k : Nat) (named : Bool) (l : Launch) (h : s.mem.wf = true) :
    (s.fillFrame t page k named l).mem.wf = true := by
  unfold State.fillFrame
  extract_lets core loc first f enter s0
  have h0 : s0.mem.wf = true := by simp [s0, h]
  refine ite_wf ?_ ?_
  · simp [enter, h0, Memory.wf_setVal]
  have ht := State.hubTranslate_wf s0 l.asid (l.pageVa t page named) { r := true, w := true } h0
  split
  next pa s1 hr =>
    have h1 := wf_of_snd ht hr
    split
    next s2 hs => exact (State.pageToVault_wf 32 s1 loc pa h1 hs :)
    next => exact State.failBacking_wf s1 t h1
  next s1 hr => exact State.failBacking_wf s1 t (wf_of_snd ht hr)

@[simp] theorem State.pageFill_wf (s : State) (core : Nat) (h : s.mem.wf = true) : (s.pageFill core).mem.wf = true := by
  unfold State.pageFill
  extract_lets c fi
  split
  · exact h
  next t page rest _ =>
    extract_lets answered named
    have ha : answered.mem.wf = true := h
    refine ite_wf h (ite_wf ha ?_)
    split
    · exact ha
    next l _ =>
      have hp : (answered.pickFrame core page named).2.mem.wf = true := by simpa using ha
      split
      next k s1 hr =>
        split
        · exact State.fillFrame_wf _ t page k named l (State.freeFrame_wf s1 core k (wf_of_snd hp hr) ‹_›)
        · exact h
      next => exact h

@[simp] theorem State.flushComplete_wf (s : State) (core : Nat) (h : s.mem.wf = true) :
    (s.flushComplete core).mem.wf = true := by
  unfold State.flushComplete
  refine ite_wf h ?_
  rw [State.modCore_mem]
  refine foldl_wf (fun s t h => ?_) _ s h
  extract_lets s1 mine
  have h1 : s1.mem.wf = true := by
    simp only [s1]
    split
    · exact State.writeImage_wf s t h ‹_›
    · exact State.failBacking_wf s t h
  exact foldl_wf (fun s (e : Nat × Frame) h => State.frameOut_wf s core e.1 h) _ _ h1

@[simp] theorem State.namedOut_wf (s : State) (l : Launch) (h : s.mem.wf = true) : (s.namedOut l).mem.wf = true :=
  foldl_wf (fun s e h => foldl_wf (fun s f h => State.frameDrop_wf s e.1 f.1 h) _ s h) _ s h

@[simp] theorem State.lineDrowsy_mem (s : State) (t n : Nat) : (s.lineDrowsy t n).mem = s.mem := rfl

@[simp] theorem State.toRegion_wf (s : State) (core ctx line : Nat) (h : s.mem.wf = true) :
    (s.toRegion core ctx line).mem.wf = true := by
  unfold State.toRegion
  extract_lets b out
  refine foldl_wf (fun s e h => ?_) out _ h
  refine ite_wf h ?_
  cases hw : s.hubWrite ((s.core core).ctxb.toNat + e.1 * 8192 + 64 * e.2) 64 ((s.ctx (core * 16 + e.1)).imageLine e.2) with
  | none => exact State.failBacking_wf s _ h
  | some u => exact State.hubWrite_wf s _ _ _ h hw

@[simp] theorem State.touchLine_wf (s : State) (t n : Nat) (h : s.mem.wf = true) : (s.touchLine t n).mem.wf = true := by
  unfold State.touchLine
  extract_lets core rest s1
  have h1 : s1.mem.wf = true := h
  split
  · exact State.toRegion_wf s1 core _ _ h1
  · exact h1

@[simp] theorem State.touch_wf (s : State) (t : Nat) (i : Instr) (h : s.mem.wf = true) : (s.touch t i).mem.wf = true :=
  foldl_wf (fun s n h => State.touchLine_wf s t n h) _ s h

end Sys2Proof.Machine
end

section
namespace Sys2Proof.Machine
open Sys2Proof

/-! ## Memory stays in its canonical form: The hub, the clocks, Eclipse and snapshots -/

@[simp] theorem State.landing_mem (s : State) (t : Nat) : (s.landing t).mem = s.mem := by
  simp [State.landing]

@[simp] theorem State.lateFault_wf (s : State) (t : Nat) (h : s.mem.wf = true) : (s.lateFault t).mem.wf = true := by
  simp only [State.lateFault]
  repeat' split
  all_goals simp [h]

@[simp] theorem State.freeLog_mem (s : State) (core k : Nat) : (s.freeLog core k).mem = s.mem := by
  simp [State.freeLog]

theorem State.tryPosted_wf (s : State) (core : Nat) (e : LogEnt) (h : s.mem.wf = true) : (s.tryPosted core e).Wf := by
  have hn := State.storeNow_wf s e.tid 1 e.pa e.size e.mask.toNat e.data.toNat h
  have hp : ∀ c, (s.packetsDone c e).Wf := by
    intro c
    unfold State.packetsDone
    repeat' split
    all_goals simp [h]
  unfold State.tryPosted
  repeat' split
  all_goals simp [h, hn, hp]

@[simp] theorem State.postedAck_wf (s : State) (core k : Nat) (h : s.mem.wf = true) :
    (s.postedAck core k).mem.wf = true := by
  unfold State.postedAck
  split
  · exact h
  · split
    · simpa using (State.tryPosted_wf s core _ h).ok ‹_›
    · exact h

@[simp] theorem State.refuse_wf (s : State) (k : Nat) (e : LogEnt) (h : s.mem.wf = true) :
    (s.refuse k e).mem.wf = true := by
  simp [State.refuse, h]

@[simp] theorem State.postedRefusal_wf (s : State) (core k : Nat) (h : s.mem.wf = true) :
    (s.postedRefusal core k).mem.wf = true := by
  simp only [State.postedRefusal]
  repeat' split
  all_goals simp [h]

@[simp] theorem State.postedTrap_wf (s : State) (t : Nat) (h : s.mem.wf = true) : (s.postedTrap t).mem.wf = true := by
  simp [State.postedTrap, h]

@[simp] theorem State.flagorSet_mem (s : State) (fi : Nat) (fl : BitVec 5) : (s.flagorSet fi fl).mem = s.mem := by
  unfold State.flagorSet
  split <;> rfl

@[simp] theorem State.ageTask_mem (s : State) (fi stamp : Nat) : (s.ageTask fi stamp).mem = s.mem := by
  unfold State.ageTask
  split <;> rfl

@[simp] theorem State.slotRise_mem (s : State) (t : Nat) : (s.slotRise t).mem = s.mem := by
  simp only [State.slotRise]
  split <;> simp

@[simp] theorem State.slotFill_mem (s : State) (core : Nat) : (s.slotFill core).mem = s.mem := by
  simp [State.slotFill]

@[simp] theorem State.quiesceStart_mem (s : State) (core : Nat) : (s.quiesceStart core).mem = s.mem := by
  simp [State.quiesceStart]

@[simp] theorem State.quiesceEnd_wf (s : State) (core : Nat) (h : s.mem.wf = true) :
    (s.quiesceEnd core).mem.wf = true := by
  simp only [State.quiesceEnd]
  repeat' split
  all_goals simp [h]

@[simp] theorem State.rangeSplit_mem (s : State) (core : Nat) : (s.rangeSplit core).mem = s.mem := by
  simp [State.rangeSplit]

@[simp] theorem State.splitPublish_mem (s : State) (fi : Nat) : (s.splitPublish fi).mem = s.mem := by
  unfold State.splitPublish
  split <;> rfl

@[simp] theorem State.tqfree_mem (s : State) (fi : Nat) (v : Word) : (s.tqfree fi v).mem = s.mem := by
  simp [State.tqfree]

@[simp] theorem State.refetch_mem (s : State) (t : Nat) : (s.refetch t).mem = s.mem := by
  unfold State.refetch
  split <;> rfl

@[simp] theorem State.startWalk_mem (s : State) (fi : Nat) : (s.startWalk fi).mem = s.mem := by
  simp only [State.startWalk]
  repeat' split
  all_goals simp

@[simp] theorem State.endWalk_wf (s : State) (fi : Nat) (h : s.mem.wf = true) : (s.endWalk fi).mem.wf = true := by
  simp only [State.endWalk]
  repeat' split
  all_goals simp [h]

@[simp] theorem State.dropLeaves_mem (s : State) (fi : Nat) (q : Shoot) : (s.dropLeaves fi q).mem = s.mem := rfl

@[simp] theorem State.shootAck_mem (s : State) (fi : Nat) : (s.shootAck fi).mem = s.mem := by
  simp only [State.shootAck]
  split <;> simp

@[simp] theorem State.rsctlGo_mem (s : State) (e : Nat) : (s.rsctlGo e).mem = s.mem := by
  simp [State.rsctlGo]

@[simp] theorem State.quietRegions_wf (s : State) (k lo n : Nat) (h : s.mem.wf = true) :
    (s.quietRegions k lo n).mem.wf = true := by
  simp only [State.quietRegions]
  refine foldl_wf (fun s e h => ?_) _ _ h
  repeat' split
  all_goals simp [h]

@[simp] theorem State.copyLines_wf (n : Nat) :
    ∀ (s : State) (a b : Nat), s.mem.wf = true → (s.copyLines a b n).mem.wf = true := by
  induction n with
  | zero => exact fun s a b h => h
  | succ n ih =>
    intro s a b h
    have hc : s.copyLines a b (n + 1) = (s.setLineAt b (s.lineAt a)).copyLines (a + 128) (b + 128) n :=
      State.copyLines.eq_def s a b (n + 1)
    rw [hc]
    exact ih _ _ _ (State.setLineAt_wf s b _ h)

@[simp] theorem State.restripe_wf (s : State) (h : s.mem.wf = true) : s.restripe.mem.wf = true := by
  simp only [State.restripe]
  split
  · exact h
  · split
    · exact h
    · split
      · exact h
      · refine foldl_wf (fun s i h => ?_) _ _ ?_
        · simp [h]
        · split <;> simp [h]

@[simp] theorem State.rsret_mem (s : State) : s.rsret.mem = s.mem := rfl

@[simp] theorem State.zeroVaults_wf (s : State) (fi : Nat) (h : s.mem.wf = true) : (s.zeroVaults fi).mem.wf = true :=
  Memory.wf_filter _ h

@[simp] theorem State.fpartWrite_wf (s : State) (fi : Nat) (v : Word) (h : s.mem.wf = true) :
    (s.fpartWrite fi v).mem.wf = true := by
  have h1 := State.zeroVaults_wf _ fi (State.emptySlice_wf _ fi (State.settleL2_wf s fi h))
  simp only [State.fpartWrite]
  split
  · exact h
  · exact h1

@[simp] theorem State.runGrant_wf (s : State) (h : s.mem.wf = true) : s.runGrant.mem.wf = true := by
  simp only [State.runGrant]
  repeat' split
  all_goals simp [h]

@[simp] theorem State.raisedStart_mem (s : State) : s.raisedStart.mem = s.mem := by
  simp [State.raisedStart]

@[simp] theorem State.tcapStep_mem (s : State) : s.tcapStep.mem = s.mem := by
  simp [State.tcapStep]

@[simp] theorem State.tempChange_mem (s : State) (sensors : List (BitVec 8)) : (s.tempChange sensors).mem = s.mem := by
  simp [State.tempChange]

@[simp] theorem State.tempCritical_mem (s : State) : s.tempCritical.mem = s.mem := by
  simp [State.tempCritical]

@[simp] theorem State.setMer_mem (s : State) (ok : Bool) (m : Meridian) : (s.setMer ok m).mem = s.mem := by
  simp [State.setMer]

@[simp] theorem State.capWrite_mem (s : State) (v : Word) : (s.capWrite v).mem = s.mem := by
  simp [State.capWrite]

@[simp] theorem State.coefWrite_mem (s : State) (d n : Nat) (v : Word) : (s.coefWrite d n v).mem = s.mem := by
  simp [State.coefWrite]

@[simp] theorem State.leakWrite_mem (s : State) (v : Word) : (s.leakWrite v).mem = s.mem := by
  simp [State.leakWrite]

@[simp] theorem State.idleWrite_mem (s : State) (v : Word) : (s.idleWrite v).mem = s.mem := rfl

@[simp] theorem State.thotTok_mem (s : State) (v : Word) : (s.thotTok v).mem = s.mem := by
  simp [State.thotTok]

@[simp] theorem State.pshareWrite_mem (s : State) (p : Nat) (v : Word) : (s.pshareWrite p v).mem = s.mem := by
  simp only [State.pshareWrite]
  split <;> simp

@[simp] theorem State.pctlWrite_mem (s : State) (p : Nat) (v : Word) : (s.pctlWrite p v).mem = s.mem := by
  simp only [State.pctlWrite]
  split <;> simp

@[simp] theorem State.eclipseTick_mem (s : State) (p : Nat) : (s.eclipseTick p).mem = s.mem := by
  simp [State.eclipseTick]

@[simp] theorem State.beginWrap_mem (s : State) (w : Nat) : (s.beginWrap w).mem = s.mem := by
  simp only [State.beginWrap]
  refine foldl_mem (fun s e => ?_) _ _
  all_goals simp

@[simp] theorem State.wrapAnnounce_mem (s : State) : s.wrapAnnounce.mem = s.mem := by
  simp [State.wrapAnnounce]

@[simp] theorem State.fwrap_mem (s : State) : s.fwrap.mem = s.mem := by
  simp [State.fwrap]

@[simp] theorem State.fireTimer_mem (s : State) (fi : Nat) : (s.fireTimer fi).mem = s.mem := by
  simp [State.fireTimer]

@[simp] theorem State.wrapTimer_mem (s : State) (fi : Nat) : (s.wrapTimer fi).mem = s.mem := by
  simp [State.wrapTimer]

@[simp] theorem State.dropAllLeases_mem (s : State) : s.dropAllLeases.mem = s.mem := rfl

@[simp] theorem State.endWrap_mem (s : State) : s.endWrap.mem = s.mem := by
  simp [State.endWrap]

@[simp] theorem State.wrapBeacon_wf (s : State) (n : Nat) (h : s.mem.wf = true) : (s.wrapBeacon n).mem.wf = true := by
  simp [State.wrapBeacon, h]

@[simp] theorem State.wrapComplete_wf (s : State) (h : s.mem.wf = true) : s.wrapComplete.mem.wf = true := by
  simp only [State.wrapComplete]
  split <;> simp [h]

@[simp] theorem State.beacon_wf (s : State) (count : BitVec 40) (wrapn : BitVec 8) (h : s.mem.wf = true) :
    (s.beacon count wrapn).mem.wf = true := by
  simp only [State.beacon]
  repeat' split
  all_goals simp [h]

@[simp] theorem State.beaconLoss_mem (s : State) : s.beaconLoss.mem = s.mem := by
  simp [State.beaconLoss]

@[simp] theorem State.timerCompare_mem (s : State) (fi : Nat) : (s.timerCompare fi).mem = s.mem := by
  simp [State.timerCompare]

@[simp] theorem State.ftcmpWrite_mem (s : State) (fi : Nat) (v : Word) : (s.ftcmpWrite fi v).mem = s.mem := by
  simp only [State.ftcmpWrite]
  split <;> simp

@[simp] theorem State.setFrozen_mem (s : State) (p : Nat) (b : Bool) : (s.setFrozen p b).mem = s.mem := by
  simp only [State.setFrozen]
  refine foldl_mem (fun s e => ?_) _ _
  all_goals simp

@[simp] theorem State.eclipseFreeze_mem (s : State) (p : Nat) : (s.eclipseFreeze p).mem = s.mem := by
  simp [State.eclipseFreeze]

@[simp] theorem State.eclipseRestart_mem (s : State) (p : Nat) : (s.eclipseRestart p).mem = s.mem := by
  simp [State.eclipseRestart]

@[simp] theorem State.eclipseRelease_mem (s : State) (p : Nat) : (s.eclipseRelease p).mem = s.mem := by
  simp only [State.eclipseRelease]
  repeat' split
  all_goals simp

@[simp] theorem State.eclipseArm_mem (s : State) (p : Nat) : (s.eclipseArm p).mem = s.mem := by
  simp only [State.eclipseArm]
  split <;> simp

@[simp] theorem State.eclipseAssert_mem (s : State) (p : Nat) : (s.eclipseAssert p).mem = s.mem := by
  simp only [State.eclipseAssert]
  split <;> simp

@[simp] theorem State.eclipseWrite_mem (s : State) (p v : Nat) : (s.eclipseWrite p v).mem = s.mem := by
  simp only [State.eclipseWrite]
  repeat' split
  all_goals simp

@[simp] theorem State.scanRead_mem (s : State) (sel : ScanSel) : (s.scanRead sel).mem = s.mem := rfl

@[simp] theorem State.setLpmap_mem (s : State) (t j v : Nat) : (s.setLpmap t j v).mem = s.mem := rfl

@[simp] theorem State.setScan_wf (s : State) (sel : ScanSel) (v : Nat) (h : s.mem.wf = true) :
    (s.setScan sel v).mem.wf = true := by
  simp only [State.setScan]
  split <;> simp [h]

@[simp] theorem State.scanWrite_wf (s : State) (sel : ScanSel) (v : Vec) (h : s.mem.wf = true) :
    (s.scanWrite sel v).mem.wf = true := by
  simp [State.scanWrite, h]

@[simp] theorem State.countSoft_mem (s : State) (site : SoftSite) (fixed : Bool) :
    (s.countSoft site fixed).mem = s.mem := by
  unfold State.countSoft
  split <;> rfl

@[simp] theorem State.contextError_wf (s : State) (t : Nat) (h : s.mem.wf = true) : (s.contextError t).mem.wf = true := by
  simp [State.contextError, h]

@[simp] theorem State.loseMessage_mem (s : State) (c q k : Nat) : (s.loseMessage c q k).mem = s.mem := by
  simp only [State.loseMessage]
  repeat' split
  all_goals simp

@[simp] theorem State.softUncorrected_wf (s : State) (site : SoftSite) (h : s.mem.wf = true) :
    (s.softUncorrected site).mem.wf = true := by
  simp only [State.softUncorrected]
  repeat' split
  all_goals simp [h]

@[simp] theorem State.softError_wf (s : State) (site : SoftSite) (corrected : Bool) (h : s.mem.wf = true) :
    (s.softError site corrected).mem.wf = true := by
  simp only [State.softError]
  split <;> simp [h]

/-- The outcome of reads that can fail has memory in its canonical form. -/
def ReadWf {α : Type} : Except Nat (α × State) → Prop
  | .ok p => p.2.mem.wf = true
  | .error _ => True

theorem ReadWf.ok {α : Type} {r : Except Nat (α × State)} (h : ReadWf r) {a : α} {u : State} (hr : r = .ok (a, u)) :
    u.mem.wf = true := by
  rw [hr] at h
  exact h

theorem State.snapReadLines_wf (k : Nat) :
    ∀ (s : State) (pa n : Nat), s.mem.wf = true → ReadWf (s.snapReadLines pa n k) := by
  induction k with
  | zero => exact fun s pa n h => h
  | succ k ih =>
    intro s pa n h
    simp only [State.snapReadLines]
    split
    · exact h
    repeat' split
    any_goals trivial
    next v s1 hv _ bs s2 hr =>
      exact (ih s1 _ _ ((State.readDirect_wf s pa _ h).ok hv)).ok hr

theorem State.snapRead_wf (s : State) (pa n : Nat) (h : s.mem.wf = true) : ReadWf (s.snapRead pa n) :=
  State.snapReadLines_wf _ s pa n h

@[simp] theorem State.snapWrite_wf (bs : List Byte) :
    ∀ (s : State) (pa : Nat), s.mem.wf = true → (s.snapWrite pa bs).2.mem.wf = true := by
  induction bs with
  | nil => exact fun s pa h => h
  | cons b bs ih =>
    intro s pa h
    unfold State.snapWrite
    split
    · exact ih _ _ (State.hubWrite_wf s pa 1 _ h ‹_›)
    · exact h

@[simp] theorem State.snapLines_wf (n : Nat) : ∀ (s : State) (pa : Nat) (bs : List Byte), s.mem.wf = true →
    (s.snapLines pa bs n).2.mem.wf = true := by
  induction n with
  | zero => exact fun s pa bs h => h
  | succ n ih =>
    intro s pa bs h
    unfold State.snapLines
    split
    · exact ih _ _ _ (State.hubWrite_wf s pa 128 _ h ‹_›)
    · exact h

theorem State.slotStep_wf (s : State) (b : Nat) (h : s.mem.wf = true) : ReadWf (s.slotStep b) := by
  have h0 := State.snapRead_wf s b 64 h
  simp only [State.slotStep]
  split
  · split
    · trivial
    · exact h
  next bs s1 hr =>
    have h1 := h0.ok hr
    have h2 := State.snapRead_wf s1 (b + maniOff) (32 * (wordAt bs 2 / 2 ^ 32)) h1
    split
    · exact h1
    split
    · split
      · trivial
      · exact h1
    · exact h2.ok ‹_›

@[simp] theorem State.slotTry_wf (s : State) (b : Nat) (h : s.mem.wf = true) : (s.slotTry b).2.mem.wf = true := by
  unfold State.slotTry
  split
  · exact (State.slotStep_wf s b h).ok ‹_›
  · exact h

@[simp] theorem State.snapEnd_mem (s : State) (k st : Nat) : (s.snapEnd k st).mem = s.mem := by
  simp only [State.snapEnd]
  split <;> simp

theorem ReadWf.of_ok {α : Type} {a : α} {u : State} (h : u.mem.wf = true) : ReadWf (.ok (a, u)) := h

theorem ReadWf.error {α : Type} (c : Nat) : ReadWf (.error c : Except Nat (α × State)) := True.intro

theorem ReadWf.ite {α : Type} {p : Prop} [Decidable p] {a b : Except Nat (α × State)} (ha : ReadWf a) (hb : ReadWf b) :
    ReadWf (if p then a else b) := by
  split
  · exact ha
  · exact hb

theorem State.rangeTable_wf (s : State) (k : Nat) (h : s.mem.wf = true) : ReadWf (s.rangeTable k) := by
  simp only [State.rangeTable]
  split
  · exact ReadWf.error _
  · exact (State.snapRead_wf s _ _ h).ok ‹_›

theorem State.rangeRead_wf (s : State) (k : Nat) (h : s.mem.wf = true) :
    (match s.rangeTable k with
      | .ok (rs, s1) => (.ok rs, s1)
      | .error c => (.error c, s) : Except Nat (List (Nat × Nat)) × State).2.mem.wf = true := by
  split
  · exact (State.rangeTable_wf s k h).ok ‹_›
  · exact h

theorem State.snapChecks_wf (s : State) (k : Nat) (h : s.mem.wf = true) : ReadWf (s.snapChecks k) := by
  unfold State.snapChecks
  extract_lets q
  refine ReadWf.ite (ReadWf.error 1) ?_
  have h1 := State.rangeRead_wf s k h
  split
  next tab s1 hr =>
    have h1 : s1.mem.wf = true := wf_of_snd h1 hr
    have h2 := State.slotTry_wf s1 (q.base 0) h1
    have h3 := State.slotTry_wf _ (q.base 1) h2
    refine ReadWf.ite (ReadWf.error 2) (ReadWf.ite (ReadWf.error 4) ?_)
    cases tab with
    | error c => exact ReadWf.error 5
    | ok rs => exact ReadWf.of_ok h3

@[simp] theorem State.snapData_wf (s : State) (k u : Nat) (bs : List Byte) (h : s.mem.wf = true) :
    (s.snapData k u bs).2.mem.wf = true := by
  unfold State.snapData
  generalize 512 = n
  exact State.snapLines_wf n s _ bs h

/-- The placing of a page has memory in its canonical form. -/
def SnapGot.Wf : SnapGot → Prop
  | .entry _ _ _ s => s.mem.wf = true
  | .wait => True
  | .stop _ s => s.mem.wf = true

theorem SnapGot.Wf.entry {r : SnapGot} (hw : r.Wf) {kind loc : Nat} {h : BitVec 128} {s : State}
    (hr : r = .entry kind loc h s) :
    s.mem.wf = true := by
  rw [hr] at hw
  exact hw

theorem SnapGot.Wf.stop {r : SnapGot} (hw : r.Wf) {n : Nat} {s : State} (hr : r = .stop n s) : s.mem.wf = true := by
  rw [hr] at hw
  exact hw

@[simp] theorem SnapGot.wf_entry (kind loc : Nat) (h : BitVec 128) (s : State) :
    (SnapGot.entry kind loc h s).Wf ↔ s.mem.wf = true := Iff.rfl

@[simp] theorem SnapGot.wf_stop (n : Nat) (s : State) : (SnapGot.stop n s).Wf ↔ s.mem.wf = true := Iff.rfl

@[simp] theorem SnapGot.wf_wait : SnapGot.wait.Wf := True.intro

@[simp] theorem SnapGot.ite_wf {p : Prop} [Decidable p] {a b : SnapGot} (ha : a.Wf) (hb : b.Wf) :
    (if p then a else b).Wf := by
  split
  · exact ha
  · exact hb

theorem State.snapOwn_wf (s : State) (k u : Nat) (bs : List Byte) (loc : Nat) (d : BitVec 128) (h : s.mem.wf = true) :
    (match s.snapData k u bs with
      | (true, s1) => SnapGot.entry 1 loc d s1
      | (false, s1) => .stop 4 s1).Wf := by
  have hd := State.snapData_wf s k u bs h
  split
  · exact wf_of_snd hd ‹_›
  · exact wf_of_snd hd ‹_›

theorem State.snapPlace_wf (s : State) (k : Nat) (bs : List Byte) (late : Bool) (h : s.mem.wf = true) :
    (s.snapPlace k bs late).Wf := by
  unfold State.snapPlace
  extract_lets q d u own a
  have ho : ∀ s : State, s.mem.wf = true → (own s).Wf := fun s h => State.snapOwn_wf s k u bs (q.place u) d h
  refine SnapGot.ite_wf (ho s h) ?_
  split
  · exact h
  next es s1 hr =>
    have h1 := (State.snapRead_wf s _ _ h).ok hr
    refine SnapGot.ite_wf ?_ (SnapGot.ite_wf (ho s1 h1) (SnapGot.ite_wf h1 (SnapGot.ite_wf (ho s1 h1) SnapGot.wf_wait)))
    have hw := State.snapWrite_wf (leBytes 8 q.step.toNat ++ leBytes 8 (q.place u) ++ leBytes 16 d.toNat) s1 a h1
    split
    · exact wf_of_snd hw ‹_›
    next s2 hs2 =>
      have hd := State.snapData_wf s2 k u bs (wf_of_snd hw hs2)
      split
      · exact wf_of_snd hd ‹_›
      next s3 hs3 =>
        have hw3 := State.snapWrite_wf (leBytes 8 (q.place u + 1)) s3 (a + 8) (wf_of_snd hd hs3)
        split
        · exact wf_of_snd hw3 ‹_›
        · exact wf_of_snd hw3 ‹_›

@[simp] theorem State.snapCommit_wf (s : State) (k : Nat) (h : s.mem.wf = true) : (s.snapCommit k).mem.wf = true := by
  unfold State.snapCommit
  extract_lets q b ms nwr nref c
  have hw := State.snapWrite_wf ms s (b + maniOff) h
  split
  next s1 hr => simpa using wf_of_snd hw hr
  next s1 hr =>
    have h1 := wf_of_snd hw hr
    split
    · simpa using h1
    next s2 hs => simpa using State.hubWrite_wf s1 _ _ _ h1 hs

@[simp] theorem State.snapPages_wf (k n : Nat) :
    ∀ (s : State) (late : Bool), s.mem.wf = true → (s.snapPages k late n).mem.wf = true := by
  induction n with
  | zero => exact fun s late h => State.snapCommit_wf s k h
  | succ n ih =>
    intro s late h
    unfold State.snapPages
    split
    · exact State.snapCommit_wf s k h
    split
    · simpa using h
    next bs s1 hr =>
      have h1 := (State.snapRead_wf s _ _ h).ok hr
      have hp := State.snapPlace_wf s1 k bs late h1
      split
      next s2 hs =>
        have h2 := hp.entry hs
        exact ih _ _ h2
      · exact h1
      next st s2 hs => simpa using hp.stop hs

@[simp] theorem State.snapBegin_wf (s : State) (k : Nat) (h : s.mem.wf = true) : (s.snapBegin k).mem.wf = true := by
  unfold State.snapBegin
  split
  · simpa using h
  next pages s1 hr =>
    have h1 := (State.snapChecks_wf s k h).ok hr
    extract_lets q slot
    split
    · simpa using h1
    next s2 hs =>
      have h2 := State.hubWrite_wf s1 _ _ _ h1 hs
      exact State.snapPages_wf k _ _ _ (by simpa using h2)

theorem State.shardTable_wf (s : State) (k : Nat) (h : s.mem.wf = true) : ReadWf (s.shardTable k) := by
  simp only [State.shardTable]
  split
  · trivial
  · exact (State.snapRead_wf s _ _ h).ok ‹_›

@[simp] theorem State.validSteps_wf (l : List (Nat × Nat)) : ∀ s :
    State, s.mem.wf = true → (s.validSteps l).2.mem.wf = true := by
  induction l with
  | nil => exact fun s h => h
  | cons p l ih =>
    intro s h
    obtain ⟨a, b⟩ := p
    simp only [State.validSteps]
    exact ih _ (State.slotTry_wf _ b (State.slotTry_wf s a h))

@[simp] theorem State.restorePages_wf (bases : List Nat) (b n : Nat) : ∀ (s : State) (i : Nat), s.mem.wf = true →
    (s.restorePages bases b i n).2.mem.wf = true := by
  induction n with
  | zero => exact fun s i h => h
  | succ n ih =>
    intro s i h
    simp only [State.restorePages]
    split
    · exact h
    next es s1 hr =>
      have h1 := (State.snapRead_wf s _ _ h).ok hr
      split
      · exact h1
      split
      · exact h1
      next bs s2 hs =>
        have h2 := (State.snapRead_wf s1 _ _ h1).ok hs
        split
        · exact h2
        have h3 := State.snapLines_wf 512 s2 (bits (wordAt es 0) 51 16 * 65536) bs h2
        split
        · exact ih _ _ (wf_of_snd h3 ‹_›)
        · exact wf_of_snd h3 ‹_›

@[simp] theorem State.snapRestore_wf (s : State) (k : Nat) (h : s.mem.wf = true) : (s.snapRestore k).mem.wf = true := by
  have he : ∀ (u : State) (st : Nat), u.mem.wf = true → (u.snapEnd k st).mem.wf = true := fun u st hu => by simpa using hu
  unfold State.snapRestore
  extract_lets q
  refine ite_wf (he s 1 h) ?_
  split
  · exact he s _ h
  next sh s1 hr =>
    have hv := State.validSteps_wf sh s1 ((State.shardTable_wf s k h).ok hr)
    split
    next vs s2 hv2 =>
      have h2 := wf_of_snd hv hv2
      extract_lets known
      refine ite_wf (he s2 3 h2) (ite_wf (he s2 4 h2) ?_)
      split
      · exact he s2 3 h2
      next t _ =>
        extract_lets slot b
        split
        · exact he s2 _ h2
        next bs s3 hr3 =>
          extract_lets r
          have h3 : r.2.mem.wf = true := State.restorePages_wf _ b _ s3 0 ((State.snapRead_wf s2 b 64 h2).ok hr3)
          exact ite_wf (he _ 0 h3) (he _ _ h3)

@[simp] theorem State.snapGo_wf (s : State) (k : Nat) (late : Bool) (h : s.mem.wf = true) :
    (s.snapGo k late).mem.wf = true :=
  ite_wf h (ite_wf (State.snapRestore_wf s k h) (ite_wf (State.snapPages_wf k _ s late h) (State.snapBegin_wf s k h)))

@[simp] theorem State.snapCmd_wf (s : State) (k p cmd : Nat) (h : s.mem.wf = true) : (s.snapCmd k p cmd).mem.wf = true :=
  ite_wf h (State.snapGo_wf _ k false h)

@[simp] theorem State.dedupTimeout_wf (s : State) (k : Nat) (h : s.mem.wf = true) : (s.dedupTimeout k).mem.wf = true := by
  unfold State.dedupTimeout
  split <;> exact State.snapGo_wf s k _ h

end Sys2Proof.Machine
end

section
namespace Sys2Proof.Machine
open Sys2Proof

/-! ## Memory stays in its canonical form: Links, boot and register writes -/

theorem getD_wf {o : Option State} {s : State} (ho : ∀ u, o = some u → u.mem.wf = true) (h : s.mem.wf = true) :
    (o.getD s).mem.wf = true := by
  cases o with
  | none => exact h
  | some u => exact ho u rfl

@[simp] theorem State.putWord_wf (s : State) (pa n v : Nat) (h : s.mem.wf = true) : (s.putWord pa n v).mem.wf = true :=
  getD_wf (fun _ hu => State.hubWrite_wf s pa n v h hu) h

theorem State.countUp_wf (s : State) (aux : Nat) (h : s.mem.wf = true) :
    (match s.hubRead aux 8 with
      | some (v, u) => u.putWord aux 8 ((v + 1) % 2 ^ 64)
      | none => s).mem.wf = true := by
  split
  · exact State.putWord_wf _ _ _ _ (State.hubRead_wf s aux 8 h ‹_›)
  · exact h

@[simp] theorem State.reduce_wf (s : State) (k : Nat) (h : s.mem.wf = true) : (s.reduce k).mem.wf = true := by
  unfold State.reduce
  extract_lets g
  split
  · exact h
  · refine ite_wf h ?_
    exact State.countUp_wf _ _ (foldl_wf (fun s w h => State.putWord_wf s _ _ _ h) _ s h)

@[simp] theorem State.contribution_wf (s : State) (k cube word : Nat) (v : BitVec 32) (h : s.mem.wf = true) :
    (s.contribution k cube word v).mem.wf = true := by
  unfold State.contribution
  extract_lets g pa
  refine ite_wf h ?_
  split
  · exact h
  · exact ite_wf (ite_wf h (by simpa using h)) (State.reduce_wf _ k h)

/-- Whatever comes of a request, memory stays in its canonical form. -/
def Served.Wf : Served → Prop
  | .ok _ s => s.mem.wf = true
  | .poisoned _ s => s.mem.wf = true
  | .refused => True
  | .moved _ => True
  | .wait => True

@[simp] theorem Served.wf_ok (b : List Byte) (s : State) : (Served.ok b s).Wf ↔ s.mem.wf = true := Iff.rfl

@[simp] theorem Served.wf_poisoned (b : List Byte) (s : State) : (Served.poisoned b s).Wf ↔ s.mem.wf = true := Iff.rfl

@[simp] theorem Served.wf_refused : Served.refused.Wf := True.intro

@[simp] theorem Served.wf_moved (h : HomeAt) : (Served.moved h).Wf := True.intro

@[simp] theorem Served.wf_wait : Served.wait.Wf := True.intro

theorem Served.Wf.ok {r : Served} (hw : r.Wf) {b : List Byte} {s : State} (hr : r = .ok b s) : s.mem.wf = true := by
  rw [hr] at hw
  exact hw

theorem Served.Wf.poisoned {r : Served} (hw : r.Wf) {b : List Byte} {s : State} (hr : r = .poisoned b s) :
    s.mem.wf = true := by
  rw [hr] at hw
  exact hw

theorem Served.ite_wf {p : Prop} [Decidable p] {a b : Served} (ha : a.Wf) (hb : b.Wf) : (if p then a else b).Wf := by
  split
  · exact ha
  · exact hb

theorem Served.map_wf {r : Served} {f : State → State} (hf : ∀ s, s.mem.wf = true → (f s).mem.wf = true) (h : r.Wf) :
    (r.map f).Wf := by
  cases r with
  | ok b s => exact hf s h
  | poisoned b s => exact hf s h
  | refused => exact Served.wf_refused
  | moved a => exact Served.wf_moved a
  | wait => exact Served.wf_wait

@[simp] theorem State.underOld_mem (s : State) (pa : Nat) (old : Map Word) : (s.underOld pa old).mem = s.mem := rfl

theorem State.elsewhere_wf (s : State) (pa : Nat) (a : HomeAt) (g : State → HomeAt → Served)
    (hg : ∀ s a, s.mem.wf = true → (g s a).Wf) (h : s.mem.wf = true) : (s.elsewhere pa a g).Wf := by
  unfold State.elsewhere
  split
  · exact Served.wf_wait
  · exact Served.ite_wf (Served.wf_moved a) (Served.ite_wf Served.wf_wait (Served.map_wf (fun _ h => h) (hg _ _ h)))

theorem State.atHome_wf (s : State) (p : Packet) (pa n : Nat) (store : Bool) (g : State → HomeAt → Served)
    (hg : ∀ s a, s.mem.wf = true → (g s a).Wf) (h : s.mem.wf = true) : (s.atHome p pa n store g).Wf := by
  unfold State.atHome
  extract_lets run
  have hr : ∀ s a, s.mem.wf = true → (run s a).Wf := fun s a h => Served.ite_wf Served.wf_wait (hg s a h)
  split
  · exact Served.wf_refused
  next a ha =>
    exact Served.ite_wf (State.elsewhere_wf s pa a run hr h) (Served.ite_wf (Served.wf_moved a) (hr s a h))

theorem State.serveRead_wf (s : State) (p : Packet) (h : s.mem.wf = true) : (s.serveRead p).Wf := by
  unfold State.serveRead
  refine State.atHome_wf s p _ _ _ _ (fun s a h => ?_) h
  have h1 := State.recallOwners_wf s a.stack (p.pa.toNat / 128) h
  exact Served.ite_wf h1 h1

theorem State.serveWrite_wf (s : State) (p : Packet) (pa : Nat) (h : s.mem.wf = true) : (s.serveWrite p pa).Wf := by
  unfold State.serveWrite
  extract_lets mask all data
  refine State.atHome_wf s p _ _ _ _ (fun s a h => ?_) h
  have hd := State.storeDirect_wf s a pa data.length mask (leNat data) h
  split
  · split
    · split
      · have h1 := hd.ok ‹_›
        exact ite_wf (by simpa using h1) h1
      · exact Served.wf_refused
    · refine Served.ite_wf Served.wf_refused ?_
      refine foldl_wf (fun s i h => ?_) _ s h
      exact ite_wf (State.contribution_wf s _ _ _ _ h) h
  · split
    · have h1 := fun l => State.setLineAt_wf _ a.loc l (hd.ok ‹_›)
      exact ite_wf (by simpa using h1 _) (h1 _)
    · exact Served.wf_refused

theorem State.serveAtomic_wf (s : State) (p : Packet) (h : s.mem.wf = true) : (s.serveAtomic p).Wf := by
  unfold State.serveAtomic
  extract_lets sub ty b old n
  refine State.atHome_wf s p _ _ _ _ (fun s a h => ?_) h
  have h1 := State.clearCopies_wf s a (p.pa.toNat / 128) h
  refine Served.ite_wf Served.wf_refused (Served.ite_wf h1 ?_)
  split
  · exact h1
  · split
    · exact State.setLineAt_wf _ a.loc _ h1
    · exact Served.wf_refused

theorem State.serveTask_wf (s : State) (p : Packet) (h : s.mem.wf = true) : (s.serveTask p).Wf := by
  unfold State.serveTask
  extract_lets ws lid part place
  split
  · exact h
  next a ha =>
    have hp : ∀ s a, s.mem.wf = true → (place s a).Wf := by
      intro s a h
      simp only [place]
      split
      · simpa using h
      · exact Served.wf_wait
      · exact h
    exact Served.ite_wf (State.elsewhere_wf s _ a place hp h) (Served.ite_wf (Served.wf_moved a) (hp s a h))

theorem State.serveReplica_wf (s : State) (p : Packet) (h : s.mem.wf = true) : (s.serveReplica p).Wf :=
  Served.ite_wf Served.wf_refused (State.serveWrite_wf s p _ h)

theorem State.claimTask_mem {s : State} {c n : Nat} {o : TaskOut} {u : State} (hu : s.claimTask c n = some (o, u)) :
    u.mem = s.mem := by
  unfold State.claimTask at hu
  obtain ⟨x, _, hx⟩ := Option.map_eq_some_iff.mp hu
  cases hx
  rfl

@[simp] theorem State.lose_mem (s : State) (q : Nat × Nat) : (s.lose q).mem = s.mem := by
  simp [State.lose]

@[simp] theorem State.takeResponse_mem (s : State) (p : Packet) : (s.takeResponse p).mem = s.mem := by
  unfold State.takeResponse
  extract_lets n
  split
  · rw [State.answerTo_mem, State.claimTask_mem ‹_›]
  · exact ite_mem (State.lose_mem s _) rfl

@[simp] theorem State.renamePacket_mem (s : State) (q : Nat × Nat) (r : List (Nat × Nat)) :
    (s.renamePacket q r).mem = s.mem := rfl

@[simp] theorem State.sendAgain_mem (s : State) (q : Nat × Nat) (c pa : Nat) : (s.sendAgain q c pa).mem = s.mem := by
  simp only [State.sendAgain]
  repeat' split
  all_goals simp

@[simp] theorem State.takeMoved_mem (s : State) (p : Packet) : (s.takeMoved p).mem = s.mem := by
  unfold State.takeMoved
  split
  · exact State.sendAgain_mem s _ _ _
  next o s1 hs =>
    have h1 := State.claimTask_mem hs
    exact ite_mem h1 (ite_mem ((State.sendTask_mem s1 _ _ _ _ _ _ _).trans h1) h1)

theorem State.serveContribution_wf (s : State) (p : Packet) (h : s.mem.wf = true) : (s.serveContribution p).Wf := by
  unfold State.serveContribution
  extract_lets g word pa take
  have ht : ∀ s a, s.mem.wf = true → (take s a).Wf := fun s _ h => State.contribution_wf s _ _ _ _ h
  refine Served.ite_wf Served.wf_refused ?_
  split
  · exact Served.wf_refused
  next a ha =>
    exact Served.ite_wf (State.elsewhere_wf s pa a take ht h) (Served.ite_wf (Served.wf_moved a) (ht s a h))

theorem State.serve_wf (s : State) (p : Packet) (h : s.mem.wf = true) : (s.serve p).Wf := by
  unfold State.serve
  split
  · exact State.serveRead_wf s p h
  · exact State.serveWrite_wf s p _ h
  · exact State.serveAtomic_wf s p h
  · simpa using h
  · exact State.serveTask_wf s p h
  · exact State.serveContribution_wf s p h
  · exact State.serveReplica_wf s p h
  · exact State.beacon_wf s _ _ h
  · simpa using h
  · exact h

@[simp] theorem State.ackPacket_mem (s : State) (p : Packet) : (s.ackPacket p).mem = s.mem := by
  simp [State.ackPacket]

@[simp] theorem State.respond_mem (s : State) (p : Packet) (kind : Nat) (payload : List Byte) (pois : Bool) :
    (s.respond p kind payload pois).mem = s.mem := by
  simp [State.respond]

@[simp] theorem State.perform1_wf (s : State) (p : Packet) (h : s.mem.wf = true) : (s.perform1 p).mem.wf = true := by
  unfold State.perform1
  extract_lets c seen now note
  have hn : ∀ s : State, s.mem.wf = true → (note s).mem.wf = true := by
    intro s h
    show (State.ackPacket _ p).mem.wf = true
    rw [State.ackPacket_mem]
    exact h
  have hr := State.serve_wf s p h
  refine ite_wf h (ite_wf (by simpa using h) (ite_wf h ?_))
  split
  · have h1 := hr.ok ‹_›
    exact hn _ (ite_wf (by simpa using h1) h1)
  · have h1 := hr.poisoned ‹_›
    exact hn _ (by simpa using h1)
  · exact hn _ (by simpa using h)
  · exact hn _ (by simpa using h)
  · exact h

@[simp] theorem State.packetReceive_wf (s : State) (k : Nat) (p : Packet) (h : s.mem.wf = true) :
    (s.packetReceive k p).mem.wf = true := by
  unfold State.packetReceive
  refine ite_wf h (ite_wf ?_ (State.perform1_wf s p h))
  split
  · exact h
  · exact h

@[simp] theorem State.modLink_mem (s : State) (k : Nat) (g : Link → Link) : (s.modLink k g).mem = s.mem := rfl

@[simp] theorem State.flitReceive_wf (s : State) (k : Nat) (f : Vec) (h : s.mem.wf = true) :
    (s.flitReceive k f).mem.wf = true := by
  unfold State.flitReceive
  extract_lets l seq
  refine ite_wf h (ite_wf h (ite_wf h (ite_wf h ?_)))
  exact ite_wf (State.packetReceive_wf _ k _ h) h

@[simp] theorem State.linkTrain_mem (s : State) (k : Nat) (up : Bool) (nbr : BitVec 8) :
    (s.linkTrain k up nbr).mem = s.mem := rfl

@[simp] theorem State.e2eTimeout_mem (s : State) (c n : Nat) : (s.e2eTimeout c n).mem = s.mem := by
  unfold State.e2eTimeout
  split
  · rfl
  · refine ite_mem rfl (ite_mem (by simp) ?_)
    extract_lets src s1
    split
    · rw [State.answerTo_mem, State.claimTask_mem ‹_›]
    · exact State.lose_mem s1 _

@[simp] theorem State.pcieLine_wf (s : State) (pa : Nat) (bs : List Byte) (h : s.mem.wf = true) :
    (s.pcieLine pa bs).mem.wf = true := by
  unfold State.pcieLine
  split
  · exact ite_wf h h
  · exact getD_wf (fun _ hu => State.hubWrite_wf s pa _ _ h hu) h

@[simp] theorem State.pcieLines_wf (k fuel : Nat) :
    ∀ (s : State) (addr : Word) (bs : List Byte), s.mem.wf = true → (s.pcieLines k addr bs fuel).mem.wf = true := by
  induction fuel with
  | zero => exact fun s addr bs h => h
  | succ fuel ih =>
    intro s addr bs h
    unfold State.pcieLines
    refine ite_wf h (ih _ _ _ ?_)
    split
    · exact h
    · exact State.pcieLine_wf s _ _ h

@[simp] theorem State.pcieWrite_wf (s : State) (addr : Word) (bs : List Byte) (h : s.mem.wf = true) :
    (s.pcieWrite addr bs).mem.wf = true :=
  State.pcieLines_wf _ _ _ addr bs h

@[simp] theorem State.pcieBytes_wf (s : State) (k : Nat) (addr : Word) (n : Nat) (h : s.mem.wf = true) :
    (s.pcieBytes k addr n).2.2.mem.wf = true := by
  induction n with
  | zero => exact h
  | succ n ih =>
    unfold State.pcieBytes
    split
    next bs bad s1 hr =>
      rw [hr] at ih
      split
      · exact ih
      · split
        · exact State.hubRead_wf s1 _ 1 ih ‹_›
        · exact ih

@[simp] theorem State.pcieRead_wf (s : State) (addr : Word) (n : Nat) (h : s.mem.wf = true) :
    (s.pcieRead addr n).mem.wf = true :=
  State.pcieBytes_wf s.tick.2 s.tick.1 addr n h

@[simp] theorem State.hotPlug_mem (s : State) (k : Nat) (a b c : Bool) : (s.hotPlug k a b c).mem = s.mem := rfl

@[simp] theorem State.reply_mem (s : State) (p : Nat) (v : Word) : (s.reply p v).mem = s.mem := by
  simp only [State.reply]
  repeat' split
  all_goals simp

@[simp] theorem State.renumber_wf (s : State) (n : Nat) (h : s.mem.wf = true) : (s.renumber n).mem.wf = true := by
  unfold State.renumber
  refine ite_wf h (Memory.wf_foldl _ s.mem (fun m e hm => ?_) rfl)
  extract_lets c
  split
  · exact Memory.wf_set _ _ hm
  · split
    · exact hm
    · exact Memory.wf_set _ _ hm

@[simp] theorem State.resetMemory_wf (s : State) (keep : Bool) (h : s.mem.wf = true) :
    (s.resetMemory keep).mem.wf = true :=
  Memory.wf_filter _ h

@[simp] theorem State.clean_mem (s : State) (b : Boot) (harts : Map Hart) (turn : Option Turn) :
    (s.clean b harts turn).mem = s.mem := rfl

@[simp] theorem State.resetCube_wf (s : State) (cause : Nat) (h : s.mem.wf = true) :
    (s.resetCube cause).mem.wf = true := by
  have h1 := State.renumber_wf _ 0 (State.resetMemory_wf s (cause == 1) h)
  simp only [State.resetCube]
  split
  · rw [State.clean_mem]
    exact h1
  · rw [State.clean_mem]
    exact h1

@[simp] theorem State.powerLoss_mem (s : State) : s.powerLoss.mem = s.mem := rfl

@[simp] theorem State.thermtrip_wf (s : State) (h : s.mem.wf = true) : s.thermtrip.mem.wf = true :=
  ite_wf (State.resetCube_wf s 3 h) h

@[simp] theorem State.cacheBytes_mem (s : State) (line : Nat) (bs : List Byte) : (s.cacheBytes line bs).mem = s.mem := by
  simp [State.cacheBytes]

@[simp] theorem State.bootSlot_mem (s : State) (slot : Nat) : (s.bootSlot slot).mem = s.mem := by
  simp [State.bootSlot]

@[simp] theorem State.bootRom_mem (s : State) : s.bootRom.mem = s.mem := by
  simp only [State.bootRom]
  repeat' split
  all_goals simp

@[simp] theorem State.rbadv_mem (s : State) (v : Nat) : (s.rbadv v).mem = s.mem := by
  simp [State.rbadv]

@[simp] theorem State.extend_mem (s : State) (v : BitVec 256) : (s.extend v).mem = s.mem := by
  unfold State.extend
  generalize sha256 _ = x
  rfl

@[simp] theorem State.mext_mem (s : State) (v : BitVec 256) : (s.mext v).mem = s.mem :=
  ite_mem rfl (State.extend_mem s v)

@[simp] theorem State.startReport_mem (s : State) : s.startReport.mem = s.mem := by
  simp [State.startReport]

@[simp] theorem State.extends_wf (l : List (BitVec 256)) (s : State) (h : s.mem.wf = true) :
    (l.foldl State.extend s).mem.wf = true := by
  rw [foldl_mem State.extend_mem]
  exact h

theorem State.reportMade_wf (s : State) (a : Nat) (sign : List Byte → List Byte) (h : s.mem.wf = true) :
    (match s.snapRead a 32 with
      | .ok (nonce, s1) =>
        let body := s1.reportBody
        (match s1.snapWrite (a + 32) (body ++ sign (nonce ++ body)) with
         | (true, s2) => s2
         | (false, s2) => { s2 with boot := { s2.boot with aterr := true } })
      | .error _ => { s with boot := { s.boot with aterr := true } }).mem.wf = true := by
  split
  next nonce s1 hr =>
    have hw := State.snapWrite_wf (s1.reportBody ++ sign (nonce ++ s1.reportBody)) s1 (a + 32) ((State.snapRead_wf s a 32 h).ok hr)
    extract_lets body
    split
    next s2 hs =>
      exact wf_of_snd hw hs
    next s2 hs =>
      have h2 := wf_of_snd hw hs
      exact h2
  · exact h

@[simp] theorem State.reportSigned_wf (s : State) (h : s.mem.wf = true) : s.reportSigned.mem.wf = true := by
  unfold State.reportSigned
  refine ite_wf h ?_
  extract_lets a s1
  refine State.extends_wf _ _ ?_
  exact State.reportMade_wf s a (fun bs => leBytes 7856 (Config.slhSign deviceSeed bs).toNat) h

@[simp] theorem bodyBr_keepsMem (f : Fields) : KeepsMem (bodyBr f) := by
  simp [bodyBr]

@[simp] theorem bodyBrx_keepsMem (f : Fields) : KeepsMem (bodyBrx f) := by
  simp only [bodyBrx]
  repeat' with_reducible refine KeepsMem.bind ?_ fun _ => ?_
  all_goals simp

@[simp] theorem callTo_keepsMem (f : Fields) (target : Word) : KeepsMem (callTo f target) := by
  simp only [callTo]
  repeat' with_reducible refine KeepsMem.bind ?_ fun _ => ?_
  all_goals simp

@[simp] theorem bodyCall_keepsMem (f : Fields) : KeepsMem (bodyCall f) := by
  simp only [bodyCall]
  repeat' with_reducible refine KeepsMem.bind ?_ fun _ => ?_
  all_goals simp

@[simp] theorem bodyCallx_keepsMem (f : Fields) : KeepsMem (bodyCallx f) := by
  simp only [bodyCallx]
  repeat' with_reducible refine KeepsMem.bind ?_ fun _ => ?_
  all_goals simp

@[simp] theorem bodyRet_keepsMem (f : Fields) : KeepsMem (bodyRet f) := by
  simp only [bodyRet]
  repeat' with_reducible refine KeepsMem.bind ?_ fun _ => ?_
  all_goals simp

@[simp] theorem loopOn_keepsMem (f : Fields) (count : Nat) : KeepsMem (loopOn f count) := by
  simp only [loopOn]
  repeat' split
  repeat' with_reducible refine KeepsMem.bind ?_ fun _ => ?_
  all_goals simp

@[simp] theorem bodyLoop_keepsMem (f : Fields) : KeepsMem (bodyLoop f) := by
  simp [bodyLoop]

@[simp] theorem bodyLoopx_keepsMem (f : Fields) : KeepsMem (bodyLoopx f) := by
  simp only [bodyLoopx]
  repeat' with_reducible refine KeepsMem.bind ?_ fun _ => ?_
  all_goals simp

@[simp] theorem bodyNop_keepsMem (x0 : Fields) : KeepsMem (bodyNop x0) := by
  simp [bodyNop]

@[simp] theorem bodyYield_keepsMem (x0 : Fields) : KeepsMem (bodyYield x0) := by
  simp only [bodyYield]
  repeat' with_reducible refine KeepsMem.bind ?_ fun _ => ?_
  all_goals simp

@[simp] theorem bodyWaitl_keepsMem (x0 : Fields) : KeepsMem (bodyWaitl x0) := by
  simp [bodyWaitl]

@[simp] theorem State.hmapWrite_mem (s : State) (n : Nat) (v : Word) : (s.hmapWrite n v).mem = s.mem := rfl

@[simp] theorem State.sidctlWrite_mem (s : State) (v : Word) : (s.sidctlWrite v).mem = s.mem := by
  simp [State.sidctlWrite]

@[simp] theorem State.cubeWrite_wf (s : State) (n : Nat) (v : Word) (h : s.mem.wf = true) :
    (s.cubeWrite n v).mem.wf = true := by
  unfold State.cubeWrite
  split
  · simpa using h
  · exact State.renumber_wf s _ h
  · exact ite_wf (by simpa using h) h

@[simp] theorem State.coreWrite_mem (s : State) (c n : Nat) (v : Word) : (s.coreWrite c n v).mem = s.mem := by
  simp only [State.coreWrite]
  split <;> simp

@[simp] theorem State.fieldWrite_wf (s : State) (fi n : Nat) (v : Word) (h : s.mem.wf = true) :
    (s.fieldWrite fi n v).mem.wf = true := by
  simp only [State.fieldWrite]
  split <;> simp [h]

@[simp] theorem State.trapWrite_mem (s : State) (fi off : Nat) (v : Word) : (s.trapWrite fi off v).mem = s.mem := by
  simp only [State.trapWrite]
  split <;> simp

@[simp] theorem State.schedWrite_wf (s : State) (off : Nat) (v : Word) (h : s.mem.wf = true) :
    (s.schedWrite off v).mem.wf = true := by
  simp only [State.schedWrite]
  repeat' split
  all_goals simp [h]

@[simp] theorem State.sdcmd_mem (s : State) (n : Nat) : (s.sdcmd n).mem = s.mem := by
  simp only [State.sdcmd]
  split <;> simp

@[simp] theorem State.transWrite_mem (s : State) (off : Nat) (v : Word) : (s.transWrite off v).mem = s.mem := by
  simp only [State.transWrite]
  repeat' split
  all_goals simp

@[simp] theorem State.merWrite_mem (s : State) (off : Nat) (v : Word) : (s.merWrite off v).mem = s.mem := by
  simp only [State.merWrite]
  repeat' split
  all_goals simp

@[simp] theorem State.mextWord_mem (s : State) (w : Nat) (v : Word) : (s.mextWord w v).mem = s.mem := by
  unfold State.mextWord
  exact ite_mem (State.mext_mem _ _) rfl

@[simp] theorem State.bootWrite_mem (s : State) (off : Nat) (v : Word) : (s.bootWrite off v).mem = s.mem := by
  simp only [State.bootWrite]
  refine ite_mem (State.mextWord_mem s _ v) ?_
  split
  · simp
  · rfl
  · split <;> simp
  · exact ite_mem rfl (ite_mem rfl rfl)
  · rfl

@[simp] theorem State.svqWrite_mem (s : State) (p off : Nat) (v : Word) : (s.svqWrite p off v).mem = s.mem := by
  simp only [State.svqWrite]
  repeat' split
  all_goals simp

@[simp] theorem State.groupWrite_mem (s : State) (g w : Nat) (v : Word) : (s.groupWrite g w v).mem = s.mem := rfl

@[simp] theorem State.snapRegWrite_wf (s : State) (k off : Nat) (v : Word) (h : s.mem.wf = true) :
    (s.snapRegWrite k off v).mem.wf = true := by
  simp only [State.snapRegWrite]
  split <;> simp [h]

@[simp] theorem State.writeReg_wf (s : State) (r : Reg) (v : Word) (h : s.mem.wf = true) :
    (s.writeReg r v).mem.wf = true := by
  simp only [State.writeReg]
  split <;> simp [h]

end Sys2Proof.Machine
end

section
namespace Sys2Proof.Machine
open Sys2Proof

/-! ## Memory stays in its canonical form: The harts, fetching, and every step -/

@[simp] theorem State.zPut_mem (s : State) (ln : Nat) (l : L2Line) : (s.zPut ln l).mem = s.mem := rfl

@[simp] theorem State.zRoom_wf (s : State) (ln : Nat) (h : s.mem.wf = true) : (s.zRoom ln).mem.wf = true := by
  unfold State.zRoom
  refine ite_wf h ?_
  have h1 : s.tick.2.mem.wf = true := h
  dsimp only
  split
  · exact State.zDrop_wf s.tick.2 _ h1
  · exact h1

@[simp] theorem State.zFill_wf (s : State) (k loc ln : Nat) (h : s.mem.wf = true) : (s.zFill k loc ln).mem.wf = true := by
  have h1 := State.recallForFill_wf (s.zRoom ln) k ln none true (State.zRoom_wf s ln h)
  unfold State.zFill
  extract_lets s1
  split
  next ok s2 hs2 =>
    have h2 := wf_of_snd (State.ensureCovered_wf s1 k ln 0 h1) hs2
    have h3 : (s2.bumpSeq k ln).2.mem.wf = true := by simpa using h2
    exact ite_wf (by simpa using h3) h3

theorem State.zRead_wf (s : State) (pa : Nat) (h : s.mem.wf = true) : ReadWf (s.zRead pa) := by
  unfold State.zRead
  extract_lets ln
  split
  · exact ReadWf.of_ok h
  · split
    · exact ReadWf.error _
    next a ha =>
      have h1 := State.zFill_wf (s.reach ln) a.stack (a.loc / 128 * 128) ln (by simpa using h)
      refine ReadWf.ite (ReadWf.ite (ReadWf.of_ok h) (ReadWf.error _)) ?_
      extract_lets s1
      split
      · exact ReadWf.of_ok h1
      · exact ReadWf.of_ok h1

/-- The outcome of a write that can fail has memory in its canonical form. -/
def WriteWf : Except Nat State → Prop
  | .ok s => s.mem.wf = true
  | .error _ => True

theorem WriteWf.of_ok {u : State} (h : u.mem.wf = true) : WriteWf (.ok u) := h

theorem WriteWf.error (c : Nat) : WriteWf (.error c) := True.intro

theorem WriteWf.ok {r : Except Nat State} (h : WriteWf r) {u : State} (hr : r = .ok u) : u.mem.wf = true := by
  rw [hr] at h
  exact h

theorem WriteWf.ite {p : Prop} [Decidable p] {a b : Except Nat State} (ha : WriteWf a) (hb : WriteWf b) :
    WriteWf (if p then a else b) := by
  split
  · exact ha
  · exact hb

theorem State.zWrite_wf (s : State) (pa n : Nat) (g : HomeLine → HomeLine) (h : s.mem.wf = true) :
    WriteWf (s.zWrite pa n g) := by
  unfold State.zWrite
  extract_lets ln keep
  split
  · split
    · exact WriteWf.ite (WriteWf.error _) (WriteWf.of_ok (by simpa using h))
    · exact WriteWf.error _
  next a ha =>
    refine WriteWf.ite (WriteWf.ite (WriteWf.error _) (WriteWf.ite (WriteWf.error _) ?_)) ?_
    · exact WriteWf.of_ok (State.setLineAt_wf s _ _ h)
    · extract_lets k s1
      have h1 := State.invalidateOthers_wf ((s.reach ln).zRoom ln) a.stack ln none true
        (State.zRoom_wf _ ln (by simpa using h))
      split
      next ok s2 hs2 =>
        have h2 := wf_of_snd (State.ensureCovered_wf _ a.stack ln 0 h1) hs2
        have h3 : (s2.bumpSeq a.stack ln).2.mem.wf = true := by simpa using h2
        refine WriteWf.ite (WriteWf.error _) (WriteWf.ite (WriteWf.of_ok (by simpa using h3)) ?_)
        exact WriteWf.of_ok (State.setLineAt_wf _ _ _ (State.zDrop_wf _ ln h3))

@[simp] theorem hartRegs_keepsMem : KeepsMem hartRegs := fun _ h => h

@[simp] theorem hExc_keepsMem {α : Type} (code : Nat) (tval : Word) (addr : Bool) :
    KeepsMem (hExc code tval addr : Z α) := fun _ h => h

@[simp] theorem capNeed_keepsMem (b : Bool) (granule : Word) : KeepsMem (capNeed b granule) := by
  simp [capNeed]

@[simp] theorem hIllegalInstr_keepsMem {α : Type} : KeepsMem (hIllegalInstr : Z α) := fun _ h => h

theorem State.hartLoad_wf (s : State) (pa n : Nat) {v : Nat} {t : Bool} {u : State} (h : s.mem.wf = true)
    (hu : s.hartLoad pa n = .ok (v, t, u)) : u.mem.wf = true := by
  have hr := State.zRead_wf s pa h
  unfold State.hartLoad at hu
  repeat' split at hu
  all_goals cases hu
  · exact h
  · exact h
  · exact hr.ok ‹_›

theorem State.hartStore_wf (s : State) (pa n v : Nat) (tag : Bool) (h : s.mem.wf = true) :
    WriteWf (s.hartStore pa n v tag) := by
  unfold State.hartStore
  refine WriteWf.ite (WriteWf.error _) (WriteWf.ite (WriteWf.ite (WriteWf.of_ok ?_) (WriteWf.error _)) (WriteWf.ite ?_ ?_))
  · simp [h, Memory.wf_setVal]
  · split
    · exact WriteWf.ite (WriteWf.of_ok (State.writeReg_wf s _ _ h)) (WriteWf.error _)
    · exact WriteWf.error _
  · exact State.zWrite_wf s pa n _ h

theorem State.hartUntag_wf (s : State) (pa : Nat) (h : s.mem.wf = true) : WriteWf (s.hartUntag pa) :=
  WriteWf.ite (WriteWf.error _) (WriteWf.ite (WriteWf.ite (WriteWf.of_ok h) (WriteWf.error _)) (State.zWrite_wf s pa 16 _ h))

@[simp] theorem ptRead_keepsMem (fail : HExc) (pa : Nat) : KeepsMem (ptRead fail pa) := by
  intro s h
  unfold ptRead
  split
  · exact h
  · split
    · exact State.hartLoad_wf s pa 8 h ‹_›
    · exact h

@[simp] theorem ptWrite_keepsMem (fail : HExc) (pa v : Nat) : KeepsMem (ptWrite fail pa v) := by
  intro s h
  unfold ptWrite
  split
  · exact h
  · split
    · exact (State.hartStore_wf s pa 8 v false h).ok ‹_›
    · exact h

@[simp] theorem walkTable_keepsMem (pf af : HExc) (at_ : Nat → Z Nat) (ha : ∀ n, KeepsMem (at_ n)) (leaf : Nat → Bool)
    (store : Bool)
    (va k : Nat) : ∀ wide a : Nat, KeepsMem (walkTable pf af at_ leaf store va wide a k) := by
  induction k with
  | zero => exact fun _ _ => KeepsMem.throw pf
  | succ k ih =>
    intro wide a
    unfold walkTable
    refine KeepsMem.bind (ha _) fun place => KeepsMem.bind (ptRead_keepsMem af place) fun pte => ?_
    refine KeepsMem.ite (KeepsMem.throw pf) (KeepsMem.ite (ih _ _) (KeepsMem.ite (KeepsMem.throw pf) (KeepsMem.ite ?_ ?_)))
    · exact KeepsMem.ite (KeepsMem.bind (ptWrite_keepsMem af _ _) fun _ => KeepsMem.pure _)
        (KeepsMem.bind (KeepsMem.throw pf) fun _ => KeepsMem.pure _)
    · exact KeepsMem.pure _

@[simp] theorem hWalkG_keepsMem (va : Word) (kind gpa : Nat) : KeepsMem (hWalkG va kind gpa) := by
  unfold hWalkG
  refine KeepsMem.bind hartRegs_keepsMem fun h => KeepsMem.ite (KeepsMem.pure gpa) (KeepsMem.ite (KeepsMem.throw _) ?_)
  exact walkTable_keepsMem _ _ pure (fun n => KeepsMem.pure n) _ _ _ _ _ _

@[simp] theorem hWalkS_keepsMem (md : HMode) (kind : Nat) (va : Word) : KeepsMem (hWalkS md kind va) := by
  unfold hWalkS
  refine KeepsMem.bind hartRegs_keepsMem fun h => KeepsMem.ite (KeepsMem.pure _) (KeepsMem.ite (KeepsMem.throw _) ?_)
  exact walkTable_keepsMem _ _ _ (fun n => KeepsMem.ite (hWalkG_keepsMem va 0 n) (KeepsMem.pure n)) _ _ _ _ _ _

@[simp] theorem hXlate_keepsMem (md : HMode) (kind n : Nat) (va : Word) : KeepsMem (hXlate md kind n va) := by
  have hp : ∀ pa, KeepsMem (do
      let h ← hartRegs
      if h.pmpOk (md == .m) kind pa n then pure pa
      else throw { code := accessExc kind, tval := va, addr := true, gva := md.virt } : Z Nat) := fun pa =>
    KeepsMem.bind hartRegs_keepsMem fun h => KeepsMem.ite (KeepsMem.pure pa) (KeepsMem.throw _)
  unfold hXlate
  refine KeepsMem.ite (hp _) (KeepsMem.bind (hWalkS_keepsMem md kind va) fun a => KeepsMem.ite ?_ (hp a))
  exact KeepsMem.bind (hWalkG_keepsMem va kind a) hp

@[simp] theorem hTranslate_keepsMem (va : Word) (n : Nat) (store : Bool) : KeepsMem (hTranslate va n store) := by
  simp only [hTranslate]
  repeat' with_reducible refine KeepsMem.bind ?_ fun _ => ?_
  all_goals simp

@[simp] theorem hLoad_keepsMem (va : Word) (n : Nat) : KeepsMem (hLoad va n) := by
  unfold hLoad
  refine KeepsMem.bind (hTranslate_keepsMem va n false) fun pa s h => ?_
  change Kept (ε := HExc) (match s.hartLoad pa n with
    | .ok (v, t, s1) => .ok (v, t) s1
    | .error c => .error { code := c, tval := va, addr := true } s)
  split
  · exact State.hartLoad_wf s pa n h ‹_›
  · exact h

@[simp] theorem State.endReservations_mem (s : State) (pa : Nat) : (s.endReservations pa).mem = s.mem := rfl

@[simp] theorem hStore_keepsMem (va : Word) (n v : Nat) (tag : Bool) : KeepsMem (hStore va n v tag) := by
  unfold hStore
  refine KeepsMem.bind (hTranslate_keepsMem va n true) fun pa s h => ?_
  change Kept (ε := HExc) (match s.hartStore pa n v tag with
    | .ok s1 => .ok () (s1.endReservations pa)
    | .error c => .error { code := c, tval := va, addr := true } s)
  split
  next s1 hs =>
    have h1 := (State.hartStore_wf s pa n v tag h).ok hs
    exact h1
  · exact h

@[simp] theorem hUntag_keepsMem (va : Word) : KeepsMem (hUntag va) := by
  unfold hUntag
  refine KeepsMem.bind (hTranslate_keepsMem va 16 true) fun pa s h => ?_
  change Kept (ε := HExc) (match s.hartUntag pa with
    | .ok s1 => .ok () s1
    | .error c => .error { code := c, tval := va, addr := true } s)
  split
  · exact (State.hartUntag_wf s pa h).ok ‹_›
  · exact h

@[simp] theorem aligned16_keepsMem (va : Word) : KeepsMem (aligned16 va) := by
  simp [aligned16]

@[simp] theorem capAt_keepsMem (va : Word) : KeepsMem (capAt va) := by
  simp [capAt]

@[simp] theorem putCap_keepsMem (va : Word) (c : Cap) (tag : Bool) : KeepsMem (putCap va c tag) := by
  simp [putCap]

@[simp] theorem rsOf_keepsMem (n : BitVec 5) : KeepsMem (rsOf n) := by
  simp [rsOf]

@[simp] theorem setRd_keepsMem (n : BitVec 5) (v : Word) : KeepsMem (setRd n v) := fun _ h => h

@[simp] theorem needMode_keepsMem (ok : HMode → Bool) : KeepsMem (needMode ok) := by
  simp only [needMode]
  repeat' with_reducible refine KeepsMem.bind ?_ fun _ => ?_
  all_goals simp

@[simp] theorem State.hartExc_mem (s s1 : State) (k : Nat) (e : HExc) : (s.hartExc s1 k e).mem = s.mem := ite_mem rfl rfl

@[simp] theorem zCgrant_keepsMem (z : ZFields) : KeepsMem (zCgrant z) := by
  simp only [zCgrant]
  repeat' with_reducible refine KeepsMem.bind ?_ fun _ => ?_
  all_goals simp

@[simp] theorem zCderive_keepsMem (z : ZFields) : KeepsMem (zCderive z) := by
  simp only [zCderive]
  repeat' with_reducible refine KeepsMem.bind ?_ fun _ => ?_
  all_goals simp

@[simp] theorem zCmove_keepsMem (z : ZFields) : KeepsMem (zCmove z) := by
  simp only [zCmove]
  repeat' with_reducible refine KeepsMem.bind ?_ fun _ => ?_
  all_goals simp

@[simp] theorem granuleRange_keepsMem (base len : Word) : KeepsMem (granuleRange base len) := by
  simp only [granuleRange]
  repeat' with_reducible refine KeepsMem.bind ?_ fun _ => ?_
  all_goals simp

@[simp] theorem untagAll_keepsMem (n : Nat) : ∀ va : Word, KeepsMem (untagAll va n) := by
  induction n with
  | zero => exact fun _ => KeepsMem.pure ()
  | succ n ih => exact fun va => KeepsMem.bind (hUntag_keepsMem va) fun _ => ih _

@[simp] theorem zCrevoke_keepsMem (z : ZFields) : KeepsMem (zCrevoke z) := by
  simp only [zCrevoke]
  repeat' with_reducible refine KeepsMem.bind ?_ fun _ => ?_
  all_goals simp

@[simp] theorem zCread_keepsMem (z : ZFields) : KeepsMem (zCread z) := by
  simp only [zCread]
  repeat' with_reducible refine KeepsMem.bind ?_ fun _ => ?_
  all_goals simp

@[simp] theorem zCcheck_keepsMem (z : ZFields) : KeepsMem (zCcheck z) := by
  simp only [zCcheck]
  repeat' with_reducible refine KeepsMem.bind ?_ fun _ => ?_
  repeat' split
  repeat' with_reducible refine KeepsMem.bind ?_ fun _ => ?_
  all_goals simp

@[simp] theorem zCldadv_keepsMem (z : ZFields) : KeepsMem (zCldadv z) := by
  simp only [zCldadv]
  repeat' with_reducible refine KeepsMem.bind ?_ fun _ => ?_
  all_goals simp

@[simp] theorem zCstadv_keepsMem (z : ZFields) : KeepsMem (zCstadv z) := by
  simp only [zCstadv]
  repeat' with_reducible refine KeepsMem.bind ?_ fun _ => ?_
  all_goals simp

@[simp] theorem countTags_keepsMem (n : Nat) : ∀ va : Word, KeepsMem (countTags va n) := by
  induction n with
  | zero => exact fun _ => KeepsMem.pure 0
  | succ n ih => exact fun va => KeepsMem.bind (capAt_keepsMem va) fun _ => KeepsMem.bind (ih _) fun _ => KeepsMem.pure _

@[simp] theorem zCcount_keepsMem (z : ZFields) : KeepsMem (zCcount z) := by
  simp only [zCcount]
  repeat' with_reducible refine KeepsMem.bind ?_ fun _ => ?_
  all_goals simp

@[simp] theorem zChand_keepsMem (z : ZFields) : KeepsMem (zChand z) := by
  unfold zChand
  refine KeepsMem.bind (needMode_keepsMem _) fun _ => KeepsMem.bind (rsOf_keepsMem _) fun src => ?_
  refine KeepsMem.bind (rsOf_keepsMem _) fun n => KeepsMem.bind (aligned16_keepsMem src) fun _ => ?_
  refine KeepsMem.bind (capNeed_keepsMem _ _) fun _ => KeepsMem.bind (capAt_keepsMem src) fun c => KeepsMem.ite ?_ ?_
  · exact KeepsMem.bind (fun _ h => h) fun _ => KeepsMem.bind (capNeed_keepsMem _ _) fun _ _ h => h
  · exact KeepsMem.bind (fun _ h => h) fun _ => KeepsMem.bind (capNeed_keepsMem _ _) fun _ _ h => h

@[simp] theorem hVirtualInstr_keepsMem {α : Type} : KeepsMem (hVirtualInstr : Z α) := fun _ h => h

@[simp] theorem hForbid_keepsMem {α : Type} (virt : Bool) : KeepsMem (hForbid virt : Z α) :=
  KeepsMem.ite hVirtualInstr_keepsMem hIllegalInstr_keepsMem

@[simp] theorem counterLegal_keepsMem (h : Hart) (b : Nat) (stce : Bool) : KeepsMem (counterLegal h b stce) := by
  simp only [counterLegal]
  repeat' split
  all_goals simp

/-- The same of the guard by privilege, one for a guest and one for the others. -/
theorem KeepsMem.modeGuarded {ε α : Type} {p q r t : Prop} [Decidable p] [Decidable q] [Decidable r] [Decidable t]
    {m n l : EStateM ε State PUnit} {k : PUnit → EStateM ε State α} (hm : KeepsMem m) (hn : KeepsMem n) (hl : KeepsMem l)
    (hk : ∀ u, KeepsMem (k u)) :
    KeepsMem (if p then (if q then m >>= k else if r then n >>= k else k ⟨⟩) else if t then l >>= k else k ⟨⟩) :=
  KeepsMem.ite (KeepsMem.ite (KeepsMem.bind hm hk) (KeepsMem.guarded hn hk)) (KeepsMem.guarded hl hk)

@[simp] theorem csrLegal_keepsMem (n : Nat) (write : Bool) : KeepsMem (csrLegal n write) := by
  unfold csrLegal
  refine KeepsMem.bind hartRegs_keepsMem fun h => ?_
  refine KeepsMem.guarded hIllegalInstr_keepsMem fun _ => ?_
  refine KeepsMem.modeGuarded hIllegalInstr_keepsMem hVirtualInstr_keepsMem hIllegalInstr_keepsMem fun _ => ?_
  refine KeepsMem.guarded hIllegalInstr_keepsMem fun _ => ?_
  refine KeepsMem.guarded hIllegalInstr_keepsMem fun _ => ?_
  refine KeepsMem.guarded hVirtualInstr_keepsMem fun _ => ?_
  refine KeepsMem.guarded hIllegalInstr_keepsMem fun _ => ?_
  refine KeepsMem.guarded (counterLegal_keepsMem h 1 true) fun _ => ?_
  exact KeepsMem.ite (counterLegal_keepsMem h _ false) (KeepsMem.pure ())

@[simp] theorem onHart_keepsMem (g : Hart → Hart) : KeepsMem (onHart g) := fun _ h => h

@[simp] theorem rvCsr_keepsMem (f3 n : Nat) (rd rs1 : BitVec 5) : KeepsMem (rvCsr f3 n rd rs1) := by
  unfold rvCsr
  refine KeepsMem.bind hartRegs_keepsMem fun h => ?_
  refine KeepsMem.bind (csrLegal_keepsMem _ _) fun _ => KeepsMem.bind (fun _ h => h) fun p => ?_
  dsimp only
  split
  · exact hForbid_keepsMem _
  · exact KeepsMem.guarded (onHart_keepsMem _) fun _ => setRd_keepsMem rd _

@[simp] theorem rvLoad1_keepsMem (md : HMode) (kind n : Nat) (va : Word) : KeepsMem (rvLoad1 md kind n va) := by
  unfold rvLoad1
  refine KeepsMem.bind (hXlate_keepsMem md kind n va) fun pa s h => ?_
  change Kept (ε := HExc) (match s.hartLoad pa n with
    | .ok (v, _, s1) => .ok v s1
    | .error c => .error { code := c, tval := va, addr := true, gva := md.virt } s)
  split
  · exact State.hartLoad_wf s pa n h ‹_›
  · exact h

@[simp] theorem rvLoadBytes_keepsMem (md : HMode) (kind n : Nat) : ∀ va : Word, KeepsMem (rvLoadBytes md kind va n) := by
  induction n with
  | zero => exact fun _ => KeepsMem.pure 0
  | succ n ih =>
    exact fun va => KeepsMem.bind (rvLoad1_keepsMem md kind 1 va) fun _ => KeepsMem.bind (ih _) fun _ => KeepsMem.pure _

@[simp] theorem rvLoad_keepsMem (md : HMode) (kind n : Nat) (va : Word) : KeepsMem (rvLoad md kind n va) := by
  simp [rvLoad]

@[simp] theorem rvStore1_keepsMem (md : HMode) (n : Nat) (va : Word) (v : Nat) : KeepsMem (rvStore1 md n va v) := by
  unfold rvStore1
  refine KeepsMem.bind (hXlate_keepsMem md 1 n va) fun pa s h => ?_
  change Kept (ε := HExc) (match s.hartStore pa n v false with
    | .ok s1 => .ok () (s1.endReservations pa)
    | .error c => .error { code := c, tval := va, addr := true, gva := md.virt } s)
  split
  next s1 hs =>
    have h1 := (State.hartStore_wf s pa n v false h).ok hs
    exact h1
  · exact h

@[simp] theorem rvStoreBytes_keepsMem (md : HMode) (n : Nat) :
    ∀ (va : Word) (v : Nat), KeepsMem (rvStoreBytes md va v n) := by
  induction n with
  | zero => exact fun _ _ => KeepsMem.pure ()
  | succ n ih => exact fun va v => KeepsMem.bind (rvStore1_keepsMem md 1 va _) fun _ => ih _ _

@[simp] theorem rvStore_keepsMem (md : HMode) (n : Nat) (va : Word) (v : Nat) : KeepsMem (rvStore md n va v) := by
  simp [rvStore]

theorem amoLoad_keepsMem (pa n : Nat) (va : Word) : KeepsMem (fun s => match s.hartLoad pa n with
    | .ok (v, _, s1) => .ok v s1
    | .error c => .error { code := if c = hHardware then c else 7, tval := va, addr := true } s : Z Nat) := by
  intro s h
  change Kept (ε := HExc) (match s.hartLoad pa n with
    | .ok (v, _, s1) => .ok v s1
    | .error c => .error { code := if c = hHardware then c else 7, tval := va, addr := true } s)
  split
  · exact State.hartLoad_wf s pa n h ‹_›
  · exact h

@[simp] theorem rvAtomic_keepsMem (f5 n : Nat) (rd rs1 rs2 : BitVec 5) : KeepsMem (rvAtomic f5 n rd rs1 rs2) := by
  unfold rvAtomic
  refine KeepsMem.bind hartRegs_keepsMem fun h => ?_
  refine KeepsMem.guarded hIllegalInstr_keepsMem fun _ => ?_
  refine KeepsMem.guarded hIllegalInstr_keepsMem fun _ => ?_
  refine KeepsMem.guarded (hExc_keepsMem _ _ _) fun _ => ?_
  refine KeepsMem.bind (hXlate_keepsMem _ _ n _) fun pa => ?_
  refine KeepsMem.guarded (hExc_keepsMem _ _ _) fun _ => ?_
  refine KeepsMem.ite ?_ (KeepsMem.ite ?_ ?_)
  · exact KeepsMem.bind (rvLoad1_keepsMem _ 0 n _) fun v => KeepsMem.bind (onHart_keepsMem _) fun _ => setRd_keepsMem rd _
  · refine KeepsMem.bind (fun _ h => h) fun held => KeepsMem.guarded (rvStore1_keepsMem _ n _ _) fun _ => ?_
    exact KeepsMem.bind (onHart_keepsMem _) fun _ => setRd_keepsMem rd _
  · exact KeepsMem.bind (amoLoad_keepsMem pa n _) fun old =>
      KeepsMem.bind (rvStore1_keepsMem _ n _ _) fun _ => setRd_keepsMem rd _

@[simp] theorem putF_keepsMem (ty : Nat) (rd : BitVec 5) (r : Nat × Flags) : KeepsMem (putF ty rd r) := by
  simp [putF]

@[simp] theorem putX_keepsMem (rd : BitVec 5) (v : Word) (fl : Flags) : KeepsMem (putX rd v fl) := by
  simp [putX]

@[simp] theorem rvFused_keepsMem (op ty rm : Nat) (rd rs1 rs2 rs3 : BitVec 5) :
    KeepsMem (rvFused op ty rm rd rs1 rs2 rs3) := by
  simp only [rvFused]
  repeat' with_reducible refine KeepsMem.bind ?_ fun _ => ?_
  repeat' split
  all_goals simp

@[simp] theorem rvOpFp_keepsMem (f7 f3 : Nat) (rd rs1 rs2 : BitVec 5) : KeepsMem (rvOpFp f7 f3 rd rs1 rs2) := by
  simp only [rvOpFp]
  repeat' with_reducible refine KeepsMem.bind ?_ fun _ => ?_
  repeat' split
  all_goals simp

@[simp] theorem rvGuestAccess_keepsMem (f7 : Nat) (rd rs1 rs2 : BitVec 5) : KeepsMem (rvGuestAccess f7 rd rs1 rs2) := by
  unfold rvGuestAccess
  refine KeepsMem.bind hartRegs_keepsMem fun h => ?_
  refine KeepsMem.guarded hVirtualInstr_keepsMem fun _ => ?_
  refine KeepsMem.guarded hIllegalInstr_keepsMem fun _ => ?_
  refine KeepsMem.ite (KeepsMem.ite ?_ (KeepsMem.ite ?_ hIllegalInstr_keepsMem)) ?_
  · exact KeepsMem.bind (rvLoad_keepsMem _ 0 _ _) fun v => setRd_keepsMem rd _
  · exact KeepsMem.bind (rvLoad_keepsMem _ 3 _ _) fun v => setRd_keepsMem rd _
  · exact KeepsMem.ite hIllegalInstr_keepsMem (rvStore_keepsMem _ _ _ _)

@[simp] theorem rvPriv_keepsMem (f7 : Nat) (rd rs1 rs2 : BitVec 5) (pc next : Word) :
    KeepsMem (rvPriv f7 rd rs1 rs2 pc next) := by
  unfold rvPriv
  refine KeepsMem.bind hartRegs_keepsMem fun h => ?_
  refine KeepsMem.guarded hIllegalInstr_keepsMem ?_
  intro _
  split
  · exact KeepsMem.guarded hIllegalInstr_keepsMem fun _ => hExc_keepsMem _ 0 false
  · exact KeepsMem.ite hIllegalInstr_keepsMem (hExc_keepsMem 3 pc true)
  · refine KeepsMem.guarded hIllegalInstr_keepsMem fun _ => KeepsMem.guarded hVirtualInstr_keepsMem fun _ => ?_
    refine KeepsMem.guarded hIllegalInstr_keepsMem fun _ => ?_
    exact KeepsMem.ite (KeepsMem.bind (onHart_keepsMem _) fun _ => KeepsMem.pure _)
      (KeepsMem.bind (onHart_keepsMem _) fun _ => KeepsMem.pure _)
  · exact KeepsMem.guarded hIllegalInstr_keepsMem fun _ => KeepsMem.bind (onHart_keepsMem _) fun _ => KeepsMem.pure _
  · refine KeepsMem.guarded hIllegalInstr_keepsMem fun _ => KeepsMem.guarded hIllegalInstr_keepsMem fun _ => ?_
    exact KeepsMem.guarded hVirtualInstr_keepsMem fun _ => KeepsMem.pure _
  · refine KeepsMem.ite ?_ (KeepsMem.ite ?_ hIllegalInstr_keepsMem)
    · exact KeepsMem.guarded hIllegalInstr_keepsMem fun _ => KeepsMem.guarded hVirtualInstr_keepsMem fun _ =>
        KeepsMem.pure _
    · exact KeepsMem.guarded hVirtualInstr_keepsMem fun _ => KeepsMem.guarded hIllegalInstr_keepsMem fun _ =>
        KeepsMem.pure _

theorem setRd_next_keepsMem (rd : BitVec 5) (v next : Word) : KeepsMem (do setRd rd v; pure next : Z Word) :=
  KeepsMem.bind (setRd_keepsMem rd v) fun _ => KeepsMem.pure next

theorem setRd_some_keepsMem (o : Option Word) (rd : BitVec 5) (next : Word) : KeepsMem (match o with
    | some v => (do setRd rd v; pure next)
    | none => hIllegalInstr : Z Word) := by
  cases o with
  | none => exact hIllegalInstr_keepsMem
  | some v => exact setRd_next_keepsMem rd v next

theorem rvFused_some_keepsMem (on : Bool) (o : Option Nat) (op rm : Nat) (rd rs1 rs2 rs3 : BitVec 5) (next : Word) :
    KeepsMem (match on, o with
    | true, some ty => (do rvFused op ty rm rd rs1 rs2 rs3; pure next)
    | _, _ => hIllegalInstr : Z Word) := by
  split
  · exact KeepsMem.bind (rvFused_keepsMem _ _ _ _ _ _ _) fun _ => KeepsMem.pure next
  · exact hIllegalInstr_keepsMem

@[simp] theorem rvExec_keepsMem (w : BitVec 32) (pc next : Word) : KeepsMem (rvExec w pc next) := by
  unfold rvExec
  refine KeepsMem.bind hartRegs_keepsMem fun h => ?_
  extract_lets a b immI ret
  split
  · exact setRd_next_keepsMem _ _ next
  · exact setRd_next_keepsMem _ _ next
  · exact setRd_next_keepsMem _ _ _
  · exact KeepsMem.ite hIllegalInstr_keepsMem (setRd_next_keepsMem _ _ _)
  · split
    · exact KeepsMem.pure _
    · exact hIllegalInstr_keepsMem
  · exact KeepsMem.ite hIllegalInstr_keepsMem (KeepsMem.bind (rvLoad_keepsMem _ 0 _ _) fun v => setRd_next_keepsMem _ _ next)
  · exact KeepsMem.ite hIllegalInstr_keepsMem (KeepsMem.bind (rvStore_keepsMem _ _ _ _) fun v => KeepsMem.pure next)
  · exact KeepsMem.ite hIllegalInstr_keepsMem (KeepsMem.ite hIllegalInstr_keepsMem (setRd_next_keepsMem _ _ next))
  · refine KeepsMem.ite hIllegalInstr_keepsMem ?_
    exact setRd_some_keepsMem _ _ next
  · exact KeepsMem.ite (setRd_next_keepsMem _ _ next) (KeepsMem.ite (setRd_next_keepsMem _ _ next) hIllegalInstr_keepsMem)
  · exact setRd_some_keepsMem _ _ next
  · exact KeepsMem.ite (KeepsMem.pure next) hIllegalInstr_keepsMem
  · exact KeepsMem.ite (KeepsMem.bind (rvAtomic_keepsMem _ _ _ _ _) fun _ => KeepsMem.pure next) hIllegalInstr_keepsMem
  · refine KeepsMem.ite (rvPriv_keepsMem _ _ _ _ pc next) (KeepsMem.ite (KeepsMem.ite ?_ hIllegalInstr_keepsMem) ?_)
    · exact KeepsMem.bind (rvGuestAccess_keepsMem _ _ _ _) fun _ => KeepsMem.pure next
    · exact KeepsMem.bind (rvCsr_keepsMem _ _ _ _) fun _ => KeepsMem.pure next
  · refine KeepsMem.ite hIllegalInstr_keepsMem (KeepsMem.bind (rvLoad_keepsMem _ 0 _ _) fun v => ?_)
    exact KeepsMem.bind (onHart_keepsMem _) fun _ => KeepsMem.pure next
  · exact KeepsMem.ite hIllegalInstr_keepsMem (KeepsMem.bind (rvStore_keepsMem _ _ _ _) fun _ => KeepsMem.pure next)
  · exact rvFused_some_keepsMem _ _ _ _ _ _ _ _ next
  · exact rvFused_some_keepsMem _ _ _ _ _ _ _ _ next
  · exact rvFused_some_keepsMem _ _ _ _ _ _ _ _ next
  · exact rvFused_some_keepsMem _ _ _ _ _ _ _ _ next
  · exact KeepsMem.ite (KeepsMem.bind (rvOpFp_keepsMem _ _ _ _ _) fun _ => KeepsMem.pure next) hIllegalInstr_keepsMem
  · exact hIllegalInstr_keepsMem

theorem rvBody_keepsMem (code : Option (BitVec 32)) (pc next : Word) : KeepsMem (match code with
    | some i => rvExec i pc next
    | none => hIllegalInstr : Z Word) := by
  cases code with
  | none => exact hIllegalInstr_keepsMem
  | some i => exact rvExec_keepsMem i pc next

@[simp] theorem State.rvStep_wf (s : State) (w : Nat) (h : s.mem.wf = true) : (s.rvStep w).mem.wf = true := by
  unfold State.rvStep
  extract_lets k pc
  split
  next code size _ =>
    extract_lets body
    have hb : Kept (body s) := rvBody_keepsMem code pc (pc + size) s h
    split
    next next s1 hr =>
      rw [hr] at hb
      exact hb
    · rw [State.hartExc_mem]
      exact h

/-- The outcome of a fetch of a block has memory in its canonical form. -/
def Block.Wf : Block → Prop
  | .data _ s => s.mem.wf = true
  | .fault s => s.mem.wf = true
  | .stall s => s.mem.wf = true

@[simp] theorem Block.wf_data (d : Line) (s : State) : (Block.data d s).Wf ↔ s.mem.wf = true := Iff.rfl

@[simp] theorem Block.wf_fault (s : State) : (Block.fault s).Wf ↔ s.mem.wf = true := Iff.rfl

@[simp] theorem Block.wf_stall (s : State) : (Block.stall s).Wf ↔ s.mem.wf = true := Iff.rfl

theorem Block.Wf.data {r : Block} (hw : r.Wf) {d : Line} {s : State} (hr : r = .data d s) : s.mem.wf = true := by
  rw [hr] at hw
  exact hw

theorem Block.Wf.fault {r : Block} (hw : r.Wf) {s : State} (hr : r = .fault s) : s.mem.wf = true := by
  rw [hr] at hw
  exact hw

theorem Block.Wf.stall {r : Block} (hw : r.Wf) {s : State} (hr : r = .stall s) : s.mem.wf = true := by
  rw [hr] at hw
  exact hw

theorem Block.ite_wf {p : Prop} [Decidable p] {a b : Block} (ha : a.Wf) (hb : b.Wf) : (if p then a else b).Wf := by
  split
  · exact ha
  · exact hb

theorem State.readBlock128_wf (s : State) (t pa : Nat) (h : s.mem.wf = true) : (s.readBlock128 t pa).Wf := by
  have hr := State.readDirect_wf s pa 128 h
  unfold State.readBlock128
  refine Block.ite_wf h (Block.ite_wf ?_ ?_)
  · split
    · exact h
    · exact h
    · exact Block.ite_wf h h
  · split
    · exact hr.ok ‹_›
    · exact hr.stall ‹_›
    · exact h

@[simp] theorem State.icacheRoom_mem (s : State) (core : Nat) : (s.icacheRoom core).mem = s.mem := by
  simp only [State.icacheRoom]
  repeat' split
  all_goals simp

@[simp] theorem State.keepBlock_mem (s : State) (core : Nat) (b : IBlock) : (s.keepBlock core b).mem = s.mem := by
  simp [State.keepBlock]

theorem State.fillBlock_wf (s : State) (t va pa : Nat) (ahead : Bool) (h : s.mem.wf = true) :
    (s.fillBlock t va pa ahead).Wf := by
  have hr := State.readBlock128_wf s t (pa / 128 * 128) h
  unfold State.fillBlock
  split
  · have h1 := hr.data ‹_›
    exact Block.ite_wf (by simpa using h1) h1
  · exact hr

theorem State.fetchBlock_wf (s : State) (t : Nat) (pc : Word) (h : s.mem.wf = true) : (s.fetchBlock t pc).Wf := by
  unfold State.fetchBlock
  split
  · simpa using h
  · simpa using h
  · exact h
  next pa e _ =>
    have h1 : (s.keepLeaf t e).mem.wf = true := by simpa using h
    have h2 := State.fillBlock_wf ((s.keepLeaf t e).refetch t) t pc.toNat pa false (by simpa using h)
    extract_lets s1
    split
    · exact Block.ite_wf h2 (Block.ite_wf h1 h1)
    · exact h2

/-- What comes of a turn has memory in its canonical form. -/
def Fetched.Wf : Fetched → Prop
  | .run _ s => s.mem.wf = true
  | .done s => s.mem.wf = true

@[simp] theorem Fetched.wf_run (i : Instr) (s : State) : (Fetched.run i s).Wf ↔ s.mem.wf = true := Iff.rfl

@[simp] theorem Fetched.wf_done (s : State) : (Fetched.done s).Wf ↔ s.mem.wf = true := Iff.rfl

theorem Fetched.ite_wf {p : Prop} [Decidable p] {a b : Fetched} (ha : a.Wf) (hb : b.Wf) : (if p then a else b).Wf := by
  split
  · exact ha
  · exact hb

theorem State.fetch_wf (s : State) (t : Nat) (h : s.mem.wf = true) : (s.fetch t).Wf := by
  unfold State.fetch
  extract_lets pc fault
  have hb := State.fetchBlock_wf s t (pc - (pc &&& 0x7F)) h
  refine Fetched.ite_wf (State.takeExact_wf s t fault h) ?_
  split
  · exact State.takeExact_wf _ t fault (hb.fault ‹_›)
  · exact hb.stall ‹_›
  next d s1 hd =>
    have h1 := hb.data hd
    extract_lets w
    split
    · exact State.touch_wf s1 t _ h1
    · exact State.takeExact_wf s1 t _ h1

@[simp] theorem State.parkTacq_mem (s : State) (t : Nat) : (s.parkTacq t).mem = s.mem := rfl

theorem State.threadTurn_wf (s : State) (t : Nat) (h : s.mem.wf = true) : (s.threadTurn t).Wf := by
  unfold State.threadTurn
  extract_lets x
  refine Fetched.ite_wf h (Fetched.ite_wf (by simpa using h) (Fetched.ite_wf (by simp [h]) ?_))
  split
  · exact ite_wf h (by simp [h])
  · refine Fetched.ite_wf (ite_wf (by simpa using h) h) (Fetched.ite_wf (by simp [h]) (Fetched.ite_wf h ?_))
    exact State.fetch_wf _ t (ite_wf h h)

@[simp] theorem hFetch_keepsMem (va : Word) : KeepsMem (hFetch va) := by
  unfold hFetch
  refine KeepsMem.bind hartRegs_keepsMem fun r => KeepsMem.bind (hXlate_keepsMem r.mode 2 2 va) fun pa s h => ?_
  change Kept (ε := HExc) (match s.hartLoad pa 2 with
    | .ok (v, _, s1) => .ok v s1
    | .error c => .error { code := if c = hHardware then c else 1, tval := va, addr := true } s)
  split
  · exact State.hartLoad_wf s pa 2 h ‹_›
  · exact h

@[simp] theorem hFetchWord_keepsMem : KeepsMem hFetchWord := by
  unfold hFetchWord
  refine KeepsMem.bind hartRegs_keepsMem fun r => KeepsMem.bind (hFetch_keepsMem r.pc) fun lo => ?_
  exact KeepsMem.ite (KeepsMem.pure lo) (KeepsMem.bind (hFetch_keepsMem _) fun hi => KeepsMem.pure _)

theorem State.hartWordRun_wf (s : State) (w : Nat) (h : s.mem.wf = true) : (s.hartWordRun w).Wf := by
  have h1 := State.rvStep_wf s w h
  unfold State.hartWordRun
  refine Fetched.ite_wf ?_ h1
  split
  · exact h
  · exact h1

theorem State.hartTurn_wf (s : State) (k : Nat) (h : s.mem.wf = true) : (s.hartTurn k).Wf := by
  unfold State.hartTurn
  refine Fetched.ite_wf (by simpa using h) ?_
  extract_lets src s0
  have h0 : s0.mem.wf = true := h
  have hw := hFetchWord_keepsMem s0 h0
  split
  · exact h
  · split
    next e s1 hr =>
      have h1 : (s0.hartExc s1 k e).mem.wf = true := by simpa using h0
      exact h1
    next w s1 hr =>
      rw [hr] at hw
      exact State.hartWordRun_wf s1 w hw

@[simp] theorem State.countCtx_mem (s : State) (t : Nat) : (s.countCtx t).mem = s.mem := by
  simp only [State.countCtx]
  split <;> simp

@[simp] theorem State.startMtime_mem (s : State) (go : Bool) : (s.startMtime go).mem = s.mem := by
  simp [State.startMtime]

@[simp] theorem State.pass_mem (s : State) (cycles : Nat) : (s.pass cycles).mem = s.mem := by
  simp [State.pass]

@[simp] theorem State.evictBlocks_mem (s : State) (core : Nat) : (s.evictBlocks core).mem = s.mem := rfl

@[simp] theorem State.fetchAhead_wf (s : State) (t : Nat) (h : s.mem.wf = true) : (s.fetchAhead t).mem.wf = true := by
  unfold State.fetchAhead
  extract_lets vas va
  split
  · exact h
  · simpa using h
  next pa e _ =>
    have hb := State.fillBlock_wf s t va pa true h
    refine ite_wf h ?_
    split
    · exact hb.data ‹_›
    · exact h
    · have h1 := hb.fault ‹_›
      simpa using h1

@[simp] theorem State.rejoinAll_wf (s : State) (h : s.mem.wf = true) : s.rejoinAll.mem.wf = true :=
  foldl_wf (fun s k h => foldl_wf (fun s slot h => State.rejoinPieces_wf s k.1 slot h) _ s h) _ s h

@[simp] theorem State.noteTurn_mem (s : State) (core : Nat) : (s.noteTurn core).mem = s.mem := by
  simp only [State.noteTurn]
  repeat' split
  all_goals simp

@[simp] theorem State.restLines_mem (s : State) : s.restLines.mem = s.mem :=
  foldl_mem (fun s _ => foldl_mem (fun s _ => State.lineDrowsy_mem s _ _) _ s) _ s

@[simp] theorem State.trainLinks_mem (s : State) (n : Nat) : (s.trainLinks n).mem = s.mem := by
  simp only [State.trainLinks]
  refine foldl_mem (fun s e => ?_) _ _
  repeat' split
  all_goals simp

@[simp] theorem State.between_wf (s : State) (h : s.mem.wf = true) : s.between.mem.wf = true := by
  unfold State.between
  extract_lets n s0 s1 s2
  have h0 : s0.mem.wf = true := by simpa [s0] using h
  have h1 : s1.mem.wf = true := by
    have hr := ite_wf (p := Config.evict (n + 4) = true) (State.rejoinAll_wf s0 h0) h0
    simp only [s1, State.restLines_mem, State.startMtime_mem, State.deliverSendts_mem]
    exact State.deliverOrphans_wf _ hr
  have h2 : s2.mem.wf = true := ite_wf h1 (by simpa using h1)
  refine foldl_wf (fun s c h => ?_) _ s2 h2
  simpa using h

/-- What a core may do before the turn of a thread of it. -/
theorem State.beforeTurn_wf (s : State) (t c : Nat) (p q r : Prop) [Decidable p] [Decidable q] [Decidable r]
    (h : s.mem.wf = true) :
    (let s3 := if p then s.evictBlocks c else s
     let s4 := if q then s3.fetchAhead t else s3
     if r then s4.forgetLeaves c else s4).mem.wf = true := by
  have h3 : (if p then s.evictBlocks c else s).mem.wf = true := ite_wf (by simpa using h) h
  have h4 := ite_wf (p := q) (State.fetchAhead_wf _ t h3) h3
  exact ite_wf (by simpa using h4) h4

theorem State.choose_wf {s u : State} (h : s.mem.wf = true) (hu : s.choose = some u) : u.mem.wf = true := by
  unfold State.choose at hu
  have h1 := State.between_wf s h
  extract_lets n s1 opts at hu
  split at hu
  · cases hu
  next k turn _ =>
    cases hu
    cases k
    all_goals
      cases turn with
      | thread t => exact State.beforeTurn_wf _ t (coreOf t) _ _ _ h1
      | _ => exact h1

theorem State.settle_wf (s : State) (i : Option Instr) (u : State) (h : s.mem.wf = true) (hu : u.mem.wf = true) :
    (s.settle i u).mem.wf = true := by
  unfold State.settle
  refine ite_wf ?_ hu
  cases i with
  | none => exact h
  | some i => exact ite_wf h h

/-! ## Every instruction keeps memory in its canonical form -/

/-- The state that an instruction answers has memory in its canonical form. -/
def OutWf : Host.Outcome State Fault Refusal → Prop
  | .next u => u.mem.wf = true
  | .fault _ => True
  | .refused _ => True

theorem OutWf.next {u : State} (h : u.mem.wf = true) : OutWf (.next u) := h

theorem OutWf.of_next {o : Host.Outcome State Fault Refusal} {u : State} (h : OutWf o) (hu : o = .next u) :
    u.mem.wf = true := by
  rw [hu] at h
  exact h

theorem OutWf.issue {s : State} (op : Op) {body : Fields → M Ctl} (f : Fields) (hb : ∀ f, KeepsMem (body f))
    (h : s.mem.wf = true) :
    OutWf (issue op body f s) :=
  State.issue_wf s op body f hb h

theorem OutWf.hartRun {body : Z Unit} {s : State} (hb : KeepsMem body) (h : s.mem.wf = true) :
    OutWf (hartRun body s) := by
  have hs := hb s h
  unfold Machine.hartRun
  dsimp only
  split
  next s1 hr =>
    rw [hr] at hs
    exact hs
  next e s1 hr =>
    have h1 : (s.hartExc s1 s.hartNo e).mem.wf = true := by simpa using h
    exact h1

theorem OutWf.registerWrite {s : State} (a : BitVec 52) (v : Word) (h : s.mem.wf = true) :
    OutWf (execRegisterWrite a v s) := by
  unfold execRegisterWrite
  split
  · exact State.writeReg_wf s _ v h
  · exact h

/-- An instruction of a thread by what its body keeps, a capability instruction by what a hart's run keeps, an event by
the state that it names. -/
theorem exec_wf (i : Instr) (s : State) (h : s.mem.wf = true) : OutWf (exec i s) := by
  cases i with
  | add f | sub f | mul f | mulh f | div f | rem f | min f | max f | and f | or f | xor f | andn f | orn f | shl f
  | shr f | sha f | rol f | neg f | abs f | not f | clz f | ctz f | popc f | brev f | bfx f | bfi f | sext f | zext f
  | mov f | movi f | movh f | sel f | cmp f | test f | fma f | sqrt f | cvt f | fclass f | rndi f | movsRead f
  | movsWrite f | amov f | astr f | aadv f | lea f | pand f | por f | pxor f | pnot f | pmov f | br f | brx f
  | call f | callx f | ret f | loop f | loopx f | nop f | yield f | waitl f | vadd f | vsub f | vmul f | vfma f
  | vmin f | vmax f | vdiv f | vand f | vor f | vxor f | vshl f | vshr f | vsha f | vdot f | vabs f | vneg f
  | vsqrt f | vrcp f | vrsq f | vexp2 f | vcmp f | vsel f | vmaskAnd f | vmaskOr f | vmaskXor f | vmaskAndn f
  | vmaskNot f | vmaskSet f | vmaskGet f | viota f | vmov f | vbcast f | vext f | vins f | vshuf f | vrot f | vreds f
  | vredmMin f | vredmMax f | vscan f | vcvt f | vwidn f | vnarr f | vqnt f | vdqt f | vsprs f | vxpnd f | ld f
  | st f | ldv f | stv f | vlds f | vsts f | vgath f | vscat f | pref f | wbk f | invl f | fence f | atadd f
  | atsub f | atmin f | atmax f | atand f | ator f | atxor f | atswp f | atcas f | atfadd f | atinc f | cpyIn f
  | cpyOut f | cpyGlobal f | cpy2dIn f | cpy2dOut f | cpyl f | cwait f | tobj f | tdefBox f | tdefSpan f | tacq f
  | ttry f | trel f | tdrop f | tqry f | tsplt f | mldbLocal f | mldbTile f | mmaLocal f | mmaTile f | mclr f
  | mdrn f | mhnd f | mwait f | mcmd f | mstat f | send f | sendv f | sendt f | rls f | poll f | waitq f | spawn f
  | spawnr f | rnext f | done f | lnch f | wcfg f | wqry f | bar f | bara f | barw f | wake f | sleep f | evq f
  | ratq f | ratr f | trap f | sysc f | sret f | csrr f | csrw f | csrx f | tlbiVa f | tlbiAs f | tlbiAll f | irq f
  | bkpt f | halt f =>
    exact OutWf.issue _ f (by simp) h
  | cgrant z | cderive z | cmove z | crevoke z | cread z | ccheck z | cldadv z | cstadv z | ccount z | chand z =>
    exact OutWf.hartRun (by simp) h
  | registerWrite a v => exact OutWf.registerWrite a v h
  | launchCompletion l => exact OutWf.next (State.complete_wf s l State.namedOut_wf h)
  | _ => exact OutWf.next (by simp [h])

/-! ## Every step does -/

theorem Fetched.go_wf {s u : State} {r : Fetched} (h : s.mem.wf = true) (hr : r.Wf) (hu : r.go s = .next u) :
    u.mem.wf = true := by
  cases r with
  | done v =>
    cases hu
    exact State.settle_wf s none v h hr
  | run i s1 =>
    obtain ⟨v, hv⟩ := exec_next i s1
    rw [Fetched.go_run hv] at hu
    cases hu
    have h1 := (exec_wf i s1 hr).of_next hv
    exact State.settle_wf s none _ h h1

/-- Settles O58, by the turn of the step: an event by `exec_wf`, the turn of a thread or a hart by what it fetches and what
its instruction then keeps, and the choice of the next turn by what may pass between two turns. -/
theorem stepsKeepMemoryCanonical : Obligations.Steps_keep_memory_canonical := by
  intro s u h hu
  cases ht : s.turn with
  | some t =>
    cases t with
    | event i =>
      obtain ⟨v, hv⟩ := exec_next i { s with turn := none }
      rw [step_event ht hv] at hu
      cases hu
      have h1 := (exec_wf i { s with turn := none } h).of_next hv
      exact State.settle_wf s (some i) v h h1
    | thread t =>
      rw [step_thread ht] at hu
      exact Fetched.go_wf h (State.threadTurn_wf { s with turn := none, cur := t } t h) hu
    | hart k =>
      rw [step_hart ht] at hu
      exact Fetched.go_wf h (State.hartTurn_wf s k h) hu
  | none =>
    by_cases hopt : s.between.options = []
    · rw [step_stops ht hopt] at hu
      cases hu
    · obtain ⟨v, hv⟩ := Option.ne_none_iff_exists'.mp (mt (choose_eq_none s).mp hopt)
      have hs : step s = .next v := by simp only [step, ht, hv]
      rw [hs] at hu
      cases hu
      exact State.choose_wf h hv

end Sys2Proof.Machine
end
